-- ==== Sys2Proof/Word.lean ====
section
/-! DEFINITION. The word types of the model and their plainest arithmetic: bytes, 32-bit registers, and little-endian
numbers (R7, R10, R11). -/

namespace Sys2Proof

/-- A byte is 8 bits (R7). -/
abbrev Byte := BitVec 8

/-- A register of BAR0 is 32 bits wide (R546). -/
abbrev Word := BitVec 32

/-- A run of bytes, byte 0 first (R12). -/
abbrev Bytes := List Byte

end Sys2Proof
end

