-- ==== Sys2Proof/Config.lean ====
section
/-! DEFINITION. What one module's silicon and factory fix, and the values the spec leaves open: opaque constants, so that no
proof can see what they are. Each is named in the assumption log. -/

namespace Sys2Proof.Config

open Sys2Proof

/-- Module serial number (R3, R556): burnt in at the factory. [log 11, DESIGN CHOICE] -/
opaque serial : BitVec 64

/-- ISM_VID, the CXL vendor id (R3): the spec gives its name, not its number. [log 44, PRESUMED] -/
opaque vendorId : BitVec 16

/-- The low bits of the quiet NaN that an FP32 unit produces; the spec gives only the BF16 NaN (R176). [log 9, DESIGN CHOICE] -/
opaque nanPayload : BitVec 22

/-- The element codes of a block converted to scale 0xFF: every element reads as NaN (R171), and no rule gives its code. [log 9, DESIGN CHOICE] -/
opaque nanElem : (i : Nat) → BitVec 8

/-- PAGE_LIST of entry i of the prefix table: where in T2 the device keeps the entry's page list (R114). [log 67, DESIGN CHOICE] -/
opaque pageListAddr : (i : Nat) → BitVec 64

/-- The exponential of an FP32 number, as an FP32 number (R262 names it, no rule gives its rounding). [log 9, DESIGN CHOICE] -/
opaque exp32 : Word → Word

/-- The softmax of a list of FP32 logits (R184 names it, no rule gives its rounding). [log 9, DESIGN CHOICE] -/
opaque softmax : List Word → List Word

/-- The logistic function of an FP32 number (R184). [log 9, DESIGN CHOICE] -/
opaque sigmoid : Word → Word

/-- The reciprocal of an FP32 number (R164 names it, no rule gives its rounding). [log 9, DESIGN CHOICE] -/
opaque recip32 : Word → Word

/-- The square root of an FP32 number (R164 names it, no rule gives its rounding). [log 9, DESIGN CHOICE] -/
opaque sqrt32 : Word → Word

/-- The sum that a reduction of the VXU makes of FP32 numbers (R164): the spec gives no order of its additions. [log 9, DESIGN CHOICE] -/
opaque reduceSum : List Word → Word

/-- The calibration table of a model for a span, key or value (R180): the spec does not say where it lies. [log 9, DESIGN CHOICE] -/
opaque calib : (model span : Nat) → (value : Bool) → Word

/-- G, the query heads per KV head that a program is compiled for (R256): it lies in the program's tile code, which the runtime treats as
opaque (R199). [log 12, DESIGN CHOICE] -/
opaque programHeads : (programId : Nat) → Nat

/-- Almanac ticks that a host CXL.mem access of 64 bytes occupies a stack: R227 bounds it by one access and gives no time. [log 8, DESIGN CHOICE] -/
opaque hostAccessTicks : Nat

/-- The random 16-bit integer number n of the stochastic rounding generator under a seed (R175). [log 9, DESIGN CHOICE] -/
opaque srRandom : (seed n : Nat) → BitVec 16

/-- The random values that the sampler's generator gives for position p under a seed: keyed on (SEED, p) alone (R82). [log 63, DESIGN CHOICE] -/
opaque samplerRandom : (seed : BitVec 64) → (p : BitVec 32) → BitVec 64

/-- Which of the candidates kept, in falling order of their logits, the sampler takes under TEMPERATURE, TOP_P and its random values: the spec
names the parameters (R78) and gives no formula. [log 63, DESIGN CHOICE] -/
opaque samplePick : (temperature topP : BitVec 16) → (logits : List (BitVec 32)) → (random : BitVec 64) → Nat

/-- Fresh randomness: value number n of the device's random number generator (R457 and the protocols that draw nonces,
sessions and START_PSN values). [log 10, DESIGN CHOICE] -/
opaque random : (n bytes : Nat) → Bytes

/-- AES-256-GCM: the ciphertext and 16-byte tag of a plaintext under key, nonce and associated data (FIPS 197, SP 800-38D). [log 10, DESIGN CHOICE] -/
opaque gcmSeal : (key nonce aad plain : Bytes) → Bytes × Bytes

/-- AES-256-GCM decryption: the plaintext where the tag verifies, else none. [log 10, DESIGN CHOICE] -/
opaque gcmOpen : (key nonce aad cipher tag : Bytes) → Option Bytes

/-- ML-KEM-1024 key pair from fresh randomness: public key and private key (FIPS 203). [log 10, DESIGN CHOICE] -/
opaque kemKeyGen : (rnd : Bytes) → Bytes × Bytes

/-- ML-KEM-1024 encapsulation to a public key: ciphertext and shared secret. [log 10, DESIGN CHOICE] -/
opaque kemEncaps : (pub rnd : Bytes) → Bytes × Bytes

/-- ML-KEM-1024 decapsulation with a private key. [log 10, DESIGN CHOICE] -/
opaque kemDecaps : (priv cipher : Bytes) → Bytes

/-- SLH-DSA key pair from its seeds (FIPS 205): public key and private key. `big` chooses SLH-DSA-SHAKE-256s over 192f (R453). [log 10, DESIGN CHOICE] -/
opaque slhKeyGen : (big : Bool) → (seeds : Bytes) → Bytes × Bytes

/-- SLH-DSA signature of a message under a private key. [log 10, DESIGN CHOICE] -/
opaque slhSign : (big : Bool) → (priv msg : Bytes) → Bytes

/-- SLH-DSA verification: does the signature of the message verify under the public key? [log 10, DESIGN CHOICE] -/
opaque slhVerify : (big : Bool) → (pub msg sig : Bytes) → Bool

/-- The public key whose digest a bundle names, of an owner signer (R472, R473): the bundle carries the digest alone, and no rule says where
the device has the key from. [log 10, DESIGN CHOICE] -/
opaque signerKey : (digest : Bytes) → Bytes

/-- The answer to GET_VERSION or GET_CAPABILITIES (R480), whose contents SPDM defines, by request code. [log 33, PRESUMED] -/
opaque spdmAnswer : (code : Nat) → Bytes

/-- The IDE_KM response to an IDE_KM message (R482), whose contents CXL 3.1 defines. [log 33, PRESUMED] -/
opaque ideAnswer : (msg : Bytes) → Bytes

/-- The vendor digest fused at manufacture (R456). [log 10, DESIGN CHOICE] -/
opaque vendorDigest : Bytes

/-- The device's unique secret, fused at the factory and readable by no software (R457). [log 10, DESIGN CHOICE] -/
opaque deviceSecret : Bytes

/-- The order in which a value the spec does not fix is drawn: free value number n, of a given width in bits. [log 8, DESIGN CHOICE] -/
opaque freeValue : (n width : Nat) → Nat

end Sys2Proof.Config
end

