-- ==== Sys2Proof/Machine/Bits.lean ====
section
/-! DEFINITION. Bit fields, little-endian numbers and sparse sorted maps: the helpers every layout of the spec is read with
(R10, R11, R12). -/

namespace Sys2Proof.Machine

open Sys2Proof

/-- Bits [hi:lo] of a number (R10). -/
def bits (v hi lo : Nat) : Nat := (v >>> lo) % 2 ^ (hi + 1 - lo)

/-- One bit of a number. -/
def bit (v n : Nat) : Bool := v.testBit n

/-- A truth value as a bit. -/
def b2n (b : Bool) : Nat := if b then 1 else 0

/-- `v` with bits [hi:lo] replaced by the low bits of `x`. -/
def putBits (v hi lo x : Nat) : Nat :=
  v - (bits v hi lo) <<< lo + (x % 2 ^ (hi + 1 - lo)) <<< lo

/-- The value of a little-endian run of bytes (R11). -/
def leNat : Bytes → Nat
  | []      => 0
  | b :: bs => b.toNat + 256 * leNat bs

/-- The `n` little-endian bytes of a number (R11). -/
def toLE : Nat → Nat → Bytes
  | 0,     _ => []
  | n + 1, v => BitVec.ofNat 8 v :: toLE n (v / 256)

/-- `n` bytes from offset `off`; bytes past the end read as zero. -/
def slice (bs : Bytes) (off n : Nat) : Bytes :=
  let t := (bs.drop off).take n
  t ++ List.replicate (n - t.length) 0

/-- The little-endian field of `n` bytes at offset `off` (R11, R12). -/
def le (bs : Bytes) (off n : Nat) : Nat := leNat ((bs.drop off).take n)

/-- `n` zero bytes. -/
def zeros (n : Nat) : Bytes := List.replicate n 0

/-- Are all bytes of a run zero? -/
def allZero (bs : Bytes) : Bool := bs.all (· == 0)

/-- `bs` with the bytes from `off` replaced by `new`, its length kept. -/
def patch (bs : Bytes) (off : Nat) (new : Bytes) : Bytes :=
  (bs.take off ++ new ++ bs.drop (off + new.length)).take bs.length

/-- `bs` cut or zero-padded to `n` bytes. -/
def padTo (n : Nat) (bs : Bytes) : Bytes := slice bs 0 n

/-- The bytes of an ASCII label, for the labels of the spec's key derivations and its part number. -/
def ascii (s : String) : Bytes := s.toList.map (fun c => BitVec.ofNat 8 c.toNat)

/-- Saturation at 32 bits, which counters marked "saturates" share. -/
def sat32 (n : Nat) : Nat := min n 0xFFFFFFFF

/-- A signed number of `w` bits, two's complement. -/
def toSigned (w v : Nat) : Int := if v % 2 ^ w < 2 ^ (w - 1) then (v % 2 ^ w : Nat) else (v % 2 ^ w : Nat) - (2 ^ w : Nat)

/-- The `w`-bit two's complement of an integer. -/
def ofSigned (w : Nat) (i : Int) : Nat := (i % (2 ^ w : Nat)).toNat

/-- Division rounding up. -/
def ceilDiv (a b : Nat) : Nat := (a + b - 1) / b

/-- The natural numbers below `n` that satisfy `p`, in ascending order. -/
def below (n : Nat) (p : Nat → Bool) : List Nat := (List.range n).filter p

/-! ## Sparse maps: lists of key and value, keys strictly rising -/

/-- A sparse map: its keys rise strictly. -/
abbrev SMap (α : Type) := List (Nat × α)

/-- The entry of a key. -/
def SMap.find {α : Type} : SMap α → Nat → Option α
  | [],          _ => none
  | (k, v) :: m, a => if k = a then some v else SMap.find m a

/-- The entry of a key, or a default. -/
def SMap.getD {α : Type} (m : SMap α) (a : Nat) (d : α) : α := (m.find a).getD d

/-- The map with one key removed. -/
def SMap.del {α : Type} : SMap α → Nat → SMap α
  | [],          _ => []
  | (k, v) :: m, a => if k = a then SMap.del m a else (k, v) :: SMap.del m a

/-- The map with one key set, its order kept. -/
def SMap.put {α : Type} : SMap α → Nat → α → SMap α
  | [],          a, x => [(a, x)]
  | (k, v) :: m, a, x =>
    if a < k then (a, x) :: (k, v) :: m
    else if a = k then (k, x) :: m
    else (k, v) :: SMap.put m a x

/-- The map with `f` applied to the entry of a key (or to the default where there is none). -/
def SMap.upd {α : Type} (m : SMap α) (a : Nat) (d : α) (f : α → α) : SMap α := m.put a (f (m.getD a d))

/-- Put a value, or remove the key where the value is the one an unlisted key reads as. -/
def SMap.putOr {α : Type} [DecidableEq α] (m : SMap α) (a : Nat) (d x : α) : SMap α :=
  if x = d then m.del a else m.put a x

/-- The keys of a map. -/
def SMap.keys {α : Type} (m : SMap α) : List Nat := m.map (·.1)

/-- The values of a map. -/
def SMap.vals {α : Type} (m : SMap α) : List α := m.map (·.2)

/-- The canonical form: keys rise strictly. -/
def SMap.rising {α : Type} : SMap α → Bool
  | []                      => true
  | [_]                     => true
  | (a, _) :: (b, y) :: m   => decide (a < b) && SMap.rising ((b, y) :: m)

/-- Replace element `i` of a list by its image, the list unchanged where there is none. -/
def updAt {α : Type} (l : List α) (i : Nat) (f : α → α) : List α := l.modify i f

/-- The list cut into runs of `n`. -/
def chunksOf {α : Type} (n : Nat) (l : List α) : List (List α) :=
  (List.range (ceilDiv l.length n)).map (fun i => (l.drop (i * n)).take n)

end Sys2Proof.Machine
end

