-- ==== Sys2Proof/Machine/Float.lean ====
section
/-! DEFINITION. Number formats and exact arithmetic on them (R170–R178): every finite value is a dyadic m × 2^e, products and sums
are formed exactly and rounded where the spec says so. -/

namespace Sys2Proof.Machine

open Sys2Proof

/-- A floating-point value: NaN, infinity, or (−1)^neg × m × 2^e. -/
inductive Fp where
  | nan
  | inf (neg : Bool)
  | fin (neg : Bool) (m : Nat) (e : Int)
  deriving DecidableEq, Repr

/-- A binary format: mantissa bits, exponent bits, exponent of its least subnormal, and which exponent codes are special. -/
structure FFmt where
  man    : Nat
  exp    : Nat
  qmin   : Int
  ieee   : Bool       -- the top exponent code holds infinities and NaNs
  nanTop : Bool       -- only the all-ones code is NaN (E4M3)
  deriving DecidableEq, Repr

/-- FP32. -/
def f32 : FFmt := ⟨23, 8, -149, true, false⟩
/-- BF16: 1 sign, 8 exponent and 7 mantissa bits. -/
def bf16 : FFmt := ⟨7, 8, -133, true, false⟩
/-- MXFP8 E4M3 (R170). -/
def e4m3 : FFmt := ⟨3, 4, -9, false, true⟩
/-- MXFP8 E5M2. -/
def e5m2 : FFmt := ⟨2, 5, -16, true, false⟩
/-- MXFP6 E3M2. -/
def e3m2 : FFmt := ⟨2, 3, -4, false, false⟩
/-- MXFP6 E2M3. -/
def e2m3 : FFmt := ⟨3, 2, -3, false, false⟩
/-- MXFP4 E2M1. -/
def e2m1 : FFmt := ⟨1, 2, -1, false, false⟩

/-- The bits of a format, sign included. -/
def FFmt.width (f : FFmt) : Nat := 1 + f.exp + f.man

/-- The largest finite magnitude code (R170). -/
def FFmt.maxCode (f : FFmt) : Nat :=
  if f.ieee then (2 ^ f.exp - 1) * 2 ^ f.man - 1
  else if f.nanTop then 2 ^ (f.exp + f.man) - 2
  else 2 ^ (f.exp + f.man) - 1

/-- The value of a code of a format. -/
def FFmt.decode (f : FFmt) (v : Nat) : Fp :=
  let neg := v.testBit (f.exp + f.man)
  let c := v % 2 ^ (f.exp + f.man)
  let ex := c / 2 ^ f.man
  let mm := c % 2 ^ f.man
  if c > f.maxCode then
    if f.ieee && mm = 0 then .inf neg else .nan
  else if ex = 0 then .fin neg mm f.qmin
  else .fin neg (mm + 2 ^ f.man) (f.qmin + (ex : Int) - 1)

/-- m × 2^e in units of 2^q, rounded to nearest, ties to even. -/
def rne (m : Nat) (e q : Int) : Nat :=
  if q ≤ e then m <<< (e - q).toNat
  else
    let sh := (q - e).toNat
    let lo := m % 2 ^ sh
    let hi := m / 2 ^ sh
    let half := 2 ^ (sh - 1)
    if lo > half || (lo = half && hi % 2 = 1) then hi + 1 else hi

/-- m × 2^e in units of 2^q under stochastic rounding: the 16 bits below the unit plus a 16-bit integer; a carry rounds up (R175). -/
def srnd (rnd : Nat) (m : Nat) (e q : Int) : Nat :=
  if q ≤ e then m <<< (e - q).toNat
  else
    let sh := (q - e).toNat
    let hi := m / 2 ^ sh
    let frac := (m % 2 ^ sh) * 2 ^ 16 / 2 ^ sh
    if frac + rnd % 65536 ≥ 65536 then hi + 1 else hi

/-- Exponent ⌊log2 (m × 2^e)⌋ of a non-zero magnitude. -/
def expOf (m : Nat) (e : Int) : Int := (Nat.log2 m : Int) + e

/-- A rounding mode: to nearest even, or stochastic with the random integer to use (R175). -/
inductive Rounding where
  | rne
  | sr (rnd : Nat)
  deriving DecidableEq, Repr

/-- Round m × 2^e to units of 2^q. -/
def Rounding.apply (r : Rounding) (m : Nat) (e q : Int) : Nat :=
  match r with
  | .rne    => Machine.rne m e q
  | .sr rnd => Machine.srnd rnd m e q

/-- The magnitude code that a finite non-zero magnitude rounds to, not yet limited to the format's range. -/
def FFmt.roundMag (f : FFmt) (r : Rounding) (m : Nat) (e : Int) : Nat :=
  if m = 0 then 0
  else
    let q := max (expOf m e - f.man) f.qmin
    ((q - f.qmin).toNat <<< f.man) + r.apply m e q

/-- The quiet NaN of an FP32 unit. -/
def nan32 : Nat := 0x7FC00000 + Config.nanPayload.toNat

/-- The code of a value in FP32 or BF16: overflow goes to infinity (R177). -/
def FFmt.encode (f : FFmt) (r : Rounding) (v : Fp) : Nat :=
  let top := (2 ^ f.exp - 1) * 2 ^ f.man
  let sgn := fun (neg : Bool) => b2n neg * 2 ^ (f.exp + f.man)
  match v with
  | .nan        => if f.man = 23 then nan32 else top + 2 ^ (f.man - 1)
  | .inf neg    => sgn neg + top
  | .fin neg m e => sgn neg + min top (f.roundMag r m e)

/-- FP32 code of a value, rounded to nearest even. -/
def to32 (v : Fp) : Nat := f32.encode .rne v

/-- The value of an FP32 code. -/
def of32 (v : Nat) : Fp := f32.decode v

/-- Is a value zero? -/
def Fp.isZero : Fp → Bool
  | .fin _ m _ => m == 0
  | _          => false

/-- Is a value NaN? -/
def Fp.isNan : Fp → Bool
  | .nan => true
  | _    => false

/-- Is a value NaN or infinite? -/
def Fp.special : Fp → Bool
  | .fin _ _ _ => false
  | _          => true

/-- The exact product; Inf × 0 is NaN (R178). -/
def Fp.mul : Fp → Fp → Fp
  | .nan, _ => .nan
  | _, .nan => .nan
  | .inf a, .inf b => .inf (a != b)
  | .inf a, .fin b m _ => if m = 0 then .nan else .inf (a != b)
  | .fin a m _, .inf b => if m = 0 then .nan else .inf (a != b)
  | .fin a m e, .fin b n k => .fin (a != b) (m * n) (e + k)

/-- A finite value as an integer multiple of 2^q, where q is at most its exponent. -/
def scaled (neg : Bool) (m : Nat) (e q : Int) : Int :=
  let x : Int := (m <<< (e - q).toNat : Nat)
  if neg then -x else x

/-- The exact sum; the sum of +Inf and −Inf is NaN (R178). A sum of zeros keeps the common sign, otherwise it is +0. -/
def Fp.add : Fp → Fp → Fp
  | .nan, _ => .nan
  | _, .nan => .nan
  | .inf a, .inf b => if a = b then .inf a else .nan
  | .inf a, .fin _ _ _ => .inf a
  | .fin _ _ _, .inf b => .inf b
  | .fin a m e, .fin b n k =>
    let q := min e k
    let t := scaled a m e q + scaled b n k q
    .fin (if t = 0 then a && b && m == 0 && n == 0 else decide (t < 0)) t.natAbs q

/-- The value with its sign changed. -/
def Fp.neg : Fp → Fp
  | .nan => .nan
  | .inf a => .inf (!a)
  | .fin a m e => .fin (!a) m e

/-- A value times 2^k. -/
def Fp.scale (k : Int) : Fp → Fp
  | .fin a m e => .fin a m (e + k)
  | v => v

/-- Exact sum of a list. -/
def Fp.sum (l : List Fp) : Fp := l.foldl Fp.add (.fin false 0 0)

/-- Is x < y, for values that are not NaN? -/
def Fp.lt : Fp → Fp → Bool
  | .nan, _ => false
  | _, .nan => false
  | .inf a, .inf b => a && !b
  | .inf a, .fin _ _ _ => a
  | .fin _ _ _, .inf b => !b
  | .fin a m e, .fin b n k =>
    let q := min e k
    decide (scaled a m e q < scaled b n k q)

/-- The larger of two values; a NaN propagates. -/
def Fp.max (x y : Fp) : Fp :=
  match x, y with
  | .nan, _ => .nan
  | _, .nan => .nan
  | _, _ => if x.lt y then y else x

/-- The smaller of two values; a NaN propagates. -/
def Fp.min (x y : Fp) : Fp :=
  match x, y with
  | .nan, _ => .nan
  | _, .nan => .nan
  | _, _ => if y.lt x then y else x

/-! ## FP32 operations on codes, each rounded once to nearest even -/

/-- FP32 sum. -/
def add32 (a b : Nat) : Nat := to32 ((of32 a).add (of32 b))
/-- FP32 product. -/
def mul32 (a b : Nat) : Nat := to32 ((of32 a).mul (of32 b))
/-- FP32 maximum. -/
def max32 (a b : Nat) : Nat := to32 ((of32 a).max (of32 b))
/-- FP32 minimum. -/
def min32 (a b : Nat) : Nat := to32 ((of32 a).min (of32 b))
/-- FP32 difference. -/
def sub32 (a b : Nat) : Nat := to32 ((of32 a).add (of32 b).neg)
/-- FP32 exponential (a free function, Config.exp32). -/
def exp32 (a : Nat) : Nat := (Config.exp32 (BitVec.ofNat 32 a)).toNat
/-- A quotient of two finite magnitudes m × 2^e ÷ (n × 2^k), n not 0: at least 64 of its leading bits, and one bit more that says whether
anything lies below them. Rounded to any format of this file, it gives what the exact quotient gives. -/
def quotMag (m : Nat) (e : Int) (n : Nat) (k : Int) : Nat × Int :=
  let sh := 65 + Nat.log2 n
  let q := m * 2 ^ sh / n
  (2 * q + b2n (m * 2 ^ sh % n != 0), e - k - sh - 1)

/-- The quotient, for a rounding to follow; 0 ÷ 0 and Inf ÷ Inf are NaN, and x ÷ 0 is infinite. -/
def Fp.div : Fp → Fp → Fp
  | .nan, _ => .nan
  | _, .nan => .nan
  | .inf _, .inf _ => .nan
  | .inf a, .fin b _ _ => .inf (a != b)
  | .fin a _ _, .inf b => .fin (a != b) 0 0
  | .fin a m e, .fin b n k =>
    if n = 0 then (if m = 0 then .nan else .inf (a != b))
    else .fin (a != b) (quotMag m e n k).1 (quotMag m e n k).2

/-- FP32 quotient. -/
def quot32 (a b : Nat) : Nat := to32 ((of32 a).div (of32 b))
/-- FP32 fused multiply-add: one rounding. -/
def fma32 (a b c : Nat) : Nat := to32 (((of32 a).mul (of32 b)).add (of32 c))

/-! ## MX formats -/

/-- The element types of R170, and BF16. -/
inductive Elem where
  | e4m3 | e5m2 | e3m2 | e2m3 | e2m1 | int8 | bf16
  deriving DecidableEq, Repr

/-- The floating-point format of an element type; MXINT8 has none. -/
def Elem.fmt : Elem → FFmt
  | .e4m3 => Machine.e4m3 | .e5m2 => Machine.e5m2 | .e3m2 => Machine.e3m2 | .e2m3 => Machine.e2m3
  | .e2m1 => Machine.e2m1 | .int8 => Machine.e4m3 | .bf16 => Machine.bf16

/-- Bits of one element. -/
def Elem.width : Elem → Nat
  | .int8 => 8
  | t => t.fmt.width

/-- Is it an MX element type? -/
def Elem.mx : Elem → Bool
  | .bf16 => false
  | _ => true

/-- emax of R174. -/
def Elem.emax : Elem → Int
  | .e4m3 => 8 | .e5m2 => 15 | .e3m2 => 4 | .e2m3 => 2 | .e2m1 => 2 | .int8 => 0 | .bf16 => 127

/-- The value of an element code (R170); MXINT8 is n × 2^−6. -/
def Elem.decode (t : Elem) (c : Nat) : Fp :=
  match t with
  | .int8 =>
    let i := toSigned 8 c
    .fin (decide (i < 0)) i.natAbs (-6)
  | _ => t.fmt.decode c

/-- An MX block: its scale code and 32 element codes; a BF16 group has scale 127, that is 2^0. -/
structure MxBlock where
  scale : Nat
  elems : List Nat
  deriving DecidableEq, Repr

/-- The values of a block, scale included; a scale of 0xFF makes every element NaN (R171). -/
def MxBlock.values (t : Elem) (b : MxBlock) : List Fp :=
  if b.scale = 0xFF then b.elems.map (fun _ => .nan)
  else b.elems.map (fun c => (t.decode c).scale ((b.scale : Int) - 127))

/-- A magnitude code limited to the type's largest magnitude, and whether that replaced it (R174, step 5). -/
def Elem.limit (t : Elem) (c : Nat) : Nat × Bool :=
  let top := match t with | .int8 => 127 | _ => t.fmt.maxCode
  if c > top then (top, true) else (c, false)

/-- The element code of one value divided by 2^s; +0 is written for every zero (R170, R174). -/
def Elem.roundOne (t : Elem) (r : Rounding) (s : Int) (v : Fp) : Nat × Bool :=
  match v with
  | .fin neg m e =>
    let mag := match t with
      | .int8 => if m = 0 then 0 else r.apply m (e - s) (-6)
      | _ => t.fmt.roundMag r m (e - s)
    let (c, sat) := t.limit mag
    let code := match t with
      | .int8 => if neg then (256 - c) % 256 else c
      | _ => if c = 0 then 0 else c + b2n neg * 2 ^ (t.fmt.exp + t.fmt.man)
    (code, sat)
  | _ => (0, false)

/-- Result of a block conversion: the block, the elements saturated, and whether it went to scale 0xFF. -/
structure Conv where
  block : MxBlock
  sat   : Nat
  nan   : Bool
  deriving DecidableEq, Repr

/-- The largest magnitude of a list of values, as (m, e). -/
def maxMag (l : List Fp) : Nat × Int :=
  l.foldl (fun acc v => match v with
    | .fin _ m e => if (Fp.fin false acc.1 acc.2).lt (.fin false m e) then (m, e) else acc
    | _ => acc) (0, 0)

/-- Conversion of 32 FP32 values to an MX block (R174–R176). `rnd i` is the rounding of element i. -/
def toMx (t : Elem) (rnd : Nat → Rounding) (vals : List Fp) : Conv :=
  if vals.any Fp.special then
    ⟨⟨0xFF, (List.range vals.length).map (fun i => (Config.nanElem i).toNat % 2 ^ t.width)⟩, 0, true⟩
  else
    let (m, e) := maxMag vals
    if m = 0 then ⟨⟨0, vals.map (fun _ => 0)⟩, 0, false⟩
    else
      let s := min (max (expOf m e - t.emax) (-127)) 127
      let rs := vals.zipIdx.map (fun (v, i) => t.roundOne (rnd i) s v)
      ⟨⟨(s + 127).toNat, rs.map (·.1)⟩, (rs.filter (·.2)).length, false⟩

/-- Elements packed contiguously, element 0 in the least significant bits of the lowest byte (R172). -/
def packElems (width : Nat) (codes : List Nat) : Bytes :=
  let n := (codes.zipIdx.map (fun (c, i) => c <<< (i * width))).foldl (· + ·) 0
  toLE ((codes.length * width + 7) / 8) n

/-- The reading of R172's packing: `count` elements of `width` bits. -/
def unpackElems (width count : Nat) (bs : Bytes) : List Nat :=
  let n := leNat bs
  (List.range count).map (fun i => (n >>> (i * width)) % 2 ^ width)

/-! ## Accumulation (R177, R178) -/

/-- Dot product of two runs of values, formed exactly. -/
def dotExact (a b : List Fp) : Fp := Fp.sum (List.zipWith Fp.mul a b)

/-- Accumulate a pair of MX blocks into an FP32 accumulator: 32 products exactly, scaled, one rounding. -/
def accMx (ta tb : Elem) (acc : Nat) (a b : MxBlock) : Nat :=
  to32 ((of32 acc).add (dotExact (a.values ta) (b.values tb)))

/-- Accumulate BF16 products: each group of 16 is summed and rounded to FP32 once, then added with one rounding. -/
def accBf16 (acc : Nat) (a b : List Fp) : Nat :=
  (chunksOf 16 (List.zip a b)).foldl
    (fun acc g => to32 ((of32 acc).add (of32 (to32 (Fp.sum (g.map (fun (x, y) => x.mul y))))))) acc

end Sys2Proof.Machine
end

