-- ==== Sys2Proof/Formats.lean ====
section
/-! DEFINITION. The operands of the module's commands: who writes, what came with a message, what nature answered. -/

namespace Sys2Proof

open Sys2Proof.Machine (Elem MxBlock)

/-- Who writes a page: the host, or the principal in a management slot (R547). -/
inductive Writer where
  | host
  | slot (n : Nat)
  deriving DecidableEq, Repr

/-- A write of a register page: its writer, and whether a write of the other path reaches the same register in the same cycle
(R550). -/
structure Access where
  writer : Writer
  clash  : Bool := false
  deriving DecidableEq, Repr

/-- Where a delivered message came from: source device and partition, the partition it names, and the step its sender issued it
under (R64, R362). -/
structure MsgSrc where
  dev     : Nat
  part    : Nat
  dstPart : Nat
  step    : Nat
  deriving DecidableEq, Repr

/-- A packet of the transport (R359): its header and its payload, and whether it came under the open key (R468). -/
structure Packet where
  op      : Nat
  tc      : Nat
  last    : Bool := false
  srcPart : Nat
  dstPart : Nat
  srcDev  : Nat
  dstDev  : Nat
  svc     : Nat
  hops    : Nat := 0
  psn     : Nat
  epoch   : Nat := 0
  step    : Nat := 0
  frag    : Nat := 0
  msgLen  : Nat := 0
  payload : Bytes
  openKey : Bool := false
  deriving DecidableEq, Repr

/-- A memory word that a read of this command finds in error: its physical device address, whether it is uncorrectable, and the
symbol corrected (R167, R267, R293). -/
structure WordErr where
  addr   : Nat
  uncorr : Bool
  sym    : Nat := 0xFF
  deriving DecidableEq, Repr

/-- A timestamp (R50): almanac nanoseconds and picoseconds. -/
structure Stamp where
  ns : Nat
  ps : Nat := 0
  deriving DecidableEq, Repr

/-- The timestamp in picoseconds. -/
def Stamp.total (t : Stamp) : Nat := t.ns * 1000 + t.ps

/-- What the sensors read over a step: mean input power of the step and of 100 ms, the largest over any 10 µs, the step's energy in
joules, the input voltage, the hottest tile and stack junction beside each tile die, and each physical tile's junction. -/
structure PowerReading where
  stepW   : Nat
  mean100 : Nat
  peak    : Nat := 0
  joules  : Nat
  mv      : Nat
  tTile   : List Nat
  tStack  : List Nat
  tiles   : List Nat := []
  deriving DecidableEq, Repr

/-- What nature and the programs bring to the moments of a step: the sensors, tables read in host memory, the random seeds that programs set
on physical tiles at Compute start (R175), and the physical tiles that have not finished their Compute part at X (R202). -/
structure StepInput where
  reading    : PowerReading
  t3         : List (Nat × Bytes) := []
  seeds      : List (Nat × Nat) := []
  unfinished : List Nat := []
  deriving DecidableEq, Repr

/-- An operand of an MXE pass: its element type and its blocks, row by row along K (R165, R166, R173). A BF16 block has scale 127. -/
structure PassMat where
  elem : Elem
  rows : List (List MxBlock)
  deriving DecidableEq, Repr

/-- Operand B of a pass: dense blocks, or the 2:4 sparse form of R181 (16 stored elements and an index word per block). -/
structure PassB where
  elem   : Elem
  sparse : Bool
  cols   : List (List (MxBlock × Nat))
  deriving DecidableEq, Repr

/-- A block of a packed region that a tile program reads through the Expander or writes through the Packer (R312, R313): the KIND 1 object, the
region's offset and its number of blocks, the block, and where in the scratch its 4,096 bytes go to or come from. -/
structure SlotOp where
  obj     : Nat
  base    : Nat
  blocks  : Nat
  block   : Nat
  scratch : Nat
  modes   : Nat := 0            -- modes that the program names, as in a MODES byte (R300, R308)
  ecc     : List WordErr := []  -- words of T1 or T2 that the access finds in error
  deriving DecidableEq, Repr

/-- How a pass runs beside its operands (R165, R182, R192, R313, R381): whether it starts the accumulators at zero, the clocks in which the MXE
waits on the Expander, the blocks of packed regions it draws first, and the exchange messages (source, tag) it reads. -/
structure PassRun where
  clear  : Bool
  stall  : Nat := 0
  draws  : List SlotOp := []
  awaits : List (Nat × Nat) := []
  deriving DecidableEq, Repr

/-- What happens to the items of an Attend on the way (R228, R266, R273): the items, by place in the message, whose work a forced refresh stop on
a stack discards, and the Sedge clocks the items take on each stack. -/
structure InletTurn where
  stops : List (Nat × Nat) := []
  work  : List (Nat × Nat) := []
  deriving DecidableEq, Repr

/-- What the VXU does with its FP32 operands before the result is converted or stored (R164, R189): nothing, an element-wise operation, or a
reduction to one value. -/
inductive VxuFn where
  | keep | add | sub | mul | fma | max | min | exp | recip | sqrt | sum | maxOf
  deriving DecidableEq, Repr

/-- Is it a reduction? -/
def VxuFn.reduces : VxuFn → Bool
  | .sum | .maxOf => true
  | _ => false

/-- A conversion of FP32 values to BF16 or MX (R174, R175): element type, stochastic rounding, the values, and where in the tile's
scratch the elements and the scales go. The VXU may first compute the values: `fn` of `values`, `ys` and `zs`; `fp32` stores the results as
FP32, with no conversion. `fresh` begins a tensor, whose overflow flag is then clear, and `guarded` skips the instruction where the flag is
set (R189). -/
structure ConvOp where
  elem     : Elem
  sr       : Bool
  values   : List Nat
  dst      : Nat
  scaleDst : Nat
  fn       : VxuFn := .keep
  ys       : List Nat := []
  zs       : List Nat := []
  fp32     : Bool := false
  fresh    : Bool := false
  guarded  : Bool := false
  packs    : List SlotOp := []  -- blocks of scratch that the Packer then packs into regions (R300, R312)
  deriving DecidableEq, Repr

/-- Placement and limit of one expert (R184, R187). -/
structure Expert where
  device    : Nat
  partition : Nat
  tile      : Nat
  bias      : Nat := 0     -- FP32, mode 2
  deriving DecidableEq, Repr

/-- A Router run (R184): layer, choice count, mode, RENORM, CAP, experts, and the FP32 logits of each token. -/
structure RouterOp where
  layer   : Nat
  k       : Nat
  mode    : Nat
  renorm  : Bool
  cap     : Nat
  experts : List Expert
  logits  : List (List Nat)
  dst     : Nat            -- scratch address of the dispatch list
  deriving DecidableEq, Repr

/-- Who issues a Sedge command (R253): a static sequence on a physical tile, the query inlet or the State Mover for a partition, or the host
path. -/
inductive SedgeFrom where
  | tile (t : Nat)
  | inlet (part : Nat)
  | mover (part : Nat)
  | host
  deriving DecidableEq, Repr

/-- A command's turn at its stack's inlet: the Sedge clocks it takes, and the other requesters that wait when it asks (R229): 0–15 the Bank
Dispatch units of the die, 16 the query inlet, 17 the State Mover, 18 the host path. -/
structure SedgeTurn where
  clocks : Nat := 0
  rivals : List Nat := []
  deriving DecidableEq, Repr

/-- What a migration copies or switches (R288, R504): a unit of an object, or a slot of a repaired half-bank, by its physical address. -/
inductive Migrant where
  | object (o unit : Nat)
  | slot (addr : Nat)
  deriving DecidableEq, Repr

/-- A codeword as the decoder of R328 leaves it: its 140-bit control field (of an uncorrectable one only CW_COUNT is meaningful: it is known from
the codeword's place), its 625 bytes of frame stream, still scrambled, or none where it is uncorrectable, and the symbols corrected. -/
structure CwIn where
  ctl       : Nat
  data      : Option Bytes
  corrected : Nat := 0
  deriving DecidableEq, Repr

/-- Whose credential has been verified (R464, R467): the peer's of a link, or a device's in a pair handshake. -/
inductive CredFor where
  | link (l : Nat)
  | pair (dev : Nat)
  deriving DecidableEq, Repr

/-- How a self-test in service ends: it passes; a unit of R193 fails, by its code; or a fault of the unit or of what it is loaded from cuts it
short (R506). -/
inductive TestResult where
  | pass
  | fail (unit : Nat)
  | fault
  deriving DecidableEq, Repr

/-- A unit on its way back to service that a repair command or a self-test names (R505). -/
inductive RetUnit where
  | tile (t : Nat)
  | halfBank (stack number : Nat)
  deriving DecidableEq, Repr

/-- What a supply or temperature monitor sees, and for how many microseconds it has held (R527, R529, R563). -/
inductive Excursion where
  | inputMv (mv us : Nat)
  | inputW (watts us : Nat)
  | mean100W (watts : Nat)
  | tile (die celsius us : Nat)
  | stack (die celsius us : Nat)
  deriving DecidableEq, Repr

/-- An exchange plan entry as the program's section gives it (R379). -/
structure ExchOp where
  tile   : Nat             -- physical tile
  bytes  : Bytes           -- the entry's 32 bytes
  deriving DecidableEq, Repr

end Sys2Proof
end

