-- ==== Sys2Proof/Syntax.lean ====
section
/-! DEFINITION. The commands of the module: one constructor for each row of the opcode table, in the table's order. A command's operands
are what the spec gives the row, and what nature or another device brings with it: the sender and bytes of a message, who writes a
register, the reading of a sensor, the words a read finds in error. -/

namespace Sys2Proof

open Sys2Proof.Machine (Elem)

/-- A command. [log 14, DESIGN CHOICE] [log 59, DESIGN CHOICE] -/
inductive Instr where
  /-- ALMANAC_TICK (R41). -/
  | almanacTick (x : StepInput)
  /-- BOUNDARY_WINDOW (R65). -/
  | boundaryWindow (x : StepInput)
  /-- COMPUTE_START (R66). -/
  | computeStart (seeds : List (Nat × Nat))
  /-- EXCHANGE_START (R62). -/
  | exchangeStart (unfinished : List Nat)
  /-- SETTLE_START (R136). -/
  | settleStart
  /-- SMV_CUTOFF (R148). -/
  | smvCutoff
  /-- PLAN_SWITCH (R579). -/
  | planSwitch
  /-- PLAN_ARM (R48). -/
  | planArm (acc : Access)
  /-- PLAN_WITHDRAW (R48). -/
  | planWithdraw (acc : Access)
  /-- ALM_SYNC_TOD (R59). -/
  | almSyncTod (acc : Access) (value : Nat)
  /-- ALM_SYNC_EDGE (R60). -/
  | almSyncEdge (own : Nat)
  /-- ALM_SYNC_EDGE_MISSED (R60). -/
  | almSyncEdgeMissed
  /-- HOLDOVER_TIMEOUT (R60). -/
  | holdoverTimeout
  /-- ANNOUNCE_SEND (R51). -/
  | announceSend
  /-- ALMANAC_SYNC_SEND (R51). -/
  | almanacSyncSend (at' : Stamp)
  /-- DELAY_REQUEST_SEND (R51). -/
  | delayRequestSend (at' : Stamp)
  /-- ANNOUNCE (R52). -/
  | announce (link : Nat) (bytes : Bytes)
  /-- ALMANAC_SYNC (R54). -/
  | almanacSync (link : Nat) (bytes : Bytes) (rx : Stamp)
  /-- DELAY_REQUEST (R51). -/
  | delayRequest (link : Nat) (bytes : Bytes) (rx tx : Stamp)
  /-- DELAY_REPLY (R54). -/
  | delayReply (link : Nat) (bytes : Bytes) (rx : Stamp)
  /-- MASTER_LOST (R53). -/
  | masterLost
  /-- LO_REGISTER_READ (R68). -/
  | loRegisterRead (addr size : Nat)
  /-- SUBMIT_READ (R437). -/
  | submitRead (queue : Nat) (desc : Bytes)
  /-- CANCEL_READ (R439). -/
  | cancelRead (queue : Nat) (desc : Bytes)
  /-- PROMPT_COPIED (R437). -/
  | promptCopied (num : Nat) (tokens : List Nat)
  /-- ANCHOR_RECORD (R93). -/
  | anchorRecord (src : MsgSrc) (bytes : Bytes)
  /-- ANCHOR_TIMEOUT (R90). -/
  | anchorTimeout (rid cand : Nat)
  /-- TOKEN_RUN_RECORD (R93). -/
  | tokenRunRecord (src : MsgSrc) (bytes : Bytes)
  /-- HOME_RECORD (R98). -/
  | homeRecord (src : MsgSrc) (bytes : Bytes)
  /-- END_RECORD (R98). -/
  | endRecord (src : MsgSrc) (bytes : Bytes)
  /-- ACKNOWLEDGEMENT_RECORD (R94). -/
  | acknowledgementRecord (src : MsgSrc) (bytes : Bytes)
  /-- GANG_BARRIER (R203). -/
  | gangBarrier (part : Nat) (samples : List (Nat × List (List (Nat × Nat)))) (missing : Bool)
  /-- CANCEL_RECORD (R99). -/
  | cancelRecord (src : MsgSrc) (bytes : Bytes)
  /-- EMIT_RECORD (R443). -/
  | emitRecord (src : MsgSrc) (bytes : Bytes)
  /-- FINISH_RECORD (R443). -/
  | finishRecord (src : MsgSrc) (bytes : Bytes)
  /-- RTB_PEEK_IDX_WRITE (R106). -/
  | rtbPeekIdxWrite (acc : Access) (value : Nat)
  /-- RTB_SERIAL_WRITE (R72). -/
  | rtbSerialWrite (acc : Access) (value : Nat)
  /-- LOOKUP (R119). -/
  | lookup (src : MsgSrc) (bytes : Bytes)
  /-- LOOKUP_REPLY (R121). -/
  | lookupReply (src : MsgSrc) (bytes : Bytes)
  /-- LOOKUP_RELEASE (R119). -/
  | lookupRelease (src : MsgSrc) (bytes : Bytes)
  /-- PFX_PIN (R128). -/
  | pfxPin (acc : Access) (part : Nat)
  /-- PFX_UNPIN (R128). -/
  | pfxUnpin (acc : Access) (part : Nat)
  /-- OPEN (R580). -/
  | open (src : MsgSrc) (bytes : Bytes)
  /-- DATA (R145). -/
  | data (src : MsgSrc) (bytes : Bytes)
  /-- SEAL (R145). -/
  | seal (src : MsgSrc) (bytes : Bytes)
  /-- INTENT (R145). -/
  | intent (src : MsgSrc) (bytes : Bytes)
  /-- COMMIT (R149). -/
  | commit (src : MsgSrc) (bytes : Bytes)
  /-- ABORT (R145). -/
  | abort (src : MsgSrc) (bytes : Bytes)
  /-- QUERY (R582). -/
  | query (src : MsgSrc) (bytes : Bytes)
  /-- REPLY (R145). -/
  | reply (src : MsgSrc) (bytes : Bytes) (ecc : List WordErr)
  /-- PULL (R153). -/
  | pull (src : MsgSrc) (bytes : Bytes)
  /-- LOST (R154). -/
  | lost (src : MsgSrc) (bytes : Bytes)
  /-- LOCATE (R158). -/
  | locate (src : MsgSrc) (bytes : Bytes)
  /-- DECIDE_WAIT_EXPIRY (R145). -/
  | decideWaitExpiry (dev seq : Nat)
  /-- SMV_ORD_ISSUE (R162). -/
  | smvOrdIssue (acc : Access)
  /-- PASS (R165). -/
  | pass (tile : Nat) (a : PassMat) (b : PassB) (run : PassRun) (ecc : List WordErr)
  /-- CONVERSION (R174). -/
  | conversion (tile : Nat) (op : ConvOp) (ecc : List WordErr)
  /-- ROUTER_RUN (R186). -/
  | routerRun (tile : Nat) (op : RouterOp) (ecc : List WordErr)
  /-- FENCE (R378). -/
  | fence (tile num dev : Nat) (tc : Option Nat)
  /-- TILE_LOAD (R386). -/
  | tileLoad (tile addr dst : Nat)
  /-- TILE_STORE (R386). -/
  | tileStore (tile addr : Nat) (data : Bytes)
  /-- EXCHANGE_ENTRY (R379). -/
  | exchangeEntry (op : ExchOp) (ecc : List WordErr)
  /-- PROGRAM_LOAD (R200). -/
  | programLoad (acc : Access) (image : Bytes)
  /-- PROGRAM_UNLOAD (R200). -/
  | programUnload (acc : Access) (index : Nat)
  /-- REGISTER_ENTRY (R196). -/
  | registerEntry (acc : Access) (image : Bytes)
  /-- DEREGISTER (R196). -/
  | deregister (acc : Access) (adapter : Bool) (id' : Nat)
  /-- RESIDENCY_LOAD (R223). -/
  | residencyLoad (acc : Access) (part : Nat) (adapter : Bool) (id' : Nat)
  /-- RESIDENCY_EVICT (R224). -/
  | residencyEvict (acc : Access) (part : Nat) (adapter : Bool) (id' : Nat)
  /-- RESIDENCY_PIN (R225). -/
  | residencyPin (acc : Access) (part : Nat) (adapter : Bool) (id' : Nat)
  /-- RESIDENCY_UNPIN (R225). -/
  | residencyUnpin (acc : Access) (part : Nat) (adapter : Bool) (id' : Nat)
  /-- LOAD_FINISHED (R473). -/
  | loadFinished (part : Nat) (adapter : Bool) (id' : Nat) (bundle : Bytes)
  /-- ACCT_REGISTER (R230). -/
  | acctRegister (acc : Access) (ride : Bool)
  /-- ACCT_REMOVE (R230). -/
  | acctRemove (acc : Access)
  /-- ACCT_CLEAR (R230). -/
  | acctClear (acc : Access)
  /-- SLICE_COMMIT (R226). -/
  | sliceCommit (acc : Access)
  /-- BID (R207). -/
  | bid (src : MsgSrc) (bytes : Bytes)
  /-- OFFER (R218). -/
  | offer (src : MsgSrc) (bytes : Bytes)
  /-- VOID (R203). -/
  | void (src : MsgSrc) (bytes : Bytes)
  /-- WATCHDOG_PROBE (R499). -/
  | watchdogProbe (silent : List Nat)
  /-- WATCHDOG_EXPIRY (R499). -/
  | watchdogExpiry (tile : Nat)
  /-- ATTEND_MESSAGE (R257). -/
  | attendMessage (src : MsgSrc) (bytes : Bytes) (turn : InletTurn) (ecc : List WordErr)
  /-- RESULT (R259). -/
  | result (src : MsgSrc) (bytes : Bytes)
  /-- APPEND (R251). -/
  | append (stack : Nat) (frm : SedgeFrom) (word data : Bytes) (turn : SedgeTurn) (ecc : List WordErr)
  /-- SUMMARISE (R251). -/
  | summarise (stack : Nat) (frm : SedgeFrom) (word : Bytes) (turn : SedgeTurn) (ecc : List WordErr)
  /-- SUMWRITE (R241). -/
  | sumwrite (stack : Nat) (frm : SedgeFrom) (word : Bytes) (turn : SedgeTurn) (ecc : List WordErr)
  /-- SCORE (R261). -/
  | score (stack : Nat) (frm : SedgeFrom) (word data : Bytes) (turn : SedgeTurn) (ecc : List WordErr)
  /-- ATTEND (R262). -/
  | attend (stack : Nat) (frm : SedgeFrom) (word data : Bytes) (turn : SedgeTurn) (ecc : List WordErr)
  /-- MATVEC (R263). -/
  | matvec (stack : Nat) (frm : SedgeFrom) (word data : Bytes) (elem : Elem) (turn : SedgeTurn) (ecc : List WordErr)
  /-- SEDGE_READ (R251). -/
  | sedgeRead (stack : Nat) (frm : SedgeFrom) (word : Bytes) (turn : SedgeTurn) (ecc : List WordErr)
  /-- SEDGE_WRITE (R268). -/
  | sedgeWrite (stack : Nat) (frm : SedgeFrom) (word data : Bytes) (turn : SedgeTurn) (ecc : List WordErr)
  /-- INIT (R251). -/
  | init (stack : Nat) (frm : SedgeFrom) (word data : Bytes) (turn : SedgeTurn) (ecc : List WordErr)
  /-- NOP (R251). -/
  | nop (stack : Nat) (frm : SedgeFrom) (word : Bytes) (turn : SedgeTurn)
  /-- REFRESH (R264). -/
  | refresh (stack : Nat) (ecc : List WordErr)
  /-- DIE_SENSOR_UPDATE (R486). -/
  | dieSensorUpdate (temps : List Nat)
  /-- DESCRIPTOR_INSTALL (R286). -/
  | descriptorInstall (acc : Access) (image : Bytes)
  /-- DESCRIPTOR_MIGRATE (R288). -/
  | descriptorMigrate (acc : Access) (image : Bytes)
  /-- DESCRIPTOR_FREE (R286). -/
  | descriptorFree (acc : Access) (object : Nat)
  /-- MIGRATION_COPY (R288). -/
  | migrationCopy (what : Migrant) (ecc : List WordErr)
  /-- MIGRATION_SWITCH (R289). -/
  | migrationSwitch (what : Migrant) (stall : Nat) (ecc : List WordErr)
  /-- STACK_POLL (R291). -/
  | stackPoll (stack : Nat) (answered : Bool)
  /-- STACK_RETRAIN_ATTEMPT (R503). -/
  | stackRetrainAttempt (stack : Nat)
  /-- STACK_RETRAIN_DONE (R503). -/
  | stackRetrainDone (stack : Nat) (trained creditKept : Bool)
  /-- HOST_MEM_READ (R429). -/
  | hostMemRead (hpa : Nat) (obtains : Option Bool) (ecc : List WordErr)
  /-- HOST_MEM_WRITE (R429). -/
  | hostMemWrite (hpa : Nat) (data : Bytes) (mask : Nat)
  /-- BISNP_RESPONSE (R431). -/
  | bisnpResponse (line : Nat) (data : Option Bytes)
  /-- H2D_SNOOP (R426). -/
  | h2dSnoop (addr : Nat)
  /-- CREATE_QUEUE_PAIR (R434). -/
  | createQueuePair (acc : Access) (image : Bytes)
  /-- DELETE_QUEUE_PAIR (R434). -/
  | deleteQueuePair (acc : Access) (queue : Nat)
  /-- CREATE_EMIT_RING (R434). -/
  | createEmitRing (acc : Access) (image : Bytes)
  /-- DELETE_EMIT_RING (R434). -/
  | deleteEmitRing (acc : Access) (ring : Nat)
  /-- SET_PROFILE (R434). -/
  | setProfile (acc : Access) (image : Bytes)
  /-- SQ_TAIL_DOORBELL (R437). -/
  | sqTailDoorbell (acc : Access) (queue tail : Nat)
  /-- CQ_HEAD_DOORBELL (R441). -/
  | cqHeadDoorbell (acc : Access) (queue head : Nat)
  /-- EMIT_HEAD_DOORBELL (R441). -/
  | emitHeadDoorbell (acc : Access) (ring head : Nat)
  /-- COALESCE_TIMEOUT (R446). -/
  | coalesceTimeout (emit : Bool) (number : Nat)
  /-- EMIT_STALL (R445). -/
  | emitStall (ring : Nat)
  /-- CXL_LINK_DOWN (R447). -/
  | cxlLinkDown
  /-- HOST_LINK_LOST (R447). -/
  | hostLinkLost
  /-- FATAL_LINKS_OFF (R510). -/
  | fatalLinksOff
  /-- SURPRISE_REMOVAL (R447). -/
  | surpriseRemoval
  /-- VIRAL_IN (R447). -/
  | viralIn
  /-- CODEWORD (R329). -/
  | codeword (link lane : Nat) (cw : CwIn)
  /-- LANE_SIGNAL_LOSS (R345). -/
  | laneSignalLoss (link lane : Nat)
  /-- DATA_FRAME (R335). -/
  | dataFrame (link : Nat) (frame : Bytes)
  /-- FORWARDED_FRAME (R364). -/
  | forwardedFrame (link : Nat) (frame : Bytes)
  /-- NEGOTIATE_CAPABILITY (R342). -/
  | negotiateCapability (link : Nat) (bytes : Bytes)
  /-- NEGOTIATE_CONFIRM (R342). -/
  | negotiateConfirm (link : Nat) (bytes : Bytes)
  /-- CREDENTIAL_FRAGMENT (R464). -/
  | credentialFragment (link : Nat) (bytes : Bytes)
  /-- CREDENTIAL_VERIFIED (R462). -/
  | credentialVerified (whose : CredFor)
  /-- ENCAPSULATION (R464). -/
  | encapsulation (link : Nat) (bytes : Bytes)
  /-- KEEPALIVE_SEND (R336). -/
  | keepaliveSend (link : Nat)
  /-- KEEPALIVE (R336). -/
  | keepalive (link : Nat) (bytes : Bytes)
  /-- KEEPALIVE_TIMEOUT (R347). -/
  | keepaliveTimeout (link : Nat)
  /-- ADMIT_PROPOSE (R351). -/
  | admitPropose (link : Nat) (bytes : Bytes)
  /-- ADMIT_CONFIRM (R351). -/
  | admitConfirm (link : Nat) (bytes : Bytes)
  /-- ADMIT_WITHDRAW (R351). -/
  | admitWithdraw (link : Nat) (bytes : Bytes)
  /-- TEST (R350). -/
  | test (link seq : Nat) (bytes : Bytes)
  /-- RETIRE (R348). -/
  | retire (link : Nat) (bytes : Bytes)
  /-- MARGIN (R536). -/
  | margin (link : Nat) (bytes : Bytes)
  /-- MARGIN_SEND (R536). -/
  | marginSend
  /-- AGEING_MEASUREMENT (R535). -/
  | ageingMeasurement (replicas : List (List Int)) (eyes : List (Nat × Nat × Nat))
  /-- TRAINING_STAGE_DONE (R339). -/
  | trainingStageDone (link lanes : Nat)
  /-- TRAINING_STAGE_TIMEOUT (R340). -/
  | trainingStageTimeout (link : Nat)
  /-- TRAINING_RETRY (R340). -/
  | trainingRetry (link : Nat)
  /-- SELFTEST_END (R350). -/
  | selftestEnd (link : Nat)
  /-- LANE_RETRAIN_TIMEOUT (R346). -/
  | laneRetrainTimeout (link lane : Nat)
  /-- LANE_RETRAIN_RETRY (R346). -/
  | laneRetrainRetry (link lane : Nat)
  /-- LNK_RETRAIN (R347). -/
  | lnkRetrain (acc : Access) (link : Nat)
  /-- LNK_RETIRE (R348). -/
  | lnkRetire (acc : Access) (link : Nat)
  /-- LNK_READMIT (R350). -/
  | lnkReadmit (acc : Access) (link : Nat)
  /-- ENGINE_FAILED (R358). -/
  | engineFailed (engine : Nat)
  /-- ENGINE_OVERTEMP (R358). -/
  | engineOvertemp (engine celsius : Nat)
  /-- MSG (R375). -/
  | msg (pkt : Packet) (ecc : List WordErr)
  /-- ACK (R369). -/
  | ack (pkt : Packet)
  /-- NAK (R372). -/
  | nak (pkt : Packet)
  /-- SYNC (R365). -/
  | sync (pkt : Packet)
  /-- SYNC_ACK (R365). -/
  | syncAck (pkt : Packet)
  /-- LOAD (R386). -/
  | load (pkt : Packet) (ecc : List WordErr)
  /-- LOAD_RESP (R388). -/
  | loadResp (pkt : Packet)
  /-- STORE (R386). -/
  | store (pkt : Packet) (ecc : List WordErr)
  /-- SKIP (R368). -/
  | skip (pkt : Packet) (ecc : List WordErr)
  /-- ACK_TIMER (R369). -/
  | ackTimer (peer tc : Nat)
  /-- RETRY_TIMEOUT (R371). -/
  | retryTimeout (peer tc : Nat)
  /-- CONTEXT_FETCH_DONE (R366). -/
  | contextFetchDone (ctx : Nat)
  /-- REASSEMBLY_TIMEOUT (R376). -/
  | reassemblyTimeout (peer tc base : Nat)
  /-- MAP_PROPOSAL (R391). -/
  | mapProposal (acc : Access) (image : Bytes)
  /-- VOTE (R392). -/
  | vote (src : MsgSrc) (bytes : Bytes)
  /-- VOTE_DEADLINE (R393). -/
  | voteDeadline
  /-- EXPORT_OPEN (R384). -/
  | exportOpen (acc : Access) (image : Bytes)
  /-- EXPORT_REVOKE (R385). -/
  | exportRevoke (acc : Access) (id : Nat)
  /-- EXPORT_REVOKE_DONE (R385). -/
  | exportRevokeDone
  /-- WINDOW_OPEN (R384). -/
  | windowOpen (acc : Access) (image : Bytes)
  /-- WINDOW_CLOSE (R384). -/
  | windowClose (acc : Access) (window : Nat)
  /-- CONTEXT_FLUSH (R373). -/
  | contextFlush (acc : Access) (peer : Nat)
  /-- FRAME_BOUNDARY (R416). -/
  | frameBoundary (link : Nat)
  /-- BUCKET_REFILL (R413). -/
  | bucketRefill
  /-- CALENDAR_COMMIT (R409). -/
  | calendarCommit (acc : Access) (link : Nat)
  /-- POLICER_WRITE (R413). -/
  | policerWrite (acc : Access) (link queue : Nat) (burst : Bool) (value : Nat)
  /-- SAMPLER (R417). -/
  | sampler (link : Nat)
  /-- FIRMWARE_GO (R522). -/
  | firmwareGo (acc : Access)
  /-- FIRMWARE_CHECKED (R458). -/
  | firmwareChecked (image cert : Bytes)
  /-- FUSE_OWNER_KEY (R459). -/
  | fuseOwnerKey (acc : Access) (digest : Bytes)
  /-- FUSE_MANAGEMENT_ROOT (R459). -/
  | fuseManagementRoot (acc : Access) (digest : Bytes)
  /-- RAISE_MIN_SVN (R459). -/
  | raiseMinSvn (acc : Access)
  /-- PAIR_CREDENTIAL (R467). -/
  | pairCredential (src : MsgSrc) (bytes : Bytes)
  /-- PAIR_ENCAPSULATION (R467). -/
  | pairEncapsulation (src : MsgSrc) (bytes : Bytes)
  /-- PAIR_CONFIRM (R467). -/
  | pairConfirm (src : MsgSrc) (bytes : Bytes)
  /-- HANDSHAKE_TIMEOUT (R467). -/
  | handshakeTimeout (dev : Nat)
  /-- ATTESTATION_REQUEST (R476). -/
  | attestationRequest (acc : Access)
  /-- REPORT_SIGNED (R476). -/
  | reportSigned
  /-- HELLO (R478). -/
  | hello (datagram : Bytes)
  /-- NMP_RECORD (R479). -/
  | nmpRecord (datagram : Bytes) (t3 : List (Nat × Bytes))
  /-- SESSION_TIMEOUT (R479). -/
  | sessionTimeout (session : Nat)
  /-- NMP_READ (R554). -/
  | nmpRead (session tag offset count : Nat)
  /-- NMP_WRITE (R554). -/
  | nmpWrite (session tag offset : Nat) (words : List Nat) (t3 : List (Nat × Bytes))
  /-- NMP_COLD_RESET (R554). -/
  | nmpColdReset (session tag : Nat)
  /-- NMP_WARM_RESET (R554). -/
  | nmpWarmReset (session tag : Nat)
  /-- NMP_PURGE (R554). -/
  | nmpPurge (session tag : Nat)
  /-- PURGE_DONE (R554). -/
  | purgeDone
  /-- NMP_REPORT (R554). -/
  | nmpReport (session tag : Nat) (cred : Bool) (nonce : Bytes)
  /-- GET_VERSION (R480). -/
  | getVersion
  /-- GET_CAPABILITIES (R480). -/
  | getCapabilities
  /-- UNSUPPORTED_SPDM_REQUEST (R480). -/
  | unsupportedSpdmRequest (code : Nat)
  /-- SPDM_REPORT (R480). -/
  | spdmReport (payload : Bytes)
  /-- KEY_OPEN (R481). -/
  | keyOpen (payload : Bytes)
  /-- KEY_MESSAGE (R481). -/
  | keyMessage (payload : Bytes)
  /-- KEY_CLOSE (R481). -/
  | keyClose (payload : Bytes)
  /-- KEY_SESSION_TIMEOUT (R481). -/
  | keySessionTimeout
  /-- PRESENCE_SEND (R493). -/
  | presenceSend (dev : Nat)
  /-- PRESENCE (R493). -/
  | presence (src : MsgSrc) (bytes : Bytes)
  /-- DEPARTURE (R495). -/
  | departure (src : MsgSrc) (bytes : Bytes)
  /-- PEER_TIMEOUT (R495). -/
  | peerTimeout (dev : Nat)
  /-- REPAIR_HALF_BANK (R504). -/
  | repairHalfBank (acc : Access) (stack number : Nat) (spares : Bool)
  /-- RETEST_TILE (R514). -/
  | retestTile (acc : Access) (tile : Nat)
  /-- SELFTEST_DONE (R506). -/
  | selftestDone (unit : RetUnit) (result : TestResult)
  /-- UNIT_LOAD_DONE (R505). -/
  | unitLoadDone (tile : Nat) (ok : Bool)
  /-- VIN_RISE (R518). -/
  | vinRise
  /-- MOD_RST_N (R570). -/
  | modRstN (lowNs : Nat)
  /-- PERST_ASSERT (R519). -/
  | perstAssert
  /-- PERST_DEASSERT (R521). -/
  | perstDeassert
  /-- STARTUP_STAGE_DONE (R520). -/
  | startupStageDone (stage : Nat) (failed : List (Nat × Nat)) (pins : List Nat)
  /-- REFCLK_LOSS (R571). -/
  | refclkLoss
  /-- JUNCTION_TRIP (R527). -/
  | junctionTrip (die celsius : Nat)
  /-- SHUTDOWN (R529). -/
  | shutdown (what : Excursion)
  /-- RAILS_OFF (R529). -/
  | railsOff
  /-- D3HOT_REQUEST (R524). -/
  | d3hotRequest
  /-- D0_RETURN (R524). -/
  | d0Return
  /-- VIGIL_ARM (R531). -/
  | vigilArm (acc : Access)
  /-- VIGIL_NOW (R531). -/
  | vigilNow (acc : Access)
  /-- VIGIL_RELEASE (R533). -/
  | vigilRelease (acc : Access)
  /-- VIGIL_DISARM (R540). -/
  | vigilDisarm (acc : Access)
  /-- VIGIL_MESSAGE (R532). -/
  | vigilMessage (src : MsgSrc) (bytes : Bytes)
  /-- VIGIL_LATCH (R530). -/
  | vigilLatch
  /-- BLK_ENABLE (R545). -/
  | blkEnable (acc : Access) (page : Nat) (on : Bool)
  /-- BLK_DRAIN (R545). -/
  | blkDrain (acc : Access) (page : Nat) (on : Bool)
  /-- BLK_QUIESCE (R545). -/
  | blkQuiesce (acc : Access) (page : Nat) (on : Bool)
  /-- BLK_RESET (R545). -/
  | blkReset (acc : Access) (page : Nat)
  /-- RW1C_WRITE (R544). -/
  | rw1cWrite (acc : Access) (page : Nat) (int : Bool) (value hw : Nat)
  /-- REGISTER_WRITE (R547). -/
  | registerWrite (acc : Access) (addr size value : Nat) (t3 : List (Nat × Bytes))
  /-- CXL_LINK_UP (R447). -/
  | cxlLinkUp (width : Nat)
  /-- HDM_DECODER_COMMIT (R428). -/
  | hdmDecoderCommit (decoder base size dpa : Nat)
  /-- VECTOR_UNMASK (R446). -/
  | vectorUnmask (vector : Option Nat)
  /-- ATTEND_SEND (R255). -/
  | attendSend (tile dev part : Nat) (bytes : Bytes)
  /-- INPUT_VOLTAGE_EXCURSION (R563). -/
  | inputVoltageExcursion (mv us : Nat)
  /-- INPUT_POWER_EXCURSION (R563). -/
  | inputPowerExcursion (watts us : Nat)
  /-- LASER_FAULT (R358). -/
  | laserFault (link lane bias power : Nat)
  /-- RECEIVED_POWER_LOW (R358). -/
  | receivedPowerLow (link lane power : Nat)
  /-- SEC_SEAL_DONE (R474). -/
  | secSealDone
  /-- DESCRIPTOR_INSTALL_DONE (R286). -/
  | descriptorInstallDone
  /-- CLEARED_BY_READ (R274). -/
  | clearedByRead (addr size : Nat)
  deriving DecidableEq, Repr

end Sys2Proof
end

