-- ==== Sys2Proof/Machine/RegMap.lean ====
section
/-! DEFINITION. The register map of BAR0: every register of the spec's register tables (R68, R105, R131, R161, R192, R233, R273,
R296, R323, R353, R356, R397, R420, R423, R450, R489, R513, R539, R542, R556, R561), where it lies, its value after cold reset,
and which of its bits a software write stores (the field tables that follow each register table). Generated from those tables. -/

namespace Sys2Proof.Machine

/-- One row of a register table. `soft` holds the bits a software write stores (RW and RWS fields), `sticky` those kept
across a warm reset (RWS, R16); every other bit is read only, or is a write-only action field (R16). -/
structure RegRow where
  off    : Nat
  count  : Nat := 1
  stride : Nat := 4
  reset  : Nat := 0
  soft   : Nat := 0
  sticky : Nat := 0
  deriving DecidableEq, Repr

/-- A bit field: the register it lies in, its first and last bit (R10). -/
structure Fld where
  reg : Nat
  hi  : Nat
  lo  : Nat
  deriving DecidableEq, Repr

/-- The same field, `d` bytes further on (the next instance of an indexed register, or a page's base). -/
def Fld.plus (f : Fld) (d : Nat) : Fld := { f with reg := f.reg + d }

namespace Reg

abbrev BLK_ID : Nat := 0x0
abbrev BLK_VER : Nat := 0x4
abbrev BLK_CAP : Nat := 0x8
abbrev BLK_CTRL : Nat := 0x10
abbrev BLK_STAT : Nat := 0x14
abbrev ERR_STAT : Nat := 0x18
abbrev ERR_MASK : Nat := 0x1C
abbrev INT_STAT : Nat := 0x20
abbrev INT_EN : Nat := 0x24
abbrev EVT_TRANS : Nat := 0x28
abbrev EVT_PERM : Nat := 0x2C
abbrev WIN_CFG : Nat := 0x30
abbrev OWNER : Nat := 0x38
abbrev SNAP : Nat := 0x40

/-! ## GLB -/
abbrev GLB_PART_NUM : Nat := 0x100
abbrev GLB_REV : Nat := 0x110
abbrev GLB_SERIAL_LO : Nat := 0x114
abbrev GLB_SERIAL_HI : Nat := 0x118
abbrev GLB_STAGE : Nat := 0x11C
abbrev GLB_FW_ADDR_LO : Nat := 0x120
abbrev GLB_FW_ADDR_HI : Nat := 0x124
abbrev GLB_FW_LEN : Nat := 0x128
abbrev GLB_FW_CTRL : Nat := 0x12C
abbrev GLB_FW_STAT : Nat := 0x130
abbrev GLB_INT_ROUTE : Nat := 0x134
abbrev GLB_PART_PEND : Nat := 0x138
abbrev GLB_PART_CUR : Nat := 0x13C
abbrev GLB_INT_PEND : Nat := 0x140
abbrev GLB_LT_OWN_PEND : Nat := 0x180
abbrev GLB_LT_OWN_CUR : Nat := 0x1C0
abbrev GLB_OWN_COUNT : Nat := 0x200
abbrev GLB_OWN_IDX : Nat := 0x204
abbrev GLB_OWN_DATA : Nat := 0x210

/-! ## PWR -/
abbrev PWR_LIMIT : Nat := 0x1100
abbrev PWR_STATE : Nat := 0x1104
abbrev PWR_INPUT_MV : Nat := 0x1108
abbrev PWR_STEP_W : Nat := 0x110C
abbrev PWR_PEAK_W : Nat := 0x1110
abbrev PWR_MEAN100_W : Nat := 0x1114
abbrev PWR_ENERGY_LO : Nat := 0x1118
abbrev PWR_ENERGY_HI : Nat := 0x111C
abbrev PWR_JUNCTION_TRIPS : Nat := 0x1120
abbrev PWR_LEVEL_UPS : Nat := 0x1124
abbrev PWR_OVER_TDP : Nat := 0x1128
abbrev PWR_DIE : Nat := 0x1140

/-! ## ALM -/
abbrev ALM_NOW_LO : Nat := 0x2100
abbrev ALM_NOW_HI : Nat := 0x2104
abbrev ALM_STEP_LO : Nat := 0x2108
abbrev ALM_STEP_HI : Nat := 0x210C
abbrev ALM_STATE : Nat := 0x2110
abbrev ALM_CADENCE : Nat := 0x2120
abbrev ALM_BW_LEN : Nat := 0x2124
abbrev ALM_EXCH_START : Nat := 0x2128
abbrev ALM_SETTLE_START : Nat := 0x212C
abbrev ALM_PLAN_STEP_LO : Nat := 0x2130
abbrev ALM_PLAN_STEP_HI : Nat := 0x2134
abbrev ALM_PLAN_CTRL : Nat := 0x2138
abbrev ALM_BASE_TIME_LO : Nat := 0x2140
abbrev ALM_BASE_TIME_HI : Nat := 0x2144
abbrev ALM_BASE_STEP_LO : Nat := 0x2148
abbrev ALM_BASE_STEP_HI : Nat := 0x214C
abbrev ALM_ELECT : Nat := 0x2150
abbrev ALM_MASTER : Nat := 0x2154
abbrev ALM_MASTER_SERIAL_LO : Nat := 0x2158
abbrev ALM_MASTER_SERIAL_HI : Nat := 0x215C
abbrev ALM_OFFSET : Nat := 0x2160
abbrev ALM_SYNC_TOD_LO : Nat := 0x2168
abbrev ALM_SYNC_TOD_HI : Nat := 0x216C
abbrev ALM_SYNC_CFG : Nat := 0x2170
abbrev ALM_SYNC_STAT : Nat := 0x2174
abbrev ALM_OVERRUN : Nat := 0x2178
abbrev ALM_CARRY : Nat := 0x217C
abbrev ALM_CUR_CADENCE : Nat := 0x2180
abbrev ALM_CUR_BW_LEN : Nat := 0x2184
abbrev ALM_CUR_EXCH : Nat := 0x2188
abbrev ALM_CUR_SETTLE : Nat := 0x218C
abbrev ALM_LNK_ASYM : Nat := 0x2200
abbrev ALM_LNK_DELAY : Nat := 0x2300

/-! ## SEC -/
abbrev SEC_CFG : Nat := 0x3100
abbrev SEC_STAT : Nat := 0x3104
abbrev SEC_FW_STAT : Nat := 0x3108
abbrev SEC_SVN : Nat := 0x310C
abbrev SEC_MIN_SVN : Nat := 0x3110
abbrev SEC_PEER_MIN_SVN : Nat := 0x3114
abbrev SEC_CERT_ADDR_LO : Nat := 0x3118
abbrev SEC_CERT_ADDR_HI : Nat := 0x311C
abbrev SEC_ATT_ADDR_LO : Nat := 0x3120
abbrev SEC_ATT_ADDR_HI : Nat := 0x3124
abbrev SEC_ATT_CTRL : Nat := 0x3128
abbrev SEC_ATT_STAT : Nat := 0x312C
abbrev SEC_FUSE_ADDR_LO : Nat := 0x3130
abbrev SEC_FUSE_ADDR_HI : Nat := 0x3134
abbrev SEC_FUSE_CTRL : Nat := 0x3138
abbrev SEC_FUSE_STAT : Nat := 0x313C
abbrev SEC_ATT_NONCE : Nat := 0x3140
abbrev SEC_SEAL_ADDR_LO : Nat := 0x3160
abbrev SEC_SEAL_ADDR_HI : Nat := 0x3164
abbrev SEC_SEAL_RCPT_LO : Nat := 0x3168
abbrev SEC_SEAL_RCPT_HI : Nat := 0x316C
abbrev SEC_SEAL_CTRL : Nat := 0x3170
abbrev SEC_SEAL_STAT : Nat := 0x3174
abbrev SEC_BUNDLE_STAT : Nat := 0x3178
abbrev SEC_BUNDLE_REFUSED : Nat := 0x317C
abbrev SEC_MOD_POLICY : Nat := 0x3180
abbrev SEC_MOD_TENANT : Nat := 0x3184
abbrev SEC_HOST_RIGHTS : Nat := 0x3188
abbrev SEC_TAG_FAIL : Nat := 0x318C
abbrev SEC_NO_KEY : Nat := 0x3190
abbrev SEC_LINK_AUTH_FAIL : Nat := 0x3194
abbrev SEC_PAIR_FAIL : Nat := 0x3198
abbrev SEC_PAIR_KEYS : Nat := 0x319C
abbrev SEC_CRED_REFUSED : Nat := 0x31A0
abbrev SEC_NMP_SESSIONS : Nat := 0x31A4
abbrev SEC_NMP_REFUSED : Nat := 0x31A8
abbrev SEC_PART_POLICY : Nat := 0x31C0
abbrev SEC_PRIN_CFG : Nat := 0x31E0
abbrev SEC_FW_ALLOW : Nat := 0x3200
abbrev SEC_PRIN_DIGEST : Nat := 0x3400
abbrev SEC_SIGNER : Nat := 0x3600
abbrev SEC_SIGNER_VALID : Nat := 0x3800
abbrev SEC_FW_ALLOW_VALID : Nat := 0x3804

/-! ## CXL -/
abbrev CXL_CFG : Nat := 0x4100
abbrev CXL_STAT : Nat := 0x4104
abbrev CXL_CFG_ADDR_LO : Nat := 0x4108
abbrev CXL_CFG_ADDR_HI : Nat := 0x410C
abbrev CXL_CFG_CTRL : Nat := 0x4110
abbrev CXL_CFG_STAT : Nat := 0x4114
abbrev CXL_EMIT_STALL : Nat := 0x4118
abbrev CXL_SUBMITS : Nat := 0x411C
abbrev CXL_WAITING : Nat := 0x4120
abbrev CXL_STAGE_USED : Nat := 0x4124
abbrev CXL_EMIT_LO : Nat := 0x4128
abbrev CXL_EMIT_HI : Nat := 0x412C
abbrev CXL_BACKLOG : Nat := 0x4130
abbrev CXL_EMIT_DUP : Nat := 0x4134
abbrev CXL_EMIT_ORPHAN : Nat := 0x4138
abbrev CXL_ABANDONED : Nat := 0x413C
abbrev CXL_UNMAPPED : Nat := 0x4140
abbrev CXL_DAMAGED_RD : Nat := 0x4144
abbrev CXL_BISNP_LO : Nat := 0x4148
abbrev CXL_BISNP_HI : Nat := 0x414C
abbrev CXL_SF_USED : Nat := 0x4150
abbrev CXL_ERR_HPA_LO : Nat := 0x4158
abbrev CXL_ERR_HPA_HI : Nat := 0x415C
abbrev CXL_RING_SEL : Nat := 0x4160
abbrev CXL_RING_STAT : Nat := 0x4164
abbrev CXL_SQ_TAIL : Nat := 0x4400
abbrev CXL_CQ_HEAD : Nat := 0x4404
abbrev CXL_EMIT_HEAD : Nat := 0x4800

/-! ## XPT -/
abbrev XPT_CFG : Nat := 0x5100
abbrev XPT_SELF : Nat := 0x5104
abbrev XPT_CTX_BASE_LO : Nat := 0x5108
abbrev XPT_CTX_BASE_HI : Nat := 0x510C
abbrev XPT_CTX_CACHED : Nat := 0x5110
abbrev XPT_CTX_MISS : Nat := 0x5114
abbrev XPT_MISSBUF_USED : Nat := 0x5118
abbrev XPT_MISSBUF_DROP : Nat := 0x511C
abbrev XPT_RETRY : Nat := 0x5120
abbrev XPT_PEER_LOST : Nat := 0x5124
abbrev XPT_LOST_DEVICE : Nat := 0x5128
abbrev XPT_DUP : Nat := 0x512C
abbrev XPT_OUT_WINDOW : Nat := 0x5130
abbrev XPT_NAK_TX : Nat := 0x5134
abbrev XPT_NAK_RX : Nat := 0x5138
abbrev XPT_STALE : Nat := 0x513C
abbrev XPT_REASM_OPEN : Nat := 0x5140
abbrev XPT_REASM_DROP : Nat := 0x5144
abbrev XPT_REASM_BAD : Nat := 0x5148
abbrev XPT_FWD_FRAMES : Nat := 0x514C
abbrev XPT_FWD_DROP : Nat := 0x5150
abbrev XPT_SVC_TC : Nat := 0x5154
abbrev XPT_ROUTE_IDX : Nat := 0x5158
abbrev XPT_ROUTE_DATA : Nat := 0x515C
abbrev XPT_MAP_ADDR_LO : Nat := 0x5160
abbrev XPT_MAP_ADDR_HI : Nat := 0x5164
abbrev XPT_MAP_CTRL : Nat := 0x5168
abbrev XPT_MAP_STAT : Nat := 0x516C
abbrev XPT_MAP_SEL : Nat := 0x5170
abbrev XPT_MAP_EPOCH : Nat := 0x5174
abbrev XPT_MAP_PEND : Nat := 0x5178
abbrev XPT_MAP_LATE : Nat := 0x517C
abbrev XPT_WIN_ADDR_LO : Nat := 0x5180
abbrev XPT_WIN_ADDR_HI : Nat := 0x5184
abbrev XPT_WIN_CTRL : Nat := 0x5188
abbrev XPT_WIN_STAT : Nat := 0x518C
abbrev XPT_WIN_REFUSED : Nat := 0x5190
abbrev XPT_CTX_CTRL : Nat := 0x5194
abbrev XPT_RTX_USED : Nat := 0x5198

/-! ## SMV -/
abbrev SMV_CFG : Nat := 0x6100
abbrev SMV_CUTOFF : Nat := 0x6104
abbrev SMV_DECIDE_WAIT : Nat := 0x6108
abbrev SMV_CTX_USED : Nat := 0x610C
abbrev SMV_OPENED : Nat := 0x6110
abbrev SMV_COMMITTED : Nat := 0x6114
abbrev SMV_ABORTED : Nat := 0x6118
abbrev SMV_REFUSED : Nat := 0x611C
abbrev SMV_INDOUBT : Nat := 0x6120
abbrev SMV_REBUILDS : Nat := 0x6124
abbrev SMV_BYTES_OUT_LO : Nat := 0x6128
abbrev SMV_BYTES_OUT_HI : Nat := 0x612C
abbrev SMV_BYTES_IN_LO : Nat := 0x6130
abbrev SMV_BYTES_IN_HI : Nat := 0x6134
abbrev SMV_LAST_ERR : Nat := 0x6138
abbrev SMV_LAST_ERR_RID_LO : Nat := 0x613C
abbrev SMV_LAST_ERR_RID_HI : Nat := 0x6140
abbrev SMV_EMIT_BASE_LO : Nat := 0x6148
abbrev SMV_EMIT_BASE_HI : Nat := 0x614C
abbrev SMV_ORD_RID_LO : Nat := 0x6150
abbrev SMV_ORD_RID_HI : Nat := 0x6154
abbrev SMV_ORD_DST : Nat := 0x6158
abbrev SMV_ORD_CTRL : Nat := 0x615C
abbrev SMV_ORD_STAT : Nat := 0x6160
abbrev SMV_RBLD_CAND : Nat := 0x6180

/-! ## RTB -/
abbrev RTB_CFG : Nat := 0x7100
abbrev RTB_SERIAL : Nat := 0x7104
abbrev RTB_BASE_LO : Nat := 0x7108
abbrev RTB_BASE_HI : Nat := 0x710C
abbrev RTB_LOC_BASE_LO : Nat := 0x7110
abbrev RTB_LOC_BASE_HI : Nat := 0x7114
abbrev RTB_JRN_BASE_LO : Nat := 0x7118
abbrev RTB_JRN_BASE_HI : Nat := 0x711C
abbrev RTB_JRN_SIZE : Nat := 0x7120
abbrev RTB_JRN_FREE : Nat := 0x7124
abbrev RTB_CACHE_HIT : Nat := 0x7128
abbrev RTB_CACHE_MISS : Nat := 0x712C
abbrev RTB_ADMIT_REFUSED : Nat := 0x7130
abbrev RTB_JRN_STALL : Nat := 0x7134
abbrev RTB_PIN_REFUSED : Nat := 0x713C
abbrev RTB_PEEK_IDX : Nat := 0x7138
abbrev RTB_RANGE_PEND : Nat := 0x7140
abbrev RTB_RANGE_CUR : Nat := 0x7160
abbrev RTB_JRN_CAND_LO : Nat := 0x7180
abbrev RTB_JRN_CAND_HI : Nat := 0x7184
abbrev RTB_STATE_CNT : Nat := 0x7200
abbrev RTB_PEEK_DATA : Nat := 0x7400

/-! ## PFX -/
abbrev PFX_CFG : Nat := 0x8100
abbrev PFX_TBL_BASE_LO : Nat := 0x8108
abbrev PFX_TBL_BASE_HI : Nat := 0x810C
abbrev PFX_TBL_SETS : Nat := 0x8110
abbrev PFX_ENTRIES_USED : Nat := 0x8114
abbrev PFX_LOOKUPS : Nat := 0x8118
abbrev PFX_BLOCKS_MATCHED : Nat := 0x811C
abbrev PFX_BLOCKS_MISSED : Nat := 0x8120
abbrev PFX_COLLIDE : Nat := 0x8124
abbrev PFX_LOOKUP_FAIL : Nat := 0x8128
abbrev PFX_EVICT : Nat := 0x812C
abbrev PFX_REFUSED : Nat := 0x8130
abbrev PFX_PUB_DUP : Nat := 0x8134
abbrev PFX_LEASES : Nat := 0x8138
abbrev PFX_SHARD : Nat := 0x8140
abbrev PFX_PART_CFG : Nat := 0x8180
abbrev PFX_QUOTA : Nat := 0x81A0
abbrev PFX_PAGES_USED : Nat := 0x81C0
abbrev PFX_LOW_WATER : Nat := 0x81E0
abbrev PFX_PIN_HASH : Nat := 0x8200
abbrev PFX_PIN_CTRL : Nat := 0x8220
abbrev PFX_PIN_STAT : Nat := 0x8224

/-! ## SCH -/
abbrev SCH_CFG : Nat := 0x9100
abbrev SCH_SLICE_GUARD : Nat := 0x9104
abbrev SCH_PROGS : Nat := 0x9108
abbrev SCH_LOAD_ADDR_LO : Nat := 0x9110
abbrev SCH_LOAD_ADDR_HI : Nat := 0x9114
abbrev SCH_LOAD_CTRL : Nat := 0x9118
abbrev SCH_LOAD_STAT : Nat := 0x911C
abbrev SCH_REG_ADDR_LO : Nat := 0x9120
abbrev SCH_REG_ADDR_HI : Nat := 0x9124
abbrev SCH_REG_CTRL : Nat := 0x9128
abbrev SCH_REG_STAT : Nat := 0x912C
abbrev SCH_RES_ADDR_LO : Nat := 0x9130
abbrev SCH_RES_ADDR_HI : Nat := 0x9134
abbrev SCH_RES_CTRL : Nat := 0x9138
abbrev SCH_RES_STAT : Nat := 0x913C
abbrev SCH_GANG_BASE_LO : Nat := 0x9140
abbrev SCH_GANG_BASE_HI : Nat := 0x9144
abbrev SCH_DEST_BASE_LO : Nat := 0x9148
abbrev SCH_DEST_BASE_HI : Nat := 0x914C
abbrev SCH_ACCT_BASE_LO : Nat := 0x9150
abbrev SCH_ACCT_BASE_HI : Nat := 0x9154
abbrev SCH_ACCT_IDX : Nat := 0x9158
abbrev SCH_ACCT_TENANT : Nat := 0x915C
abbrev SCH_ACCT_CTRL : Nat := 0x9160
abbrev SCH_ACCT_MISS : Nat := 0x9164
abbrev SCH_DLC : Nat := 0x9180
abbrev SCH_PART_CFG : Nat := 0x91C0
abbrev SCH_RES_QUOTA : Nat := 0x91E0
abbrev SCH_CUR_PROG_LO : Nat := 0x9200
abbrev SCH_CUR_PROG_HI : Nat := 0x9204
abbrev SCH_BOUND : Nat := 0x9240
abbrev SCH_VOID : Nat := 0x9260
abbrev SCH_SEQ_FAULT : Nat := 0x9264
abbrev SCH_OVERRUN : Nat := 0x9268
abbrev SCH_GUARD_BREACH : Nat := 0x926C
abbrev SCH_LATE : Nat := 0x9270
abbrev SCH_FALLBACKS : Nat := 0x9274
abbrev SCH_FB_UNAVAIL : Nat := 0x9278
abbrev SCH_PARKS : Nat := 0x927C
abbrev SCH_RESUMES : Nat := 0x9280
abbrev SCH_BID_MISS : Nat := 0x9284
abbrev SCH_UNFIT : Nat := 0x9288
abbrev SCH_ARB_MAXWAIT : Nat := 0x928C
abbrev SCH_NOFIT : Nat := 0x9290
abbrev SCH_GANG_MODEL : Nat := 0x92A0
abbrev SCH_SLICE_CTRL : Nat := 0x9300
abbrev SCH_SLICE_STAT : Nat := 0x9304
abbrev SCH_ACCT_DATA : Nat := 0x9400
abbrev SCH_SLICE_LO : Nat := 0x9800
abbrev SCH_SLICE_HI : Nat := 0x9804

/-! ## FLT -/
abbrev FLT_CFG : Nat := 0xA100
abbrev FLT_STAT : Nat := 0xA104
abbrev FLT_PEER_TIMEOUT : Nat := 0xA108
abbrev FLT_PRESENCE_INT : Nat := 0xA10C
abbrev FLT_WATCHED : Nat := 0xA110
abbrev FLT_PEERS_LOST : Nat := 0xA114
abbrev FLT_RESTARTS : Nat := 0xA118
abbrev FLT_LOG_COUNT : Nat := 0xA11C
abbrev FLT_REPAIR_CTRL : Nat := 0xA120
abbrev FLT_REPAIR_STAT : Nat := 0xA124
abbrev FLT_CLASS_CNT : Nat := 0xA134
abbrev FLT_LOG : Nat := 0xA400

/-! ## VGL -/
abbrev VGL_CFG : Nat := 0xB100
abbrev VGL_CTRL : Nat := 0xB104
abbrev VGL_STAT : Nat := 0xB108
abbrev VGL_TIME_LO : Nat := 0xB10C
abbrev VGL_TIME_HI : Nat := 0xB110
abbrev VGL_LAST_TIME_LO : Nat := 0xB114
abbrev VGL_LAST_TIME_HI : Nat := 0xB118
abbrev VGL_LAST_STEP_LO : Nat := 0xB11C
abbrev VGL_LAST_STEP_HI : Nat := 0xB120
abbrev VGL_LATCHES : Nat := 0xB124
abbrev VGL_MISSED : Nat := 0xB128
abbrev VGL_FAULT_MASK : Nat := 0xB12C
abbrev VGL_AGE_PLAN : Nat := 0xB130
abbrev VGL_AGE_RX : Nat := 0xB134
abbrev VGL_AGE_MARGIN : Nat := 0xB140
abbrev VGL_AGE_PEER : Nat := 0xB150

/-! ## TIL -/
abbrev TIL_MAP : Nat := 0x100
abbrev TIL_CLK : Nat := 0x104
abbrev TIL_TEMP : Nat := 0x108
abbrev TIL_SELFTEST : Nat := 0x10C
abbrev TIL_MXE_BUSY_LO : Nat := 0x110
abbrev TIL_MXE_BUSY_HI : Nat := 0x114
abbrev TIL_MXE_SKIP_LO : Nat := 0x118
abbrev TIL_MXE_SKIP_HI : Nat := 0x11C
abbrev TIL_SPARSE_PASSES : Nat := 0x120
abbrev TIL_SPARSE_BADMETA : Nat := 0x124
abbrev TIL_CONV_SAT : Nat := 0x128
abbrev TIL_CONV_NAN : Nat := 0x12C
abbrev TIL_ROUTE_TOKENS : Nat := 0x130
abbrev TIL_ROUTE_DROP : Nat := 0x134
abbrev TIL_ROUTE_NAN : Nat := 0x138
abbrev TIL_EXP_STALL : Nat := 0x13C
abbrev TIL_T0_CORR : Nat := 0x140
abbrev TIL_T0_UNCORR : Nat := 0x144
abbrev TIL_SR_SEED_LO : Nat := 0x148
abbrev TIL_SR_SEED_HI : Nat := 0x14C
abbrev TIL_PCK_BLOCKS : Nat := 0x150
abbrev TIL_PCK_PAD : Nat := 0x154
abbrev TIL_PCK_OUT_LO : Nat := 0x158
abbrev TIL_PCK_OUT_HI : Nat := 0x15C
abbrev TIL_PCK_MODE : Nat := 0x160
abbrev TIL_EXP_BLOCKS : Nat := 0x170
abbrev TIL_EXP_DAMAGE : Nat := 0x174
abbrev TIL_EXP_LAST : Nat := 0x178
abbrev TIL_EXP_OUT_LO : Nat := 0x180
abbrev TIL_EXP_OUT_HI : Nat := 0x184

/-! ## MEM -/
abbrev MEM_CFG : Nat := 0x100
abbrev MEM_STAT : Nat := 0x104
abbrev MEM_BASE_LO : Nat := 0x108
abbrev MEM_BASE_HI : Nat := 0x10C
abbrev MEM_CORR : Nat := 0x110
abbrev MEM_UNCORR : Nat := 0x114
abbrev MEM_SCRUB_PASS : Nat := 0x118
abbrev MEM_RETIRED : Nat := 0x11C
abbrev MEM_REMAP_USED : Nat := 0x120
abbrev MEM_MIG_RATE : Nat := 0x124
abbrev MEM_HEARTBEAT_MISS : Nat := 0x128
abbrev MEM_ERR_IDX : Nat := 0x12C
abbrev MEM_ERR_COUNT : Nat := 0x130
abbrev MEM_CG_PEND : Nat := 0x140
abbrev MEM_CG_CUR : Nat := 0x160
abbrev MEM_ERR_DATA : Nat := 0x180
abbrev MEM_HB_RETIRED : Nat := 0x200
abbrev MEM_DESC_ADDR_LO : Nat := 0x400
abbrev MEM_DESC_ADDR_HI : Nat := 0x404
abbrev MEM_DESC_CTRL : Nat := 0x408
abbrev MEM_DESC_STAT : Nat := 0x40C
abbrev MEM_OBJECTS : Nat := 0x410
abbrev MEM_MIG_DIRTY : Nat := 0x414
abbrev MEM_MIG_STALL : Nat := 0x418
abbrev MEM_MIGRATING : Nat := 0x41C

/-! ## SDG -/
abbrev SDG_CFG : Nat := 0x100
abbrev SDG_SEG_LIMIT : Nat := 0x104
abbrev SDG_REF_STAT : Nat := 0x108
abbrev SDG_REF_YIELDS : Nat := 0x10C
abbrev SDG_REF_FORCED : Nat := 0x110
abbrev SDG_ATTEND_CUTOFF : Nat := 0x114
abbrev SDG_OPND_FREE : Nat := 0x118
abbrev SDG_SLOTS_FREE : Nat := 0x11C
abbrev SDG_ALLOC_FAIL : Nat := 0x120
abbrev SDG_SPILL : Nat := 0x124
abbrev SDG_SEG_OVER : Nat := 0x128
abbrev SDG_RMW : Nat := 0x12C
abbrev SDG_DAMAGED : Nat := 0x130
abbrev SDG_BUSY_LO : Nat := 0x138
abbrev SDG_BUSY_HI : Nat := 0x13C
abbrev SDG_BLK_SCORED_LO : Nat := 0x140
abbrev SDG_BLK_SCORED_HI : Nat := 0x144
abbrev SDG_BLK_ATTENDED_LO : Nat := 0x148
abbrev SDG_BLK_ATTENDED_HI : Nat := 0x14C
abbrev SDG_INLET_CNT : Nat := 0x180
abbrev SDG_DIE_FREE : Nat := 0x200

/-! ## LNK -/
abbrev LNK_CFG : Nat := 0x100
abbrev LNK_CTRL : Nat := 0x104
abbrev LNK_STAT : Nat := 0x108
abbrev LNK_PEER : Nat := 0x10C
abbrev LNK_PEER_SERIAL_LO : Nat := 0x110
abbrev LNK_PEER_SERIAL_HI : Nat := 0x114
abbrev LNK_CAPS : Nat := 0x118
abbrev LNK_FEC_CORR_LO : Nat := 0x11C
abbrev LNK_FEC_CORR_HI : Nat := 0x120
abbrev LNK_FEC_UNCORR : Nat := 0x124
abbrev LNK_CRC_DROP : Nat := 0x128
abbrev LNK_FRAME_DROP : Nat := 0x12C
abbrev LNK_FRAME_GAP : Nat := 0x130
abbrev LNK_TRAIN_CNT : Nat := 0x134
abbrev LNK_TRAIN_FAIL : Nat := 0x138
abbrev LNK_LANE_DROPS : Nat := 0x13C
abbrev LNK_FRAMES_TX_LO : Nat := 0x140
abbrev LNK_FRAMES_TX_HI : Nat := 0x144
abbrev LNK_FRAMES_RX_LO : Nat := 0x148
abbrev LNK_FRAMES_RX_HI : Nat := 0x14C
abbrev LNK_BYTES_TX_LO : Nat := 0x150
abbrev LNK_BYTES_TX_HI : Nat := 0x154
abbrev LNK_BYTES_RX_LO : Nat := 0x158
abbrev LNK_BYTES_RX_HI : Nat := 0x15C
abbrev LNK_ADMIT_STEP_LO : Nat := 0x160
abbrev LNK_ADMIT_STEP_HI : Nat := 0x164
abbrev LNK_LANE : Nat := 0x170

/-! ## OPT -/
abbrev OPT_CFG : Nat := 0x100
abbrev OPT_STAT : Nat := 0x104
abbrev OPT_TX_PWR : Nat := 0x200
abbrev OPT_RX_PWR : Nat := 0x240
abbrev OPT_BIAS : Nat := 0x280

/-! ## CAL -/
abbrev CAL_CFG : Nat := 0x100
abbrev CAL_CYCLE : Nat := 0x104
abbrev CAL_GUARD : Nat := 0x108
abbrev CAL_CTRL : Nat := 0x10C
abbrev CAL_STAT : Nat := 0x110
abbrev CAL_CROSS : Nat := 0x114
abbrev CAL_SWITCH_STEP_LO : Nat := 0x118
abbrev CAL_SWITCH_STEP_HI : Nat := 0x11C
abbrev CAL_PEND_LO : Nat := 0x400
abbrev CAL_PEND_HI : Nat := 0x404
abbrev CAL_CUR_LO : Nat := 0x800
abbrev CAL_CUR_HI : Nat := 0x804

/-! ## SHP -/
abbrev SHP_CFG : Nat := 0x100
abbrev SHP_VTIME_LO : Nat := 0x104
abbrev SHP_VTIME_HI : Nat := 0x108
abbrev SHP_FWD_FULL : Nat := 0x10C
abbrev SHP_BUF_USED : Nat := 0x110
abbrev SHP_QMAP : Nat := 0x120
abbrev SHP_SMP_BASE_LO : Nat := 0x140
abbrev SHP_SMP_BASE_HI : Nat := 0x144
abbrev SHP_SMP_SIZE : Nat := 0x148
abbrev SHP_SMP_INT : Nat := 0x14C
abbrev SHP_SMP_MASK : Nat := 0x150
abbrev SHP_SMP_WIDX : Nat := 0x154
abbrev SHP_RATE : Nat := 0x200
abbrev SHP_BURST : Nat := 0x204
abbrev SHP_QCFG : Nat := 0x208
abbrev SHP_QSTAT : Nat := 0x20C
abbrev SHP_FULL : Nat := 0x400

end Reg

namespace F

abbrev BLK_ID_TYPE : Fld := ⟨Reg.BLK_ID, 7, 0⟩
abbrev BLK_ID_INSTANCE : Fld := ⟨Reg.BLK_ID, 31, 16⟩
abbrev BLK_CAP_INSTANCES : Fld := ⟨Reg.BLK_CAP, 15, 0⟩
abbrev BLK_CAP_SNAP_WORDS : Fld := ⟨Reg.BLK_CAP, 23, 16⟩
abbrev BLK_CAP_COUNTED : Fld := ⟨Reg.BLK_CAP, 24, 24⟩
abbrev BLK_CTRL_ENABLE : Fld := ⟨Reg.BLK_CTRL, 0, 0⟩
abbrev BLK_CTRL_DRAIN : Fld := ⟨Reg.BLK_CTRL, 1, 1⟩
abbrev BLK_CTRL_QUIESCE : Fld := ⟨Reg.BLK_CTRL, 2, 2⟩
abbrev BLK_CTRL_RESET : Fld := ⟨Reg.BLK_CTRL, 3, 3⟩
abbrev BLK_STAT_ENABLED : Fld := ⟨Reg.BLK_STAT, 0, 0⟩
abbrev BLK_STAT_DRAINED : Fld := ⟨Reg.BLK_STAT, 1, 1⟩
abbrev BLK_STAT_QUIESCED : Fld := ⟨Reg.BLK_STAT, 2, 2⟩
abbrev BLK_STAT_RETIRED : Fld := ⟨Reg.BLK_STAT, 3, 3⟩
abbrev WIN_CFG_N : Fld := ⟨Reg.WIN_CFG, 7, 0⟩
abbrev WIN_CFG_T : Fld := ⟨Reg.WIN_CFG, 23, 8⟩
abbrev WIN_CFG_K : Fld := ⟨Reg.WIN_CFG, 27, 24⟩
abbrev OWNER_KIND : Fld := ⟨Reg.OWNER, 1, 0⟩
abbrev OWNER_PARTITION : Fld := ⟨Reg.OWNER, 6, 4⟩
abbrev GLB_STAGE_STAGE : Fld := ⟨Reg.GLB_STAGE, 3, 0⟩
abbrev GLB_STAGE_WARM : Fld := ⟨Reg.GLB_STAGE, 4, 4⟩
abbrev GLB_FW_CTRL_GO : Fld := ⟨Reg.GLB_FW_CTRL, 0, 0⟩
abbrev GLB_FW_STAT_STATE : Fld := ⟨Reg.GLB_FW_STAT, 1, 0⟩
abbrev GLB_FW_STAT_RESULT : Fld := ⟨Reg.GLB_FW_STAT, 7, 4⟩
abbrev GLB_INT_ROUTE_HOST : Fld := ⟨Reg.GLB_INT_ROUTE, 0, 0⟩
abbrev GLB_INT_ROUTE_MGMT : Fld := ⟨Reg.GLB_INT_ROUTE, 1, 1⟩
abbrev GLB_LT_OWN_PEND_PARTITION : Fld := ⟨Reg.GLB_LT_OWN_PEND, 2, 0⟩
abbrev GLB_LT_OWN_PEND_OWNED : Fld := ⟨Reg.GLB_LT_OWN_PEND, 7, 7⟩
abbrev GLB_LT_OWN_CUR_PARTITION : Fld := ⟨Reg.GLB_LT_OWN_CUR, 2, 0⟩
abbrev GLB_LT_OWN_CUR_OWNED : Fld := ⟨Reg.GLB_LT_OWN_CUR, 7, 7⟩
abbrev PWR_STATE_LEVEL : Fld := ⟨Reg.PWR_STATE, 3, 0⟩
abbrev PWR_STATE_POWER : Fld := ⟨Reg.PWR_STATE, 5, 4⟩
abbrev PWR_STATE_CAUSE : Fld := ⟨Reg.PWR_STATE, 7, 6⟩
abbrev PWR_DIE_LEVEL : Fld := ⟨Reg.PWR_DIE, 3, 0⟩
abbrev PWR_DIE_TRIPPED : Fld := ⟨Reg.PWR_DIE, 4, 4⟩
abbrev PWR_DIE_T_TILE : Fld := ⟨Reg.PWR_DIE, 15, 8⟩
abbrev PWR_DIE_T_STACK : Fld := ⟨Reg.PWR_DIE, 23, 16⟩
abbrev ALM_STATE_PHASE : Fld := ⟨Reg.ALM_STATE, 1, 0⟩
abbrev ALM_STATE_LOCK : Fld := ⟨Reg.ALM_STATE, 3, 2⟩
abbrev ALM_STATE_CLASS : Fld := ⟨Reg.ALM_STATE, 5, 4⟩
abbrev ALM_STATE_MASTER : Fld := ⟨Reg.ALM_STATE, 6, 6⟩
abbrev ALM_STATE_UPSTREAM : Fld := ⟨Reg.ALM_STATE, 13, 8⟩
abbrev ALM_STATE_HOPS : Fld := ⟨Reg.ALM_STATE, 21, 16⟩
abbrev ALM_PLAN_CTRL_ARM : Fld := ⟨Reg.ALM_PLAN_CTRL, 0, 0⟩
abbrev ALM_PLAN_CTRL_BAD : Fld := ⟨Reg.ALM_PLAN_CTRL, 1, 1⟩
abbrev ALM_PLAN_CTRL_SOURCE : Fld := ⟨Reg.ALM_PLAN_CTRL, 2, 2⟩
abbrev ALM_ELECT_PRIORITY : Fld := ⟨Reg.ALM_ELECT, 7, 0⟩
abbrev ALM_ELECT_ELIGIBLE : Fld := ⟨Reg.ALM_ELECT, 8, 8⟩
abbrev ALM_MASTER_DEVICE : Fld := ⟨Reg.ALM_MASTER, 15, 0⟩
abbrev ALM_MASTER_HOPS : Fld := ⟨Reg.ALM_MASTER, 21, 16⟩
abbrev ALM_MASTER_CLASS : Fld := ⟨Reg.ALM_MASTER, 23, 22⟩
abbrev ALM_MASTER_PRIORITY : Fld := ⟨Reg.ALM_MASTER, 31, 24⟩
abbrev ALM_SYNC_CFG_EN : Fld := ⟨Reg.ALM_SYNC_CFG, 0, 0⟩
abbrev ALM_SYNC_CFG_DELAY : Fld := ⟨Reg.ALM_SYNC_CFG, 27, 16⟩
abbrev ALM_SYNC_STAT_PRESENT : Fld := ⟨Reg.ALM_SYNC_STAT, 0, 0⟩
abbrev ALM_SYNC_STAT_GOOD : Fld := ⟨Reg.ALM_SYNC_STAT, 1, 1⟩
abbrev ALM_SYNC_STAT_TOD_PENDING : Fld := ⟨Reg.ALM_SYNC_STAT, 2, 2⟩
abbrev ALM_SYNC_STAT_BAD_CNT : Fld := ⟨Reg.ALM_SYNC_STAT, 15, 8⟩
abbrev ALM_SYNC_STAT_DIFF : Fld := ⟨Reg.ALM_SYNC_STAT, 31, 16⟩
abbrev SEC_CFG_FW_ALLOW_EN : Fld := ⟨Reg.SEC_CFG, 0, 0⟩
abbrev SEC_CFG_REKEY_STEPS : Fld := ⟨Reg.SEC_CFG, 31, 8⟩
abbrev SEC_STAT_STATE : Fld := ⟨Reg.SEC_STAT, 2, 0⟩
abbrev SEC_STAT_CERT : Fld := ⟨Reg.SEC_STAT, 4, 4⟩
abbrev SEC_STAT_OWNER_FUSED : Fld := ⟨Reg.SEC_STAT, 5, 5⟩
abbrev SEC_STAT_MGMT_FUSED : Fld := ⟨Reg.SEC_STAT, 6, 6⟩
abbrev SEC_ATT_CTRL_GO : Fld := ⟨Reg.SEC_ATT_CTRL, 0, 0⟩
abbrev SEC_ATT_STAT_RESULT : Fld := ⟨Reg.SEC_ATT_STAT, 3, 0⟩
abbrev SEC_FUSE_CTRL_OP : Fld := ⟨Reg.SEC_FUSE_CTRL, 2, 0⟩
abbrev SEC_FUSE_STAT_RESULT : Fld := ⟨Reg.SEC_FUSE_STAT, 3, 0⟩
abbrev SEC_SEAL_CTRL_GO : Fld := ⟨Reg.SEC_SEAL_CTRL, 0, 0⟩
abbrev SEC_SEAL_CTRL_PARTITION : Fld := ⟨Reg.SEC_SEAL_CTRL, 6, 4⟩
abbrev SEC_SEAL_CTRL_OBJECT : Fld := ⟨Reg.SEC_SEAL_CTRL, 27, 16⟩
abbrev SEC_SEAL_STAT_RESULT : Fld := ⟨Reg.SEC_SEAL_STAT, 3, 0⟩
abbrev SEC_BUNDLE_STAT_REASON : Fld := ⟨Reg.SEC_BUNDLE_STAT, 3, 0⟩
abbrev SEC_BUNDLE_STAT_PARTITION : Fld := ⟨Reg.SEC_BUNDLE_STAT, 6, 4⟩
abbrev SEC_PART_POLICY_BUCKET : Fld := ⟨Reg.SEC_PART_POLICY, 1, 0⟩
abbrev SEC_PART_POLICY_FLOOR : Fld := ⟨Reg.SEC_PART_POLICY, 5, 4⟩
abbrev SEC_PRIN_CFG_ROLE : Fld := ⟨Reg.SEC_PRIN_CFG, 1, 0⟩
abbrev CXL_CFG_EN : Fld := ⟨Reg.CXL_CFG, 0, 0⟩
abbrev CXL_STAT_LINK_UP : Fld := ⟨Reg.CXL_STAT, 0, 0⟩
abbrev CXL_STAT_WIDTH : Fld := ⟨Reg.CXL_STAT, 2, 1⟩
abbrev CXL_STAT_IDE : Fld := ⟨Reg.CXL_STAT, 3, 3⟩
abbrev CXL_STAT_VIRAL_OUT : Fld := ⟨Reg.CXL_STAT, 4, 4⟩
abbrev CXL_STAT_VIRAL_IN : Fld := ⟨Reg.CXL_STAT, 5, 5⟩
abbrev CXL_STAT_HOST_LOST : Fld := ⟨Reg.CXL_STAT, 6, 6⟩
abbrev CXL_CFG_CTRL_OP : Fld := ⟨Reg.CXL_CFG_CTRL, 2, 0⟩
abbrev CXL_CFG_CTRL_INDEX : Fld := ⟨Reg.CXL_CFG_CTRL, 24, 16⟩
abbrev CXL_CFG_STAT_RESULT : Fld := ⟨Reg.CXL_CFG_STAT, 3, 0⟩
abbrev CXL_RING_STAT_STATE : Fld := ⟨Reg.CXL_RING_STAT, 1, 0⟩
abbrev CXL_RING_STAT_LIVE : Fld := ⟨Reg.CXL_RING_STAT, 25, 8⟩
abbrev CXL_SQ_TAIL_TAIL : Fld := ⟨Reg.CXL_SQ_TAIL, 11, 0⟩
abbrev CXL_CQ_HEAD_HEAD : Fld := ⟨Reg.CXL_CQ_HEAD, 11, 0⟩
abbrev CXL_EMIT_HEAD_HEAD : Fld := ⟨Reg.CXL_EMIT_HEAD, 15, 0⟩
abbrev XPT_CFG_EN : Fld := ⟨Reg.XPT_CFG, 0, 0⟩
abbrev XPT_CFG_HOP_LIMIT : Fld := ⟨Reg.XPT_CFG, 11, 8⟩
abbrev XPT_SELF_DEVICE : Fld := ⟨Reg.XPT_SELF, 15, 0⟩
abbrev XPT_MAP_CTRL_OP : Fld := ⟨Reg.XPT_MAP_CTRL, 1, 0⟩
abbrev XPT_MAP_STAT_RESULT : Fld := ⟨Reg.XPT_MAP_STAT, 3, 0⟩
abbrev XPT_MAP_STAT_STATE : Fld := ⟨Reg.XPT_MAP_STAT, 5, 4⟩
abbrev XPT_MAP_STAT_VOTES : Fld := ⟨Reg.XPT_MAP_STAT, 31, 16⟩
abbrev XPT_WIN_CTRL_OP : Fld := ⟨Reg.XPT_WIN_CTRL, 2, 0⟩
abbrev XPT_WIN_CTRL_ID : Fld := ⟨Reg.XPT_WIN_CTRL, 31, 16⟩
abbrev XPT_WIN_STAT_RESULT : Fld := ⟨Reg.XPT_WIN_STAT, 3, 0⟩
abbrev XPT_WIN_STAT_EXPORT_ID : Fld := ⟨Reg.XPT_WIN_STAT, 15, 4⟩
abbrev XPT_WIN_STAT_GEN : Fld := ⟨Reg.XPT_WIN_STAT, 31, 16⟩
abbrev XPT_CTX_CTRL_PEER : Fld := ⟨Reg.XPT_CTX_CTRL, 15, 0⟩
abbrev XPT_CTX_CTRL_FLUSH : Fld := ⟨Reg.XPT_CTX_CTRL, 16, 16⟩
abbrev SMV_CFG_EN : Fld := ⟨Reg.SMV_CFG, 0, 0⟩
abbrev SMV_LAST_ERR_STATUS : Fld := ⟨Reg.SMV_LAST_ERR, 7, 0⟩
abbrev SMV_LAST_ERR_KIND : Fld := ⟨Reg.SMV_LAST_ERR, 10, 8⟩
abbrev SMV_LAST_ERR_TYPE : Fld := ⟨Reg.SMV_LAST_ERR, 15, 12⟩
abbrev SMV_LAST_ERR_DEVICE : Fld := ⟨Reg.SMV_LAST_ERR, 31, 16⟩
abbrev SMV_ORD_DST_DEVICE : Fld := ⟨Reg.SMV_ORD_DST, 15, 0⟩
abbrev SMV_ORD_DST_PARTITION : Fld := ⟨Reg.SMV_ORD_DST, 18, 16⟩
abbrev SMV_ORD_CTRL_ISSUE : Fld := ⟨Reg.SMV_ORD_CTRL, 0, 0⟩
abbrev SMV_ORD_STAT_RESULT : Fld := ⟨Reg.SMV_ORD_STAT, 7, 0⟩
abbrev SMV_ORD_STAT_QUEUED : Fld := ⟨Reg.SMV_ORD_STAT, 23, 16⟩
abbrev SMV_RBLD_CAND_DEVICE : Fld := ⟨Reg.SMV_RBLD_CAND, 15, 0⟩
abbrev SMV_RBLD_CAND_PARTITION : Fld := ⟨Reg.SMV_RBLD_CAND, 18, 16⟩
abbrev SMV_RBLD_CAND_VALID : Fld := ⟨Reg.SMV_RBLD_CAND, 31, 31⟩
abbrev RTB_CFG_EN : Fld := ⟨Reg.RTB_CFG, 0, 0⟩
abbrev RTB_CFG_SERIAL_VALID : Fld := ⟨Reg.RTB_CFG, 1, 1⟩
abbrev RTB_CFG_JRN_HOLD : Fld := ⟨Reg.RTB_CFG, 7, 4⟩
abbrev RTB_PEEK_IDX_INDEX : Fld := ⟨Reg.RTB_PEEK_IDX, 17, 0⟩
abbrev RTB_PEEK_IDX_DENIED : Fld := ⟨Reg.RTB_PEEK_IDX, 31, 31⟩
abbrev RTB_RANGE_PEND_BASE : Fld := ⟨Reg.RTB_RANGE_PEND, 7, 0⟩
abbrev RTB_RANGE_PEND_COUNT : Fld := ⟨Reg.RTB_RANGE_PEND, 16, 8⟩
abbrev RTB_RANGE_CUR_BASE : Fld := ⟨Reg.RTB_RANGE_CUR, 7, 0⟩
abbrev RTB_RANGE_CUR_COUNT : Fld := ⟨Reg.RTB_RANGE_CUR, 16, 8⟩
abbrev PFX_CFG_EN : Fld := ⟨Reg.PFX_CFG, 0, 0⟩
abbrev PFX_CFG_SHARDS : Fld := ⟨Reg.PFX_CFG, 8, 4⟩
abbrev PFX_SHARD_DEVICE : Fld := ⟨Reg.PFX_SHARD, 15, 0⟩
abbrev PFX_SHARD_PARTITION : Fld := ⟨Reg.PFX_SHARD, 18, 16⟩
abbrev PFX_SHARD_VALID : Fld := ⟨Reg.PFX_SHARD, 31, 31⟩
abbrev PFX_PART_CFG_LOOKUP : Fld := ⟨Reg.PFX_PART_CFG, 0, 0⟩
abbrev PFX_PART_CFG_PUBLISH : Fld := ⟨Reg.PFX_PART_CFG, 1, 1⟩
abbrev PFX_PART_CFG_PUBLISH_GEN : Fld := ⟨Reg.PFX_PART_CFG, 2, 2⟩
abbrev PFX_PART_CFG_SHARD : Fld := ⟨Reg.PFX_PART_CFG, 3, 3⟩
abbrev PFX_PART_CFG_PUB_MAX : Fld := ⟨Reg.PFX_PART_CFG, 31, 16⟩
abbrev PFX_PIN_CTRL_OP : Fld := ⟨Reg.PFX_PIN_CTRL, 1, 0⟩
abbrev PFX_PIN_CTRL_PARTITION : Fld := ⟨Reg.PFX_PIN_CTRL, 6, 4⟩
abbrev PFX_PIN_STAT_RESULT : Fld := ⟨Reg.PFX_PIN_STAT, 1, 0⟩
abbrev SCH_CFG_EN : Fld := ⟨Reg.SCH_CFG, 0, 0⟩
abbrev SCH_CFG_AGE : Fld := ⟨Reg.SCH_CFG, 15, 8⟩
abbrev SCH_CFG_ROOM_STEPS : Fld := ⟨Reg.SCH_CFG, 23, 16⟩
abbrev SCH_CFG_FAULT_LIMIT : Fld := ⟨Reg.SCH_CFG, 27, 24⟩
abbrev SCH_LOAD_CTRL_OP : Fld := ⟨Reg.SCH_LOAD_CTRL, 1, 0⟩
abbrev SCH_LOAD_CTRL_INDEX : Fld := ⟨Reg.SCH_LOAD_CTRL, 18, 10⟩
abbrev SCH_LOAD_STAT_RESULT : Fld := ⟨Reg.SCH_LOAD_STAT, 3, 0⟩
abbrev SCH_LOAD_STAT_INDEX : Fld := ⟨Reg.SCH_LOAD_STAT, 16, 8⟩
abbrev SCH_REG_CTRL_OP : Fld := ⟨Reg.SCH_REG_CTRL, 1, 0⟩
abbrev SCH_REG_CTRL_ADAPTER : Fld := ⟨Reg.SCH_REG_CTRL, 2, 2⟩
abbrev SCH_REG_CTRL_ID : Fld := ⟨Reg.SCH_REG_CTRL, 31, 16⟩
abbrev SCH_REG_STAT_RESULT : Fld := ⟨Reg.SCH_REG_STAT, 3, 0⟩
abbrev SCH_RES_CTRL_OP : Fld := ⟨Reg.SCH_RES_CTRL, 2, 0⟩
abbrev SCH_RES_CTRL_PARTITION : Fld := ⟨Reg.SCH_RES_CTRL, 6, 4⟩
abbrev SCH_RES_CTRL_ADAPTER : Fld := ⟨Reg.SCH_RES_CTRL, 8, 8⟩
abbrev SCH_RES_CTRL_ID : Fld := ⟨Reg.SCH_RES_CTRL, 31, 16⟩
abbrev SCH_RES_STAT_RESULT : Fld := ⟨Reg.SCH_RES_STAT, 3, 0⟩
abbrev SCH_RES_STAT_STATE : Fld := ⟨Reg.SCH_RES_STAT, 5, 4⟩
abbrev SCH_ACCT_CTRL_OP : Fld := ⟨Reg.SCH_ACCT_CTRL, 1, 0⟩
abbrev SCH_ACCT_CTRL_RIDE : Fld := ⟨Reg.SCH_ACCT_CTRL, 2, 2⟩
abbrev SCH_DLC_RANK : Fld := ⟨Reg.SCH_DLC, 3, 0⟩
abbrev SCH_DLC_FB_EN : Fld := ⟨Reg.SCH_DLC, 4, 4⟩
abbrev SCH_DLC_GUARD : Fld := ⟨Reg.SCH_DLC, 31, 8⟩
abbrev SCH_PART_CFG_MEMBERS : Fld := ⟨Reg.SCH_PART_CFG, 6, 0⟩
abbrev SCH_PART_CFG_PAIR : Fld := ⟨Reg.SCH_PART_CFG, 10, 8⟩
abbrev SCH_PART_CFG_PAIR_EN : Fld := ⟨Reg.SCH_PART_CFG, 11, 11⟩
abbrev SCH_PART_CFG_PARK_AFTER : Fld := ⟨Reg.SCH_PART_CFG, 15, 12⟩
abbrev SCH_PART_CFG_FORCE : Fld := ⟨Reg.SCH_PART_CFG, 24, 16⟩
abbrev SCH_PART_CFG_FORCE_EN : Fld := ⟨Reg.SCH_PART_CFG, 25, 25⟩
abbrev SCH_SLICE_HI_LENGTH : Fld := ⟨Reg.SCH_SLICE_HI, 23, 0⟩
abbrev SCH_SLICE_HI_PARTITION : Fld := ⟨Reg.SCH_SLICE_HI, 26, 24⟩
abbrev SCH_SLICE_HI_VALID : Fld := ⟨Reg.SCH_SLICE_HI, 31, 31⟩
abbrev FLT_CFG_AUTO_SPARE : Fld := ⟨Reg.FLT_CFG, 0, 0⟩
abbrev FLT_CFG_WATCH_EN : Fld := ⟨Reg.FLT_CFG, 1, 1⟩
abbrev FLT_STAT_FATAL : Fld := ⟨Reg.FLT_STAT, 0, 0⟩
abbrev FLT_STAT_CAUSE : Fld := ⟨Reg.FLT_STAT, 7, 4⟩
abbrev FLT_REPAIR_CTRL_OP : Fld := ⟨Reg.FLT_REPAIR_CTRL, 1, 0⟩
abbrev FLT_REPAIR_CTRL_UNIT : Fld := ⟨Reg.FLT_REPAIR_CTRL, 6, 2⟩
abbrev FLT_REPAIR_CTRL_SUB : Fld := ⟨Reg.FLT_REPAIR_CTRL, 18, 7⟩
abbrev FLT_REPAIR_STAT_RESULT : Fld := ⟨Reg.FLT_REPAIR_STAT, 3, 0⟩
abbrev FLT_REPAIR_STAT_STAGE : Fld := ⟨Reg.FLT_REPAIR_STAT, 7, 4⟩
abbrev VGL_CFG_PEER_EN : Fld := ⟨Reg.VGL_CFG, 0, 0⟩
abbrev VGL_CFG_SPREAD : Fld := ⟨Reg.VGL_CFG, 1, 1⟩
abbrev VGL_CFG_HOLD : Fld := ⟨Reg.VGL_CFG, 2, 2⟩
abbrev VGL_CTRL_ARM : Fld := ⟨Reg.VGL_CTRL, 0, 0⟩
abbrev VGL_CTRL_NOW : Fld := ⟨Reg.VGL_CTRL, 1, 1⟩
abbrev VGL_CTRL_RELEASE : Fld := ⟨Reg.VGL_CTRL, 2, 2⟩
abbrev VGL_CTRL_DISARM : Fld := ⟨Reg.VGL_CTRL, 3, 3⟩
abbrev VGL_STAT_ARMED : Fld := ⟨Reg.VGL_STAT, 0, 0⟩
abbrev VGL_STAT_HELD : Fld := ⟨Reg.VGL_STAT, 1, 1⟩
abbrev VGL_STAT_SOURCE : Fld := ⟨Reg.VGL_STAT, 6, 4⟩
abbrev VGL_AGE_PLAN_PLAN : Fld := ⟨Reg.VGL_AGE_PLAN, 1, 0⟩
abbrev VGL_AGE_PLAN_WORST_DIE : Fld := ⟨Reg.VGL_AGE_PLAN, 5, 4⟩
abbrev VGL_AGE_PLAN_WORST_LINK : Fld := ⟨Reg.VGL_AGE_PLAN, 11, 6⟩
abbrev TIL_MAP_STATE : Fld := ⟨Reg.TIL_MAP, 2, 0⟩
abbrev TIL_MAP_LOGICAL : Fld := ⟨Reg.TIL_MAP, 10, 4⟩
abbrev TIL_MAP_PARTITION : Fld := ⟨Reg.TIL_MAP, 14, 12⟩
abbrev TIL_MAP_OWNED : Fld := ⟨Reg.TIL_MAP, 15, 15⟩
abbrev TIL_MAP_DIE : Fld := ⟨Reg.TIL_MAP, 17, 16⟩
abbrev TIL_SELFTEST_DONE : Fld := ⟨Reg.TIL_SELFTEST, 0, 0⟩
abbrev TIL_SELFTEST_PASS : Fld := ⟨Reg.TIL_SELFTEST, 1, 1⟩
abbrev TIL_SELFTEST_UNIT : Fld := ⟨Reg.TIL_SELFTEST, 11, 8⟩
abbrev TIL_SELFTEST_COUNT : Fld := ⟨Reg.TIL_SELFTEST, 31, 16⟩
abbrev TIL_EXP_LAST_CHECK : Fld := ⟨Reg.TIL_EXP_LAST, 3, 0⟩
abbrev TIL_EXP_LAST_MODE : Fld := ⟨Reg.TIL_EXP_LAST, 5, 4⟩
abbrev TIL_EXP_LAST_FORM : Fld := ⟨Reg.TIL_EXP_LAST, 6, 6⟩
abbrev TIL_EXP_LAST_SOURCE : Fld := ⟨Reg.TIL_EXP_LAST, 7, 7⟩
abbrev TIL_EXP_LAST_STEP : Fld := ⟨Reg.TIL_EXP_LAST, 31, 16⟩
abbrev MEM_CFG_SCRUB_EN : Fld := ⟨Reg.MEM_CFG, 0, 0⟩
abbrev MEM_CFG_LOG_CORR : Fld := ⟨Reg.MEM_CFG, 8, 8⟩
abbrev MEM_STAT_STATE : Fld := ⟨Reg.MEM_STAT, 1, 0⟩
abbrev MEM_STAT_PINS_REPAIRED : Fld := ⟨Reg.MEM_STAT, 15, 8⟩
abbrev MEM_CG_PEND_PARTITION : Fld := ⟨Reg.MEM_CG_PEND, 2, 0⟩
abbrev MEM_CG_PEND_OWNED : Fld := ⟨Reg.MEM_CG_PEND, 7, 7⟩
abbrev MEM_CG_CUR_PARTITION : Fld := ⟨Reg.MEM_CG_CUR, 2, 0⟩
abbrev MEM_CG_CUR_OWNED : Fld := ⟨Reg.MEM_CG_CUR, 7, 7⟩
abbrev MEM_DESC_CTRL_OP : Fld := ⟨Reg.MEM_DESC_CTRL, 1, 0⟩
abbrev MEM_DESC_CTRL_OBJECT : Fld := ⟨Reg.MEM_DESC_CTRL, 27, 16⟩
abbrev MEM_DESC_STAT_RESULT : Fld := ⟨Reg.MEM_DESC_STAT, 3, 0⟩
abbrev MEM_DESC_STAT_OBJECT : Fld := ⟨Reg.MEM_DESC_STAT, 27, 16⟩
abbrev SDG_CFG_EN : Fld := ⟨Reg.SDG_CFG, 0, 0⟩
abbrev SDG_CFG_REF_AHEAD : Fld := ⟨Reg.SDG_CFG, 1, 1⟩
abbrev SDG_REF_STAT_MAXC : Fld := ⟨Reg.SDG_REF_STAT, 3, 0⟩
abbrev SDG_REF_STAT_SHORT : Fld := ⟨Reg.SDG_REF_STAT, 4, 4⟩
abbrev SDG_REF_STAT_TEMP : Fld := ⟨Reg.SDG_REF_STAT, 15, 8⟩
abbrev LNK_CFG_EN : Fld := ⟨Reg.LNK_CFG, 0, 0⟩
abbrev LNK_CFG_VER_MIN : Fld := ⟨Reg.LNK_CFG, 2, 1⟩
abbrev LNK_CFG_MIN_WIDTH : Fld := ⟨Reg.LNK_CFG, 5, 4⟩
abbrev LNK_CTRL_RETRAIN : Fld := ⟨Reg.LNK_CTRL, 0, 0⟩
abbrev LNK_CTRL_RETIRE : Fld := ⟨Reg.LNK_CTRL, 1, 1⟩
abbrev LNK_CTRL_READMIT : Fld := ⟨Reg.LNK_CTRL, 2, 2⟩
abbrev LNK_STAT_STATE : Fld := ⟨Reg.LNK_STAT, 2, 0⟩
abbrev LNK_STAT_TX_MASK : Fld := ⟨Reg.LNK_STAT, 7, 4⟩
abbrev LNK_STAT_RX_MASK : Fld := ⟨Reg.LNK_STAT, 11, 8⟩
abbrev LNK_STAT_VERSION : Fld := ⟨Reg.LNK_STAT, 13, 12⟩
abbrev LNK_STAT_RATE : Fld := ⟨Reg.LNK_STAT, 14, 14⟩
abbrev LNK_STAT_ADMIT_PENDING : Fld := ⟨Reg.LNK_STAT, 15, 15⟩
abbrev LNK_STAT_RETIRE_REASON : Fld := ⟨Reg.LNK_STAT, 17, 16⟩
abbrev LNK_PEER_DEVICE : Fld := ⟨Reg.LNK_PEER, 15, 0⟩
abbrev LNK_PEER_LINK : Fld := ⟨Reg.LNK_PEER, 21, 16⟩
abbrev LNK_LANE_STATE : Fld := ⟨Reg.LNK_LANE, 2, 0⟩
abbrev LNK_LANE_RETRAIN_FAILS : Fld := ⟨Reg.LNK_LANE, 15, 8⟩
abbrev LNK_LANE_EYE : Fld := ⟨Reg.LNK_LANE, 31, 16⟩
abbrev OPT_CFG_LASER_EN : Fld := ⟨Reg.OPT_CFG, 3, 0⟩
abbrev OPT_STAT_READY : Fld := ⟨Reg.OPT_STAT, 0, 0⟩
abbrev OPT_STAT_OVERTEMP : Fld := ⟨Reg.OPT_STAT, 1, 1⟩
abbrev OPT_STAT_TEMP : Fld := ⟨Reg.OPT_STAT, 15, 8⟩
abbrev CAL_CFG_EN : Fld := ⟨Reg.CAL_CFG, 0, 0⟩
abbrev CAL_CFG_OPEN_GAPS : Fld := ⟨Reg.CAL_CFG, 1, 1⟩
abbrev CAL_CTRL_COMMIT : Fld := ⟨Reg.CAL_CTRL, 0, 0⟩
abbrev CAL_STAT_PENDING : Fld := ⟨Reg.CAL_STAT, 0, 0⟩
abbrev CAL_STAT_REFUSED : Fld := ⟨Reg.CAL_STAT, 1, 1⟩
abbrev CAL_STAT_REASON : Fld := ⟨Reg.CAL_STAT, 7, 4⟩
abbrev CAL_STAT_TRUNC : Fld := ⟨Reg.CAL_STAT, 8, 8⟩
abbrev SHP_RATE_CIR : Fld := ⟨Reg.SHP_RATE, 15, 0⟩
abbrev SHP_RATE_PIR : Fld := ⟨Reg.SHP_RATE, 31, 16⟩
abbrev SHP_BURST_CBS : Fld := ⟨Reg.SHP_BURST, 15, 0⟩
abbrev SHP_BURST_PBS : Fld := ⟨Reg.SHP_BURST, 31, 16⟩
abbrev SHP_QCFG_WEIGHT : Fld := ⟨Reg.SHP_QCFG, 7, 0⟩
abbrev SHP_QCFG_QLIMIT : Fld := ⟨Reg.SHP_QCFG, 23, 8⟩

end F

/-- The registers of a GLB page (R556). -/
def rowsGLB : List RegRow := [
  { off := 0x100, count := 4 },
  { off := 0x110 },
  { off := 0x114 },
  { off := 0x118 },
  { off := 0x11C },
  { off := 0x120, soft := 0xFFFFFFFF },
  { off := 0x124, soft := 0xFFFFFFFF },
  { off := 0x128, soft := 0xFFFFFFFF },
  { off := 0x12C },
  { off := 0x130 },
  { off := 0x134, reset := 0x3, soft := 0x3 },
  { off := 0x138, reset := 0x1, soft := 0xFF },
  { off := 0x13C, reset := 0x1 },
  { off := 0x140, count := 9 },
  { off := 0x180, count := 16, reset := 0x80808080, soft := 0x87878787 },
  { off := 0x1C0, count := 16, reset := 0x80808080 },
  { off := 0x200 },
  { off := 0x204, soft := 0xF },
  { off := 0x210, count := 4 }]

/-- The registers of a PWR page (R561). -/
def rowsPWR : List RegRow := [
  { off := 0x100, reset := 0xAF0, soft := 0xFFFFFFFF },
  { off := 0x104 },
  { off := 0x108 },
  { off := 0x10C },
  { off := 0x110 },
  { off := 0x114 },
  { off := 0x118 },
  { off := 0x11C },
  { off := 0x120 },
  { off := 0x124 },
  { off := 0x128 },
  { off := 0x140, count := 4 }]

/-- The registers of a ALM page, part 1 (R68). -/
def rowsALM1 : List RegRow := [
  { off := 0x100 },
  { off := 0x104 },
  { off := 0x108 },
  { off := 0x10C },
  { off := 0x110, reset := 0x3F20 },
  { off := 0x120, reset := 0x1E8480, soft := 0xFFFFFFFF },
  { off := 0x124, reset := 0x4E20, soft := 0xFFFFFFFF },
  { off := 0x128, reset := 0x16E360, soft := 0xFFFFFFFF },
  { off := 0x12C, reset := 0x1B7740, soft := 0xFFFFFFFF },
  { off := 0x130, soft := 0xFFFFFFFF },
  { off := 0x134, soft := 0xFFFFFFFF },
  { off := 0x138, soft := 0x1 },
  { off := 0x140 },
  { off := 0x144 },
  { off := 0x148 },
  { off := 0x14C },
  { off := 0x150, reset := 0x180, soft := 0x1FF, sticky := 0x1FF },
  { off := 0x154, reset := 0x80800000 },
  { off := 0x158 },
  { off := 0x15C }]

/-- The registers of a ALM page, part 2 (R68). -/
def rowsALM2 : List RegRow := [
  { off := 0x160 },
  { off := 0x168, soft := 0xFFFFFFFF },
  { off := 0x16C, soft := 0xFFFFFFFF },
  { off := 0x170, soft := 0xFFF0001 },
  { off := 0x174 },
  { off := 0x178 },
  { off := 0x17C },
  { off := 0x180, reset := 0x1E8480 },
  { off := 0x184, reset := 0x4E20 },
  { off := 0x188, reset := 0x16E360 },
  { off := 0x18C, reset := 0x1B7740 },
  { off := 0x200, count := 48, soft := 0xFFFFFFFF },
  { off := 0x300, count := 48 }]

/-- The registers of a ALM page. -/
def rowsALM : List RegRow := rowsALM1 ++ rowsALM2

/-- The registers of a SEC page, part 1 (R489). -/
def rowsSEC1 : List RegRow := [
  { off := 0x100, soft := 0xFFFFFF01 },
  { off := 0x104 },
  { off := 0x108 },
  { off := 0x10C },
  { off := 0x110 },
  { off := 0x114, soft := 0xFFFFFFFF },
  { off := 0x118, soft := 0xFFFFFFFF },
  { off := 0x11C, soft := 0xFFFFFFFF },
  { off := 0x120, soft := 0xFFFFFFFF },
  { off := 0x124, soft := 0xFFFFFFFF },
  { off := 0x128 },
  { off := 0x12C },
  { off := 0x130, soft := 0xFFFFFFFF },
  { off := 0x134, soft := 0xFFFFFFFF },
  { off := 0x138 },
  { off := 0x13C },
  { off := 0x140, count := 8, soft := 0xFFFFFFFF },
  { off := 0x160, soft := 0xFFFFFFFF },
  { off := 0x164, soft := 0xFFFFFFFF },
  { off := 0x168, soft := 0xFFFFFFFF }]

/-- The registers of a SEC page, part 2 (R489). -/
def rowsSEC2 : List RegRow := [
  { off := 0x16C, soft := 0xFFFFFFFF },
  { off := 0x170 },
  { off := 0x174 },
  { off := 0x178 },
  { off := 0x17C },
  { off := 0x180, soft := 0x1 },
  { off := 0x184, soft := 0xFFFFFFFF },
  { off := 0x188, reset := 0xFF, soft := 0xFF },
  { off := 0x18C },
  { off := 0x190 },
  { off := 0x194 },
  { off := 0x198 },
  { off := 0x19C },
  { off := 0x1A0 },
  { off := 0x1A4 },
  { off := 0x1A8 },
  { off := 0x1C0, count := 8, soft := 0x33 },
  { off := 0x1E0, count := 8, soft := 0x3 },
  { off := 0x200, count := 128, soft := 0xFFFFFFFF },
  { off := 0x400, count := 128, soft := 0xFFFFFFFF }]

/-- The registers of a SEC page, part 3 (R489). -/
def rowsSEC3 : List RegRow := [
  { off := 0x600, count := 128, soft := 0xFFFFFFFF },
  { off := 0x800, soft := 0xFF },
  { off := 0x804, soft := 0xFF }]

/-- The registers of a SEC page. -/
def rowsSEC : List RegRow := rowsSEC1 ++ rowsSEC2 ++ rowsSEC3

/-- The registers of a CXL page, part 1 (R450). -/
def rowsCXL1 : List RegRow := [
  { off := 0x100, soft := 0x1 },
  { off := 0x104 },
  { off := 0x108, soft := 0xFFFFFFFF },
  { off := 0x10C, soft := 0xFFFFFFFF },
  { off := 0x110 },
  { off := 0x114 },
  { off := 0x118, reset := 0x7D0, soft := 0xFFFFFFFF },
  { off := 0x11C },
  { off := 0x120 },
  { off := 0x124 },
  { off := 0x128 },
  { off := 0x12C },
  { off := 0x130 },
  { off := 0x134 },
  { off := 0x138 },
  { off := 0x13C },
  { off := 0x140 },
  { off := 0x144 },
  { off := 0x148 },
  { off := 0x14C }]

/-- The registers of a CXL page, part 2 (R450). -/
def rowsCXL2 : List RegRow := [
  { off := 0x150 },
  { off := 0x158 },
  { off := 0x15C },
  { off := 0x160, soft := 0x1FF },
  { off := 0x164 },
  { off := 0x400, count := 64, stride := 8 },
  { off := 0x404, count := 64, stride := 8 },
  { off := 0x800, count := 512 }]

/-- The registers of a CXL page. -/
def rowsCXL : List RegRow := rowsCXL1 ++ rowsCXL2

/-- The registers of a XPT page, part 1 (R397). -/
def rowsXPT1 : List RegRow := [
  { off := 0x100, reset := 0x800, soft := 0xF01 },
  { off := 0x104, reset := 0xFFFF, soft := 0xFFFF, sticky := 0xFFFF },
  { off := 0x108, soft := 0xFFFFFFFF },
  { off := 0x10C, soft := 0xFFFFFFFF },
  { off := 0x110 },
  { off := 0x114 },
  { off := 0x118 },
  { off := 0x11C },
  { off := 0x120 },
  { off := 0x124 },
  { off := 0x128, reset := 0xFFFF },
  { off := 0x12C },
  { off := 0x130 },
  { off := 0x134 },
  { off := 0x138 },
  { off := 0x13C },
  { off := 0x140 },
  { off := 0x144 },
  { off := 0x148 },
  { off := 0x14C }]

/-- The registers of a XPT page, part 2 (R397). -/
def rowsXPT2 : List RegRow := [
  { off := 0x150 },
  { off := 0x154, reset := 0x7C88B18, soft := 0x7FFFFF8 },
  { off := 0x158, soft := 0xFFFF },
  { off := 0x15C, soft := 0x7F7F7F7F },
  { off := 0x160, soft := 0xFFFFFFFF },
  { off := 0x164, soft := 0xFFFFFFFF },
  { off := 0x168 },
  { off := 0x16C },
  { off := 0x170, soft := 0xFFFF },
  { off := 0x174 },
  { off := 0x178 },
  { off := 0x17C },
  { off := 0x180, soft := 0xFFFFFFFF },
  { off := 0x184, soft := 0xFFFFFFFF },
  { off := 0x188 },
  { off := 0x18C },
  { off := 0x190 },
  { off := 0x194 },
  { off := 0x198 }]

/-- The registers of a XPT page. -/
def rowsXPT : List RegRow := rowsXPT1 ++ rowsXPT2

/-- The registers of a SMV page, part 1 (R161). -/
def rowsSMV1 : List RegRow := [
  { off := 0x100, soft := 0x1 },
  { off := 0x104, reset := 0x7D0, soft := 0xFFFFFFFF },
  { off := 0x108, reset := 0x1388, soft := 0xFFFFFFFF },
  { off := 0x10C },
  { off := 0x110 },
  { off := 0x114 },
  { off := 0x118 },
  { off := 0x11C },
  { off := 0x120 },
  { off := 0x124 },
  { off := 0x128 },
  { off := 0x12C },
  { off := 0x130 },
  { off := 0x134 },
  { off := 0x138 },
  { off := 0x13C },
  { off := 0x140 },
  { off := 0x148 },
  { off := 0x14C },
  { off := 0x150, soft := 0xFFFFFFFF }]

/-- The registers of a SMV page, part 2 (R161). -/
def rowsSMV2 : List RegRow := [
  { off := 0x154, soft := 0xFFFFFFFF },
  { off := 0x158, reset := 0xFFFF, soft := 0x7FFFF },
  { off := 0x15C },
  { off := 0x160 },
  { off := 0x180, count := 16, reset := 0xFFFF, soft := 0x8007FFFF }]

/-- The registers of a SMV page. -/
def rowsSMV : List RegRow := rowsSMV1 ++ rowsSMV2

/-- The registers of a RTB page, part 1 (R105). -/
def rowsRTB1 : List RegRow := [
  { off := 0x100, reset := 0x40, soft := 0xF1 },
  { off := 0x104, soft := 0xFFFFFFFF },
  { off := 0x108 },
  { off := 0x10C },
  { off := 0x110 },
  { off := 0x114 },
  { off := 0x118, soft := 0xFFFFFFFF },
  { off := 0x11C, soft := 0xFFFFFFFF },
  { off := 0x120, soft := 0xFFFFFFFF },
  { off := 0x124 },
  { off := 0x128 },
  { off := 0x12C },
  { off := 0x130 },
  { off := 0x134 },
  { off := 0x13C },
  { off := 0x138, soft := 0x3FFFF },
  { off := 0x140, count := 8, soft := 0x1FFFF },
  { off := 0x160, count := 8 },
  { off := 0x180, count := 8, stride := 8, reset := 0xFFFFFFFF, soft := 0xFFFFFFFF },
  { off := 0x184, count := 8, stride := 8, reset := 0xFFFFFFFF, soft := 0xFFFFFFFF }]

/-- The registers of a RTB page, part 2 (R105). -/
def rowsRTB2 : List RegRow := [
  { off := 0x200, count := 9 },
  { off := 0x400, count := 64 }]

/-- The registers of a RTB page. -/
def rowsRTB : List RegRow := rowsRTB1 ++ rowsRTB2

/-- The registers of a PFX page, part 1 (R131). -/
def rowsPFX1 : List RegRow := [
  { off := 0x100, soft := 0x1F1 },
  { off := 0x108, soft := 0xFFFFFFFF },
  { off := 0x10C, soft := 0xFFFFFFFF },
  { off := 0x110, soft := 0xFFFFFFFF },
  { off := 0x114 },
  { off := 0x118 },
  { off := 0x11C },
  { off := 0x120 },
  { off := 0x124 },
  { off := 0x128 },
  { off := 0x12C },
  { off := 0x130 },
  { off := 0x134 },
  { off := 0x138 },
  { off := 0x140, count := 16, reset := 0xFFFF, soft := 0x8007FFFF },
  { off := 0x180, count := 8, reset := 0x400000, soft := 0xFFFF000F },
  { off := 0x1A0, count := 8, soft := 0xFFFFFFFF },
  { off := 0x1C0, count := 8 },
  { off := 0x1E0, count := 8, soft := 0xFFFFFFFF },
  { off := 0x200, count := 8, soft := 0xFFFFFFFF }]

/-- The registers of a PFX page, part 2 (R131). -/
def rowsPFX2 : List RegRow := [
  { off := 0x220 },
  { off := 0x224 }]

/-- The registers of a PFX page. -/
def rowsPFX : List RegRow := rowsPFX1 ++ rowsPFX2

/-- The registers of a SCH page, part 1 (R233). -/
def rowsSCH1 : List RegRow := [
  { off := 0x100, reset := 0x3020800, soft := 0xFFFFF01 },
  { off := 0x104, reset := 0x3E8, soft := 0xFFFFFFFF },
  { off := 0x108 },
  { off := 0x110, soft := 0xFFFFFFFF },
  { off := 0x114, soft := 0xFFFFFFFF },
  { off := 0x118 },
  { off := 0x11C },
  { off := 0x120, soft := 0xFFFFFFFF },
  { off := 0x124, soft := 0xFFFFFFFF },
  { off := 0x128 },
  { off := 0x12C },
  { off := 0x130, soft := 0xFFFFFFFF },
  { off := 0x134, soft := 0xFFFFFFFF },
  { off := 0x138 },
  { off := 0x13C },
  { off := 0x140, soft := 0xFFFFFFFF },
  { off := 0x144, soft := 0xFFFFFFFF },
  { off := 0x148, soft := 0xFFFFFFFF },
  { off := 0x14C, soft := 0xFFFFFFFF },
  { off := 0x150 }]

/-- The registers of a SCH page, part 2 (R233). -/
def rowsSCH2 : List RegRow := [
  { off := 0x154 },
  { off := 0x158, soft := 0xFFF },
  { off := 0x15C, soft := 0xFFFFFFFF },
  { off := 0x160 },
  { off := 0x164 },
  { off := 0x180, count := 16, reset := 0x7D000, soft := 0xFFFFFF1F },
  { off := 0x1C0, count := 8, reset := 0x1000, soft := 0x3FFFF7F },
  { off := 0x1E0, count := 8, soft := 0xFFFFFFFF },
  { off := 0x200, count := 8, stride := 8 },
  { off := 0x204, count := 8, stride := 8 },
  { off := 0x240, count := 8 },
  { off := 0x260 },
  { off := 0x264 },
  { off := 0x268 },
  { off := 0x26C },
  { off := 0x270 },
  { off := 0x274 },
  { off := 0x278 },
  { off := 0x27C },
  { off := 0x280 }]

/-- The registers of a SCH page, part 3 (R233). -/
def rowsSCH3 : List RegRow := [
  { off := 0x284 },
  { off := 0x288 },
  { off := 0x28C },
  { off := 0x290 },
  { off := 0x2A0, count := 8, soft := 0xFFFF },
  { off := 0x300 },
  { off := 0x304 },
  { off := 0x400, count := 16 },
  { off := 0x800, count := 192, stride := 8, soft := 0xFFFFFFFF },
  { off := 0x804, count := 192, stride := 8, soft := 0x87FFFFFF }]

/-- The registers of a SCH page. -/
def rowsSCH : List RegRow := rowsSCH1 ++ rowsSCH2 ++ rowsSCH3

/-- The registers of a FLT page (R513). -/
def rowsFLT : List RegRow := [
  { off := 0x100, reset := 0x3, soft := 0x3 },
  { off := 0x104 },
  { off := 0x108, reset := 0x9C4, soft := 0xFFFFFFFF },
  { off := 0x10C, reset := 0x1F4, soft := 0xFFFFFFFF },
  { off := 0x110 },
  { off := 0x114 },
  { off := 0x118 },
  { off := 0x11C },
  { off := 0x120 },
  { off := 0x124 },
  { off := 0x134, count := 13 },
  { off := 0x400, count := 512 }]

/-- The registers of a VGL page (R539). -/
def rowsVGL : List RegRow := [
  { off := 0x100, soft := 0x7 },
  { off := 0x104 },
  { off := 0x108 },
  { off := 0x10C, soft := 0xFFFFFFFF },
  { off := 0x110, soft := 0xFFFFFFFF },
  { off := 0x114 },
  { off := 0x118 },
  { off := 0x11C },
  { off := 0x120 },
  { off := 0x124 },
  { off := 0x128 },
  { off := 0x12C, reset := 0x2000, soft := 0xFFFFFFFF },
  { off := 0x130, reset := 0xFC0 },
  { off := 0x134 },
  { off := 0x140, count := 4 },
  { off := 0x150, count := 3 }]

/-- The registers of a TIL page, part 1 (R192). -/
def rowsTIL1 : List RegRow := [
  { off := 0x100, reset := 0x7F0 },
  { off := 0x104, reset := 0x3AC },
  { off := 0x108 },
  { off := 0x10C },
  { off := 0x110 },
  { off := 0x114 },
  { off := 0x118 },
  { off := 0x11C },
  { off := 0x120 },
  { off := 0x124 },
  { off := 0x128 },
  { off := 0x12C },
  { off := 0x130 },
  { off := 0x134 },
  { off := 0x138 },
  { off := 0x13C },
  { off := 0x140 },
  { off := 0x144 },
  { off := 0x148 },
  { off := 0x14C }]

/-- The registers of a TIL page, part 2 (R323). -/
def rowsTIL2 : List RegRow := [
  { off := 0x150 },
  { off := 0x154 },
  { off := 0x158 },
  { off := 0x15C },
  { off := 0x160, count := 4 },
  { off := 0x170 },
  { off := 0x174 },
  { off := 0x178 },
  { off := 0x180 },
  { off := 0x184 }]

/-- The registers of a TIL page. -/
def rowsTIL : List RegRow := rowsTIL1 ++ rowsTIL2

/-- The registers of a MEM page, part 1 (R296). -/
def rowsMEM1 : List RegRow := [
  { off := 0x100, reset := 0x101, soft := 0x101 },
  { off := 0x104 },
  { off := 0x108 },
  { off := 0x10C },
  { off := 0x110 },
  { off := 0x114 },
  { off := 0x118 },
  { off := 0x11C },
  { off := 0x120 },
  { off := 0x124, reset := 0x40, soft := 0xFFFFFFFF },
  { off := 0x128 },
  { off := 0x12C, soft := 0xF },
  { off := 0x130 },
  { off := 0x140, count := 8, reset := 0x80, soft := 0x87 },
  { off := 0x160, count := 8, reset := 0x80 },
  { off := 0x180, count := 8 },
  { off := 0x200, count := 128 },
  { off := 0x400, soft := 0xFFFFFFFF },
  { off := 0x404, soft := 0xFFFFFFFF },
  { off := 0x408 }]

/-- The registers of a MEM page, part 2 (R296). -/
def rowsMEM2 : List RegRow := [
  { off := 0x40C },
  { off := 0x410, reset := 0x1 },
  { off := 0x414, reset := 0x1E, soft := 0xFFFFFFFF },
  { off := 0x418 },
  { off := 0x41C }]

/-- The registers of a MEM page. -/
def rowsMEM : List RegRow := rowsMEM1 ++ rowsMEM2

/-- The registers of a SDG page, part 1 (R273). -/
def rowsSDG1 : List RegRow := [
  { off := 0x100, reset := 0x2, soft := 0x3 },
  { off := 0x104, reset := 0x6A4 },
  { off := 0x108 },
  { off := 0x10C },
  { off := 0x110 },
  { off := 0x114, reset := 0x7D0, soft := 0xFFFFFFFF },
  { off := 0x118, reset := 0x10000 },
  { off := 0x11C },
  { off := 0x120 },
  { off := 0x124 },
  { off := 0x128 },
  { off := 0x12C },
  { off := 0x130 },
  { off := 0x138 },
  { off := 0x13C },
  { off := 0x140 },
  { off := 0x144 },
  { off := 0x148 },
  { off := 0x14C },
  { off := 0x180, count := 11 }]

/-- The registers of a SDG page, part 2 (R273). -/
def rowsSDG2 : List RegRow := [
  { off := 0x200, count := 16 }]

/-- The registers of a SDG page. -/
def rowsSDG : List RegRow := rowsSDG1 ++ rowsSDG2

/-- The registers of a LNK page, part 1 (R353). -/
def rowsLNK1 : List RegRow := [
  { off := 0x100, reset := 0x22, soft := 0x37 },
  { off := 0x104 },
  { off := 0x108 },
  { off := 0x10C, reset := 0x3FFFFF },
  { off := 0x110 },
  { off := 0x114 },
  { off := 0x118 },
  { off := 0x11C },
  { off := 0x120 },
  { off := 0x124 },
  { off := 0x128 },
  { off := 0x12C },
  { off := 0x130 },
  { off := 0x134 },
  { off := 0x138 },
  { off := 0x13C },
  { off := 0x140 },
  { off := 0x144 },
  { off := 0x148 },
  { off := 0x14C }]

/-- The registers of a LNK page, part 2 (R353). -/
def rowsLNK2 : List RegRow := [
  { off := 0x150 },
  { off := 0x154 },
  { off := 0x158 },
  { off := 0x15C },
  { off := 0x160 },
  { off := 0x164 },
  { off := 0x170, count := 4 }]

/-- The registers of a LNK page. -/
def rowsLNK : List RegRow := rowsLNK1 ++ rowsLNK2

/-- The registers of a OPT page (R356). -/
def rowsOPT : List RegRow := [
  { off := 0x100, reset := 0xF, soft := 0xF },
  { off := 0x104 },
  { off := 0x200, count := 16 },
  { off := 0x240, count := 16 },
  { off := 0x280, count := 16 }]

/-- The registers of a CAL page (R420). -/
def rowsCAL : List RegRow := [
  { off := 0x100, reset := 0x2, soft := 0x3 },
  { off := 0x104, soft := 0xFFFFFFFF },
  { off := 0x108, reset := 0x2, soft := 0xFFFFFFFF },
  { off := 0x10C },
  { off := 0x110 },
  { off := 0x114 },
  { off := 0x118 },
  { off := 0x11C },
  { off := 0x400, count := 64, stride := 8, reset := 0xFF000000, soft := 0xFFFFFFFF },
  { off := 0x404, count := 64, stride := 8, reset := 0xFF000000, soft := 0xFFFFFFFF },
  { off := 0x800, count := 64, stride := 8, reset := 0xFF000000 },
  { off := 0x804, count := 64, stride := 8, reset := 0xFF000000 }]

/-- The registers of a SHP page (R423). -/
def rowsSHP : List RegRow := [
  { off := 0x100, soft := 0x1 },
  { off := 0x104 },
  { off := 0x108 },
  { off := 0x10C },
  { off := 0x110 },
  { off := 0x120, count := 8, reset := 0x1290, soft := 0xFFFF },
  { off := 0x140, soft := 0xFFFFFFFF },
  { off := 0x144, soft := 0xFFFFFFFF },
  { off := 0x148, soft := 0xFFFFFFFF },
  { off := 0x14C, soft := 0xFFFFFFFF },
  { off := 0x150, soft := 0xFFFFFFFF },
  { off := 0x154 },
  { off := 0x200, count := 32, stride := 16, soft := 0xFFFFFFFF },
  { off := 0x204, count := 32, stride := 16, reset := 0x400040, soft := 0xFFFFFFFF },
  { off := 0x208, count := 32, stride := 16, reset := 0x10040, soft := 0xFFFFFF },
  { off := 0x20C, count := 32, stride := 16 },
  { off := 0x400, count := 32 }]

end Sys2Proof.Machine
end

