-- ==== Sys2Proof/Machine/Types.lean ====
section
/-! DEFINITION. The plain-data types of the module's blocks: one section per chapter of the spec. Registers are not repeated here:
every register has its one home in the register file of `Chip` (State.lean), and a register that only reports state kept here is a
view (Machine/Registers.lean). Defaults are the values after cold reset. -/

namespace Sys2Proof.Machine

open Sys2Proof

/-! ## Almanac (02) -/

/-- A candidate master heard on a link (R49, R52). -/
structure Cand where
  cls    : Nat
  prio   : Nat
  serial : Nat
  device : Nat
  hops   : Nat
  heard  : Nat := 0     -- almanac time at which its last Announce was heard
  deriving DecidableEq, Repr

/-- A step plan (R44): cadence C, window W, Exchange start X, Settle start S, in ticks. -/
structure Plan where
  c : Nat
  w : Nat
  x : Nat
  s : Nat
  deriving DecidableEq, Repr

/-- A plan adopted late, waiting for moment T (R579). -/
structure LatePlan where
  plan     : Plan
  baseTime : Nat
  baseStep : Nat
  moment   : Nat        -- almanac time T
  deriving DecidableEq, Repr

/-- The almanac block: time, election, synchronisation and the Boundary window's progress. -/
structure Alm where
  now        : Nat := 0             -- almanac time, ns; a multiple of 10 (R41)
  valid      : Bool := false        -- the device has locked since cold reset (R43)
  stepTaken  : Option Nat := none   -- step whose Boundary window was opened last
  late       : Option LatePlan := none
  heard      : SMap Cand := []      -- candidates, by link
  better     : SMap (Nat × Nat) := []   -- better candidates being counted, by serial: successive intervals heard, and the last one (R53)
  syncGood   : Nat := 0             -- successive Sync intervals below 10 ns (R56)
  seqTx      : SMap Nat := []       -- SEQUENCE per link and record type, key 4 × link + type − 1
  downs      : SMap Nat := []       -- links whose peer has chosen this device as upstream, with the time of its last Delay request (R51)
  delayReq   : SMap (Nat × Nat) := []   -- outstanding Delay request by link: (SEQUENCE, transmit time in ps)
  slew       : Int := 0             -- offset still to be corrected by the tick rate, fs (R43)
  goodEdges  : Nat := 0             -- successive good ALM_SYNC edges (R60)
  badEdges   : Nat := 0             -- successive bad or missing edges
  loLatch    : SMap Nat := []       -- HI words latched by a read of their LO register (R68), by register address
  row        : Nat := 13            -- row of the Boundary window next to run; 13 = the list is finished (R65)
  winStep    : Nat := 0             -- step of the Boundary window whose rows are running
  cost       : Nat := 0             -- ticks of rows 6–12 spent in this window (R232)
  fixed11    : Bool := false        -- row 11's fixed cost has been incurred in this window
  carried    : List Nat := []       -- partitions whose row 12 is still to run in a carried list (R66)
  queue      : List (Nat × Nat) := []   -- items carried into this window, in order: their list of rows 6–12, and their key in it (R66)
  carrying   : List (Nat × Nat) := []   -- items that this window carries into the next
  deriving DecidableEq, Repr

/-! ## Partitions (01) and the global page (18) -/

/-- A partition's role (R24), as the composition map codes it. -/
inductive Role where
  | unassigned | prompt | generation | cache
  deriving DecidableEq, Repr

/-- What the device holds of a partition besides its registers (R24–R32, R48). -/
structure Part where
  role    : Role := .unassigned
  pending : Option Role := none       -- role that an accepted proposal gives it (R31)
  since   : Nat := 0                  -- first step in which the pending role keeps new state away
  due     : Option Role := none       -- role of the map in force, not yet taken (R32)
  comp    : Option Nat := none        -- composition the partition belongs to (R48)
  deriving DecidableEq, Repr

/-- The global block: the ownership log GLB_OWN_LOG (R558), by entry, and the pending resource registers written since the last row 9,
by BAR0 address (R104, R281, R559). -/
structure Glb where
  ownLog  : SMap Bytes := []
  logged  : Nat := 0             -- records written to the log; GLB_OWN_COUNT shows it, and saturates
  dirty   : List Nat := []
  held    : List Nat := []       -- pages whose QUIESCE held when the last Boundary window opened (R545)
  stopped : List Nat := []       -- pages whose ENABLE was 0 then (R545)
  deriving DecidableEq, Repr

/-! ## Host attachment (14) -/

/-- A sampling profile (R433): TEMPERATURE, TOP_P, TOP_K as in the RTE, and four stop tokens. -/
structure Profile where
  temperature : Nat := 0
  topP        : Nat := 0x3F80
  topK        : Nat := 0
  stops       : List Nat := [0xFFFFFFFF, 0xFFFFFFFF, 0xFFFFFFFF, 0xFFFFFFFF]
  deriving DecidableEq, Repr

/-- A queue pair (R433). Heads and tails count entries since creation; the ring index is the count modulo the ring's size. -/
structure QueuePair where
  partition : Nat
  sqEntries : Nat
  cqEntries : Nat
  sqBase    : Nat
  cqBase    : Nat
  vector    : Nat
  coalCount : Nat
  coalUsec  : Nat
  sqHead    : Nat := 0
  sqTail    : Nat := 0
  cqHead    : Nat := 0
  cqTail    : Nat := 0
  reserved  : Nat := 0     -- CQ entries reserved for descriptors read and not yet answered (R437)
  unsig     : Nat := 0     -- records written and not yet signalled (R446)
  held      : List Bytes := []   -- entries waiting while CXL_CFG.EN is 0
  deriving DecidableEq, Repr

/-- An emit ring (R433, R445). -/
structure EmitRing where
  partition : Nat
  entries   : Nat
  base      : Nat
  vector    : Nat
  coalCount : Nat
  coalUsec  : Nat
  head      : Nat := 0
  tail      : Nat := 0
  unsig     : Nat := 0
  abandoned : Bool := false
  lastFlags : SMap Nat := []     -- [4:2] of the last emit record written, by RID (R444)
  deriving DecidableEq, Repr

/-- An Emit record held in the backlog, or a Finish held until the emitted position reaches LAST_POS (R442, R443). -/
structure HeldEmit where
  finish   : Bool
  ring     : Nat
  flags    : Nat        -- Emit FLAGS, or END_STATUS of a Finish
  token    : Nat
  hostTag  : Nat
  rid      : Nat
  position : Nat        -- POSITION, or LAST_POS
  stepLo   : Nat
  deriving DecidableEq, Repr

/-- A submission read from an SQ and not yet admitted or refused (R435, R437). -/
structure Submission where
  num       : Nat        -- order in which the device read it
  qid       : Nat
  dclass    : Nat
  profile   : Nat
  model     : Nat
  adapter   : Nat
  ring      : Nat
  tenant    : Nat
  promptLen : Nat
  maxNew    : Nat
  addr      : Nat
  deadline  : Nat
  hostTag   : Nat
  seed      : Nat
  time      : Nat        -- SUBMIT_TIME
  refusal   : Option Nat := none   -- refusal code already decided (R81, R436)
  tokens    : List Nat := []       -- prompt tokens copied so far
  deriving DecidableEq, Repr

/-- A committed HDM decoder: host range and the DPA it starts at (R428). -/
structure Hdm where
  base : Nat
  size : Nat
  dpa  : Nat
  deriving DecidableEq, Repr

/-- The host block. -/
structure Cxl where
  qps      : SMap QueuePair := []
  rings    : SMap EmitRing := []
  profiles : SMap Profile := []
  subs     : List Submission := []    -- in the order in which the device read them
  subNum   : Nat := 0
  backlog  : List HeldEmit := []      -- in order of arrival
  maskAll  : Bool := false            -- MSI-X function mask
  unmasked : List Nat := []           -- vectors whose mask the host has cleared
  pba      : List Nat := []           -- pending vectors (pending-bit array)
  hdm      : SMap Hdm := []
  filter   : List (Nat × Bool) := []  -- snoop filter: (line by physical address, the host may have modified it), least recently granted first (R431)
  touched  : List Nat := []           -- lines of the filter that the running command has met (empty between commands)
  snooped  : List Nat := []           -- lines back-invalidated whose response is awaited
  heldCmds : List Instr := []         -- device accesses waiting for such a response (R431), oldest first
  downTimer : Bool := false           -- the 100 ms loss timer runs (R447)
  reading  : Bool := true             -- descriptors are read (stopped when the host is lost)
  aer      : Bool := false            -- AER holds an uncorrectable non-fatal internal error (R430)
  deriving DecidableEq, Repr

/-! ## Request state (03) -/

/-- STATE codes of an RTE (R86), in the order of their codes. -/
inductive RState where
  | free | admitted | prefill | prefilled | generating | parked | rebuilding | ending | forward
  deriving DecidableEq, Repr

/-- The code of a state (R86). -/
def RState.code : RState → Nat
  | .free => 0 | .admitted => 1 | .prefill => 2 | .prefilled => 3 | .generating => 4
  | .parked => 5 | .rebuilding => 6 | .ending => 7 | .forward => 8

/-- The live states (R87). -/
def RState.live : RState → Bool
  | .admitted | .prefill | .prefilled | .generating | .parked | .rebuilding => true
  | _ => false

/-- The FLAGS of an RTE (R79). -/
structure RFlags where
  moving      : Bool := false
  bound       : Bool := false
  fallback    : Bool := false
  cancelReq   : Bool := false
  rideAlong   : Bool := false
  unprotected : Bool := false
  rebuilt     : Bool := false
  late        : Bool := false
  deriving DecidableEq, Repr

/-- A Request Table Entry and the pieces of request state it points to (R73, R78). KV_MAP, RECUR_ADDR and TOKLOG_ADDR name
T2 regions that the firmware lays out; what lies there is held here, and the addresses are kept as fields. [log 47, DEDUCED] [log 67, DESIGN CHOICE] -/
structure Rte where
  rid        : Nat
  state      : RState
  partition  : Nat
  flags      : RFlags := {}
  tenant     : Nat := 0
  model      : Nat := 0
  adapter    : Nat := 0
  fallbackId : Nat := 0xFFFF
  dclass     : Nat := 0
  kvFormat   : Nat := 0
  admitStep  : Nat := 0
  deadline   : Nat := 0
  promptLen  : Nat := 0
  genCount   : Nat := 0
  maxNew     : Nat := 0
  lateCount  : Nat := 0
  hostTag    : Nat := 0
  kvMap      : Nat := 0
  prefixBlocks : Nat := 0
  recurAddr  : Nat := 0
  recurLen   : Nat := 0
  toklogAddr : Nat := 0
  emitRing   : Nat := 0
  originPart : Nat := 0
  emitPos    : Nat := 0
  jrnPartner : Nat := 0xFFFF
  jrnHeld    : Nat := 0
  jrnAckPos  : Nat := 0xFFFFFFFF
  mapEpoch   : Nat := 0
  slot       : Nat := 0xFFFFFFFF
  fwdHome    : Nat := 0
  fwdPart    : Nat := 0
  fwdExpire  : Nat := 0
  temperature : Nat := 0
  topP       : Nat := 0
  topK       : Nat := 0
  seed       : Nat := 0
  submitTime : Nat := 0
  stops      : List Nat := []
  lastHash   : Bytes := []
  endStatus  : Nat := 0
  endStep    : Nat := 0
  -- the pieces the RTE points to
  tokens     : List Nat := []          -- token log: the tokens of positions 0, 1, …
  pages      : List Nat := []          -- page map: page addresses (R245), span-major; 0 = no page
  recur      : Bytes := []             -- recurrent state
  -- what the home remembers besides the RTE
  lateAt     : List Nat := []          -- positions to be emitted marked late
  sampled    : SMap Nat := []          -- sampling step by position, where this home sampled it
  fbAt       : List Nat := []          -- positions produced by the fallback model
  journalled : Nat := 0                -- tokens of the log sent to the partner as runs
  hashes     : List Bytes := []        -- H(1), H(2), … of the token log, as far as they have been worked out (R108)
  refs       : List Nat := []          -- prefix table entries whose pages its page map lists (R112, R124)
  hashDue    : Bool := false           -- R109 hashing to be done in the next Compute phase
  localMatch : Nat := 0                -- blocks matched on the home partition (j of R117)
  lookup     : Nat := 0                -- 0 none; 1 awaiting the reply; 2 answered STATUS 0; 3 failed; 4 made, if at all, at an earlier home
  lookupStep : Nat := 0
  shard      : Nat × Nat := (0, 0)     -- device and partition of the shard asked
  lease      : Nat := 0
  matched    : Nat := 0                -- MATCHED of the shard's reply
  published  : Bool := false           -- transition 4 has been taken once (R122)
  askedHome  : Bool := false           -- a Locate's reply is awaited (R159)
  noFinish   : Bool := false           -- the origin holds no entry for it: no Finish is sent (R159)
  lost       : Bool := false           -- state judged lost and not yet freed (R101)
  failedPartners : List Nat := []      -- devices excluded as partner (R96)
  parkMark   : Nat := 0                -- 0 none; 1 marked for parking; 2 marked for resumption (R214)
  prefilled  : Nat := 0                -- prefill cursor: positions already prefilled
  unbound    : Nat := 0                -- successive steps left unbound (R208)
  bindSeq    : Nat := 0                -- step of the window that admitted, rebuilt or took it (R214)
  fbDecided  : Bool := false           -- a fallback move is decided and not yet committed
  deriving DecidableEq, Repr

/-- A journal held as partner (R92, R93). [log 47, DEDUCED] -/
structure Journal where
  rid       : Nat
  anchor    : Bytes               -- the 128-byte anchor, updated by Home records (R98)
  tokens    : SMap Nat := []      -- token by position
  fbAt      : List Nat := []      -- positions whose run carried RUN_FLAGS[0]
  lateAt    : List Nat := []
  units     : Nat                 -- 4 KiB units reserved
  ended     : Bool := false       -- an End record has arrived; discarded in the next row 7 (R98)
  endedStep : Nat := 0
  recEpoch  : Nat := 0            -- REC_EPOCH of the last rebuild ordered from it (R155)
  homeLost  : Bool := false       -- the home is judged lost or has sent Lost (R154)
  noMap     : Bool := false       -- waits for a map without the home
  deriving DecidableEq, Repr

/-- An entry of the locator table (R103). STATE: 0 free, 1 live, 2 ending. [log 67, DESIGN CHOICE] -/
structure Locator where
  rid     : Nat
  device  : Nat
  part    : Nat
  state   : Nat
  partner : Nat
  ring    : Nat := 0
  cancel  : Bool := false       -- a cancellation stays pending for it (R439)
  tenant  : Nat := 0
  hostTag : Nat := 0            -- HOST_TAG of the submission, for the completion records the origin writes itself
  deriving DecidableEq, Repr

/-- An anchor offered to a candidate partner for a submission in row 11 (R90). -/
structure Offer where
  sub       : Submission
  rid       : Nat
  partition : Nat
  candidate : Nat
  idx       : Nat             -- RTE it would take
  rte       : Rte             -- the entry as it would be admitted
  tried     : List Nat := []  -- candidates that have counted as refusing
  accepted  : Bool := false   -- acknowledged with status 0, admitted in the next row 11
  carried   : Bool := false   -- on offer to no candidate: the next one is offered it in the next row 11 (R66)
  deriving DecidableEq, Repr

/-- The Request Table block. -/
structure Rtb where
  rtes     : SMap Rte := []          -- entries that are not FREE, by index
  cache    : List Nat := []          -- RTE cache: indices, least recently used first (R83)
  peek     : Bytes := []             -- image read when RTB_PEEK_IDX was last written
  locators : SMap Locator := []      -- by SERIAL mod 262,144
  emitted  : SMap Nat := []          -- emitted-position table (R158, R443), by SERIAL mod 262,144
  journals : List Journal := []
  offers   : List Offer := []
  lateAcks : List (Nat × Nat) := []  -- (RID, candidate) that counted as refusing and may still acknowledge (R90)
  deriving DecidableEq, Repr

/-! ## Prefix index (04) -/

/-- A prefix table entry that is not free (R114). STATE: 1 filling, 2 ready, 3 damaged. -/
structure PEntry where
  hash      : Bytes
  state     : Nat
  partition : Nat
  kvFormat  : Nat
  pinned    : Bool := false
  blockNo   : Nat
  refcnt    : Nat := 0
  children  : Nat := 0
  spans     : Nat
  pages     : List Nat := []        -- SPANS × PAGES_PER_SPAN page addresses, span-major
  lastUse   : Nat := 0
  parent    : Nat := 0xFFFFFF
  pps       : Nat
  deriving DecidableEq, Repr

/-- A lease held as shard (R119). -/
structure Lease where
  id      : Nat
  rid     : Nat
  device  : Nat
  part    : Nat
  shardPart : Nat
  step    : Nat             -- LEASE_STEP
  entries : List Nat
  deriving DecidableEq, Repr

/-- The prefix index block. -/
structure Pfx where
  table   : SMap PEntry := []      -- by table index: set × 8 + way
  leases  : List Lease := []
  nextLease : Nat := 1
  deriving DecidableEq, Repr

/-! ## State Mover (05) -/

/-- The header of a State Mover message (R138). -/
structure SHdr where
  type    : Nat
  kind    : Nat
  srcPart : Nat
  dstPart : Nat
  srcDev  : Nat
  dstDev  : Nat
  rid     : Nat
  seq     : Nat := 0
  epoch   : Nat := 0
  step    : Nat := 0
  deriving DecidableEq, Repr

/-- An order waiting in the State Mover's queue (R136). A scheduler's order names a USE of the destination table (R216); any other
names its destination. -/
structure Order where
  kind     : Nat
  rid      : Nat
  srcPart  : Nat := 0
  use      : Option Nat := none       -- USE of R216
  dst      : Nat × Nat := (0xFFFF, 0) -- device and partition
  runtime  : Bool := false            -- ordered through SMV_ORD
  resume   : Bool := false            -- a resumption: tried once (R218)
  lease    : Nat := 0                 -- KIND 3
  first    : Nat := 0                 -- KIND 3 and 4: first block
  count    : Nat := 0                 -- KIND 3 and 4: blocks
  recEpoch : Nat := 0                 -- KIND 6
  left     : List (Nat × Nat) := []   -- candidates still to be tried in this Settle phase
  notRes   : Bool := true             -- every candidate of this Settle phase has answered NOT_RESIDENT (R222)
  deriving DecidableEq, Repr

/-- Source states of R145. -/
inductive SrcState where
  | opening | sending | sealed | intending | prepared | committed
  deriving DecidableEq, Repr

/-- Destination states of R145. -/
inductive DstState where
  | receiving | ready | committed | inDoubt
  deriving DecidableEq, Repr

/-- A transfer context as source (R136, R145). -/
structure SrcXfer where
  hdr     : SHdr
  order   : Order
  state   : SrcState := .opening
  entries : List Nat := []       -- prefix table entries referred to (KIND 3)
  bucket  : Nat := 0             -- bucket code in force when the Open was sent (R320)
  deriving DecidableEq, Repr

/-- A record of a Data message (R141): its header fields and its unpacked contents. -/
structure DRec where
  sect : Nat
  index    : Nat
  span     : Nat
  page     : Nat
  data     : Bytes
  deriving DecidableEq, Repr

/-- A transfer context as destination (R145, R147). -/
structure DstXfer where
  hdr      : SHdr
  body     : Bytes               -- bytes 32 to 351 of the Open
  state    : DstState := .receiving
  recs     : List DRec := []
  msgs     : List Nat := []      -- MSG_NO of the Data messages that have arrived
  recCount : Nat := 0
  bytes    : Nat := 0
  sealed   : Option (Nat × Nat × Nat) := none   -- DATA_MSGS, RECORDS, DATA_BYTES of the Seal
  rteIdx   : Option Nat := none  -- reserved RTE
  pages    : List Nat := []      -- reserved pages, own pages first
  entries  : List (Option Nat) := []   -- filling entries of a publication (R153)
  units    : Nat := 0            -- journal units reserved (KIND 5)
  objs     : Nat × Nat × Nat := (0, 0, 0)   -- page map, token log and recurrent state addresses reserved
  commit   : Bool := false       -- a Commit has arrived
  replyTo  : Option (Nat × Nat) := none -- device and partition that sent the Commit
  alone    : Bool := false       -- committed with source and partner gone: UNPROTECTED (R150)
  outcome  : Nat := 0            -- resolution of an IN_DOUBT transfer, applied in the next row 6: 1 committed, 2 aborted
  asked    : Nat := 0            -- 0 not asking; 1 the source; 2 the partner (R150)
  partner  : Nat := 0xFFFF
  deriving DecidableEq, Repr

/-- An Intent held as journal partner (R145). -/
structure Intent where
  hdr     : SHdr
  oldDev  : Nat
  oldPart : Nat
  newDev  : Nat
  newPart : Nat
  step    : Nat
  asking  : Nat := 0             -- 0 pending; 1 asking the source; 2 asking the destination (R150)
  deriving DecidableEq, Repr

/-- A rebuild delivered by a KIND 6 commit, applied in row 11 (R146, R157). -/
structure Delivered where
  rid      : Nat
  anchor   : Bytes
  tokens   : List Nat
  recEpoch : Nat
  partner  : Nat
  part     : Nat
  rteIdx   : Nat
  objs     : Nat × Nat := (0, 0)   -- page map and token log addresses reserved
  alone    : Bool := false         -- its partner is gone (R150)
  deriving DecidableEq, Repr

/-- The State Mover block. -/
structure Smv where
  orders   : List Order := []              -- oldest first
  srcs     : List SrcXfer := []
  dsts     : List DstXfer := []
  nextSeq  : Nat := 1
  done     : List (Nat × Nat × Nat) := []  -- ended transfers: SRC_DEVICE, TRANSFER_SEQ, outcome (1 committed, 2 aborted)
  intents  : List Intent := []
  resolved : List (Nat × Nat × Nat) := []  -- resolutions given as partner: SRC_DEVICE, TRANSFER_SEQ, outcome
  recSeen  : List (Nat × Nat × Nat) := []  -- rebuilds seen as destination: RID, REC_EPOCH, outcome; 2 = aborted, and may be opened again (R156)
  rebuilt  : List Delivered := []
  buckets  : SMap Nat := []                -- Fenpack bucket codes in force this step, by partition (R320, R484)
  rot      : SMap Nat := []                -- rotation of each tile die's Packers and Expanders (R311)
  deriving DecidableEq, Repr

/-! ## Tiles (06) and Fenpack units (10) -/

/-- What a physical tile holds beside its page's registers (R164). -/
structure Tile where
  acc      : List (List Nat) := []   -- FP32 accumulators C[M × N] of the pass in progress, row by row (R165)
  srCount  : Nat := 0                -- random integers drawn since the generator was seeded (R175)
  stopped  : Bool := false           -- the tile takes no further part in the step (R167, R202)
  reported : Bool := false           -- it has reported to the watchdog in this step (R499)
  probed   : Bool := false           -- the watchdog's probe is out
  done     : Bool := true            -- it has finished its Compute part (R202)
  prog     : Nat := 0                -- program table index it runs, plus 1; 0 = none
  part     : Nat := 0                -- partition it runs it for
  overflow : Bool := false           -- per-tensor overflow flag (R189)
  takes    : Nat := 127              -- logical tile it takes on its return to service (R500)
  spare    : Bool := false           -- it was its die's SPARE, and is being brought in for `takes` (R500)
  loads    : List (Nat × Nat) := []  -- outstanding LOADs: message number and destination scratch address (R386)
  deriving DecidableEq, Repr

/-! ## Scheduler (07) -/

/-- A registered model (R195). -/
structure ModelEnt where
  kvFormat    : Nat
  fallbackId  : Nat
  u           : Nat
  fbReady     : Bool
  layers      : Nat
  kvHeads     : Nat
  headDim     : Nat
  tag         : Bytes
  prefillRate : Nat
  weightBytes : Nat
  deriving DecidableEq, Repr

/-- A registered adapter (R195). -/
structure AdapterEnt where
  model       : Nat
  tag         : Bytes
  weightBytes : Nat
  deriving DecidableEq, Repr

/-- A static sequence of Sedge commands: the offset at which it starts, and its command words (R250, R254). -/
structure SedgeSeq where
  start : Nat
  words : List Bytes
  deriving DecidableEq, Repr

/-- A loaded step program: its header (R198) and what the scheduler remembers of it. -/
structure Prog where
  id        : Nat
  kind      : Nat
  kvFormat  : Nat
  u         : Nat
  dieTiles  : List Nat          -- program tiles on die 0, 1, 2, 3
  members   : Nat
  tag       : Bytes
  slots     : Nat
  ctxMax    : Nat
  chunk     : Nat
  ride      : Nat
  backfill  : Nat
  compute   : Nat
  exch      : Nat
  sedge     : Nat
  stackSet    : List Nat          -- stacks the program names (its Sedge command list sections)
  select    : SMap (List Nat)   -- selection table entries by stack, one per layer (R254, R260)
  seqs      : SMap (List SedgeSeq) := []   -- static sequences by stack (R254)
  barred    : Bool := false     -- no longer selected after a fault (R202)
  overruns  : Nat := 0          -- consecutive steps with a time overrun (R202)
  overran   : Bool := false     -- a time overrun fell in this step
  unload    : Bool := false     -- unloaded in the next row 12 (R200)
  digest    : Bytes := []
  deriving DecidableEq, Repr

/-- Residency of a model or adapter on a partition (R223). An entry absent from the table is ABSENT. -/
structure Residency where
  part     : Nat
  adapter  : Bool
  id       : Nat
  resident : Bool := false      -- false = LOADING
  pinned   : Bool := false
  loaded   : Bool := false      -- a finished load, RESIDENT in the next row 12
  lost     : Bool := false      -- becomes ABSENT in the next row 7 (R293, R317)
  lastSel  : Nat := 0           -- step in which it was last selected
  size     : Nat := 0           -- bytes
  deriving DecidableEq, Repr

/-- An eviction waiting for row 7 (R224): the victims, and the load they make room for, if any. -/
structure EvictCmd where
  part    : Nat
  victims : List (Bool × Nat)
  load    : Option (Bool × Nat) := none
  deriving DecidableEq, Repr

/-- A Bid received (R206). -/
structure BidRec where
  step : Nat
  dev  : Nat
  part : Nat
  dst  : Nat           -- partition the Bid was sent to
  count : Nat
  ctx  : Nat
  model : Nat
  deriving DecidableEq, Repr

/-- An Offer received by a cache partition (R218). -/
structure OfferRec where
  step : Nat
  dev  : Nat
  part : Nat
  dst  : Nat
  room : Nat
  model : Nat
  deriving DecidableEq, Repr

/-- A stack time slice in force (R226). -/
structure Slice where
  start : Nat
  len   : Nat
  part  : Nat
  deriving DecidableEq, Repr

/-- An overrun of a partition on a stack (R228): its ticks with those still owed before it, and the slice it follows. -/
structure Debt where
  ticks : Nat
  owed  : Nat          -- ticks of earlier overruns still owed at its slice's end
  step  : Nat
  ends  : Nat          -- offset at which the slice ended
  deriving DecidableEq, Repr

/-- An accounting entry (R230). -/
structure AcctEnt where
  tenant    : Nat
  ride      : Bool := false
  admitted  : Nat := 0
  completed : Nat := 0
  cancelled : Nat := 0
  failedOver : Nat := 0
  deriving DecidableEq, Repr

/-- What a partition runs in the current step (R207–R215). -/
structure Sel where
  part   : Nat
  prog   : Nat                     -- program table index
  bound  : List (Nat × Nat) := []  -- bound requests: (RTE index, prompt tokens; 0 in a generation slot)
  ride   : List (Nat × Nat) := []  -- ride-along rows: (RTE index, tokens)
  back   : List (Nat × Nat) := []  -- backfill rows
  forced : Bool := false
  voided : Bool := false           -- the step is void for it (R203)
  ran    : Bool := false           -- its barrier has been passed
  barred : List Nat := []          -- RIDs of requests that sample no token in this step (R259)
  asked  : List (Nat × Nat × Nat) := []   -- Attend items without a Result item yet: RID, LAYER, POSITION (R259)
  deriving DecidableEq, Repr

/-- The scheduler block. -/
structure Sch where
  models   : SMap ModelEnt := []
  adapters : SMap AdapterEnt := []
  progs    : SMap Prog := []
  res      : List Residency := []
  evicts   : List EvictCmd := []
  bids     : List BidRec := []
  offers   : List OfferRec := []
  voids    : List (Nat × Nat × Nat) := []   -- Voids received: step, device, partition
  slices   : SMap Slice := []               -- by 8 × stack + entry
  debts    : SMap Debt := []                -- overruns still to be deducted, by 8 × stack + partition (R228)
  moved    : SMap (Nat × Nat) := []         -- slices moved later by a breach of the guard: step and ticks, by 8 × stack + entry (R228)
  acct     : SMap AcctEnt := []
  sels     : List Sel := []
  room     : SMap Nat := []                 -- windows with spare slots, by partition (R218)
  rot      : Nat := 0                       -- position of every rotating order of precedence (R229)
  pinRefused : List Nat := []               -- RTE indices that R84 has left unbound in this step
  loads    : List (Nat × Bool × Nat) := []  -- bundle loads in progress: partition, adapter, ID
  resNamed : Option (Nat × Bool × Nat) := none  -- entry that SCH_RES_STAT.STATE shows: partition, adapter, ID
  deriving DecidableEq, Repr

/-! ## Sedge groups (08) -/

/-- A partial triple (m, l, o) of one query head (R262), FP32. -/
structure Triple where
  m : Nat
  l : Nat
  o : List Nat
  deriving DecidableEq, Repr

/-- What the merge unit of a stack holds under one TAG. -/
inductive Partial where
  | minmax (hi lo : List Nat)          -- SUMMARISE: element-wise maximum and minimum, FP32
  | attn (heads : List Triple)         -- ATTEND: one triple per query head
  | dots (rows : List (List Nat))      -- MATVEC: FP32 dot products, per row and vector
  deriving DecidableEq, Repr

/-- A segment running in a bank (R252, R266). -/
structure Segment where
  partition : Nat
  fromTile  : Option Nat := none    -- physical tile of a static sequence
  clocks    : Nat := 0
  units     : Nat := 0              -- operand store units it holds
  ends      : Nat := 0              -- offset at which its slice ends; 0 where no slice bounds it (R226)
  began     : Nat := 0              -- offset at which it began
  oldOpnd   : List Host.Cell := []  -- operand store bytes that it has changed, as they were (R266)
  oldTags   : SMap (Option Partial) := []   -- what the merge unit held under the TAGs that it has merged into
  deriving DecidableEq, Repr

/-- The Sedge group of a stack (R237). -/
structure Sdg where
  opnd    : List Host.Cell := []       -- the 2 MiB operand store
  merge   : SMap Partial := []         -- merge unit, by TAG
  credit  : SMap Int := []             -- refresh credit, by 128 × die + bank; unlisted = 0 (R264)
  running : SMap Segment := []         -- running segments, by bank
  scrub   : SMap Nat := []             -- refreshes of the current scrub pass, by bank (R292)
  deriving DecidableEq, Repr

/-! ## Memory tiers (09) -/

/-- A placement descriptor (R284). -/
structure Desc where
  kind      : Nat
  tier      : Nat
  partition : Nat
  host      : Nat
  use       : Nat
  id        : Nat
  slotFirst : Nat
  slotLast  : Nat
  size      : Nat
  mask      : Nat
  deriving DecidableEq, Repr

/-- A migration in progress (R288). -/
structure Migration where
  desc   : Desc
  copied : List Nat := []
  dirty  : List Nat := []
  deriving DecidableEq, Repr

/-- Memory beside its bytes: placement, allocation, damage, logs and the stack interfaces. -/
structure Memu where
  descs    : SMap Desc := []                 -- by OBJECT; object 4,095 is the device's and implicit
  install  : Option (Nat × Desc) := none     -- an install still writing zero
  migs     : SMap Migration := []            -- by OBJECT
  pages    : SMap Nat := []                  -- page slots in use: page address → RID, or 2^64 + prefix table index
  allocs   : List (Nat × Nat × Nat × Nat) := []  -- request object pools: (OBJECT, unit, units, RID)
  damaged  : List Nat := []                  -- uncorrectable words, by physical address
  units    : SMap (List Nat) := []           -- damaged units of runtime data: first address → words not yet written anew (R293)
  sedgeW   : List Nat := []                  -- words whose LAST_WRITER is 1 (R267), by address
  errRing  : SMap Bytes := []                -- error records, by 16 × stack + entry (R294)
  remaps   : List (Nat × Nat) := []          -- remapped slots: old and new slot base address (R295)
  backs    : SMap Nat := []                  -- remapped slots of a returned half-bank, by old address: 0 to be copied back, 1 copied, 2 dirty (R504)
  misses   : SMap Nat := []                  -- successive missed polls, by stack (R291)
  retrain  : SMap Nat := []                  -- stacks in fault: retrain attempts made
  scrubbed : SMap (List Nat) := []           -- banks whose pass is complete, by stack
  deriving DecidableEq, Repr

/-! ## Transport (12) -/

/-- A member of a composition map: device, partition and role. -/
structure Member where
  dev    : Nat
  part   : Nat
  role   : Role
  serial : Nat := 0
  deriving DecidableEq, Repr

/-- A composition map (R389, R390). -/
structure CompMap where
  comp    : Nat
  epoch   : Nat
  step    : Nat                 -- EFFECTIVE_STEP
  plan    : Plan := ⟨2000000, 20000, 1500000, 1800000⟩
  members : List Member
  deriving DecidableEq, Repr

/-- A map proposal accepted here and waiting for its Votes or its step (R391–R393). -/
structure Proposal where
  map      : CompMap
  lapsed   : Bool := false            -- its Votes were not complete at the deadline
  complete : Bool := false            -- every device of the new map has voted to accept
  late     : Bool := false            -- a packet of a member carries its epoch: in force in the next row 4 (R393)
  digest   : Bytes := []
  deriving DecidableEq, Repr

/-- A message delivered to a unit and not yet taken: SERVICE, source and bytes. [log 60, DESIGN CHOICE] -/
structure Inbox where
  svc   : Nat
  src   : MsgSrc
  bytes : Bytes
  deriving DecidableEq, Repr

/-- States of a send context (R365). -/
inductive TxState where
  | reset | syncing | active | error
  deriving DecidableEq, Repr

/-- A message or memory operation that a send context holds: queued, being sent, or sent and not wholly acknowledged. -/
structure TxMsg where
  num     : Nat                     -- order in which the units handed them over
  op      : Nat := 1                -- 1 MSG; 6 LOAD; 8 STORE (R360)
  svc     : Nat
  srcPart : Nat
  dstPart : Nat
  bytes   : Bytes
  base    : Option Nat := none      -- PSN of fragment 0, with its wraps
  sent    : Nat := 0                -- fragments numbered
  acked   : Nat := 0                -- fragments acknowledged
  skip    : Bool := false           -- abandoned or ended: its unsent PSNs go as SKIPs (R372)
  wait    : Bool := false           -- resent after the next Boundary window (R372)
  tile    : Nat := 0                -- tile that issued it (LOAD, STORE)
  deriving DecidableEq, Repr

/-- A numbered packet in the retransmit store: header, ciphertext and tag as first sent, LINK_SEQ zero (R367). PSNs are kept with
their wraps: the PSN on the wire is the value modulo 2^32. -/
structure TxPkt where
  psn     : Nat
  num     : Nat
  op      : Nat
  frame   : Bytes
  openKey : Bool := false           -- sent under the open key (R468)
  acked   : Bool := false           -- a LOAD acknowledged whose LOAD_RESP is awaited (R388)
  again   : Bool := false           -- a resend that waits for room (R402)
  deriving DecidableEq, Repr

/-- A send context (R365, R367, R371). -/
structure TxCtx where
  state    : TxState := .reset
  start    : Nat := 0
  session  : Nat := 0
  next     : Nat := 0               -- next PSN to number, with its wraps
  cum      : Nat := 0               -- highest CUM + 1 received
  msgs     : List TxMsg := []
  pkts     : List TxPkt := []
  expiries : Nat := 0               -- expiries since the last progress
  timeout  : Nat := 8000            -- current timeout, ns
  waiting  : Bool := false          -- a new packet waits for a full queue
  openSync : Bool := false          -- its SYNC went under the open key
  deriving DecidableEq, Repr

/-- A message in the reassembly store, or the name of one refused or discarded (R375–R377). -/
structure RxMsg where
  base    : Nat
  len     : Nat
  svc     : Nat
  srcPart : Nat
  dstPart : Nat
  step    : Nat
  epoch   : Nat
  openKey : Bool := false
  frags   : SMap Bytes := []
  since   : Nat := 0
  refused : Nat := 0                -- NAK reason that every fragment is refused with; 0 = none
  skip    : Bool := false           -- a SKIP has arrived for it
  deriving DecidableEq, Repr

/-- A memory operation that waits for every lower PSN of its context (R387), judged when it arrived. -/
structure MemOp where
  psn    : Nat
  pkt    : Packet
  reason : Nat                      -- NAK reason; 0 = accepted
  addr   : Nat := 0                 -- device address of its 64 bytes
  exp    : Nat := 0                 -- EXPORT_ID
  deriving DecidableEq, Repr

/-- A receive context (R365, R368). -/
structure RxCtx where
  active  : Bool := false
  session : Nat := 0
  expect  : Nat := 0                -- lowest PSN not yet received, with its wraps
  marks   : List Nat := []          -- PSNs marked above EXPECT, rising
  msgs    : List RxMsg := []
  ops     : List MemOp := []
  owed    : Nat := 0                -- arrivals not yet acknowledged
  parts   : Nat × Nat := (0, 0)     -- source and destination partition of the last packet
  openKey : Bool := false           -- the last packet came under the open key
  deriving DecidableEq, Repr

/-- An endpoint context: direction 0 send, 1 receive (R365). [log 41, DEDUCED] -/
inductive Ctx where
  | tx (c : TxCtx)
  | rx (c : RxCtx)
  deriving DecidableEq, Repr

/-- A fence of a tile program (R378): packets and renumbered messages that must still be acknowledged. -/
structure Fence where
  id   : Nat
  tile : Nat
  psns : List (Nat × Nat × Nat)     -- context, PSN, message
  msgs : List Nat := []             -- messages numbered before the fence and renumbered since
  lost : Bool := false
  deriving DecidableEq, Repr

/-- An open export (R383). -/
structure Export where
  rights   : Nat
  part     : Nat
  any      : Bool
  gen      : Nat
  obj      : Nat
  peerDev  : Nat
  peerPart : Nat
  off      : Nat
  size     : Nat
  deriving DecidableEq, Repr

/-- An open window (R383). -/
structure Window where
  rights   : Nat
  part     : Nat
  tc       : Nat
  gen      : Nat
  exp      : Nat
  dev      : Nat
  peerPart : Nat
  size     : Nat
  deriving DecidableEq, Repr

/-- A message or operation that the transport has ended, on its way to its unit (R372, R373). -/
structure Ended where
  peer    : Nat
  msg     : TxMsg
  status  : Nat                     -- NAK reason, or 11 TARGET_LOST
  deriving DecidableEq, Repr

/-- The transport block. -/
structure Xpt where
  maps      : SMap CompMap := []       -- map in force, by composition
  digests   : SMap Bytes := []         -- digest of the image of the map in force, by composition
  lastMap   : SMap (CompMap × Nat) := []  -- the map before the one in force and the last step of its drain window, by composition
  proposals : List Proposal := []
  votes     : List (Nat × Nat × Nat × Bytes) := []  -- accepting Votes: composition, epoch, voter, digest
  lastProp  : Nat := 0                 -- composition of the last proposal
  inbox     : List Inbox := []         -- delivered messages, oldest first
  routes    : SMap Word := []          -- route entries other than zero, by destination device
  ctxs      : SMap Ctx := []           -- every context that is not as after cold reset, by number
  cached    : List Nat := []           -- contexts on the chip, least recently used first (R366)
  fetching  : List Nat := []           -- contexts being fetched
  miss      : List (Nat × Bytes) := [] -- frames in the miss buffer: receive context and bytes
  rx        : List Packet := []        -- packets whose tag has verified, oldest first
  fwd       : List (Nat × Bytes) := [] -- frames to be forwarded: link and bytes
  nextNum   : Nat := 0
  fences    : List Fence := []
  exports   : SMap Export := []
  gens      : SMap Nat := []           -- last GEN assigned, by EXPORT_ID
  windows   : SMap Window := []
  revoking  : Option Nat := none       -- export whose revoke has not completed
  ended     : List Ended := []
  exchanged : List (Nat × Nat × Nat) := []  -- exchange messages complete in this step: partition, source device, ID (R381)
  deriving DecidableEq, Repr

/-! ## Links (11) -/

/-- A codeword that waits for its turn in the order of CW_COUNT (R330): its FRAME_PTR and its descrambled bytes; none where it was
uncorrectable. -/
structure Codeword where
  count : Nat
  ptr   : Nat
  bytes : Option Bytes
  deriving DecidableEq, Repr

/-- What one end of a link holds beside its page's registers (R329–R351, R463–R465). -/
structure Link where
  stage    : Nat := 0              -- training stage of R339 that runs, 1–6; 0 = none
  retuned  : Bool := false         -- the lanes have been retuned for version 1 in this training
  lanes    : Nat := 0xF            -- receive lanes that the training still counts on
  rxGood   : Nat := 0              -- RX_GOOD sent
  reqOut   : Nat := 0              -- RETRAIN_REQ sent
  reqIn    : Nat := 0              -- RETRAIN_REQ received
  peerGood : Nat := 0              -- RX_GOOD received
  rxDown   : Bool := false         -- RX_DOWN sent
  badAt    : SMap (List Nat) := [] -- almanac times of recent uncorrectable codewords, by lane
  goodRun  : SMap Nat := []        -- successive correctable codewords of a lane being retrained
  ownCap   : Bytes := []           -- capability message sent
  peerCap  : Bytes := []           -- capability message received
  frags    : SMap Bytes := []      -- credential fragments received
  cred     : Bytes := []           -- the peer's credential once accepted
  ownCt    : Bytes := []           -- ciphertext sent, and its shared secret
  ownSs    : Bytes := []
  peerCt   : Bytes := []           -- ciphertext received
  lck0     : Bytes := []
  lck      : Bytes := []           -- link control key; empty = none
  txSeq    : Nat := 0              -- LSEQ of the next frame sent
  rxSeq    : Nat := 0              -- LSEQ expected next
  ctl      : List (Nat × Bytes) := []   -- control frames ready: CTRL_TYPE and payload (R337)
  rx       : List Codeword := []   -- reorder buffer
  nextCw   : Option Nat := none    -- CW_COUNT due next; none until a codeword gives it
  hunt     : Bool := true          -- resume at the next FRAME_PTR (R332)
  stream   : Bytes := []           -- bytes of the frame in progress
  frames   : List Bytes := []      -- frames received and not yet checked
  heard    : List (Nat × Nat × Bytes) := []  -- control frames that passed R335: CTRL_TYPE, STEP (LINK_SEQ of a Test frame) and payload
  alive    : Nat := 0              -- almanac time of the last Keepalive
  tested   : Bool := true          -- no Test frame failed in this SELFTEST and no codeword was uncorrectable
  symbols  : SMap (Nat × Nat) := []     -- symbols received and corrected in this SELFTEST, by lane
  delays   : Nat := 0              -- delay measurements in this SELFTEST
  passed   : Bool := false         -- this end has passed its self-test
  planDue  : Bool := false         -- PLAN has changed during this training: a Margin frame is owed (R538)
  proposed : Option Nat := none    -- step this end has proposed
  admitAt    : Option Nat := none    -- step of admission confirmed
  busy     : Option (Nat × Nat × Nat) := none  -- frame being sent: start tick, bytes, end tick of its entry
  deriving DecidableEq, Repr

/-! ## Egress queues (13) -/

/-- A frame in an egress queue: bytes with LINK_SEQ zero and no CRC, the tick at which it was enqueued, and the packet it carries. -/
structure QFrame where
  bytes : Bytes
  since : Nat
  org   : Option (Nat × Nat) := none   -- send context and PSN, for a numbered packet
  gate  : Bool := false                -- it has waited for a gate as head
  held  : Bool := false                -- it has been held by the policer as head
  deriving DecidableEq, Repr

/-- What the sampler counts of a queue since its previous record (R418). -/
structure Sample where
  sent   : Nat := 0
  maxAge : Nat := 0
  full   : Bool := false
  deriving DecidableEq, Repr

/-- The queues of a link (R400–R418). -/
structure Shp where
  queues  : SMap (List QFrame) := []   -- by queue, head first
  vtime   : Nat := 0                   -- V
  tags    : SMap Nat := []             -- finish tag of the last head frame, by queue
  cbucket : SMap Nat := []             -- committed bucket, by queue; unlisted = full
  pbucket : SMap Nat := []             -- peak bucket, by queue; unlisted = full
  samples : SMap Sample := []
  stopped : Bool := false              -- the sampler has stopped on a failed write
  switch  : Option (List Word) := none -- a calendar that row 9 has passed: in force at offset 0 of the next step
  writer  : Option Writer := none      -- who wrote the commit that waits for row 9
  trunc   : List Nat := []             -- positions of the calendar in force that no longer fit the cycle (R411)
  dead    : List Nat := []             -- positions whose partition has been deleted (R412)
  deriving DecidableEq, Repr

/-! ## Security (15) -/

/-- Pair keys with a peer (R467, R469). -/
structure Pair where
  dev    : Nat
  serial : Nat
  pmk    : Bytes
  made   : Nat                   -- step in which the PMK was made
  ctrlTx : Nat := 0              -- CTRL_COUNT of the next frame sent
  rxHigh : Nat := 0              -- highest CTRL_COUNT accepted, plus 1
  rxSeen : List Nat := []        -- those accepted within 4,096 of it
  deriving DecidableEq, Repr

/-- A pair handshake (R467). -/
structure Shake where
  dev      : Nat
  hid      : Nat
  own      : Bool                -- this device chose the HID
  start    : Nat                 -- almanac time
  cred     : Bytes := []         -- the peer's credential as received
  accepted : Bool := false
  ownCt    : Bytes := []
  ownSs    : Bytes := []
  peerCt   : Bytes := []
  pmk      : Bytes := []
  deriving DecidableEq, Repr

/-- The replay window and keys of a management or key session (R479, R481). -/
structure Session where
  id    : Nat
  slot  : Nat := 0
  up    : Bytes                  -- key of DIR 0
  dn    : Bytes                  -- key of DIR 1
  seqTx : Nat := 0
  high  : Nat := 0               -- highest SEQ accepted, plus 1
  seen  : List Nat := []
  last  : Nat := 0               -- almanac time of the last Record
  deriving DecidableEq, Repr

/-- Who asked for the attestation report that is being signed (R476). -/
inductive ReportFor where
  | host (addr : Nat) (writer : Writer)     -- SEC_ATT_CTRL: T3 address
  | nmp (session : Nat) (head : Bytes) (cred : Bool)   -- Report command: its header, and whether it asks for the credential
  | hello (slot : Nat) (hello : Bytes)      -- Accept of a Hello
  | spdm                                    -- SPDM Report request
  | keyOpen (request : Bytes)               -- SPDM Key open
  deriving DecidableEq, Repr

/-- A seal in progress (R474). -/
structure Seal where
  part : Nat
  obj  : Nat
  rcpt : List Nat                -- serials
  addr : Nat
  deriving DecidableEq, Repr

/-- The security block. -/
structure Sec where
  running  : Bytes := []              -- bytes 0–255 of the header of the firmware that runs; empty = none
  cert     : Bytes := []              -- identity certificate kept (R461)
  bootSig  : Bytes := []              -- BOOT_SIG of this start
  creds    : List Bytes := []         -- accepted credentials, oldest first
  pairs    : List Pair := []          -- keys in force
  old      : List (Pair × Nat) := []  -- keys replaced, and the last step in which frames under them are accepted
  shakes   : List Shake := []
  sessions : List Session := []       -- management sessions
  keySess  : Option Session := none   -- IDE key session
  ide      : List (Nat × Nat × Bool × Bytes) := []  -- IDE key sets: set, direction, active, KEY_PROG content
  signing  : Option (ReportFor × Bytes) := none     -- report being signed and its NONCE
  sealing  : Option Seal := none
  deriving DecidableEq, Repr

/-! ## Faults (16) -/

/-- A channel whose events are counted (R496). -/
inductive Chan where
  | lane (link lane : Nat)
  | link (n : Nat)
  | engine (n : Nat)
  | halfBank (stack hb : Nat)
  | stack (n : Nat)
  | tile (n : Nat)
  deriving DecidableEq, Repr

/-- What is counted of a channel (R496, R497, R506). -/
structure ChanRec where
  events  : List Nat := []     -- almanac times of its events, newest first
  cls     : Nat := 0           -- class of its last event (R515); 0 = none yet
  fails   : Nat := 0           -- consecutive retrain failures
  perm    : Bool := false      -- judged permanent
  corr    : Nat := 0           -- corrected words since its last event (half-banks)
  attempt : Nat := 0           -- attempts of its return to service
  deriving DecidableEq, Repr

/-- Where a unit on its way back to service stands (R505). -/
inductive Stage where
  | selfTest | load | awaiting
  deriving DecidableEq, Repr

/-- A unit returning to service (R505, R506). -/
structure Return where
  chan  : Chan
  stage : Stage
  deriving DecidableEq, Repr

/-- The fault block. -/
structure Flt where
  log     : SMap Bytes := []             -- FLT_LOG, by entry (R515)
  chans   : List (Chan × ChanRec) := []  -- channels with anything counted
  seen    : SMap Nat := []               -- watched peers: almanac time at which each was last counted present (R493)
  sentTo  : SMap Nat := []               -- almanac time of the last data frame sent to each peer
  gone    : List Nat := []               -- peers declared lost and not named by a new epoch since
  returns : List Return := []
  repair  : Option Chan := none          -- half-bank under repair, or tile under retest (R504, R514)
  mute    : Bool := false                -- a fatal device error: no data frame but Departures (R510)
  deriving DecidableEq, Repr

/-! ## Start-up, power and the vigil (17) -/

/-- Where the module stands in its start-up (R520, R521), and its power (R524, R529). -/
structure Pwr where
  done    : List Nat := []                 -- start-up stages finished since the last reset, oldest first
  off     : Bool := false                  -- every rail is off (R529)
  perst   : Bool := true                   -- PERST# is asserted; so it is when power comes (R567)
  config  : Bool := false                  -- CXL configuration requests are answered (R521)
  active  : Bool := false                  -- Memory_Active of the CXL DVSEC range
  purging : Option (Nat × Nat) := none     -- a purge runs: session and TAG of its command (R554)
  purged  : Bool := false                  -- purged: only management commands are served
  deriving DecidableEq, Repr

/-- The vigil (R530–R533). -/
structure Vgl where
  armed : Option (Nat × Nat) := none    -- armed trigger: almanac time, and its SOURCE (1 timed, 3 peer)
  now   : Bool := false                 -- latch at the next tick
  fault : Bool := false                 -- a fault record of a class in VGL_FAULT_MASK has been written
  snap  : SMap Word := []               -- SNAP words other than zero, by BAR0 address
  deriving DecidableEq, Repr

end Sys2Proof.Machine
end

