-- ==== Sys2Proof/Machine/State.lean ====
section
/-! DEFINITION. The state of the module as plain data, and the state after cold reset. -/

namespace Sys2Proof.Machine

open Sys2Proof

/-- Something that has left the device. The list of these is the model's own record; the spec's agents see each as it happens. -/
inductive Out where
  | hostWrite (addr : Nat) (data : Bytes)          -- a CXL.cache write to host memory (R432), by host physical address
  | msix (vector : Nat)                            -- an MSI-X write (R446)
  | memData (data : Bytes)                         -- the answer to a CXL.mem read (R429)
  | bisnp (line : Nat)                             -- a back-invalidate snoop (R431), by DPA line
  | rspI (addr : Nat)                              -- the answer to a host snoop (R426)
  | aer                                            -- uncorrectable non-fatal error through AER (R430)
  | viral                                          -- viral signalled on CXL.cachemem (R448)
  | regData (value : Nat)                          -- the answer to a register read
  | frame (link : Nat) (bytes : Bytes)             -- a frame placed on a link (R332)
  | datagram (bytes : Bytes)                       -- a management datagram (R478)
  | spdm (bytes : Bytes)                           -- an answer on the DOE mailbox (R480)
  | loadDone (tile num status : Nat) (data : Bytes)  -- a LOAD or STORE of a tile ends (R388)
  | fenceDone (tile id status : Nat)               -- a fence completes (R378)
  | linkOff (link : Nat)                           -- a link's lasers go dark (R510)
  | rails (on : Bool)                              -- the rails are turned on or off (R529)
  deriving DecidableEq, Repr

/-- Everything the module holds beside its fuses and the queue of waiting commands. [log 7, DESIGN CHOICE] -/
structure Chip where
  regs   : SMap Word := []           -- every register, by BAR0 address; unlisted = its reset value
  mem    : List Host.Cell := []      -- T0, T1 and T2 by physical device address; unlisted = 0
  alm    : Alm := {}
  parts  : List Part := List.replicate 8 {}
  glb    : Glb := {}
  cxl    : Cxl := {}
  rtb    : Rtb := {}
  pfx    : Pfx := {}
  smv    : Smv := {}
  tiles  : SMap Tile := []
  sch    : Sch := {}
  sdgs   : SMap Sdg := []
  memu   : Memu := {}
  links  : SMap Link := []           -- by link; unlisted = as after cold reset
  xpt    : Xpt := {}
  shps   : SMap Shp := []            -- by link
  sec    : Sec := {}
  flt    : Flt := {}
  pwr    : Pwr := {}
  vgl    : Vgl := {}
  t3seen : SMap Bytes := []          -- tables in host memory as the device last read them, by device address
  out    : List Out := []            -- what has left the device, oldest first (the model's own field)
  free   : Nat := 0                  -- free values drawn so far (the model's own field)
  deriving DecidableEq, Repr

/-- What the fuses hold (R457, R459): they survive every reset. -/
structure Fuses where
  ownerKey : Option Bytes := none     -- owner key digest, 64 bytes
  mgmtRoot : Option Bytes := none     -- management root digest, 64 bytes
  minSvn   : Nat := 0
  deriving DecidableEq, Repr

/-- The module's state: the chip, its fuses, and the commands that wait, first in, first out. -/
structure State where
  chip    : Chip := {}
  fuses   : Fuses := {}
  pending : List Instr := []
  deriving DecidableEq, Repr

/-- The module right after a cold reset with nothing fused (R17, R518): every register at its reset value, memory with nothing listed, no
command waiting. [log 3, DESIGN CHOICE] [log 13, DESIGN CHOICE] -/
def State.reset : State := { chip := {}, fuses := {}, pending := [] }

/-- Why the machine stops: never. Every command of the module has an effect in every state, so no reason is declared. Safe. [log 2, DESIGN CHOICE] -/
inductive Fault where
  deriving DecidableEq, Repr

/-- Why a command is turned away: only where it has no meaning yet, named in its arm of Dispatch.lean. Safe. [log 2, DESIGN CHOICE] -/
inductive Refusal where
  | notModelled (mnemonic : String)
  deriving DecidableEq, Repr

end Sys2Proof.Machine
end

