-- ==== Sys2Proof/Machine/Regs.lean ====
section
/-! DEFINITION. The page directory (R551, R552), reset values of every register, and the one operation that reads a stored
register and the one that writes it. -/

namespace Sys2Proof.Machine

open Sys2Proof

/-! Directory index of the single-instance pages, and of instance n of the others (R552). -/
namespace Pg
abbrev GLB : Nat := 0
abbrev PWR : Nat := 1
abbrev ALM : Nat := 2
abbrev SEC : Nat := 3
abbrev CXL : Nat := 4
abbrev XPT : Nat := 5
abbrev SMV : Nat := 6
abbrev RTB : Nat := 7
abbrev PFX : Nat := 8
abbrev SCH : Nat := 9
abbrev FLT : Nat := 10
abbrev VGL : Nat := 11
/-- TIL page of physical tile n. -/
def til (n : Nat) : Nat := 12 + n
/-- MEM page of stack n. -/
def mem (n : Nat) : Nat := 80 + n
/-- SDG page of stack n. -/
def sdg (n : Nat) : Nat := 104 + n
/-- LNK page of link n. -/
def lnk (n : Nat) : Nat := 128 + n
/-- OPT page of engine n. -/
def opt (n : Nat) : Nat := 176 + n
/-- CAL page of link n. -/
def cal (n : Nat) : Nat := 188 + n
/-- SHP page of link n. -/
def shp (n : Nat) : Nat := 236 + n
end Pg

/-- BAR0 offset of page i (R551). -/
def pageBase (pg : Nat) : Nat := 0x1000 * pg

/-- The blocks that have a page (R39). -/
inductive Blk where
  | glb | pwr | alm | sec | cxl | xpt | smv | rtb | pfx | sch | flt | vgl | til | mem | sdg | lnk | opt | cal | shp
  deriving DecidableEq, Repr

/-- A page's block and instance number; none beyond the directory (R551, R552). -/
def blkOf (pg : Nat) : Option (Blk × Nat) :=
  match pg with
  | 0 => some (.glb, 0) | 1 => some (.pwr, 0) | 2 => some (.alm, 0) | 3 => some (.sec, 0) | 4 => some (.cxl, 0)
  | 5 => some (.xpt, 0) | 6 => some (.smv, 0) | 7 => some (.rtb, 0) | 8 => some (.pfx, 0) | 9 => some (.sch, 0)
  | 10 => some (.flt, 0) | 11 => some (.vgl, 0)
  | _ =>
    if pg < 80 then some (.til, pg - 12) else if pg < 104 then some (.mem, pg - 80)
    else if pg < 128 then some (.sdg, pg - 104) else if pg < 176 then some (.lnk, pg - 128)
    else if pg < 188 then some (.opt, pg - 176) else if pg < 236 then some (.cal, pg - 188)
    else if pg < 284 then some (.shp, pg - 236) else none

/-- TYPE code of a block (R552). -/
def Blk.type : Blk → Nat
  | .glb => 0x01 | .pwr => 0x02 | .alm => 0x03 | .sec => 0x04 | .cxl => 0x05 | .xpt => 0x06 | .smv => 0x07 | .rtb => 0x08
  | .pfx => 0x09 | .sch => 0x0A | .flt => 0x0B | .vgl => 0x0C | .til => 0x0D | .mem => 0x0E | .sdg => 0x0F | .lnk => 0x10
  | .opt => 0x11 | .cal => 0x12 | .shp => 0x13

/-- Instances of a block on the module (R39). -/
def Blk.instances : Blk → Nat
  | .til => 68 | .mem => 24 | .sdg => 24 | .lnk => 48 | .opt => 12 | .cal => 48 | .shp => 48
  | _ => 1

/-- The register rows of a block's page. -/
def Blk.rows : Blk → List RegRow
  | .glb => rowsGLB | .pwr => rowsPWR | .alm => rowsALM | .sec => rowsSEC | .cxl => rowsCXL | .xpt => rowsXPT | .smv => rowsSMV
  | .rtb => rowsRTB | .pfx => rowsPFX | .sch => rowsSCH | .flt => rowsFLT | .vgl => rowsVGL | .til => rowsTIL | .mem => rowsMEM
  | .sdg => rowsSDG | .lnk => rowsLNK | .opt => rowsOPT | .cal => rowsCAL | .shp => rowsSHP

/-- Is the page counted: TIL, LNK and MEM pages (R543)? -/
def Blk.counted : Blk → Bool
  | .til | .lnk | .mem => true
  | _ => false

/-- Does OWNER reset to the management network (R552)? -/
def Blk.mgmt : Blk → Bool
  | .pwr | .alm | .sec | .xpt | .flt | .vgl | .lnk | .opt | .cal | .shp => true
  | _ => false

/-- The row of a register table that covers an offset, and which register of the row it is. -/
def rowAt : List RegRow → Nat → Option (RegRow × Nat)
  | [],     _ => none
  | r :: l, o =>
    if r.off ≤ o && (o - r.off) % r.stride == 0 && (o - r.off) / r.stride < r.count then some (r, (o - r.off) / r.stride)
    else rowAt l o

/-- The module-wide registers of a MEM page lie on the M00 page alone (09): elsewhere they are no registers. -/
def rowHere (b : Blk) (inst off : Nat) : Option (RegRow × Nat) :=
  if b = .mem && inst ≠ 0 && off ≥ 0x400 then none else rowAt b.rows off

/-- T2 addresses the device lays out in object 4,095 (R282), and the other values a page loads from the device's own
configuration (R17, "HW"). [log 11, DESIGN CHOICE] -/
def hwReset (b : Blk) (inst off : Nat) : Option Nat :=
  match b, off with
  | .glb, 0x100 => some (leNat (ascii "ISV-"))
  | .glb, 0x104 => some (leNat (ascii "LK8-"))
  | .glb, 0x108 => some (leNat (ascii "1920"))
  | .glb, 0x110 => some 0x11
  | .glb, 0x114 => some (Config.serial.toNat % 2 ^ 32)
  | .glb, 0x118 => some (Config.serial.toNat / 2 ^ 32)
  | .rtb, 0x10C => some 0x0002FFF0
  | .rtb, 0x110 => some 0x04000000
  | .rtb, 0x114 => some 0x0002FFF0
  | .rtb, 0x140 => some 0x10000
  | .rtb, 0x160 => some 0x10000
  | .smv, 0x148 => some 0x04400000
  | .smv, 0x14C => some 0x0002FFF0
  | .sch, 0x150 => some 0x04500000
  | .sch, 0x154 => some 0x0002FFF0
  | .mem, 0x10C => some ((0x40000000000 + inst * 2 ^ 37) / 2 ^ 32)
  | .til, 0x100 => some (127 * 16 + (inst / 17) * 2 ^ 16)
  | .sch, _ => if 0x180 ≤ off && off < 0x1C0 then some (2000 * 256 + (off - 0x180) / 4) else none
  | _, _ => none

/-- A header register's value after cold reset (R542, R543). SNAP_WORDS is left to the view (Registers.lean). [log 11, DESIGN CHOICE] -/
def hdrReset (b : Blk) (inst off : Nat) : Nat :=
  if off = Reg.BLK_ID then b.type + inst * 2 ^ 16
  else if off = Reg.BLK_VER then 0x00010000
  else if off = Reg.BLK_CAP then b.instances + b2n b.counted * 2 ^ 24
  else if off = Reg.BLK_CTRL then 1
  else if off = Reg.WIN_CFG then (if b.counted then 8 + 1000 * 2 ^ 8 + 3 * 2 ^ 24 else 0)
  else if off = Reg.OWNER then b2n b.mgmt
  else 0

/-- The value of the register at a BAR0 address after cold reset (R17). [log 11, DESIGN CHOICE] [log 13, DESIGN CHOICE] -/
def resetWord (a : Nat) : Word :=
  match blkOf (a / 0x1000) with
  | none => 0
  | some (b, inst) =>
    let off := a % 0x1000
    if off < 0x100 then BitVec.ofNat 32 (hdrReset b inst off)
    else match hwReset b inst off with
      | some v => BitVec.ofNat 32 v
      | none => match rowHere b inst off with
        | some (r, _) => BitVec.ofNat 32 r.reset
        | none => 0

/-- The stored value of the register at a BAR0 address. [log 13, DESIGN CHOICE] -/
def Chip.word (s : Chip) (a : Nat) : Word := s.regs.getD a (resetWord a)

/-- The stored value, as a number. -/
def Chip.rd (s : Chip) (a : Nat) : Nat := (s.word a).toNat

/-- Store a register value; a register at its reset value is not listed, so that equal register files are equal data. -/
def Chip.wr (s : Chip) (a v : Nat) : Chip := { s with regs := s.regs.putOr a (resetWord a) (BitVec.ofNat 32 v) }

/-- Read a field. -/
def Chip.rf (s : Chip) (f : Fld) : Nat := bits (s.rd f.reg) f.hi f.lo

/-- Write a field. -/
def Chip.wf (s : Chip) (f : Fld) (v : Nat) : Chip := s.wr f.reg (putBits (s.rd f.reg) f.hi f.lo v)

/-- A 64-bit value in a LO register and the HI register after it. -/
def Chip.rd64 (s : Chip) (lo : Nat) : Nat := s.rd lo + s.rd (lo + 4) * 2 ^ 32

/-- Store a 64-bit value in a LO and HI pair. -/
def Chip.wr64 (s : Chip) (lo v : Nat) : Chip := (s.wr lo (v % 2 ^ 32)).wr (lo + 4) (v / 2 ^ 32 % 2 ^ 32)

/-- Add to a 64-bit counter, which wraps. -/
def Chip.add64 (s : Chip) (lo n : Nat) : Chip := s.wr64 lo ((s.rd64 lo + n) % 2 ^ 64)

/-- Add to a counter that saturates. -/
def Chip.cntBy (s : Chip) (a n : Nat) : Chip := s.wr a (sat32 (s.rd a + n))

/-- Count one. -/
def Chip.cnt (s : Chip) (a : Nat) : Chip := s.cntBy a 1

/-- Lower a count that is not below n. -/
def Chip.sub (s : Chip) (a n : Nat) : Chip := s.wr a (s.rd a - n)

/-- A register of page `pg` at page offset `off`. -/
def regAt (pg off : Nat) : Nat := pageBase pg + off

/-- A field of page `pg`. -/
def Fld.on (f : Fld) (pg : Nat) : Fld := f.plus (pageBase pg)

/-- Record something that leaves the device. [log 7, DESIGN CHOICE] -/
def Chip.emit (s : Chip) (o : Out) : Chip := { s with out := s.out ++ [o] }

end Sys2Proof.Machine
end

