-- ==== Sys2Proof/Machine/Ops.lean ====
section
/-! DEFINITION. The named operations every family uses: time and step (R44, R45), partitions and composition maps, the channel-group
and tile owners in force, and memory by device address (R276–R285). -/

namespace Sys2Proof.Machine

open Sys2Proof

/-! ## Time (R44, R45) -/

/-- The plan in force. -/
def Chip.plan (s : Chip) : Plan :=
  ⟨s.rd Reg.ALM_CUR_CADENCE, s.rd Reg.ALM_CUR_BW_LEN, s.rd Reg.ALM_CUR_EXCH, s.rd Reg.ALM_CUR_SETTLE⟩

/-- Ticks since the base time of the plan in force; 0 before it. -/
def Chip.ticks (s : Chip) : Nat := (s.alm.now - s.rd64 Reg.ALM_BASE_TIME_LO) / 10

/-- The current step number (R45). A device that waits for the moment of a plan adopted late stays in its step until then (R579). -/
def Chip.step (s : Chip) : Nat :=
  let n := s.rd64 Reg.ALM_BASE_STEP_LO + s.ticks / max 1 s.plan.c
  match s.alm.late, s.alm.stepTaken with
  | some _, some m => min n m
  | _, _ => n

/-- The offset in ticks from the start of the step (R45). -/
def Chip.offset (s : Chip) : Nat := s.ticks - (s.step - s.rd64 Reg.ALM_BASE_STEP_LO) * max 1 s.plan.c

/-- Phase of an offset under a plan: 0 Boundary window, 1 Compute, 2 Exchange, 3 Settle (R44, R69). -/
def Plan.phase (p : Plan) (off : Nat) : Nat :=
  if off < p.w then 0 else if off < p.x then 1 else if off < p.s then 2 else 3

/-- The current phase. -/
def Chip.phase (s : Chip) : Nat := s.plan.phase s.offset

/-- The almanac time at which a step begins under the plan in force; before the base step, the base time. -/
def Chip.stepTime (s : Chip) (n : Nat) : Nat :=
  s.rd64 Reg.ALM_BASE_TIME_LO + (n - s.rd64 Reg.ALM_BASE_STEP_LO) * 10 * s.plan.c

/-- Does a plan keep the limits of R44? -/
def Plan.legal (p : Plan) : Bool :=
  100000 ≤ p.c && p.c ≤ 10000000 && p.c % 1000 == 0 && 5000 ≤ p.w && p.w ≤ p.c / 4
    && p.w + 1000 ≤ p.x && p.x ≤ p.s && p.s + 1000 ≤ p.c

/-- Is the device locked (ALM_STATE.LOCK = 2, R56)? -/
def Chip.locked (s : Chip) : Bool := s.rf F.ALM_STATE_LOCK == 2

/-! ## Partitions and compositions (R24–R32, R48) -/

/-- This device's number. -/
def Chip.selfDev (s : Chip) : Nat := s.rf F.XPT_SELF_DEVICE

/-- A partition's record. -/
def Chip.part (s : Chip) (p : Nat) : Part := s.parts.getD p {}

/-- Replace a partition's record. -/
def Chip.setPart (s : Chip) (p : Nat) (f : Part → Part) : Chip := { s with parts := updAt s.parts p f }

/-- Does partition p exist (GLB_PART_CUR)? -/
def Chip.partExists (s : Chip) (p : Nat) : Bool := p < 8 && bit (s.rd Reg.GLB_PART_CUR) p

/-- The role in force. -/
def Chip.role (s : Chip) (p : Nat) : Role := (s.part p).role

/-- Is a role change pending (R31)? -/
def Chip.rolePending (s : Chip) (p : Nat) : Bool :=
  let x := s.part p
  (x.pending.isSome && decide (x.since ≤ s.step)) || x.due.isSome

/-- The composition a partition belongs to. -/
def Chip.compOf (s : Chip) (p : Nat) : Option Nat := (s.part p).comp

/-- Does any partition of the module belong to a composition (R48)? -/
def Chip.inComposition (s : Chip) : Bool := s.parts.any (fun p => p.comp.isSome)

/-- The map in force of a composition. -/
def Chip.map (s : Chip) (comp : Nat) : Option CompMap := s.xpt.maps.find comp

/-- The epoch in force of a composition, 0 for none. -/
def Chip.epochOf (s : Chip) (comp : Nat) : Nat := ((s.map comp).map (·.epoch)).getD 0

/-- Members of the map in force. -/
def Chip.members (s : Chip) (comp : Nat) : List Member := ((s.map comp).map (·.members)).getD []

/-- Is a device in the map in force of a composition? -/
def Chip.present (s : Chip) (comp dev : Nat) : Bool := (s.members comp).any (fun m => m.dev == dev)

/-- The role the map in force gives a partition of a device. -/
def Chip.memberRole (s : Chip) (comp dev part : Nat) : Option Role :=
  ((s.members comp).find? (fun m => m.dev == dev && m.part == part)).map (·.role)

/-- The lowest-numbered partition of a device in the map in force (R90). -/
def Chip.lowestPart (s : Chip) (comp dev : Nat) : Nat :=
  (((s.members comp).filter (fun m => m.dev == dev)).map (·.part)).foldl min 8 % 8

/-- COMPOSITION, ORIGIN and SERIAL of a RID (R71). -/
def ridComp (rid : Nat) : Nat := bits rid 63 48
/-- ORIGIN of a RID. -/
def ridOrigin (rid : Nat) : Nat := bits rid 47 32
/-- SERIAL of a RID. -/
def ridSerial (rid : Nat) : Nat := bits rid 31 0
/-- Index of a RID's entry in the locator and emitted-position tables (R103, R158). -/
def locIdx (rid : Nat) : Nat := ridSerial rid % 262144

/-! ## Ownership of units in force -/

/-- Owner of channel group g of stack st (MEM_CG_CUR, R281). -/
def Chip.cgOwner (s : Chip) (st g : Nat) : Option Nat :=
  let v := s.rd (regAt (Pg.mem st) (Reg.MEM_CG_CUR + 4 * g))
  if bit v 7 then some (bits v 2 0) else none

/-- Stacks in which partition p owns at least one channel group, in ascending order (L of R248). -/
def Chip.stacksOf (s : Chip) (p : Nat) : List Nat :=
  below 24 (fun st => (List.range 8).any (fun g => s.cgOwner st g == some p))

/-- Owner of a logical tile in force (GLB_LT_OWN_CUR). -/
def Chip.ltOwner (s : Chip) (lt : Nat) : Option Nat :=
  let v := bits (s.rd (Reg.GLB_LT_OWN_CUR + 4 * (lt / 4))) (8 * (lt % 4) + 7) (8 * (lt % 4))
  if bit v 7 then some (bits v 2 0) else none

/-- The physical tile that serves a logical tile (TIL_MAP of an ACTIVE tile, R168). -/
def Chip.physOf (s : Chip) (lt : Nat) : Option Nat :=
  (List.range 68).find? (fun t => s.rf (F.TIL_MAP_STATE.on (Pg.til t)) == 1 && s.rf (F.TIL_MAP_LOGICAL.on (Pg.til t)) == lt)

/-- The logical tile a physical tile serves, where it is ACTIVE. -/
def Chip.logicalOf (s : Chip) (t : Nat) : Option Nat :=
  if s.rf (F.TIL_MAP_STATE.on (Pg.til t)) == 1 then some (s.rf (F.TIL_MAP_LOGICAL.on (Pg.til t))) else none

/-- Owned logical tiles of partition p on die d that a physical tile serves, in ascending order (R201). -/
def Chip.tilesOf (s : Chip) (p d : Nat) : List Nat :=
  (below 64 (fun lt => lt / 16 == d && s.ltOwner lt == some p)).filter (fun lt => (s.physOf lt).isSome)

/-- The record of a physical tile. -/
def Chip.tile (s : Chip) (t : Nat) : Tile := s.tiles.getD t {}
/-- Change the record of a physical tile. -/
def Chip.setTile (s : Chip) (t : Nat) (f : Tile → Tile) : Chip := { s with tiles := s.tiles.upd t {} f }
/-- The Sedge group of a stack. -/
def Chip.sdgAt (s : Chip) (st : Nat) : Sdg := s.sdgs.getD st {}
/-- Operand store units that running segments hold. -/
def Sdg.unitsUsed (g : Sdg) : Nat := (g.running.map (fun x => x.2.units)).foldl (· + ·) 0
/-- Change the Sedge group of a stack. -/
def Chip.setSdg (s : Chip) (st : Nat) (f : Sdg → Sdg) : Chip := { s with sdgs := s.sdgs.upd st {} f }

/-! ## Memory bytes -/

/-- A byte of memory; an unlisted address reads as 0. [log 3, DESIGN CHOICE] -/
def memGet : List Host.Cell → Nat → Byte
  | [],          _ => 0
  | (k, v) :: m, a => if k = a then v else memGet m a

/-- Memory with the bytes from `a` replaced: entries stay in rising order and no zero byte is listed. [log 3, DESIGN CHOICE] -/
def memWrite (m : List Host.Cell) (a : Nat) (bs : Bytes) : List Host.Cell :=
  m.filter (fun c => c.1 < a)
    ++ ((bs.zipIdx a).filter (fun p => p.1 != 0)).map (fun p => (p.2, p.1))
    ++ m.filter (fun c => a + bs.length ≤ c.1)

/-- `n` bytes of memory from `a`. -/
def memRead (m : List Host.Cell) (a n : Nat) : Bytes :=
  let l := m.filter (fun c => a ≤ c.1 && c.1 < a + n)
  (List.range n).map (fun i => memGet l (a + i))

/-- The canonical form of memory: addresses strictly rise and no entry equals what an unlisted address reads as. [log 3, DESIGN CHOICE] -/
def Memory.wf (m : List Host.Cell) : Bool := SMap.rising m && m.all (fun c => c.2 != 0)

/-! ## The device address range (R276) -/

/-- Where a device address leads. -/
inductive Loc where
  | phys (a : Nat)                 -- T0, T1 or T2, by physical device address
  | host (hpa : Nat)               -- T3
  | window (w off : Nat)           -- T4
  | unmapped
  deriving DecidableEq, Repr

/-- First device address of the stacks' physical range. -/
def t2Base : Nat := 0x40000000000
/-- First device address of the object range. -/
def objBase : Nat := 0x2000000000000
/-- First device address of the host range. -/
def t3Base : Nat := 0x800000000000
/-- First device address of the remote windows. -/
def t4Base : Nat := 0x1000000000000
/-- First device address of T1. -/
def t1Base : Nat := 0x100000000

/-- T2 physical address of a slot (R280). -/
def slotAddr (st hb slot : Nat) : Nat := t2Base + st * 2 ^ 37 + hb * 2 ^ 25 + slot * 2 ^ 14
/-- Stack of a T2 physical address. -/
def stackOf (a : Nat) : Nat := (a - t2Base) / 2 ^ 37
/-- Half-bank of a T2 physical address. -/
def halfBankOf (a : Nat) : Nat := (a - t2Base) / 2 ^ 25 % 4096
/-- Slot of a T2 physical address. -/
def slotOf (a : Nat) : Nat := (a - t2Base) / 2 ^ 14 % 2048
/-- Half-bank number (R236). -/
def hbNum (die bank half : Nat) : Nat := 256 * die + 2 * bank + half
/-- Bank of a half-bank number. -/
def bankOf (hb : Nat) : Nat := hb % 256 / 2
/-- Die of a half-bank number. -/
def dieOf (hb : Nat) : Nat := hb / 256
/-- Channel group of a half-bank: banks 16g to 16g + 15 (R281). -/
def groupOf (hb : Nat) : Nat := bankOf hb / 16
/-- Is an address in the stacks' physical range? -/
def inT2 (a : Nat) : Bool := t2Base ≤ a && a < 0x80000000000
/-- Is an address in T1? -/
def inT1 (a : Nat) : Bool := t1Base ≤ a && a < 0x300000000
/-- Is an address in T0? -/
def inT0 (a : Nat) : Bool := a < 0x80000000
/-- Is an address in T3? [log 57, DESIGN CHOICE] -/
def inT3 (a : Nat) : Bool := t3Base ≤ a && a < t4Base
/-- Is an address in T4? -/
def inT4 (a : Nat) : Bool := t4Base ≤ a && a < objBase

/-- The device's own descriptor, object 4,095: slot 1,191 of every half-bank (R282). -/
def deviceDesc : Desc :=
  { kind := 1, tier := 2, partition := 0, host := 0, use := 0, id := 0, slotFirst := 1191, slotLast := 1191,
    size := 192 * 512 * 16384, mask := 2 ^ 192 - 1 }

/-- The descriptor of an object, object 4,095 included. -/
def Chip.desc (s : Chip) (o : Nat) : Option Desc := if o = 4095 then some deviceDesc else s.memu.descs.find o

/-- The groups of a MASK in ascending bit order (R284). -/
def Desc.groups (d : Desc) : List Nat := below 192 (fun i => d.mask.testBit i)

/-- Unit size of an object (R284). -/
def Desc.unit (d : Desc) : Nat := if d.tier = 2 then 16384 else 4096

/-- Units the slot range of a descriptor holds (R286). -/
def Desc.capacity (d : Desc) : Nat :=
  let g := d.groups.length
  if d.tier = 2 then 512 * g * (d.slotLast - d.slotFirst + 1) else g * (d.slotLast - d.slotFirst + 1)

/-- Physical address of unit u (R285). -/
def Desc.unitAddr (d : Desc) (u : Nat) : Nat :=
  let gs := d.groups
  let n := max 1 gs.length
  let idx := gs.getD (u % n) 0
  if d.tier = 2 then
    let i := u / n % 512
    slotAddr (idx / 8) (hbNum (i % 16) (16 * (idx % 8) + i / 16 % 16) (i / 256)) (d.slotFirst + u / (512 * n))
  else t1Base + (idx / 16) * 0x80000000 + 4096 * (16 * (d.slotFirst + u / n) + idx % 16)

/-- A slot address after the remap tables (R295). -/
def Chip.remapped (s : Chip) (a : Nat) : Nat :=
  match s.memu.remaps.find? (fun p => p.1 == a / 16384 * 16384) with
  | some p => p.2 + a % 16384
  | none => a

/-- Bytes an object spans: SIZE, or the slots of a page pool's view (R287). -/
def Desc.extent (d : Desc) : Nat := if d.kind = 2 then d.capacity * 16384 else d.size

/-- Where an object's offset lies, remaps included. -/
def Chip.placeOf (s : Chip) (d : Desc) (x : Nat) : Nat := s.remapped (d.unitAddr (x / d.unit) + x % d.unit)

/-- Where a device address leads (R276, R280, R285). -/
def Chip.resolve (s : Chip) (a : Nat) : Loc :=
  if inT0 a then (if a % 0x2000000 < 24 * 2 ^ 20 then .phys a else .unmapped)
  else if inT1 a then .phys a
  else if inT2 a then (if stackOf a < 24 && slotOf a < 1192 then .phys a else .unmapped)
  else if inT3 a then .host (a - t3Base)
  else if inT4 a then .window ((a - t4Base) / 2 ^ 32) (a % 2 ^ 32)
  else if objBase ≤ a && a < 0x3000000000000 then
    let o := (a - objBase) / 2 ^ 36
    let x := (a - objBase) % 2 ^ 36
    match s.desc o with
    | some d => if x < d.extent then .phys (s.remapped (d.unitAddr (x / d.unit) + x % d.unit)) else .unmapped
    | none => .unmapped
  else .unmapped

/-- The partition that owns a physical address: channel group in T2, descriptor in T1, logical tile in T0. -/
def Chip.ownerAt (s : Chip) (a : Nat) : Option Nat :=
  if inT2 a then s.cgOwner (stackOf a) (groupOf (halfBankOf a))
  else if inT0 a then s.ltOwner (a / 0x2000000)
  else none

/-- The memory word of an address: 64 data bytes (R7). -/
def wordOf (a : Nat) : Nat := a / 64 * 64

/-- Words that `n` bytes from `a` touch. -/
def wordsOf (a n : Nat) : List Nat :=
  if n = 0 then [] else (List.range ((a + n - 1) / 64 - a / 64 + 1)).map (fun i => wordOf a + 64 * i)

/-- Bytes of the unit that holds a physical address (R284). -/
def unitSize (a : Nat) : Nat := if inT2 a then 16384 else 4096

/-- Do bytes lie in a unit that is damaged, every read of which fails (R293)? [log 52, DEDUCED] -/
def Chip.unitDown (s : Chip) (a n : Nat) : Bool := s.memu.units.any (fun x => x.1 < a + n && a < x.1 + unitSize x.1)

/-- Is any word of a run of bytes uncorrectable? -/
def Chip.damagedIn (s : Chip) (a n : Nat) : Bool := s.memu.damaged.any (fun w => wordOf a ≤ w && w < a + n) || s.unitDown a n

/-- The 64 bytes of entry i of the prefix table (R114). The place of its page list is the device's. [log 67, DESIGN CHOICE] -/
def PEntry.toBytes (e : PEntry) (i : Nat) : Bytes :=
  padTo 32 e.hash ++ toLE 1 e.state ++ toLE 1 e.partition ++ toLE 1 e.kvFormat ++ toLE 1 (b2n e.pinned) ++ toLE 4 e.blockNo ++ toLE 4 e.refcnt
    ++ toLE 2 e.children ++ toLE 2 e.spans ++ toLE 8 (Config.pageListAddr i).toNat ++ toLE 4 e.lastUse ++ toLE 3 e.parent ++ toLE 1 e.pps

/-- The entries of the prefix table where they lie: 64 bytes each from PFX_TBL_BASE on, by physical address (R113, R283). [log 67, DESIGN CHOICE] -/
def Chip.tableBytes (s : Chip) : List (Nat × Bytes) :=
  s.pfx.table.filterMap (fun x => match s.resolve (s.rd64 Reg.PFX_TBL_BASE_LO / 512 * 512 + 64 * x.1) with
    | .phys p => some (p, x.2.toBytes x.1)
    | _ => none)

/-- Bytes at an address with an image laid over them. -/
def laidOver (a : Nat) (bs : Bytes) (x : Nat × Bytes) : Bytes :=
  if x.1 < a + bs.length && a < x.1 + x.2.length then bs.zipIdx.map (fun b => if x.1 ≤ a + b.2 then x.2.getD (a + b.2 - x.1) b.1 else b.1) else bs

/-- `n` bytes at a physical address, or none where a word is uncorrectable (R293: never delivered). The prefix table shows its entries. [log 67, DESIGN CHOICE] -/
def Chip.readPhys (s : Chip) (a n : Nat) : Option Bytes :=
  if s.damagedIn a n then none else some (s.tableBytes.foldl (laidOver a) (memRead s.mem a n))

/-- Insert a number into a rising list. -/
def insertNat (x : Nat) : List Nat → List Nat
  | []     => [x]
  | y :: l => if x < y then x :: y :: l else if x = y then y :: l else y :: insertNat x l

/-- A device access to `n` bytes meets the lines of the snoop filter among them: a write every one, a read those that the host may have
modified (R431). -/
def Chip.meetLines (s : Chip) (write : Bool) (a n : Nat) : Chip :=
  let hit := (s.cxl.filter.filter (fun x => decide (wordOf a ≤ x.1) && decide (x.1 < a + n) && (write || x.2))).map (·.1)
  if hit.isEmpty then s else { s with cxl := { s.cxl with touched := (s.cxl.touched ++ hit).eraseDups } }

/-- Store bytes at a physical address. A word written whole is no longer damaged, nor a unit once all of its words have been written. `sedge` says who writes: it becomes LAST_WRITER
of every T2 word touched (R267). -/
def Chip.writePhys (s : Chip) (sedge : Bool) (a : Nat) (bs : Bytes) : Chip :=
  let whole := fun w => a ≤ w && w + 64 ≤ a + bs.length
  let touched := if inT2 a then wordsOf a bs.length else []
  { s.meetLines true a bs.length with
    mem := memWrite s.mem a bs
    memu := { s.memu with
      damaged := s.memu.damaged.filter (fun w => !whole w)
      units := (s.memu.units.map (fun x => (x.1, x.2.filter (fun w => !whole w)))).filter (fun x => !x.2.isEmpty)
      sedgeW := if sedge then touched.foldl (fun l w => insertNat w l) s.memu.sedgeW
                else s.memu.sedgeW.filter (fun w => !touched.contains w) } }

/-- Bytes at a device address that lies within one unit of its object, from T0, T1 or T2. -/
def Chip.readDev (s : Chip) (a n : Nat) : Option Bytes :=
  match s.resolve a with
  | .phys p => s.readPhys p n
  | _ => none

/-- Bytes at a device address, read word by word so that units may change between words; none where one fails. -/
def Chip.readRun (s : Chip) (a : Nat) : Nat → Option Bytes
  | 0 => some []
  | n + 1 =>
    match s.readDev (a + 64 * n) 64, s.readRun a n with
    | some w, some l => some (l ++ w)
    | _, _ => none

/-- An image that a command names by address: what memory holds where the address lies in T1 or T2, the bytes the command brought
where it lies in T3 (R584). [log 57, DESIGN CHOICE] -/
def Chip.image (s : Chip) (a n : Nat) (brought : Bytes) : Bytes :=
  if inT3 a then padTo n brought
  else match s.readRun a (ceilDiv n 64) with
    | some bs => padTo n bs
    | none => zeros n

/-- A table that a register places in T2 or T3 (R584): in T3, what the device last read there. [log 57, DESIGN CHOICE] -/
def Chip.tableAt (s : Chip) (a n : Nat) : Bytes := s.image a n (s.t3seen.getD a [])

/-! ## Free values and host writes -/

/-- A free value of `w` bits: nothing is known of it. [log 7, DESIGN CHOICE] [log 8, DESIGN CHOICE] -/
def Chip.draw (s : Chip) (w : Nat) : Chip × Nat := ({ s with free := s.free + 1 }, Config.freeValue s.free w % 2 ^ w)

/-- Fresh random bytes (R457). -/
def Chip.random (s : Chip) (n : Nat) : Chip × Bytes := ({ s with free := s.free + 1 }, padTo n (Config.random s.free n))

/-- A write to host memory; a viral device writes nothing (R448). -/
def Chip.hostWrite (s : Chip) (hpa : Nat) (bs : Bytes) : Chip :=
  if s.rf F.CXL_STAT_VIRAL_OUT = 1 then s else s.emit (.hostWrite hpa bs)

/-! ## Lists -/

/-- Apply a step to every element of a list in order. -/
def Chip.each {α : Type} (s : Chip) (l : List α) (f : Chip → α → Chip) : Chip := l.foldl f s

/-- Insertion into a list sorted by a total order test. -/
def insertBy {α : Type} (le : α → α → Bool) (x : α) : List α → List α
  | []     => [x]
  | y :: l => if le x y then x :: y :: l else y :: insertBy le x l

/-- Insertion sort, stable. -/
def sortBy {α : Type} (le : α → α → Bool) (l : List α) : List α := l.foldr (insertBy le) []

/-- The lowest number at or above `lo` that a list does not hold. -/
def firstFree : (fuel lo : Nat) → List Nat → Nat
  | 0,     lo, _ => lo
  | k + 1, lo, l => if l.contains lo then firstFree k (lo + 1) l else lo

end Sys2Proof.Machine
end

