-- ==== Sys2Proof/Machine/Shake.lean ====
section
/-! DEFINITION. SHAKE256 of FIPS 202, which the spec names for prefix hashes, digests and key derivation (R23, R108). The state is the list of
its 25 lanes, lane (x, y) at x + 5y; constants and offsets are computed as FIPS 202 defines them. -/

namespace Sys2Proof.Machine

open Sys2Proof

/-- A 64-bit lane. -/
abbrev Lane := BitVec 64

/-- The first `n` output bits of the shift register that gives the round constants, from a register value. -/
def lfsrBits : (n reg : Nat) → List Bool
  | 0,     _   => []
  | n + 1, reg => bit reg 0 :: lfsrBits n (if bit reg 7 then (2 * reg % 256) ^^^ 0x71 else 2 * reg)

/-- The constant of a round whose seven bits are given: bit j stands at 2^j − 1. -/
def roundConst (bs : List Bool) : Lane := (bs.zipIdx.filter (·.1)).foldl (fun v b => v ^^^ (1#64 <<< (2 ^ b.2 - 1))) 0#64

/-- The constants of ι, round by round. -/
def iotaConsts : List Lane := (chunksOf 7 (lfsrBits 168 1)).map roundConst

/-- The walk over the lanes other than the first, from (x, y): each lane's place with its offset, step t having offset (t + 1)(t + 2) / 2. -/
def rhoWalk : (left t x y : Nat) → SMap Nat
  | 0,        _, _, _ => []
  | left + 1, t, x, y => (x + 5 * y, (t + 1) * (t + 2) / 2 % 64) :: rhoWalk left (t + 1) y ((2 * x + 3 * y) % 5)

/-- The offsets of ρ, by lane. -/
def rhoOffsets : List Nat := (List.range 25).map (fun i => (((rhoWalk 24 0 1 0).find? (fun p => p.1 == i)).map (·.2)).getD 0)

/-- θ: every lane takes the parity of the column to its left and that of the column to its right, turned by one. -/
def theta (a : List Lane) : List Lane :=
  let rows := chunksOf 5 a
  let par := (List.range 5).map (fun x => rows.foldl (fun v r => v ^^^ r.getD x 0) 0)
  a.zipIdx.map (fun l => l.1 ^^^ par.getD ((l.2 + 4) % 5) 0 ^^^ (par.getD ((l.2 + 1) % 5) 0).rotateLeft 1)

/-- ρ and π: every lane turned by its offset, and lane (x, y) taken from where π finds it. -/
def rhoPi (a : List Lane) : List Lane :=
  let turned := (a.zip rhoOffsets).map (fun l => l.1.rotateLeft l.2)
  (List.range 5).flatMap (fun y => (List.range 5).map (fun x => turned.getD ((x + 3 * y) % 5 + 5 * x) 0))

/-- χ on one row. -/
def chiRow (r : List Lane) : List Lane := r.zipIdx.map (fun l => l.1 ^^^ (r.getD ((l.2 + 2) % 5) 0 &&& ~~~(r.getD ((l.2 + 1) % 5) 0)))

/-- Keccak-f[1600]: the rounds, one for each constant. -/
def permute (a : List Lane) : List Lane :=
  iotaConsts.foldl (fun a k =>
    match (chunksOf 5 (rhoPi (theta a))).flatMap chiRow with
    | l :: ls => (l ^^^ k) :: ls
    | []      => []) a

/-- The lanes of a block of 136 bytes, the rate of SHAKE256, with the capacity's lanes zero. -/
def blockLanes (b : Bytes) : List Lane := (List.range 25).map (fun i => if i < 17 then BitVec.ofNat 64 (le b (8 * i) 8) else 0)

/-- The state after a padded message. -/
def absorbed (p : Bytes) : List Lane :=
  (chunksOf 136 p).foldl (fun a b => permute ((a.zip (blockLanes b)).map (fun l => l.1 ^^^ l.2))) (List.replicate 25 0)

/-- A message with SHAKE's domain bits and padding, in whole blocks. -/
def shakePad (m : Bytes) : Bytes :=
  let body := padTo ((m.length / 136 + 1) * 136) (m ++ [0x1F])
  body.dropLast ++ (body.getLast?.map (· ||| 0x80)).toList

/-- `k` blocks of output from a state. -/
def squeezed : Nat → List Lane → Bytes
  | 0,     _ => []
  | k + 1, a => (a.take 17).flatMap (fun l => toLE 8 l.toNat) ++ squeezed k (permute a)

/-- SHAKE256 of a message, `n` bytes of output. [log 10, DESIGN CHOICE] -/
def shake256 (n : Nat) (m : Bytes) : Bytes := (squeezed (n / 136 + 1) (absorbed (shakePad m))).take n

end Sys2Proof.Machine
end

