-- ==== Sys2Proof/Machine/SecOps.lean ====
section
/-! DEFINITION. Keys and credentials (R454, R456, R460, R462, R466–R470): derivation, what a frame is sent under, replay windows. -/

namespace Sys2Proof.Machine

open Sys2Proof

/-- Digest(x) of R454. -/
def digest (x : Bytes) : Bytes := shake256 64 x

/-- KDF(label, x, n) of R454. -/
def kdf (label : String) (x : Bytes) (n : Nat) : Bytes := shake256 n (ascii label ++ [0] ++ x)

/-- Change the security block. -/
def Chip.setSec (s : Chip) (f : Sec → Sec) : Chip := { s with sec := f s.sec }

/-- The module's serial number as a number. -/
def ownSerial : Nat := Config.serial.toNat

/-! ## The device's own keys (R456) -/

/-- FW_DIGEST of the firmware that runs. -/
def Chip.fwDigest (s : Chip) : Bytes := digest s.sec.running

/-- Identity key pair. -/
def dik : Bytes × Bytes := Config.slhKeyGen true (kdf "DIK" Config.deviceSecret 96)

/-- Alias key pair of the firmware that runs. -/
def Chip.ak (s : Chip) : Bytes × Bytes := Config.slhKeyGen false (kdf "AK" (Config.deviceSecret ++ s.fwDigest) 72)

/-- Device KEM key pair of the firmware that runs. -/
def Chip.dkk (s : Chip) : Bytes × Bytes := Config.kemKeyGen (kdf "KEM" (Config.deviceSecret ++ s.fwDigest) 64)

/-- DIK_PK. -/
def dikPub : Bytes := padTo 64 dik.1
/-- AK_PK. -/
def Chip.akPub (s : Chip) : Bytes := padTo 48 s.ak.1
/-- KEM_EK. -/
def Chip.kemPub (s : Chip) : Bytes := padTo 1568 s.dkk.1

/-- Encapsulate to a public key: ciphertext and shared secret. -/
def Chip.encaps (s : Chip) (pub : Bytes) : Chip × Bytes × Bytes :=
  let (s, r) := s.random 32
  let (c, k) := Config.kemEncaps pub r
  (s, padTo 1568 c, k)

/-- Shared secret of a ciphertext sent to this device. -/
def Chip.decaps (s : Chip) (c : Bytes) : Bytes := Config.kemDecaps s.dkk.2 c

/-- AES-256-GCM: ciphertext followed by its 16-byte tag. -/
def gcmLock (key iv aad plain : Bytes) : Bytes :=
  let (c, t) := Config.gcmSeal key iv aad plain
  padTo plain.length c ++ padTo 16 t

/-- The plaintext of a ciphertext and tag, where the tag verifies. -/
def gcmUnlock (key iv aad cipher tag : Bytes) : Option Bytes := (Config.gcmOpen key iv aad cipher tag).map (padTo cipher.length)

/-! ## The credential (R460, R462) -/

/-- Bytes 0–1,855 of the device's credential. -/
def Chip.credBody (s : Chip) : Bytes :=
  [1, 1] ++ toLE 2 0x0808 ++ toLE 4 (le s.sec.running 12 4) ++ toLE 8 ownSerial ++ s.fwDigest ++ dikPub ++ s.akPub
    ++ slice s.sec.running 96 64 ++ s.kemPub ++ zeros 32

/-- The device's credential. -/
def Chip.credential (s : Chip) : Bytes := s.credBody ++ padTo 29792 s.sec.cert ++ padTo 29792 s.sec.bootSig

/-- SERIAL of a credential. -/
def credSerial (c : Bytes) : Nat := le c 8 8
/-- AK_PK of a credential. -/
def credAk (c : Bytes) : Bytes := slice c 144 48
/-- KEM_EK of a credential. -/
def credKem (c : Bytes) : Bytes := slice c 256 1568

/-- Is a credential held as accepted? -/
def Chip.credHeld (s : Chip) (c : Bytes) : Bool := s.sec.creds.contains c

/-- Is a firmware digest on the allow list (R462)? -/
def Chip.fwAllowed (s : Chip) (d : Bytes) : Bool :=
  (List.range 8).any (fun i => bit (s.rd Reg.SEC_FW_ALLOW_VALID) i
    && (List.range 16).flatMap (fun j => toLE 4 (s.rd (Reg.SEC_FW_ALLOW + 64 * i + 4 * j))) == d)

/-- Is a peer's credential acceptable, for the serial that the exchange names (R462)? A credential held is not verified again. -/
def Chip.credAccepts (s : Chip) (c : Bytes) (serial : Nat) : Bool :=
  c.length == 61440 && le c 0 1 == 1 && le c 1 1 == 1 && digest (slice c 192 64) == Config.vendorDigest
    && (s.credHeld c || (Config.slhVerify true (slice c 192 64) (slice c 8 8 ++ slice c 80 64) (slice c 1856 29792)
      && Config.slhVerify true (slice c 80 64) (slice c 0 1856) (slice c 31648 29792)))
    && decide (s.rd Reg.SEC_PEER_MIN_SVN ≤ le c 4 4)
    && (s.rf F.SEC_CFG_FW_ALLOW_EN == 0 || s.fwAllowed (slice c 16 64))
    && credSerial c == serial

/-- Keep an accepted credential; the oldest makes way beyond 4,096. -/
def Chip.keepCred (s : Chip) (c : Bytes) : Chip :=
  if s.credHeld c then s
  else s.setSec (fun x => { x with creds := (x.creds ++ [c]).drop (x.creds.length + 1 - 4096) })

/-- The credential held of a serial. -/
def Chip.credOf (s : Chip) (serial : Nat) : Option Bytes := s.sec.creds.reverse.find? (fun c => credSerial c == serial)

/-! ## Pair keys (R467, R468, R471) -/

/-- The pair in force with a device. -/
def Chip.pair (s : Chip) (dev : Nat) : Option Pair := s.sec.pairs.find? (fun p => p.dev == dev)

/-- Change the pair in force with a device. -/
def Chip.updPair (s : Chip) (dev : Nat) (f : Pair → Pair) : Chip :=
  s.setSec (fun x => { x with pairs := x.pairs.map (fun p => if p.dev = dev then f p else p) })

/-- Change a pair that a newer one has replaced. -/
def Chip.updOld (s : Chip) (pmk : Bytes) (f : Pair → Pair) : Chip :=
  s.setSec (fun x => { x with old := x.old.map (fun p => if p.1.pmk = pmk then (f p.1, p.2) else p) })

/-- Device key from one serial to another. -/
def deviceKey (pmk : Bytes) (src dst : Nat) : Bytes := kdf "DEV" (pmk ++ toLE 8 src ++ toLE 8 dst) 32

/-- SA key from a partition of one serial to a partition of another. -/
def saKey (pmk : Bytes) (src dst p q : Nat) : Bytes := kdf "SA" (pmk ++ toLE 8 src ++ toLE 8 dst ++ toLE 1 p ++ toLE 1 q) 32

/-- The open key (R468). -/
def openKey : Bytes := zeros 32

/-- Does a frame go under an SA key: MSG, LOAD and STORE of SERVICE 0x01–0x07 (R468)? -/
def usesSa (op svc : Nat) : Bool := (op == 1 || op == 6 || op == 8) && decide (1 ≤ svc) && decide (svc ≤ 7)

/-- The key of a frame that this device sends under a pair. -/
def Pair.txKey (p : Pair) (op svc src dst : Nat) : Bytes :=
  if usesSa op svc then saKey p.pmk ownSerial p.serial src dst else deviceKey p.pmk ownSerial p.serial

/-- The key of a frame that this device receives under a pair. -/
def Pair.rxKey (p : Pair) (op svc src dst : Nat) : Bytes :=
  if usesSa op svc then saKey p.pmk p.serial ownSerial src dst else deviceKey p.pmk p.serial ownSerial

/-- Pairs under which a frame from a device is accepted: the one in force, and the one it replaced through its overlap (R471). -/
def Chip.rxPairs (s : Chip) (dev : Nat) : List Pair :=
  s.sec.pairs.filter (fun p => p.dev == dev) ++ (s.sec.old.filter (fun p => p.1.dev == dev && decide (s.step ≤ p.2))).map (·.1)

/-! ## IVs (R469) -/

/-- IV of a numbered packet; the PSN is given with its wraps. -/
def ivNumbered (tc session psn : Nat) : Bytes := [1] ++ toLE 1 tc ++ toLE 2 (psn / 2 ^ 32) ++ toLE 4 session ++ toLE 4 psn
/-- IV of any other packet. -/
def ivCounted (tc count : Nat) : Bytes := [2] ++ toLE 1 tc ++ toLE 2 count ++ toLE 4 (count / 2 ^ 16 % 2 ^ 20) ++ zeros 4
/-- IV of a control frame. -/
def ivControl (lower : Bool) (lseq : Nat) : Bytes := [3] ++ [if lower then 0 else 1] ++ zeros 2 ++ toLE 8 lseq

/-- Has a count within the newest `span` been accepted before, or does it lie below them? -/
def replayed (span high : Nat) (seen : List Nat) (n : Nat) : Bool := (decide (n + span ≤ high - 1) && decide (0 < high)) || seen.contains n

/-- The window after a count is accepted. -/
def noteSeen (span high : Nat) (seen : List Nat) (n : Nat) : Nat × List Nat :=
  let h := max high (n + 1)
  (h, (insertNat n seen).filter (fun x => decide (h - 1 < x + span)))

/-! ## Management Records (R478, R479) -/

/-- A Record of the device in a session; its SEQ rises. -/
def Chip.sendRecord (s : Chip) (id : Nat) (body : Bytes) : Chip :=
  match s.sec.sessions.find? (fun x => x.id == id) with
  | none => s
  | some x =>
    let head : Bytes := [4, 1, 0, 0] ++ toLE 4 id ++ toLE 8 x.seqTx
    let iv : Bytes := [1, 0, 0, 0] ++ toLE 8 x.seqTx
    (s.setSec (fun y => { y with sessions := (y.sessions.map (fun z => if z.id = id then { z with seqTx := z.seqTx + 1 } else z)).filter (fun z => decide (z.seqTx < 2 ^ 48)) })).emit
      (.datagram (head ++ gcmLock x.dn iv head body))

end Sys2Proof.Machine
end

