-- ==== Sys2Proof/Machine/Flags.lean ====
section
/-! DEFINITION. Error events, interrupt causes and pending pages (R18, R544), MSI-X vectors (R446) and management Events (R555). -/

namespace Sys2Proof.Machine

open Sys2Proof

/-- Is the host interface in D3hot (R524)? -/
def Chip.d3hot (s : Chip) : Bool := s.rf F.PWR_STATE_POWER == 2

/-- Send an MSI-X vector, or keep it in the pending-bit array while the function or the vector is masked (R446) or the host interface
is in D3hot (R524). -/
def Chip.msix (s : Chip) (v : Nat) : Chip :=
  if s.d3hot || s.cxl.maskAll || !s.cxl.unmasked.contains v then { s with cxl := { s.cxl with pba := insertNat v s.cxl.pba } }
  else if s.rf F.CXL_STAT_VIRAL_OUT = 1 then s
  else s.emit (.msix v)

/-- Send an Event Record about a page to every open management session (R555). -/
def Chip.sendEvents (s : Chip) (pg cause : Nat) : Chip :=
  let body : Bytes := [0x40] ++ toLE 1 cause ++ zeros 2 ++ zeros 4 ++ toLE 4 (pageBase pg) ++ zeros 4
    ++ toLE 4 (s.rd (regAt pg Reg.INT_STAT)) ++ toLE 4 (s.rd (regAt pg Reg.ERR_STAT)) ++ toLE 8 s.step
  s.each (s.sec.sessions.map (·.id)) (fun s id => s.sendRecord id body)

/-- INT_STAT AND INT_EN of a page is not zero (R544). -/
def Chip.pagePending (s : Chip) (pg : Nat) : Bool :=
  (s.rd (regAt pg Reg.INT_STAT)) &&& (s.rd (regAt pg Reg.INT_EN)) != 0

/-- A page that has become pending signals vector 0 and the management sessions (R544). -/
def Chip.signalIfNew (was : Bool) (s : Chip) (pg : Nat) : Chip :=
  if !was && s.pagePending pg then
    let s := if s.rf F.GLB_INT_ROUTE_HOST = 1 then s.msix 0 else s
    if s.rf F.GLB_INT_ROUTE_MGMT = 1 then s.sendEvents pg 0 else s
  else s

/-- The ERR_STAT bits that are reported to every session whatever the masks (R555). -/
def alwaysReported (pg b : Nat) : Bool :=
  (pg == Pg.XPT && b == 0) || (pg == Pg.FLT && (b == 0 || b == 5)) || (pg == Pg.CXL && b == 5)

/-- The device sets an ERR_STAT bit, and the matching INT_STAT bit unless ERR_MASK holds it back (R544). -/
def Chip.raise (s : Chip) (pg b : Nat) : Chip :=
  let was := s.pagePending pg
  let s := s.wr (regAt pg Reg.ERR_STAT) (s.rd (regAt pg Reg.ERR_STAT) ||| 2 ^ b)
  let s := if bit (s.rd (regAt pg Reg.ERR_MASK)) b then s
    else s.wr (regAt pg Reg.INT_STAT) (s.rd (regAt pg Reg.INT_STAT) ||| 2 ^ b)
  let s := if alwaysReported pg b then s.sendEvents pg 1 else s
  s.signalIfNew was pg

/-- Is DRAIN set on a page: it takes no command or doorbell (R545)? -/
def Chip.draining (s : Chip) (pg : Nat) : Bool := s.rf (F.BLK_CTRL_DRAIN.on pg) == 1

/-- May a block operate: BLK_CTRL.ENABLE (R545)? -/
def Chip.enabled (s : Chip) (pg : Nat) : Bool := s.rf (F.BLK_CTRL_ENABLE.on pg) == 1

/-- A block with an EN field works while both ENABLE and EN are 1 (R545). -/
def Chip.active (s : Chip) (pg : Nat) (en : Fld) : Bool := s.enabled pg && s.rf en == 1

/-- Does a block take no new work: QUIESCE was accepted, and a Boundary window has opened since (R545)? -/
def Chip.quiet (s : Chip) (pg : Nat) : Bool := s.glb.held.contains pg && s.rf (F.BLK_CTRL_QUIESCE.on pg) == 1

/-- Is a block without an EN field stopped: a Boundary window has opened since ENABLE was cleared (R545)? -/
def Chip.blkStopped (s : Chip) (pg : Nat) : Bool := s.glb.stopped.contains pg && !s.enabled pg

end Sys2Proof.Machine
end

