-- ==== Sys2Proof/Machine/Channels.lean ====
section
/-! DEFINITION. Fault records (R515), the counting of channel events (R496, R497) and the return of units to service (R505, R506). -/

namespace Sys2Proof.Machine

open Sys2Proof

/-- Change the fault block. -/
def Chip.setFlt (s : Chip) (f : Flt → Flt) : Chip := { s with flt := f s.flt }

/-- The fault class of a channel's events (R515); a tile's is 8 or 9 by what happened. [log 55, DEDUCED] -/
def Chan.cls : Chan → Nat
  | .lane _ _ => 1 | .link _ => 2 | .engine _ => 4 | .halfBank _ _ => 6 | .stack _ => 7 | .tile _ => 9

/-- UNIT and SUB of a channel's records. -/
def Chan.unit : Chan → Nat × Nat
  | .lane l n => (l, n) | .link l => (l, 0xFFFF) | .engine e => (e, 0xFFFF) | .halfBank st hb => (st, hb)
  | .stack st => (st, 0xFFFF) | .tile t => (t, 0xFFFF)

/-- The page a channel is counted on (R496). -/
def Chan.page : Chan → Nat
  | .lane l _ => Pg.lnk l | .link l => Pg.lnk l | .engine e => Pg.opt e | .halfBank st _ => Pg.mem st | .stack st => Pg.mem st
  | .tile t => Pg.til t

/-- PARTITION of a channel's records: the owner of the unit, 0xFF for none. -/
def Chip.chanOwner (s : Chip) : Chan → Nat
  | .halfBank st hb => (s.cgOwner st (groupOf hb)).getD 0xFF
  | .tile t => ((s.logicalOf t).bind s.ltOwner).getD 0xFF
  | _ => 0xFF

/-- The record of a channel. -/
def Chip.chan (s : Chip) (c : Chan) : ChanRec := ((s.flt.chans.find? (fun x => x.1 == c)).map (·.2)).getD {}

/-- CLASS of a channel's records: that of its last event, before any the class of its kind. -/
def Chip.chanClass (s : Chip) (c : Chan) : Nat := let k := (s.chan c).cls; if k = 0 then c.cls else k

/-- Store the record of a channel; one with nothing counted is not listed. -/
def Chip.setChan (s : Chip) (c : Chan) (r : ChanRec) : Chip :=
  let rest := s.flt.chans.filter (fun x => x.1 != c)
  s.setFlt (fun f => { f with chans := if r = {} then rest else rest ++ [(c, r)] })

/-- N, T (in nanoseconds) and K of a channel's page; 0 acts as 1 (R543). A page that is not counted judges by the reset values. -/
def Chip.window (s : Chip) (c : Chan) : Nat × Nat × Nat :=
  let v := s.rd (regAt c.page Reg.WIN_CFG)
  if v = 0 then (8, 1000000000, 3) else (max 1 (bits v 7 0), max 1 (bits v 23 8) * 1000000, max 1 (bits v 27 24))

/-- Write a fault record (R515) and count its class. -/
def Chip.faultRecord (s : Chip) (cls verdict unit sub dev part events attempt : Nat) : Chip :=
  let r := toLE 8 s.step ++ toLE 4 s.offset ++ toLE 1 cls ++ toLE 1 verdict ++ toLE 2 unit ++ toLE 2 sub ++ toLE 2 dev ++ toLE 1 part
    ++ toLE 1 (min 255 events) ++ toLE 2 attempt ++ zeros 8
  let n := s.rd Reg.FLT_LOG_COUNT
  let s := s.setFlt (fun f => { f with log := f.log.put (n % 64) r })
  let s : Chip := if bit (s.rd Reg.VGL_FAULT_MASK) cls then { s with vgl := { s.vgl with fault := true } } else s
  (s.cnt Reg.FLT_LOG_COUNT).cnt (Reg.FLT_CLASS_CNT + 4 * (cls - 1))

/-- Write a fault record of a channel. -/
def Chip.chanRecord (s : Chip) (c : Chan) (cls verdict attempt : Nat) : Chip :=
  s.faultRecord cls verdict c.unit.1 c.unit.2 0xFFFF (s.chanOwner c) (s.chan c).events.length attempt

/-- CLASS of the record of a channel's judgement: a link's is its retirement (R492, R515). [log 55, DEDUCED] -/
def Chan.permCls (c : Chan) (cls : Nat) : Nat := match c with
  | .link _ => 3
  | _ => cls

/-- Judge a channel permanent (R497). [log 55, DEDUCED] -/
def Chip.judgePermanent (s : Chip) (c : Chan) (cls : Nat) : Chip :=
  let cls := c.permCls cls
  let s := s.setChan c { s.chan c with perm := true }
  ((s.cnt (regAt c.page Reg.EVT_PERM)).chanRecord c cls 2 0).raise Pg.FLT 1

/-- Count an event of a channel (R496, R497): the state, and whether the channel is now judged permanent by it. -/
def Chip.countEvent (s : Chip) (c : Chan) (cls : Nat) : Chip × Bool :=
  let r := s.chan c
  if r.perm then (s, false)
  else
    let (n, t, _) := s.window c
    let ev := s.alm.now :: r.events.filter (fun x => decide (s.alm.now < x + t))
    let s := s.setChan c { r with events := ev, cls := cls }
    if n ≤ ev.length then (s.judgePermanent c cls, true)
    else (s.cnt (regAt c.page Reg.EVT_TRANS), false)

/-- Count a retrain failure of a channel (R497): the state, and whether it is judged permanent by it. -/
def Chip.retrainFailed (s : Chip) (c : Chan) : Chip × Bool :=
  let r := s.chan c
  if r.perm then (s, false)
  else
    let (_, _, k) := s.window c
    let s := s.setChan c { r with fails := r.fails + 1 }
    if k ≤ r.fails + 1 then (s.judgePermanent c (s.chanClass c), true)
    else (s.cnt (regAt c.page Reg.EVT_TRANS), false)

/-- A retrain that succeeds ends the run of failures (R497). -/
def Chip.retrainOk (s : Chip) (c : Chan) : Chip := s.setChan c { s.chan c with fails := 0 }

/-- The next attempt of a unit's return to service (R506): its stage starts again. While a tile's self-test runs, DONE reads 0 (R193). -/
def Chip.startReturn (s : Chip) (c : Chan) (stage : Stage) : Chip :=
  let s := s.setChan c { s.chan c with attempt := (s.chan c).attempt + 1 }
  let s : Chip := match c, stage with
    | .tile t, .selfTest => s.wf (F.TIL_SELFTEST_DONE.on (Pg.til t)) 0
    | _, _ => s
  s.setFlt (fun f => { f with returns := f.returns.filter (fun r => r.chan != c) ++ [⟨c, stage⟩] })

/-- A stage of a unit's return fails (R506): one retrain failure of its channel and one restart; the next attempt begins at self-test, unless
the failure makes the channel permanent. The answer says whether it does. [log 55, DEDUCED] -/
def Chip.attemptFailed (s : Chip) (c : Chan) : Chip × Bool :=
  match s.retrainFailed c with
  | (s, perm) =>
    let s := (s.cnt Reg.FLT_RESTARTS).raise Pg.FLT 3
    if perm then (s.setFlt (fun f => { f with returns := f.returns.filter (fun r => r.chan != c) }), true)
    else (s.startReturn c .selfTest, false)

/-- A unit is back in service: its record and FLT ERR_STAT bit [2] (R515, R516). -/
def Chip.returned (s : Chip) (c : Chan) : Chip :=
  let s := s.setFlt (fun f => { f with returns := f.returns.filter (fun r => r.chan != c) })
  ((s.chanRecord c (s.chanClass c) 3 (s.chan c).attempt)).raise Pg.FLT 2

/-- The stage of a returning unit. -/
def Chip.returning (s : Chip) (c : Chan) : Option Stage := (s.flt.returns.find? (fun r => r.chan == c)).map (·.stage)

/-- Move a returning unit to a stage. -/
def Chip.setStage (s : Chip) (c : Chan) (st : Stage) : Chip :=
  s.setFlt (fun f => { f with returns := f.returns.map (fun r => if r.chan = c then { r with stage := st } else r) })

end Sys2Proof.Machine
end

