-- ==== Sys2Proof/Machine/Control.lean ====
section
/-! DEFINITION. Who may write a page (R547–R550), the log of writes that were not accepted (R558), and the one way a command register
is written (R545, R548). -/

namespace Sys2Proof.Machine

open Sys2Proof

/-- The rights a writer holds (R477, R547). -/
inductive Rank where
  | none | observer | host | operator | admin
  deriving DecidableEq, Repr

/-- The rank of a writer: the host ranks as admin while no management root digest is fused (R549). A slot that is empty has no
rights. -/
def Chip.rank (s : Chip) : Writer → Rank
  | .host => if s.rf F.SEC_STAT_MGMT_FUSED = 1 then .host else .admin
  | .slot n =>
    match s.rf (F.SEC_PRIN_CFG_ROLE.plus (4 * (n % 8))) with
    | 1 => .admin | 2 => .operator | 3 => .observer | _ => .none

/-- May a writer name partition p (R547)? -/
def Chip.mayName (s : Chip) (w : Writer) (p : Nat) : Bool :=
  match s.rank w with
  | .admin | .operator => true
  | .host => bit (s.rd Reg.SEC_HOST_RIGHTS) p
  | _ => false

/-- KIND of a page's OWNER; 3 acts as 1 (R543). -/
def Chip.ownerKind (s : Chip) (pg : Nat) : Nat :=
  let k := s.rf (F.OWNER_KIND.on pg)
  if k = 3 then 1 else k

/-- May a writer write a page, fields shared by design apart (R547, R549)? -/
def Chip.ownsPage (s : Chip) (w : Writer) (pg : Nat) : Bool :=
  let p := s.rf (F.OWNER_PARTITION.on pg)
  match s.ownerKind pg with
  | 0 => w == .host
  | 2 => s.mayName w p
  | _ => s.rank w == .admin || s.rank w == .operator

/-- Does the page's OWNER name a partition other than one the write names (R547)? -/
def Chip.foreign (s : Chip) (pg : Nat) (parts : List Nat) : Bool :=
  s.ownerKind pg == 2 && parts.any (fun p => p != s.rf (F.OWNER_PARTITION.on pg))

/-- Why a write is not accepted, as the OUTCOME of R558; none where it is accepted. `shared` says that the field is shared by
design. [log 20, DEDUCED] -/
def Chip.judge (s : Chip) (a : Access) (pg : Nat) (shared : Bool) (parts : List Nat) : Option Nat :=
  if s.rank a.writer = .observer || s.rank a.writer = .none then some 4
  else if !(shared || s.ownsPage a.writer pg) then some 1
  else if parts.any (fun p => !s.mayName a.writer p) || (!shared && s.foreign pg parts) then some 2
  else if a.clash && a.writer == .host then some 3
  else none

/-- The WRITER byte of R558. -/
def writerCode : Writer → Nat
  | .host => 0x10
  | .slot n => n % 8

/-- The GLB ERR_STAT bit of an OUTCOME (R548, R550, R546). -/
def outcomeBit : Nat → Nat
  | 2 => 2 | 3 => 1 | 5 => 3 | _ => 0

/-- Append a record to GLB_OWN_LOG and set the GLB ERR_STAT bit of its OUTCOME (R548, R558). [log 17, DEDUCED] -/
def Chip.logWrite (s : Chip) (w : Writer) (addr val outcome : Nat) : Chip :=
  let rec' := toLE 4 addr ++ toLE 1 (writerCode w) ++ toLE 1 outcome ++ toLE 2 s.step ++ toLE 4 val ++ zeros 4
  let s := { s with glb := { s.glb with ownLog := s.glb.ownLog.put (s.glb.logged % 16) rec', logged := s.glb.logged + 1 } }
  (s.cnt Reg.GLB_OWN_COUNT).raise Pg.GLB (outcomeBit outcome)

/-- Does a page respond? Until firmware start has finished only the GLB and SEC pages do (R521). [log 16, DEDUCED] -/
def Chip.pageUp (s : Chip) (pg : Nat) : Bool := decide (pg = Pg.GLB) || decide (pg = Pg.SEC) || s.pwr.done.contains 8

/-- Does a write reach a page: not from a host interface in D3hot, which serves configuration space alone (R524)? [log 16, DEDUCED] -/
def Chip.reaches (s : Chip) (w : Writer) (pg : Nat) : Bool := s.pageUp pg && !(w == .host && s.d3hot)

/-- A write of value `val` to the command register at page offset `off`. A write that is not accepted is logged, and an excluded
partition is reported by `excluded`; a draining page ignores the command; else it runs. -/
def Chip.command (s : Chip) (a : Access) (pg off val : Nat) (shared : Bool) (parts : List Nat)
    (excluded run : Chip → Chip) : Chip :=
  if !s.reaches a.writer pg then s else
  match s.judge a pg shared parts with
  | some o =>
    let t := s.logWrite a.writer (regAt pg off) val o
    if o = 2 then excluded t else t
  | none => if s.draining pg then s else run s

/-- A write of value `val` to a register that is written and read back: the same, but a draining page takes it (R545). -/
def Chip.write (s : Chip) (a : Access) (pg off val : Nat) (shared : Bool) (parts : List Nat) (run : Chip → Chip) : Chip :=
  if !s.reaches a.writer pg then s else
  match s.judge a pg shared parts with
  | some o => s.logWrite a.writer (regAt pg off) val o
  | none => run s

/-- What a command does to the chip, as an answer of the step. With its rails off the module does nothing (R529), and after a purge it
serves management commands alone (R554). -/
def State.onChip (s : State) (f : Chip → Chip) : Host.Outcome State Fault Refusal :=
  .next { s with chip := if s.chip.pwr.off || s.chip.pwr.purged then s.chip else f s.chip }

/-- What a management command, the passing of time or a sensor does, as an answer of the step: only without rails is it nothing. [log 2, DESIGN CHOICE] -/
def State.onMgmt (s : State) (f : Chip → Chip) : Host.Outcome State Fault Refusal :=
  .next { s with chip := if s.chip.pwr.off then s.chip else f s.chip }

end Sys2Proof.Machine
end

