-- ==== Sys2Proof/Machine/Pages.lean ====
section
/-! DEFINITION. Key/value pages: their shape (R239, R240), where they are placed (R244–R249, R287), and the request object pools
from which page maps, token logs and recurrent state are taken (R287). -/

namespace Sys2Proof.Machine

open Sys2Proof

/-! ## Page shape -/

/-- Key bytes per token, a of R239; 0 for a code that is no format. -/
def keyBytes (fmt d : Nat) : Nat :=
  match fmt with | 1 => 2 * d | 2 => d + d / 32 | 3 => d / 2 + d / 32 | _ => 0

/-- Value bytes per token, b of R239. -/
def valBytes (fmt d : Nat) : Nat :=
  match fmt with | 1 => 2 * d | 2 => d + d / 32 | 3 => 3 * d / 4 + d / 32 | _ => 0

/-- Bytes of a summary record, u of R239. -/
def sumBytes (d : Nat) : Nat := 2 * (d + d / 32)

/-- Does a page of capacity n fit 16,384 bytes? -/
def capFits (fmt d n : Nat) : Bool :=
  64 + ceilDiv n 64 * sumBytes d + n * (keyBytes fmt d + valBytes fmt d) ≤ 16384

/-- The capacity n of R239: the largest that fits, found downward from 1,024. -/
def pageCap (fmt d : Nat) : Nat :=
  if fmt = 0 || fmt > 3 || d = 0 then 0
  else ((List.range 1025).filter (capFits fmt d)).foldl max 0

/-- Summary slots S of a page. -/
def pageSlots (fmt d : Nat) : Nat := ceilDiv (pageCap fmt d) 64

/-- PAGES_PER_SPAN of a prefix block: ⌈64 ÷ n⌉. -/
def pagesPerSpan (fmt d : Nat) : Nat := ceilDiv 64 (max 1 (pageCap fmt d))

/-- K0, the first byte of the key region (R240). -/
def keyBase (fmt d : Nat) : Nat := 64 + pageSlots fmt d * sumBytes d

/-- Offset of key record i. -/
def keyOff (fmt d i : Nat) : Nat := keyBase fmt d + i * keyBytes fmt d

/-- Offset of value record i. -/
def valOff (fmt d i : Nat) : Nat := keyBase fmt d + pageCap fmt d * keyBytes fmt d + i * valBytes fmt d

/-- Entries of one row of a page map, ROW_LEN of R244. -/
def rowLen (promptLen maxNew fmt d : Nat) : Nat := ceilDiv (promptLen + maxNew) 64 * pagesPerSpan fmt d

/-! ## Page map entries (R245) -/

/-- The entry of a page at a T2 slot address. -/
def entryOf (a : Nat) (prefixed : Bool) : Nat :=
  let hb := halfBankOf a
  stackOf a + dieOf hb * 2 ^ 5 + bankOf hb * 2 ^ 9 + (hb % 2) * 2 ^ 16 + slotOf a * 2 ^ 17 + b2n prefixed * 2 ^ 28 + 2 ^ 29

/-- Is an entry in use? -/
def entryValid (e : Nat) : Bool := bit e 29

/-- The slot address an entry names. -/
def entryAddr (e : Nat) : Nat :=
  slotAddr (bits e 4 0) (hbNum (bits e 8 5) (bits e 15 9) (bits e 16 16)) (bits e 27 17)

/-! ## Placement (R246, R248) -/

/-- Page pools of a partition: KIND 2 descriptors (R287). -/
def Chip.pools (s : Chip) (p : Nat) : List Desc := s.memu.descs.vals.filter (fun d => d.kind == 2 && d.partition == p)

/-- Is a half-bank retired (R295)? -/
def Chip.hbRetired (s : Chip) (st hb : Nat) : Bool := bit (s.rd (regAt (Pg.mem st) (Reg.MEM_HB_RETIRED + 4 * (hb / 32)))) (hb % 32)

/-- Slots of the partition's page pools in a half-bank. -/
def Chip.poolSlots (s : Chip) (p st hb : Nat) : List Nat :=
  (s.pools p).flatMap (fun d => if d.mask.testBit (8 * st + groupOf hb) then
    (List.range (d.slotLast - d.slotFirst + 1)).map (· + d.slotFirst) else [])

/-- Page slots of a half-bank in use. -/
def Chip.usedSlots (s : Chip) (st hb : Nat) : List Nat :=
  (s.memu.pages.keys.filter (fun a => stackOf a == st && halfBankOf a == hb)).map slotOf
    ++ (s.memu.remaps.filter (fun r => stackOf r.2 == st && halfBankOf r.2 == hb)).map (fun r => slotOf r.2)

/-- Free page slots of a half-bank for a partition; a retired half-bank offers none, and none lies in another's group. -/
def Chip.freeSlots (s : Chip) (p st hb : Nat) : List Nat :=
  if s.hbRetired st hb || s.cgOwner st (groupOf hb) ≠ some p then []
  else
    let used := s.usedSlots st hb
    (s.poolSlots p st hb).filter (fun x => !used.contains x)

/-- Half-banks of a die that lie in groups a pool of the partition names, with their free slots. -/
def Chip.dieFree (s : Chip) (p st die : Nat) : List (Nat × List Nat) :=
  let named := (s.pools p).foldl (fun m d => m ||| d.mask) 0
  ((List.range 256).map (· + 256 * die)).filterMap (fun hb =>
    if named.testBit (8 * st + groupOf hb) then
      match s.freeSlots p st hb with
      | [] => none
      | l  => some (hb, l)
    else none)

/-- The half-bank of a die with the most free slots, the lowest-numbered on a tie, and its lowest free slot (R248). -/
def Chip.pickOnDie (s : Chip) (p st die : Nat) : Option Nat :=
  let best := (s.dieFree p st die).foldl (fun (b : Option (Nat × List Nat)) x => match b with
    | none => some x
    | some y => if x.2.length > y.2.length then some x else some y) none
  best.map (fun x => slotAddr st x.1 (x.2.foldl min (x.2.headD 0)))

/-- The slot for entry e of span σ of partition p, and whether it spilled to another die; the stack where none is free (R248). -/
def Chip.place (s : Chip) (p σ e : Nat) : Option (Nat × Bool) × Nat :=
  let l := s.stacksOf p
  if l.isEmpty then (none, 0)
  else
    let st := l.getD (σ % l.length) 0
    let d0 := (σ + e) % 16
    let tries := (List.range 16).map (fun i => (i, s.pickOnDie p st ((d0 + i) % 16)))
    match tries.find? (fun t => t.2.isSome) with
    | some (i, some a) => (some (a, i != 0), st)
    | _ => (none, st)

/-- Allocate one page for an owner; none where no slot is free. A spill counts and raises SDG bit [5] (R248). -/
def Chip.allocPage (s : Chip) (p σ e owner : Nat) : Chip × Option Nat :=
  match s.place p σ e with
  | (some (a, spill), st) =>
    let s := { s with memu := { s.memu with pages := s.memu.pages.put a owner } }
    let s := if spill then (s.cnt (regAt (Pg.sdg st) Reg.SDG_SPILL)).raise (Pg.sdg st) 5 else s
    (s, some a)
  | (none, _) => (s, none)

/-- Allocate pages for a list of (span, entry); all of them, or none and the stack that refused. -/
def Chip.allocPages (s : Chip) (p owner : Nat) (want : List (Nat × Nat)) : Chip × (List Nat ⊕ Nat) :=
  want.foldl (fun (st : Chip × (List Nat ⊕ Nat)) w => match st.2 with
    | .inr k => (st.1, .inr k)
    | .inl got =>
      match st.1.allocPage p w.1 w.2 owner with
      | (t, some a) => (t, .inl (got ++ [a]))
      | (_, none) => (s, .inr (st.1.place p w.1 w.2).2)) (s, .inl [])

/-- Free a page slot. -/
def Chip.freePage (s : Chip) (a : Nat) : Chip := { s with memu := { s.memu with pages := s.memu.pages.del a } }

/-- Change the owner of a page slot. -/
def Chip.ownPage (s : Chip) (a owner : Nat) : Chip := { s with memu := { s.memu with pages := s.memu.pages.put a owner } }

/-- Owner code of a prefix table entry's pages. -/
def prefixOwner (idx : Nat) : Nat := 2 ^ 64 + idx

/-- The 16 KiB of a page; none where a word is uncorrectable. -/
def Chip.readPage (s : Chip) (a : Nat) : Option Bytes := s.readPhys a 16384

/-! ## Request object pools (R287) -/

/-- Pools of a partition in ascending OBJECT, those in T1 only where `t1` allows them: recurrent state may lie there, page maps and token logs
lie in T2 (R283). -/
def Chip.objPools (s : Chip) (p : Nat) (t1 : Bool) : List (Nat × Desc) :=
  s.memu.descs.filter (fun x => x.2.kind == 3 && x.2.partition == p && (t1 || x.2.tier == 2))

/-- Does a run of units collide with an allocation of an object? -/
def Chip.unitsFree (s : Chip) (o u n : Nat) : Bool :=
  s.memu.allocs.all (fun (o', u', n', _) => o' != o || u + n ≤ u' || u' + n' ≤ u)

/-- First run of n units of an object that is free: at 0, or directly after an allocation. -/
def Chip.findRun (s : Chip) (o total n : Nat) : Option Nat :=
  let starts := 0 :: (s.memu.allocs.filter (fun a => a.1 == o)).map (fun (_, u, k, _) => u + k)
  ((starts.filter (fun u => u + n ≤ total && s.unitsFree o u n)).foldl
    (fun (b : Option Nat) u => match b with | none => some u | some v => some (min u v)) none)

/-- Allocate `bytes` for a request from the partition's pools, in ascending OBJECT; the object address, or none. -/
def Chip.allocObj (s : Chip) (p rid bytes : Nat) (t1 : Bool) : Chip × Option Nat :=
  let hit := (s.objPools p t1).findSome? (fun (o, d) =>
    let n := max 1 (ceilDiv bytes d.unit)
    (s.findRun o (d.size / d.unit) n).map (fun u => (o, u, n, d.unit)))
  match hit with
  | some (o, u, n, sz) =>
    ({ s with memu := { s.memu with allocs := s.memu.allocs ++ [(o, u, n, rid)] } }, some (objBase + o * 2 ^ 36 + u * sz))
  | none => (s, none)

/-- Free everything a partition's pools hold for a request. -/
def Chip.freeObjs (s : Chip) (p rid : Nat) : Chip :=
  { s with memu := { s.memu with allocs := s.memu.allocs.filter (fun (o, _, _, r) =>
      !(r == rid && (match s.memu.descs.find o with
        | some d => d.partition == p
        | none => true))) } }

end Sys2Proof.Machine
end

