-- ==== Sys2Proof/Machine/Operands.lean ====
section
/-! DEFINITION. The byte layouts of the structures the device reads and writes: Request Table Entries (R78), journal records (R92,
R442), State Mover messages (R138–R141), prefix messages (R118) and scheduler messages (R206). -/

namespace Sys2Proof.Machine

open Sys2Proof

/-! ## Request Table Entry (R78, R79) -/

/-- FLAGS as bits (R79). -/
def RFlags.toNat (f : RFlags) : Nat :=
  b2n f.moving + b2n f.bound * 2 + b2n f.fallback * 4 + b2n f.cancelReq * 8 + b2n f.rideAlong * 16 + b2n f.unprotected * 32
    + b2n f.rebuilt * 64 + b2n f.late * 128

/-- FLAGS from bits. -/
def RFlags.ofNat (v : Nat) : RFlags :=
  { moving := bit v 0, bound := bit v 1, fallback := bit v 2, cancelReq := bit v 3, rideAlong := bit v 4,
    unprotected := bit v 5, rebuilt := bit v 6, late := bit v 7 }

/-- A state from its code (R86); other codes read as FREE. -/
def RState.ofCode : Nat → RState
  | 1 => .admitted | 2 => .prefill | 3 => .prefilled | 4 => .generating | 5 => .parked
  | 6 => .rebuilding | 7 => .ending | 8 => .forward | _ => .free

/-- TOKLOG_LEN. -/
def Rte.len (r : Rte) : Nat := r.tokens.length

/-- LAST_TOKEN. -/
def Rte.lastToken (r : Rte) : Nat := r.tokens.getLastD 0

/-- The 256 bytes of an RTE (R78). -/
def Rte.toBytes (r : Rte) : Bytes :=
  toLE 8 r.rid ++ toLE 1 r.state.code ++ toLE 1 r.partition ++ toLE 2 r.flags.toNat ++ toLE 4 r.tenant
    ++ toLE 2 r.model ++ toLE 2 r.adapter ++ toLE 2 r.fallbackId ++ toLE 1 r.dclass ++ toLE 1 r.kvFormat
    ++ toLE 8 r.admitStep ++ toLE 8 r.deadline ++ toLE 4 r.promptLen ++ toLE 4 r.genCount ++ toLE 4 r.maxNew ++ toLE 4 r.lateCount
    ++ toLE 8 r.hostTag ++ toLE 8 r.kvMap ++ toLE 4 r.pages.length ++ toLE 4 r.prefixBlocks ++ toLE 8 r.recurAddr ++ toLE 4 r.recurLen
    ++ toLE 4 r.len ++ toLE 8 r.toklogAddr ++ toLE 2 r.emitRing ++ toLE 1 r.originPart ++ zeros 1 ++ toLE 4 r.emitPos
    ++ toLE 2 r.jrnPartner ++ toLE 1 r.jrnHeld ++ zeros 1 ++ toLE 4 r.jrnAckPos ++ toLE 4 r.mapEpoch ++ toLE 4 r.slot
    ++ toLE 2 r.fwdHome ++ toLE 1 r.fwdPart ++ zeros 5 ++ toLE 8 r.fwdExpire ++ toLE 2 r.temperature ++ toLE 2 r.topP ++ toLE 2 r.topK
    ++ zeros 2 ++ toLE 8 r.seed ++ toLE 8 r.submitTime ++ (r.stops.take 4).flatMap (toLE 4 ·) ++ zeros (16 - 4 * (r.stops.take 4).length)
    ++ padTo 32 r.lastHash ++ toLE 4 r.lastToken ++ toLE 4 r.endStatus ++ toLE 8 r.endStep ++ zeros 24

/-- The fields an RTE image carries (R78). The token log, the page map and the recurrent state are carried apart. -/
def Rte.ofBytes (b : Bytes) : Rte :=
  { rid := le b 0 8, state := .ofCode (le b 8 1), partition := le b 9 1, flags := .ofNat (le b 10 2), tenant := le b 12 4,
    model := le b 16 2, adapter := le b 18 2, fallbackId := le b 20 2, dclass := le b 22 1, kvFormat := le b 23 1,
    admitStep := le b 24 8, deadline := le b 32 8, promptLen := le b 40 4, genCount := le b 44 4, maxNew := le b 48 4,
    lateCount := le b 52 4, hostTag := le b 56 8, prefixBlocks := le b 76 4, recurLen := le b 88 4, emitRing := le b 104 2,
    originPart := le b 106 1, emitPos := le b 108 4, jrnPartner := le b 112 2, jrnHeld := le b 114 1, jrnAckPos := le b 116 4,
    mapEpoch := le b 120 4, temperature := le b 144 2, topP := le b 146 2, topK := le b 148 2, seed := le b 152 8,
    submitTime := le b 160 8, stops := [le b 168 4, le b 172 4, le b 176 4, le b 180 4], lastHash := slice b 184 32,
    endStatus := le b 220 4, endStep := le b 224 8 }

/-! ## Journal records (R91, R92, R442) -/

/-- The anchor of a request at its home (R92). -/
def anchorOf (r : Rte) (homeDev : Nat) : Bytes :=
  [0x01, 0x00] ++ toLE 1 r.dclass ++ toLE 1 r.kvFormat ++ toLE 4 r.tenant ++ toLE 8 r.rid ++ toLE 2 r.model ++ toLE 2 r.adapter
    ++ toLE 2 r.fallbackId ++ toLE 2 r.emitRing ++ toLE 4 r.promptLen ++ toLE 4 r.maxNew ++ toLE 8 r.deadline ++ toLE 8 r.submitTime
    ++ toLE 8 r.hostTag ++ toLE 8 r.seed ++ toLE 2 r.temperature ++ toLE 2 r.topP ++ toLE 2 r.topK ++ toLE 1 r.originPart
    ++ toLE 1 (r.flags.toNat % 256) ++ (r.stops.take 4).flatMap (toLE 4 ·) ++ zeros (16 - 4 * (r.stops.take 4).length)
    ++ toLE 2 homeDev ++ toLE 1 r.partition ++ zeros 1 ++ toLE 4 r.mapEpoch ++ toLE 8 r.admitStep ++ zeros 24

/-- Units of 4 KiB a journal reserves (R93). -/
def journalUnits (promptLen maxNew : Nat) : Nat := ceilDiv (128 + 4 * (promptLen + maxNew)) 4096

/-- A token run record (R92): RUN_FLAGS, first position, tokens; padded to a multiple of 16 bytes. -/
def tokenRun (flags first rid : Nat) (toks : List Nat) : Bytes :=
  let body := [0x02] ++ toLE 1 flags ++ toLE 2 toks.length ++ toLE 4 first ++ toLE 8 rid ++ toks.flatMap (toLE 4 ·)
  padTo (ceilDiv body.length 16 * 16) body

/-- A Home record (R92). -/
def homeRecord (part dev epoch rid step flags : Nat) : Bytes :=
  [0x03] ++ toLE 1 part ++ toLE 2 dev ++ toLE 4 epoch ++ toLE 8 rid ++ toLE 8 step ++ toLE 1 flags ++ zeros 7

/-- An End record (R92). -/
def endRecord (status last rid : Nat) : Bytes := [0x04] ++ toLE 1 status ++ zeros 2 ++ toLE 4 last ++ toLE 8 rid

/-- An Acknowledgement record (R92). -/
def ackRecord (status pos rid : Nat) : Bytes := [0x05] ++ toLE 1 status ++ zeros 2 ++ toLE 4 pos ++ toLE 8 rid

/-- An Emit record (R442). -/
def emitRecord (flags ring token tag rid pos stepLo : Nat) : Bytes :=
  [0x06] ++ toLE 1 flags ++ toLE 2 ring ++ toLE 4 token ++ toLE 8 tag ++ toLE 8 rid ++ toLE 4 pos ++ toLE 4 (stepLo % 2 ^ 32)

/-- A Finish record (R442). -/
def finishRecord (status ring last tag rid stepLo : Nat) : Bytes :=
  [0x07] ++ toLE 1 status ++ toLE 2 ring ++ toLE 4 last ++ toLE 8 tag ++ toLE 8 rid ++ toLE 4 (stepLo % 2 ^ 32) ++ zeros 4

/-- A Cancel record (R442). -/
def cancelRecord (rid : Nat) : Bytes := [0x08] ++ zeros 7 ++ toLE 8 rid

/-- Size of the journal record at the head of a payload, 0 for an unknown TYPE (R91, R442). -/
def recordSize (b : Bytes) : Nat :=
  match le b 0 1 with
  | 1 => 128
  | 2 => ceilDiv (16 + 4 * le b 2 2) 16 * 16
  | 3 => 32
  | 4 => 16
  | 5 => 16
  | 6 => 32
  | 7 => 32
  | 8 => 16
  | _ => 0

/-- The records of a journal message; none where a TYPE is unknown or a record runs past the payload (R91). -/
def splitRecords : Nat → Bytes → Option (List Bytes)
  | 0,     b => if b.isEmpty then some [] else none
  | k + 1, b =>
    if b.isEmpty then some []
    else
      let n := recordSize b
      if n = 0 || b.length < n then none
      else (splitRecords k (b.drop n)).map (b.take n :: ·)

/-! ## State Mover messages (R138–R142) -/

/-- Header bytes (R138). -/
def SHdr.toBytes (h : SHdr) : Bytes :=
  toLE 1 h.type ++ toLE 1 h.kind ++ toLE 1 h.srcPart ++ toLE 1 h.dstPart ++ toLE 2 h.srcDev ++ toLE 2 h.dstDev
    ++ toLE 8 h.rid ++ toLE 4 h.seq ++ toLE 4 h.epoch ++ toLE 8 h.step

/-- Header of a message. -/
def SHdr.ofBytes (b : Bytes) : SHdr :=
  { type := le b 0 1, kind := le b 1 1, srcPart := le b 2 1, dstPart := le b 3 1, srcDev := le b 4 2, dstDev := le b 6 2,
    rid := le b 8 8, seq := le b 16 4, epoch := le b 20 4, step := le b 24 8 }

/-- Fixed sizes of the messages (R139); Data has its 48-byte head here. -/
def smvSize : Nat → Nat
  | 1 => 352 | 2 => 48 | 3 => 64 | 4 => 64 | 5 => 32 | 6 => 48 | 7 => 48 | 8 => 64 | 9 => 48 | 10 => 48 | 11 => 48 | _ => 0

/-- The body of an Open (R140). -/
structure OpenBody where
  ownPages : Nat := 0
  prefixes : Nat := 0
  spans    : Nat := 0
  pps      : Nat := 0
  kvFormat : Nat := 0
  tokens   : Nat := 0
  recurLen : Nat := 0
  lease    : Nat := 0
  first    : Nat := 0
  recEpoch : Nat := 0
  raw      : Nat := 0
  image    : Bytes := []
  deriving DecidableEq, Repr

/-- Body bytes of an Open. -/
def OpenBody.toBytes (o : OpenBody) : Bytes :=
  toLE 4 o.ownPages ++ toLE 4 o.prefixes ++ toLE 2 o.spans ++ toLE 1 o.pps ++ toLE 1 o.kvFormat ++ toLE 4 o.tokens ++ toLE 4 o.recurLen
    ++ toLE 4 o.lease ++ toLE 4 o.first ++ toLE 4 o.recEpoch ++ toLE 8 o.raw ++ zeros 24 ++ padTo 256 o.image

/-- Body of an Open from bytes 32 to 351. -/
def OpenBody.ofBytes (b : Bytes) : OpenBody :=
  { ownPages := le b 0 4, prefixes := le b 4 4, spans := le b 8 2, pps := le b 10 1, kvFormat := le b 11 1, tokens := le b 12 4,
    recurLen := le b 16 4, lease := le b 20 4, first := le b 24 4, recEpoch := le b 28 4, raw := le b 32 8, image := slice b 64 256 }

/-- Body of a Reply (R140). -/
structure ReplyBody where
  status  : Nat
  replyTo : Nat
  outcome : Nat := 0
  homeDev : Nat := 0
  homePart : Nat := 0
  homeStep : Nat := 0
  value   : Nat := 0xFFFFFFFF
  deriving DecidableEq, Repr

/-- Body bytes of a Reply. -/
def ReplyBody.toBytes (r : ReplyBody) : Bytes :=
  toLE 2 r.status ++ toLE 1 r.replyTo ++ toLE 1 r.outcome ++ toLE 2 r.homeDev ++ toLE 1 r.homePart ++ zeros 1
    ++ toLE 8 r.homeStep ++ toLE 4 r.value ++ zeros 12

/-- Body of a Reply from its message. -/
def ReplyBody.ofBytes (b : Bytes) : ReplyBody :=
  { status := le b 32 2, replyTo := le b 34 1, outcome := le b 35 1, homeDev := le b 36 2, homePart := le b 38 1,
    homeStep := le b 40 8, value := le b 48 4 }

/-- Seal body (R140). -/
def sealBody (msgs recs bytes : Nat) : Bytes := toLE 4 msgs ++ toLE 4 recs ++ toLE 8 bytes ++ zeros 16

/-- Intent body (R140). -/
def intentBody (oldDev oldPart newDev newPart step : Nat) : Bytes :=
  toLE 2 oldDev ++ toLE 1 oldPart ++ toLE 1 newPart ++ toLE 2 newDev ++ zeros 2 ++ toLE 8 step ++ zeros 16

/-- Abort and Lost bodies (R140). -/
def statusBody (status : Nat) : Bytes := toLE 2 status ++ zeros 14

/-- Query body (R140). -/
def queryBody (ask : Nat) : Bytes := toLE 1 ask ++ zeros 15

/-- Pull body (R140). -/
def pullBody (lease first count : Nat) : Bytes := toLE 4 lease ++ toLE 4 first ++ toLE 4 count ++ zeros 4

/-- Locate body (R140). -/
def locateBody (dev part ask partner tenant : Nat) : Bytes :=
  toLE 2 dev ++ toLE 1 part ++ toLE 1 ask ++ toLE 2 partner ++ zeros 2 ++ toLE 4 tenant ++ zeros 4

/-- Head of a Data message after its header (R140). -/
def dataHead (sect count msgNo : Nat) : Bytes := toLE 1 sect ++ zeros 1 ++ toLE 2 count ++ toLE 4 msgNo ++ zeros 8

/-- Head of a Data record (R141). -/
def recHead (index span page : Nat) (lens : List Nat) : Bytes :=
  toLE 4 index ++ toLE 2 span ++ toLE 1 page ++ zeros 1 ++ lens.flatMap (toLE 2 ·)

/-! ## Prefix messages (R118) -/

/-- A Lookup. -/
def lookupMsg (kv first rid part : Nat) (hs : List Bytes) : Bytes :=
  [0x01] ++ toLE 1 kv ++ toLE 2 hs.length ++ toLE 4 first ++ toLE 8 rid ++ toLE 1 part ++ zeros 15 ++ hs.flatMap (padTo 32 ·)

/-- A Reply to a Lookup. -/
def lookupReply (status matched first rid leaseStep lease spans pps : Nat) : Bytes :=
  [0x02] ++ toLE 1 status ++ toLE 2 matched ++ toLE 4 first ++ toLE 8 rid ++ toLE 8 leaseStep ++ toLE 4 lease
    ++ toLE 2 spans ++ toLE 1 pps ++ zeros 17

/-- A Release. -/
def releaseMsg (lease rid : Nat) : Bytes := [0x03] ++ zeros 3 ++ toLE 4 lease ++ toLE 8 rid

/-! ## Scheduler messages (R206) -/

/-- A Bid. -/
def bidMsg (part dev count step ctx model member : Nat) : Bytes :=
  [0x01] ++ toLE 1 part ++ toLE 2 dev ++ toLE 4 count ++ toLE 8 step ++ toLE 4 ctx ++ toLE 2 model ++ toLE 1 member ++ zeros 9

/-- An Offer. -/
def offerMsg (part dev room step model : Nat) : Bytes :=
  [0x02] ++ toLE 1 part ++ toLE 2 dev ++ toLE 4 room ++ toLE 8 step ++ toLE 2 model ++ zeros 14

/-- A Void. -/
def voidMsg (part dev reason step : Nat) : Bytes :=
  [0x03] ++ toLE 1 part ++ toLE 2 dev ++ toLE 4 reason ++ toLE 8 step ++ zeros 16

end Sys2Proof.Machine
end

