-- ==== Sys2Proof/Machine/Fenpack.lean ====
section
/-! DEFINITION. Fenpack, the lossless codec of 4 KiB blocks (R299–R319): the Packer's two passes and the Expander's checks, on
bytes alone. Counting on the TIL pages is in Machine/Tiles.lean. -/

namespace Sys2Proof.Machine

open Sys2Proof

/-! ## Checksums -/

/-- One byte of a reflected CRC-32 with reversed polynomial `poly`. -/
def crcByte (poly crc : Nat) (b : Byte) : Nat :=
  (List.range 8).foldl (fun c _ => if c % 2 = 1 then (c / 2) ^^^ poly else c / 2) (crc ^^^ b.toNat)

/-- A reflected CRC-32 with initial value and final XOR 0xFFFF_FFFF. -/
def crc32 (poly : Nat) (bs : Bytes) : Nat := (bs.foldl (crcByte poly) 0xFFFFFFFF) ^^^ 0xFFFFFFFF

/-- CRC-32C, Castagnoli polynomial 0x1EDC_6F41 reflected (R303). -/
def crc32c (bs : Bytes) : Nat := crc32 0x82F63B78 bs

/-! ## Modes (R301) -/

/-- A coded mode: MODE and ELEM of R301. -/
inductive FMode where
  | byte | nibble | bf16 | fp32
  deriving DecidableEq, Repr

/-- MODE field. -/
def FMode.code : FMode → Nat
  | .byte => 1 | .nibble => 2 | .bf16 => 3 | .fp32 => 3

/-- ELEM field. -/
def FMode.elem : FMode → Nat
  | .fp32 => 1
  | _ => 0

/-- Coded symbols in a block. -/
def FMode.nsym : FMode → Nat
  | .byte => 4096 | .nibble => 8192 | .bf16 => 2048 | .fp32 => 1024

/-- Symbol values. -/
def FMode.values : FMode → Nat
  | .nibble => 16
  | _ => 256

/-- TABLE_LEN. -/
def FMode.tableLen (m : FMode) : Nat := m.values / 2

/-- RESID. -/
def FMode.resid : FMode → Nat
  | .byte => 0 | .nibble => 0 | .bf16 => 2048 | .fp32 => 3072

/-- The elements of `n` bytes of a block, as numbers. -/
def elements (n : Nat) : Nat → Bytes → List Nat
  | 0,     _  => []
  | k + 1, bs => leNat (bs.take n) :: elements n k (bs.drop n)

/-- The symbols of a block in a mode. -/
def FMode.symbols (m : FMode) (bs : Bytes) : List Nat :=
  match m with
  | .byte   => bs.map (·.toNat)
  | .nibble => bs.flatMap (fun b => [b.toNat % 16, b.toNat / 16])
  | .bf16   => (elements 2 2048 bs).map (fun v => bits v 14 7)
  | .fp32   => (elements 4 1024 bs).map (fun v => bits v 30 23)

/-- The residual plane of a block in a mode (R302). -/
def FMode.residual (m : FMode) (bs : Bytes) : Bytes :=
  match m with
  | .byte | .nibble => []
  | .bf16 => (elements 2 2048 bs).map (fun v => BitVec.ofNat 8 (bits v 15 15 * 128 + bits v 6 0))
  | .fp32 => (elements 4 1024 bs).flatMap (fun v =>
      [BitVec.ofNat 8 (bits v 7 0), BitVec.ofNat 8 (bits v 15 8), BitVec.ofNat 8 (bits v 31 31 * 128 + bits v 22 16)])

/-- The block again from its symbols and residual plane. -/
def FMode.rebuild (m : FMode) (syms : List Nat) (resid : Bytes) : Bytes :=
  match m with
  | .byte   => syms.map (BitVec.ofNat 8 ·)
  | .nibble => (elementsOf 2 4096 syms).map (fun p => BitVec.ofNat 8 (p.getD 0 0 + 16 * p.getD 1 0))
  | .bf16   => (List.zip syms (resid.map (·.toNat))).flatMap (fun (s, r) =>
      toLE 2 ((r / 128) * 2 ^ 15 + s * 2 ^ 7 + r % 128))
  | .fp32   => (List.zip syms (elements 3 1024 resid)).flatMap (fun (s, r) =>
      toLE 4 (bits r 23 23 * 2 ^ 31 + s * 2 ^ 23 + bits r 22 0))
where
  /-- A list cut into `k` runs of `n`. -/
  elementsOf (n : Nat) : Nat → List Nat → List (List Nat)
    | 0,     _ => []
    | k + 1, l => l.take n :: elementsOf n k (l.drop n)

/-! ## Code tables (R304, R305, R307) -/

/-- How often each symbol value below `n` occurs. -/
def countSyms (n : Nat) (syms : List Nat) : List Nat :=
  let m := syms.foldl (fun (a : Array Nat) s => a.modify s (· + 1)) (Array.replicate n 0)
  m.toList

/-- A node of the Huffman tree: its weight, its lowest symbol value, and its symbols with their depths. -/
structure HNode where
  weight : Nat
  low    : Nat
  syms   : List (Nat × Nat)
  deriving DecidableEq, Repr

/-- Does node `a` come before node `b`? Lower weight first, on equal weights the one holding the lowest symbol value (R307). -/
def HNode.before (a b : HNode) : Bool := a.weight < b.weight || (a.weight == b.weight && a.low < b.low)

/-- Insert a node in order. -/
def hInsert (x : HNode) : List HNode → List HNode
  | []     => [x]
  | y :: l => if x.before y then x :: y :: l else y :: hInsert x l

/-- Merge the two lowest nodes until one is left. -/
def hMerge : Nat → List HNode → List HNode
  | 0,     l => l
  | k + 1, a :: b :: l =>
    let up := fun (p : Nat × Nat) => (p.1, p.2 + 1)
    hMerge k (hInsert ⟨a.weight + b.weight, min a.low b.low, a.syms.map up ++ b.syms.map up⟩ l)
  | _ + 1, l => l

/-- `huffman_lengths` of R307: symbol and length. -/
def huffLengths (w : List Nat) : List (Nat × Nat) :=
  let leaves := (w.zipIdx.filter (fun p => p.1 > 0)).map (fun (c, s) => (⟨c, s, [(s, 0)]⟩ : HNode))
  let sorted := leaves.foldl (fun l x => hInsert x l) []
  match hMerge sorted.length sorted with
  | [r] => if r.syms.length = 1 then r.syms.map (fun p => (p.1, 1)) else r.syms
  | _   => []

/-- `build_lengths` of R307, with fuel for the halvings. -/
def buildLengths : Nat → List Nat → List (Nat × Nat)
  | 0,     w => huffLengths w
  | k + 1, w =>
    let l := huffLengths w
    if l.all (fun p => p.2 ≤ 12) then l
    else buildLengths k (w.map (fun c => if c > 0 then (c + 1) / 2 else 0))

/-- Code lengths by symbol value, 0 where the symbol does not occur. -/
def lengthTable (n : Nat) (l : List (Nat × Nat)) : List Nat :=
  (l.foldl (fun (a : Array Nat) p => a.setIfInBounds p.1 p.2) (Array.replicate n 0)).toList

/-- The bytes of a code table (R304). -/
def tableBytes : List Nat → Bytes
  | a :: b :: l => BitVec.ofNat 8 (a + 16 * b) :: tableBytes l
  | [a]         => [BitVec.ofNat 8 a]
  | []          => []

/-- The lengths a code table holds. -/
def tableLengths (bs : Bytes) : List Nat := bs.flatMap (fun b => [b.toNat % 16, b.toNat / 16])

/-- Is a code table valid (R305)? -/
def tableValid (lens : List Nat) : Bool :=
  let nz := lens.filter (· > 0)
  nz.all (· ≤ 12) && (nz.foldl (fun s l => s + 2 ^ (12 - l)) 0 == 4096 || nz == [1])

/-- The canonical codes of a table (R305): symbol, length and code, in ascending order of (length, symbol value). -/
def canonical (lens : List Nat) : List (Nat × Nat × Nat) :=
  let ordered := (List.range 12).flatMap (fun i => (lens.zipIdx.filter (fun p => p.1 == i + 1)).map (fun p => (p.2, p.1)))
  (ordered.foldl (fun (st : List (Nat × Nat × Nat) × Option (Nat × Nat)) p =>
    let code := match st.2 with
      | none => 0
      | some (c, l) => (c + 1) <<< (p.2 - l)
    ((p.1, p.2, code) :: st.1, some (code, p.2))) ([], none)).1.reverse

/-! ## The coded stream (R306) -/

/-- The bits of a code, most significant first. -/
def codeBits (len code : Nat) : List Bool := (List.range len).map (fun i => code.testBit (len - 1 - i))

/-- Bits to bytes, bit j in bit 7 − (j mod 8), zero bits to the byte boundary. -/
def bitsToBytes : Nat → List Bool → Bytes
  | 0,     _  => []
  | _ + 1, [] => []
  | k + 1, l  =>
    let v := ((l.take 8).zipIdx.map (fun (b, i) => b2n b * 2 ^ (7 - i))).foldl (· + ·) 0
    BitVec.ofNat 8 v :: bitsToBytes k (l.drop 8)

/-- Bytes to bits, most significant bit of each byte first. -/
def bytesToBits (bs : Bytes) : List Bool := bs.flatMap (fun b => (List.range 8).map (fun i => b.toNat.testBit (7 - i)))

/-- The codes of a table, by symbol. -/
def codeOf (codes : List (Nat × Nat × Nat)) : Array (Nat × Nat) :=
  codes.foldl (fun (a : Array (Nat × Nat)) p => a.setIfInBounds p.1 p.2) (Array.replicate 256 (0, 0))

/-- One sub-stream. -/
def encodeSub (codes : Array (Nat × Nat)) (syms : List Nat) : Bytes :=
  let bs := syms.flatMap (fun s => let c := codes.getD s (0, 0); codeBits c.1 c.2)
  bitsToBytes ((bs.length + 7) / 8) bs

/-- The eight runs of symbols of a block. -/
def subRuns (n : Nat) (syms : List Nat) : List (List Nat) :=
  (List.range 8).map (fun i => (syms.drop (i * (n / 8))).take (n / 8))

/-- What the first pass makes of a mode: its table, its eight sub-streams and L0 (R307, R308). -/
structure Coded where
  mode  : FMode
  table : Bytes
  subs  : List Bytes
  l0    : Nat
  deriving DecidableEq, Repr

/-- A block coded in a mode. -/
def codeBlock (m : FMode) (bs : Bytes) : Coded :=
  let syms := m.symbols bs
  let lens := lengthTable m.values (buildLengths 16 (countSyms m.values syms))
  let codes := codeOf (canonical lens)
  let subs := (subRuns m.nsym syms).map (encodeSub codes)
  ⟨m, tableBytes lens, subs, 32 + m.tableLen + (subs.map List.length).sum + m.resid⟩

/-- A length rounded up to a multiple of `n`. -/
def roundUp (n x : Nat) : Nat := ceilDiv x n * n

/-- L1 of a coded block. -/
def Coded.l1 (c : Coded) : Nat := roundUp 16 c.l0

/-- The end offsets of the sub-streams. -/
def subEnds (subs : List Bytes) : List Nat :=
  (subs.foldl (fun (st : List Nat × Nat) b => (st.1 ++ [st.2 + b.length], st.2 + b.length)) ([], 0)).1

/-- The mode the Packer chooses: the smallest L1 not above 3,840, on equal L1 the lowest MODE; none = mode 0 (R308). -/
def chooseMode (cs : List Coded) : Option Coded :=
  let best := cs.foldl (fun (b : Option Coded) c => match b with
    | none => some c
    | some d => if c.l1 < d.l1 || (c.l1 == d.l1 && c.mode.code < d.mode.code) then some c else some d) none
  match best with
  | some c => if c.l1 ≤ 3840 then some c else none
  | none => none

/-- LENGTH of a block in a coded mode under a bucket code (R319). -/
def bucketLen (code l1 : Nat) : Nat :=
  match code with
  | 0 => l1
  | 1 => roundUp 256 l1
  | 2 => roundUp 1024 l1
  | _ => 4128

/-- The 32-byte header (R303). -/
def fenHeader (mode elem padded length crc coded : Nat) (ends : List Nat) : Bytes :=
  toLE 2 (mode + elem * 4 + 1 * 16 + padded * 256) ++ toLE 2 length ++ toLE 4 crc ++ toLE 2 coded ++ zeros 6
    ++ ends.flatMap (toLE 2 ·)

/-- A packed block: its link form, its MODE, and the padding added under R319. -/
structure Packed where
  bytes : Bytes
  mode  : Nat
  pad   : Nat
  l1    : Nat
  deriving DecidableEq, Repr

/-- The link form of a 4,096-byte block under the modes tried and a bucket code (R307, R308, R319). -/
def fenPack (modes : List FMode) (bucket : Nat) (input : Bytes) : Packed :=
  let bs := padTo 4096 input
  match chooseMode (modes.map (fun m => codeBlock m bs)) with
  | none   => ⟨fenHeader 0 0 0 4128 (crc32c bs) 0 (List.replicate 8 0) ++ bs, 0, 0, 4128⟩
  | some c =>
    let len := bucketLen bucket c.l1
    let body := fenHeader c.mode.code c.mode.elem (b2n (len > c.l1)) len (crc32c bs) (c.subs.map List.length).sum (subEnds c.subs)
      ++ c.table ++ c.subs.flatten ++ c.mode.residual bs
    ⟨padTo len body, c.mode.code, len - c.l1, c.l1⟩

/-! ## The Expander (R316) -/

/-- What the Expander answers: the 4,096 bytes, or the check that failed with the MODE read. -/
inductive Expanded where
  | ok (bytes : Bytes)
  | bad (check mode : Nat)
  deriving DecidableEq, Repr

/-- Decode `n` symbols from a list of bits; none where no code matches or the bits run out. `acc` and `len` hold the bits of the
code begun. -/
def decodeBits (codes : List (Nat × Nat × Nat)) : Nat → Nat → Nat → List Bool → List Nat → Option (List Nat × List Bool)
  | 0,     _,   _,   rest,    out => some (out.reverse, rest)
  | _ + 1, _,   _,   [],      _   => none
  | n + 1, acc, len, b :: bs, out =>
    let acc' := acc * 2 + b2n b
    let len' := len + 1
    match codes.find? (fun p => p.2.1 == len' && p.2.2 == acc') with
    | some p => decodeBits codes n 0 0 bs (p.1 :: out)
    | none   => if len' > 12 then none else decodeBits codes (n + 1) acc' len' bs out
  termination_by structural _ _ _ bs _ => bs

/-- One sub-stream decoded to exactly `n` symbols, with fewer than 8 bits left, all zero (check 5). -/
def decodeSub (codes : List (Nat × Nat × Nat)) (n : Nat) (bs : Bytes) : Option (List Nat) :=
  match decodeBits codes n 0 0 (bytesToBits bs) [] with
  | some (syms, rest) => if rest.length < 8 && rest.all (! ·) then some syms else none
  | none => none

/-- All results of a list, or none. -/
def allSome {α : Type} : List (Option α) → Option (List α)
  | []          => some []
  | none :: _   => none
  | some x :: l => (allSome l).map (x :: ·)

/-- The mode a header names, if MODE and ELEM are legal together (check 1). -/
def modeOf (mode elem : Nat) : Option (Option FMode) :=
  match mode, elem with
  | 0, 0 => some none
  | 1, 0 => some (some .byte)
  | 2, 0 => some (some .nibble)
  | 3, 0 => some (some .bf16)
  | 3, 1 => some (some .fp32)
  | _, _ => none

/-- A link-form block checked and unpacked (R316); `announced` is the length its carrier announces. -/
def fenUnpack (announced : Nat) (bs : Bytes) : Expanded :=
  let w := le bs 0 2
  let mode := bits w 1 0
  let length := le bs 2 2
  let coded := le bs 8 2
  let ends := (List.range 8).map (fun i => le bs (16 + 2 * i) 2)
  match modeOf mode (bits w 3 2) with
  | none => .bad 1 mode
  | some fm =>
    if bits w 7 4 ≠ 1 || bits w 15 9 ≠ 0 || !allZero (slice bs 10 6) then .bad 1 mode
    else if length % 16 ≠ 0 || length ≠ announced || bs.length < length then .bad 2 mode
    else match fm with
    | none =>
      let out := slice bs 32 4096
      if length ≠ 4128 || bit w 8 then .bad 2 mode
      else if crc32c out ≠ le bs 4 4 then .bad 7 mode
      else .ok out
    | some m =>
      let body := 32 + m.tableLen + coded + m.resid
      let lens := tableLengths (slice bs 32 m.tableLen)
      let stream := slice bs (32 + m.tableLen) coded
      let starts := 0 :: ends.dropLast
      if body > length || (!bit w 8 && length > 3840) then .bad 2 mode
      else if !tableValid lens then .bad 3 mode
      else if !((List.zip starts ends).all (fun (a, b) => a ≤ b)) || ends.getLastD 0 ≠ coded then .bad 4 mode
      else match allSome ((List.zip starts ends).map (fun (a, b) =>
          decodeSub (canonical lens) (m.nsym / 8) (slice stream a (b - a)))) with
        | none => .bad 5 mode
        | some subs =>
          let out := m.rebuild subs.flatten (slice bs (32 + m.tableLen + coded) m.resid)
          if !allZero (slice bs body (length - body)) then .bad 6 mode
          else if crc32c out ≠ le bs 4 4 then .bad 7 mode
          else .ok out

/-- Memory words of a slot that the Expander reads (R313). -/
def slotWords (tag : Nat) : Nat := if tag = 0 then 64 else min 64 (ceilDiv tag 64)

/-- A slot-form block unpacked from its tag and the words read (R312, R313, R316); the tag is checked last. -/
def fenUnpackSlot (tag : Nat) (words : Bytes) : Expanded :=
  if tag = 0 then .ok (padTo 4096 words)
  else match fenUnpack (le words 2 2) words with
    | .ok out => if tag > 3840 || tag ≠ le words 2 2 then .bad 8 (bits (le words 0 2) 1 0) else .ok out
    | .bad c m => .bad c m

/-- The slot form of a block and its tag (R312): mode 0 keeps no header. -/
def fenSlot (modes : List FMode) (input : Bytes) : Bytes × Nat :=
  let p := fenPack modes 0 input
  if p.mode = 0 then (padTo 4096 input, 0) else (padTo 4096 p.bytes, p.l1)

end Sys2Proof.Machine
end

