-- ==== Sys2Proof/Machine/LinkOps.lean ====
section
/-! DEFINITION. Shared operations of the links (11): states, control frames (R333–R337), training, and how a link goes down or retires
(R340, R347, R348, R583). -/

namespace Sys2Proof.Machine

open Sys2Proof

/-- What a link holds. -/
def Chip.link (s : Chip) (l : Nat) : Link := s.links.getD l {}

/-- Change what a link holds. -/
def Chip.updLink (s : Chip) (l : Nat) (f : Link → Link) : Chip := { s with links := s.links.upd l {} f }

/-- A field of a link's LNK page. -/
def Chip.lnkRf (s : Chip) (l : Nat) (f : Fld) : Nat := s.rf (f.on (Pg.lnk l))

/-- Write a field of a link's LNK page. -/
def Chip.lnkWf (s : Chip) (l : Nat) (f : Fld) (v : Nat) : Chip := s.wf (f.on (Pg.lnk l)) v

/-- LNK_STAT.STATE. -/
def Chip.lnkState (s : Chip) (l : Nat) : Nat := s.lnkRf l F.LNK_STAT_STATE

/-! Codes of R338. -/
namespace Ls
abbrev off : Nat := 0
abbrev training : Nat := 1
abbrev upControl : Nat := 2
abbrev selftest : Nat := 3
abbrev admitted : Nat := 4
abbrev down : Nat := 5
abbrev retired : Nat := 6
end Ls

/-- Is a link ADMITTED? -/
def Chip.admitted (s : Chip) (l : Nat) : Bool := decide (l < 48) && s.lnkState l == Ls.admitted

/-- Does a link carry control frames after training: UP_CONTROL, SELFTEST or ADMITTED? -/
def Chip.linkUp (s : Chip) (l : Nat) : Bool := decide (2 ≤ s.lnkState l) && decide (s.lnkState l ≤ 4)

/-- Lanes in a mask. -/
def lanesIn (m : Nat) : Nat := (below 4 (fun w => m.testBit w)).length

/-- Remove a lane from a mask. -/
def maskDel (m w : Nat) : Nat := putBits m w w 0

/-- Width of the transmit direction. -/
def Chip.width (s : Chip) (l : Nat) : Nat := lanesIn (s.lnkRf l F.LNK_STAT_TX_MASK)

/-- MIN_WIDTH; 0 and 1 act as 2. -/
def Chip.minWidth (s : Chip) (l : Nat) : Nat := max 2 (s.lnkRf l F.LNK_CFG_MIN_WIDTH)

/-- STATE of a receive lane (R354). -/
def Chip.laneState (s : Chip) (l w : Nat) : Nat := s.lnkRf l (F.LNK_LANE_STATE.plus (4 * w))

/-- Set the STATE of a receive lane. -/
def Chip.setLane (s : Chip) (l w v : Nat) : Chip := s.lnkWf l (F.LNK_LANE_STATE.plus (4 * w)) v

/-- Lanes not retired, as a mask. -/
def Chip.liveLanes (s : Chip) (l : Nat) : Nat := ((below 4 (fun w => s.laneState l w != 5)).map (2 ^ ·)).foldl (· + ·) 0

/-- Version agreed, 2 before an agreement. -/
def Chip.linkVer (s : Chip) (l : Nat) : Nat := let v := s.lnkRf l F.LNK_STAT_VERSION; if v = 0 then 2 else v

/-- SERIAL in a capability message. -/
def capSerial (c : Bytes) : Nat := le c 8 8

/-- Is this the end with the lower SERIAL? -/
def Chip.lowerEnd (s : Chip) (l : Nat) : Bool := decide (ownSerial < capSerial (s.link l).peerCap)

/-! ## Frames (R333–R336) -/

/-- The CRC of R334 over the bytes before it, appended. -/
def withCrc (b : Bytes) : Bytes := b ++ toLE 4 (crc32 0xEDB88320 b)

/-- Is a control frame sent by a negotiating end: TAG_ZERO, no key (R336)? -/
def Link.clear (k : Link) : Bool := decide (k.stage ≤ 5) && k.lck.isEmpty

/-- Key and LSEQ of a control frame (R464, R469): a confirm message uses the highest LSEQ under LCK, other frames of stage 6 go under
LCK0. -/
def Link.ctlKey (k : Link) (type : Nat) (payload : Bytes) (lseq : Nat) : Bytes × Nat :=
  if type = 1 && le payload 0 1 = 2 then (k.lck, 2 ^ 64 - 1)
  else if k.stage = 6 then (k.lck0, lseq)
  else (k.lck, lseq)

/-- The header of a control frame. -/
def Chip.ctlHeader (s : Chip) (l type flags seq len : Nat) : Bytes :=
  toLE 1 (2 + 16 * s.linkVer l) ++ zeros 1 ++ toLE 2 len ++ toLE 1 type ++ toLE 1 flags ++ toLE 2 seq ++ toLE 2 s.selfDev ++ toLE 1 l ++ zeros 5
    ++ toLE 8 (if s.locked then s.step else 0) ++ zeros 8

/-- A frame leaves on a link: counted, and LINK_SEQ rises. -/
def Chip.frameOut (s : Chip) (l : Nat) (bytes : Bytes) : Chip :=
  let s := (s.add64 (regAt (Pg.lnk l) Reg.LNK_FRAMES_TX_LO) 1).add64 (regAt (Pg.lnk l) Reg.LNK_BYTES_TX_LO) bytes.length
  (s.updLink l (fun k => { k with txSeq := k.txSeq + 1 })).emit (.frame l bytes)

/-- Send a control frame now. -/
def Chip.ctlNow (s : Chip) (l type : Nat) (payload : Bytes) : Chip :=
  let k := s.link l
  let h := s.ctlHeader l type (if k.clear then 2 else 1) k.txSeq payload.length
  let (key, lseq) := k.ctlKey type payload k.txSeq
  let tag := if k.clear then zeros 16 else gcmLock key (ivControl (s.lowerEnd l) lseq) (h ++ payload) []
  s.frameOut l (withCrc (h ++ payload ++ tag))

/-- A control frame is ready: it goes at the next frame boundary (R337). -/
def Chip.sendCtl (s : Chip) (l type : Nat) (payload : Bytes) : Chip := s.updLink l (fun k => { k with ctl := k.ctl ++ [(type, payload)] })

/-- An Admit frame: MSG 1 propose, 2 confirm, 3 withdraw. -/
def admitPayload (msg step : Nat) : Bytes := toLE 1 msg ++ zeros 7 ++ toLE 8 step

/-! ## Leaving service -/

/-- A link that leaves ADMITTED loses every frame in its queues (R403). -/
def Chip.discardQueues (s : Chip) (l : Nat) : Chip := { s with shps := s.shps.upd l {} (fun q => { q with queues := [] }) }

/-- An end that leaves SELFTEST or UP_CONTROL while an admission is proposed or confirmed sends a withdraw (R351). -/
def Chip.withdraw (s : Chip) (l : Nat) : Chip :=
  let k := s.link l
  match k.admitAt, k.proposed with
  | some n, _ => s.ctlNow l 4 (admitPayload 3 n)
  | none, some n => s.ctlNow l 4 (admitPayload 3 n)
  | none, none => s

/-- A link leaves its state for DOWN, OFF or RETIRED; RX_DOWN as given. -/
def Chip.leave (s : Chip) (l state : Nat) (rxDown : Bool) : Chip :=
  let s := if s.lnkState l = Ls.selftest || s.lnkState l = Ls.upControl then s.withdraw l else s
  let s := (s.discardQueues l).lnkWf l F.LNK_STAT_STATE state
  let s := ((s.lnkWf l F.LNK_STAT_TX_MASK 0).lnkWf l F.LNK_STAT_RX_MASK 0).lnkWf l F.LNK_STAT_ADMIT_PENDING 0
  let s := s.updLink l (fun _ => { ({} : Link) with rxDown := rxDown })
  s.each (List.range 4) (fun s w => if s.laneState l w = 5 then s else s.setLane l w 0)

/-- Training starts (R339): stage SIGNAL on every lane not retired. Only an enabled link that is not RETIRED trains. -/
def Chip.startTraining (s : Chip) (l : Nat) : Chip :=
  if !s.active (Pg.lnk l) (F.LNK_CFG_EN.on (Pg.lnk l)) || s.lnkState l = Ls.retired || s.flt.mute then s
  else
    let down := (s.link l).rxDown
    let s := ((s.leave l Ls.training down).cnt (regAt (Pg.lnk l) Reg.LNK_TRAIN_CNT))
    let live := s.liveLanes l
    let s := ((s.lnkWf l F.LNK_STAT_VERSION 0).lnkWf l F.LNK_STAT_RATE 0).lnkWf l F.LNK_STAT_TX_MASK live
    let s := s.updLink l (fun k => { k with stage := 1, lanes := live })
    s.each (List.range 4) (fun s w => if live.testBit w then s.setLane l w 1 else s)

/-- An end of a link is RETIRED (R348): lasers off, the reason recorded. -/
def Chip.retireEnd (s : Chip) (l reason : Nat) : Chip :=
  let s := (s.leave l Ls.retired false).lnkWf l F.LNK_STAT_RETIRE_REASON reason
  let s := s.setFlt (fun f => { f with returns := f.returns.filter (fun r => r.chan != .link l) })
  let e := F.OPT_CFG_LASER_EN.on (Pg.opt (l / 4))
  (s.wf e (putBits (s.rf e) (l % 4) (l % 4) 0)).raise (Pg.lnk l) 2

/-- A link retires, with a Retire frame if it can be sent. -/
def Chip.retireLink (s : Chip) (l reason : Nat) : Chip :=
  if s.lnkState l = Ls.retired then s
  else (if s.linkUp l then s.ctlNow l 6 (toLE 1 reason ++ zeros 15) else s).retireEnd l reason

/-- A training failure (R340, R583): the link is DOWN, and the failure counts as a retrain failure of the link channel. In SELFTEST it also
ends an attempt of the link's return to service (R506). -/
def Chip.trainFail (s : Chip) (l : Nat) : Chip :=
  let testing := s.lnkState l == Ls.selftest
  let late := decide (3 ≤ (s.link l).stage) || testing
  let s := ((s.leave l Ls.down late).cnt (regAt (Pg.lnk l) Reg.LNK_TRAIN_FAIL)).raise (Pg.lnk l) 3
  match (if testing && (s.returning (.link l)).isSome then s.attemptFailed (.link l) else s.retrainFailed (.link l)) with
  | (s, true) => s.retireLink l 1
  | (s, false) => s

/-- An ADMITTED link leaves service and has to come back along the path of R505. -/
def Chip.leftService (s : Chip) (l : Nat) (admitted : Bool) : Chip := if admitted then s.startReturn (.link l) .selfTest else s

/-- A link is judged down (R347): it trains again at once. [log 38, DEDUCED] -/
def Chip.linkDown (s : Chip) (l : Nat) : Chip :=
  let was := s.admitted l
  let back := (s.returning (.link l)).isSome
  let s := (s.leave l Ls.down true).raise (Pg.lnk l) 1
  match s.countEvent (.link l) 2 with
  | (s, true) => s.retireLink l 1
  | (s, false) =>
    match (if back then s.attemptFailed (.link l) else (s.leftService l was, false)) with
    | (s, true) => s.retireLink l 1
    | (s, false) => s.startTraining l

/-- Fewer good lanes than MIN_WIDTH, or the peer sets RX_DOWN: a training failure in TRAINING and SELFTEST (R583), a link-down judgement
otherwise (R347). -/
def Chip.linkLost (s : Chip) (l : Nat) : Chip :=
  if s.lnkState l = Ls.training || s.lnkState l = Ls.selftest then s.trainFail l
  else if s.linkUp l then s.linkDown l
  else s

/-- A receive lane is judged failed (R345). -/
def Chip.laneFailed (s : Chip) (l w : Nat) : Chip :=
  if !(s.link l).rxGood.testBit w then s
  else
    let s := s.updLink l (fun k => { k with rxGood := maskDel k.rxGood w, badAt := k.badAt.del w, goodRun := k.goodRun.del w
                                            reqOut := putBits k.reqOut w w 1 })
    let s := ((s.setLane l w 3).cnt (regAt (Pg.lnk l) Reg.LNK_LANE_DROPS)).raise (Pg.lnk l) 0
    let (s, perm) := s.countEvent (.lane l w) 1
    let s := if perm then (s.setLane l w 5).updLink l (fun k => { k with reqOut := maskDel k.reqOut w }) else s.setLane l w 4
    if lanesIn (s.link l).rxGood < s.minWidth l then s.linkLost l else s

end Sys2Proof.Machine
end

