-- ==== Sys2Proof/Machine/ShpOps.lean ====
section
/-! DEFINITION. Shared operations of the egress queues (13): which queue a frame enters, room (R400–R402), head tags (R415). -/

namespace Sys2Proof.Machine

open Sys2Proof

/-- Queues of a link. -/
def Chip.shp (s : Chip) (l : Nat) : Shp := s.shps.getD l {}

/-- Change the queues of a link. -/
def Chip.updShp (s : Chip) (l : Nat) (f : Shp → Shp) : Chip := { s with shps := s.shps.upd l {} f }

/-- Frames of a queue, head first. -/
def Shp.frames (x : Shp) (q : Nat) : List QFrame := x.queues.getD q []

/-- Bytes of a frame on the link: the CRC is added when it starts. -/
def QFrame.size (f : QFrame) : Nat := f.bytes.length + 4

/-- Traffic class of a frame. -/
def QFrame.tc (f : QFrame) : Nat := bits (le f.bytes 8 1) 6 4

/-- Bytes in a queue. -/
def Shp.queued (x : Shp) (q : Nat) : Nat := ((x.frames q).map QFrame.size).foldl (· + ·) 0

/-- Bytes in the egress buffer. -/
def Shp.used (x : Shp) : Nat := ((List.range 32).map x.queued).foldl (· + ·) 0

/-- Queue of an originated frame of partition p and class tc on link l (R401). -/
def Chip.originQueue (s : Chip) (l p tc : Nat) : Nat :=
  let v := s.rd (regAt (Pg.shp l) (Reg.SHP_QMAP + 4 * (p % 8)))
  3 * (p % 8) + min 2 (bits v (2 * tc + 1) (2 * tc))

/-- Limit of a queue in bytes (R402, R424). -/
def Chip.queueLimit (s : Chip) (l q : Nat) : Nat := min 2048 (s.rf ((F.SHP_QCFG_QLIMIT.plus (16 * q)).on (Pg.shp l))) * 1024

/-- Do the queues of a link accept frames (SHP_CFG.EN)? -/
def Chip.shpOn (s : Chip) (l : Nat) : Bool := s.active (Pg.shp l) ⟨regAt (Pg.shp l) Reg.SHP_CFG, 0, 0⟩

/-- Why a frame of n bytes finds no room in a queue: the queue's limit (false) or the egress buffer (true); none where it has room. -/
def Chip.queueFull (s : Chip) (l q n : Nat) : Option Bool :=
  let x := s.shp l
  if x.used + n > 2097152 then some true else if x.queued q + n > s.queueLimit l q then some false else none

/-- Change what the sampler counts of a queue. -/
def Chip.updSample (s : Chip) (l q : Nat) (f : Sample → Sample) : Chip :=
  s.updShp l (fun x => { x with samples := x.samples.upd q {} f })

/-- An originated frame waits for a full queue (R402, R425). -/
def Chip.noteFull (s : Chip) (l q : Nat) (buffer : Bool) : Chip :=
  let s := (s.cnt (regAt (Pg.shp l) (Reg.SHP_FULL + 4 * q))).raise (Pg.shp l) 0
  let s := s.updSample l q (fun x => { x with full := true })
  if buffer then s.raise (Pg.shp l) 3 else s

/-- Is tag a before tag b, by serial arithmetic over 48 bits (R415)? -/
def tagBefore (a b : Nat) : Bool := let d := (b + 2 ^ 48 - a % 2 ^ 48) % 2 ^ 48; d != 0 && decide (d < 2 ^ 47)

/-- The later of two tags. -/
def tagMax (a b : Nat) : Nat := if tagBefore a b then b else a

/-- The frame at the head of a queue receives its tag (R415). -/
def Chip.tagHead (s : Chip) (l q : Nat) : Chip :=
  match (s.shp l).frames q with
  | [] => s
  | f :: _ =>
    let w := max 1 (s.rf ((F.SHP_QCFG_WEIGHT.plus (16 * q)).on (Pg.shp l)))
    s.updShp l (fun x => { x with tags := x.tags.put q ((tagMax x.vtime (x.tags.getD q 0) + ceilDiv (f.size * 256) w) % 2 ^ 48) })

/-- A frame enters a queue. [log 40, DEDUCED] -/
def Chip.enqueue (s : Chip) (l q : Nat) (f : QFrame) : Chip :=
  let empty := ((s.shp l).frames q).isEmpty
  let s := s.updShp l (fun x => { x with queues := x.queues.put q (x.frames q ++ [f]) })
  if empty then s.tagHead l q else s

/-- Is a copy of a numbered packet still in an egress queue (R403)? -/
def Chip.copyQueued (s : Chip) (ctx psn : Nat) : Bool :=
  s.shps.any (fun x => x.2.queues.any (fun q => q.2.any (fun f => f.org == some (ctx, psn))))

end Sys2Proof.Machine
end

