-- ==== Sys2Proof/Machine/XptOps.lean ====
section
/-! DEFINITION. The sending side of the transport (12): headers (R359), routes (R363), endpoint contexts (R365, R366), numbering (R367,
R374), the start of pair handshakes (R467), and the hand-over of a message. -/

namespace Sys2Proof.Machine

open Sys2Proof

/-- Change the transport block. -/
def Chip.setXpt (s : Chip) (f : Xpt → Xpt) : Chip := { s with xpt := f s.xpt }

/-- Does the transport send, receive and forward: enabled, and its device number given (R398)? -/
def Chip.xptOn (s : Chip) : Bool := s.active Pg.XPT F.XPT_CFG_EN && s.selfDev != 0xFFFF

/-- Traffic class of a service (R361). -/
def Chip.svcTc (s : Chip) (svc : Nat) : Nat := bits (s.rd Reg.XPT_SVC_TC) (3 * svc + 2) (3 * svc)

/-- Epoch that a packet of a partition carries; 0 for SERVICE 0 and 8 (R359). -/
def Chip.sendEpoch (s : Chip) (svc part : Nat) : Nat :=
  if svc = 0 || svc = 8 then 0 else ((s.compOf part).map s.epochOf).getD 0

/-! ## Headers -/

/-- The transport header of a packet, bytes 8–31 of its frame (R359). -/
def packetHeader (p : Packet) : Bytes :=
  toLE 1 (p.op + 16 * p.tc + 128 * b2n p.last) ++ toLE 1 (p.srcPart % 8 + 8 * (p.dstPart % 8)) ++ toLE 2 p.srcDev ++ toLE 2 p.dstDev ++ toLE 1 p.svc
    ++ toLE 1 p.hops ++ toLE 4 p.psn ++ toLE 4 p.epoch ++ toLE 2 p.step ++ toLE 2 p.frag ++ toLE 4 (p.msgLen % 2 ^ 24)

/-- Link part of a data frame's header, LINK_SEQ zero (R333). -/
def linkPart (ver len : Nat) : Bytes := toLE 1 (1 + 16 * ver) ++ zeros 1 ++ toLE 2 len ++ zeros 4

/-- The authenticated data of a data frame: its header with LINK_SEQ and HOPS_LEFT zero (R469). -/
def frameAad (b : Bytes) : Bytes := patch (patch (slice b 0 32) 6 [0, 0]) 15 [0]

/-- A packet sealed: header, ciphertext and tag. -/
def sealPacket (ver : Nat) (p : Packet) (key iv : Bytes) : Bytes :=
  let h := linkPart ver p.payload.length ++ packetHeader p
  h ++ gcmLock key iv (frameAad h) p.payload

/-- The step of a packet: congruent to STEP modulo 65,536 and nearest the receiver's own (R362). -/
def nearest (m n x : Nat) : Nat :=
  let lo := n / m * m + x % m
  if n + m / 2 < lo then lo - m else if lo + m / 2 ≤ n then lo + m else lo

/-! ## Routes (R363) -/

/-- Links that lead to a device: valid, ADMITTED, ascending. -/
def Chip.routeLinks (s : Chip) (dev : Nat) : List Nat :=
  let v := (s.xpt.routes.getD dev 0).toNat
  let named := below 48 (fun l => (List.range 4).any (fun i => bit v (8 * i + 6) && bits v (8 * i + 5) (8 * i) == l))
  named.filter s.admitted

/-- The link for a PSN. -/
def Chip.route (s : Chip) (dev psn : Nat) : Option Nat :=
  let l := s.routeLinks dev
  if l.isEmpty then none else l[psn % 2 ^ 32 % l.length]?

/-! ## Contexts (R365, R366) -/

/-- Number of a context: direction 0 send, 1 receive. -/
def ctxNo (dir peer tc : Nat) : Nat := dir * 2 ^ 19 + peer * 8 + tc

/-- A send context. -/
def Chip.tx (s : Chip) (c : Nat) : TxCtx := match s.xpt.ctxs.find c with | some (.tx x) => x | _ => {}

/-- A receive context. -/
def Chip.rx (s : Chip) (c : Nat) : RxCtx := match s.xpt.ctxs.find c with | some (.rx x) => x | _ => {}

/-- Store a context; one as after cold reset is not listed. -/
def Chip.putTx (s : Chip) (c : Nat) (x : TxCtx) : Chip :=
  s.setXpt (fun y => { y with ctxs := if x = {} then y.ctxs.del c else y.ctxs.put c (.tx x) })

/-- Store a receive context. -/
def Chip.putRx (s : Chip) (c : Nat) (x : RxCtx) : Chip :=
  s.setXpt (fun y => { y with ctxs := if x = {} then y.ctxs.del c else y.ctxs.put c (.rx x) })

/-- Change a send context. -/
def Chip.updTx (s : Chip) (c : Nat) (f : TxCtx → TxCtx) : Chip := s.putTx c (f (s.tx c))

/-- Change a receive context. -/
def Chip.updRx (s : Chip) (c : Nat) (f : RxCtx → RxCtx) : Chip := s.putRx c (f (s.rx c))

/-- Is a context on the chip? Where it is not, its fetch is started and counted. [log 41, DEDUCED] -/
def Chip.needCtx (s : Chip) (c : Nat) : Chip × Bool :=
  if s.xpt.cached.contains c then (s.setXpt (fun x => { x with cached := x.cached.filter (· != c) ++ [c] }), true)
  else if s.xpt.fetching.contains c then (s, false)
  else ((s.setXpt (fun x => { x with fetching := x.fetching ++ [c] })).cnt Reg.XPT_CTX_MISS, false)

/-! ## Keys of what is sent (R468) -/

/-- Is a message of the pair handshake that may go under the open key? -/
def TxMsg.isShake (m : TxMsg) : Bool := m.svc == 8 && (le m.bytes 0 1 == 0x10 || le m.bytes 0 1 == 0x11)

/-- The key a message goes under, and whether it is the open key; none while there is none. A Pair confirm goes under the new device
key (R467). The SA keys of a partition that does not exist are erased (R29). -/
def Chip.msgKey (s : Chip) (peer : Nat) (m : TxMsg) : Option (Bytes × Bool) :=
  if usesSa m.op m.svc && !s.partExists m.srcPart then none
  else if m.svc = 8 && le m.bytes 0 1 = 0x12 then
    match s.sec.shakes.find? (fun x => x.dev == peer && x.hid == le m.bytes 8 8 && !x.pmk.isEmpty) with
    | some x => some (deviceKey x.pmk ownSerial (credSerial x.cred), false)
    | none => (s.pair peer).map (fun p => (p.txKey 1 8 0 0, false))
  else match s.pair peer with
    | some p => some (p.txKey m.op m.svc m.srcPart m.dstPart, false)
    | none => if m.isShake then some (openKey, true) else none

/-- Is a message held back: it waits for the next Boundary window, or there is no key for it? -/
def Chip.msgHeld (s : Chip) (peer : Nat) (m : TxMsg) : Bool := m.wait || (s.msgKey peer m).isNone

/-! ## Placing frames -/

/-- Place a sealed packet in the queue of R401 on the link that R363 selects. -/
def Chip.placeFrame (s : Chip) (l p tc : Nat) (frame : Bytes) (org : Option (Nat × Nat)) : Chip :=
  s.enqueue l (s.originQueue l p tc) { bytes := frame, since := s.alm.now / 10, org := org }

/-- Fields that every packet of this device shares. -/
def Chip.packet (s : Chip) (op tc peer svc srcPart dstPart psn : Nat) (payload : Bytes) : Packet :=
  { op := op, tc := tc, srcPart := srcPart, dstPart := dstPart, srcDev := s.selfDev, dstDev := peer, svc := svc
    hops := max 1 (s.rf F.XPT_CFG_HOP_LIMIT), psn := psn % 2 ^ 32, epoch := s.sendEpoch svc srcPart, step := s.step % 65536, payload := payload }

/-- A packet that uses no PSN: ACK, NAK, SYNC, SYNC_ACK, LOAD_RESP. It carries CTRL_COUNT in FRAG and MSG_LEN (R469), goes under the
device key, or under the open key where `open'` allows it and there is no other. Without a route or room it is not placed. -/
def Chip.sendControl (s : Chip) (op peer tc svc srcPart dstPart psn : Nat) (payload : Bytes) (open' : Bool) : Chip :=
  match s.route peer psn with
  | none => s
  | some l =>
    let q := s.originQueue l srcPart tc
    if !s.xptOn || s.flt.mute || !s.shpOn l || (s.queueFull l q (payload.length + 52)).isSome then s
    else
      let p := { s.packet op tc peer svc srcPart dstPart psn payload with last := true }
      match s.pair peer with
      | some k =>
        let n := k.ctrlTx % 2 ^ 36
        let p := { p with frag := n % 2 ^ 12, msgLen := n / 2 ^ 12 }
        let s := s.updPair peer (fun y => { y with ctrlTx := y.ctrlTx + 1 })
        s.placeFrame l srcPart tc (sealPacket (s.linkVer l) p (deviceKey k.pmk ownSerial k.serial) (ivCounted tc n)) none
      | none => if open' then s.placeFrame l srcPart tc (sealPacket (s.linkVer l) p openKey (ivCounted tc 0)) none else s

/-- Partitions that a context's control packets name: those of the first message it holds. -/
def TxCtx.parts (x : TxCtx) : Nat × Nat := ((x.msgs.head?).map (fun m => (m.srcPart, m.dstPart))).getD (0, 0)

/-- Send the SYNC of a context (R365). -/
def Chip.sendSync (s : Chip) (peer tc : Nat) : Chip :=
  let x := s.tx (ctxNo 0 peer tc)
  s.sendControl 4 peer tc 0 x.parts.1 x.parts.2 x.start (toLE 4 x.start ++ toLE 4 x.session ++ zeros 8) (x.msgs.any TxMsg.isShake)

/-! ## Numbering (R367, R374) -/

/-- Fragments of a message. -/
def TxMsg.frags (m : TxMsg) : Nat := max 1 (ceilDiv m.bytes.length 4096)

/-- After a fatal device error only Departures go (R510). -/
def Chip.mayGo (s : Chip) (m : TxMsg) : Bool := !s.flt.mute || (m.svc == 8 && le m.bytes 0 1 == 0x21)

/-- The message whose packet is numbered next: the one being sent, else the first that is not held back. -/
def Chip.nextMsg (s : Chip) (peer : Nat) (x : TxCtx) : Option TxMsg :=
  match x.msgs.find? (fun m => m.base.isSome && decide (m.sent < m.frags) && s.mayGo m) with
  | some m => some m
  | none => x.msgs.find? (fun m => m.base.isNone && s.mayGo m && !s.msgHeld peer m)

/-- Bytes in the retransmit store. -/
def Chip.rtxUsed (s : Chip) : Nat :=
  (s.xpt.ctxs.map (fun c => match c.2 with
    | .tx x => (x.pkts.map (fun p => p.frame.length + 4)).foldl (· + ·) 0
    | .rx _ => 0)).foldl (· + ·) 0

/-- Is a record only the name of a message refused, discarded or abandoned before any fragment of it was stored? -/
def RxMsg.closed (m : RxMsg) : Bool := m.refused != 0 || (m.skip && m.frags.isEmpty)

/-- Messages open in the reassembly store. -/
def Chip.reasmOpen (s : Chip) : Nat :=
  (s.xpt.ctxs.map (fun c => match c.2 with
    | .rx x => (x.msgs.filter (fun m => !m.closed)).length
    | .tx _ => 0)).foldl (· + ·) 0

/-- Lowest unacknowledged PSN of a context. -/
def TxCtx.low (x : TxCtx) : Nat := (x.pkts.map (·.psn)).foldl min x.next

/-- Number one packet of a message and place it; none where it must wait. -/
def Chip.numberOne (s : Chip) (peer tc : Nat) (x : TxCtx) (m : TxMsg) : Chip × Bool :=
  let c := ctxNo 0 peer tc
  let psn := x.next
  match s.route peer psn with
  | none => (s, false)
  | some l =>
    let f := m.sent
    let body := if m.skip then [] else slice (m.bytes.drop (4096 * f)) 0 (min 4096 (m.bytes.length - 4096 * f))
    let q := s.originQueue l m.srcPart tc
    let op := if m.skip then 9 else m.op
    if x.low + 1024 ≤ psn || s.rtxUsed + body.length + 52 > 2 ^ 28 || !s.shpOn l then (s, false)
    else match s.queueFull l q (body.length + 52), s.msgKey peer { m with op := op } with
      | some b, _ => if x.waiting then (s, false) else ((s.updTx c (fun y => { y with waiting := true })).noteFull l q b, false)
      | none, none => (s, false)
      | none, some (key, isOpen) =>
        let p := { s.packet op tc peer m.svc m.srcPart m.dstPart psn body with
          last := f + 1 == m.frags, frag := f % 4096, msgLen := m.bytes.length }
        let frame := sealPacket (s.linkVer l) p key (ivNumbered tc x.session psn)
        let k : TxPkt := { psn := psn, num := m.num, op := op, frame := frame, openKey := isOpen }
        let m' := { m with base := some (m.base.getD psn), sent := f + 1 }
        let s := s.putTx c { x with
          next := psn + 1, waiting := false, pkts := x.pkts ++ [k]
          msgs := (x.msgs.map (fun y => if y.num = m.num then m' else y)).filter (fun y => !(y.skip && y.sent == y.frags)) }
        (s.placeFrame l m.srcPart tc frame (some (c, psn)), true)

/-- Number packets of an ACTIVE context while that is possible. -/
def Chip.numberAll (peer tc : Nat) : Nat → Chip → Chip
  | 0, s => s
  | n + 1, s =>
    let x := s.tx (ctxNo 0 peer tc)
    match s.nextMsg peer x with
    | some m =>
      match s.numberOne peer tc x m with
      | (s, true) => Chip.numberAll peer tc n s
      | (s, false) => s
    | none => s

/-- Move a send context on: a SYNC where there is no session, packets where there is one. -/
def Chip.pump (s : Chip) (peer tc : Nat) : Chip :=
  let c := ctxNo 0 peer tc
  let x := s.tx c
  if !s.xptOn || x.msgs.isEmpty then s
  else match s.needCtx c with
    | (s, false) => s
    | (s, true) =>
      match x.state with
      | .reset =>
        if (s.nextMsg peer x).isNone || (s.routeLinks peer).isEmpty then s
        else
          let (s, a) := s.draw 32
          let (s, b) := s.draw 32
          let isOpen := (s.pair peer).isNone
          (s.putTx c { x with state := .syncing, start := a, session := b, next := a, cum := a, expiries := 0, timeout := 8000
                              openSync := isOpen }).sendSync peer tc
      | .active => Chip.numberAll peer tc 1100 s
      | _ => s

/-- A message is abandoned or ended: its unsent PSNs go as SKIPs, and its fragments sent stay in the store (R372). -/
def TxCtx.abandon (x : TxCtx) (m : TxMsg) : TxCtx :=
  { x with msgs := if m.base.isSome && decide (m.sent < m.frags) then x.msgs.map (fun y => if y.num = m.num then { y with skip := true } else y)
                   else x.msgs.filter (fun y => y.num != m.num) }

/-- A partition ceases to exist, and its keys with it: what it had still to send under them is abandoned (R29). -/
def Chip.dropMsgs (s : Chip) (part : Nat) : Chip :=
  let mine := fun (m : TxMsg) => usesSa m.op m.svc && m.srcPart == part && !m.skip
  s.setXpt (fun y => { y with ctxs := y.ctxs.map (fun c => (c.1, match c.2 with
    | .tx x => .tx ((x.msgs.filter mine).foldl TxCtx.abandon x)
    | .rx x => .rx x)) })

/-- Hand a message to a send context. A context in ERROR ends it at once (R373). -/
def Chip.queueMsg (s : Chip) (peer tc : Nat) (m : TxMsg) : Chip :=
  let c := ctxNo 0 peer tc
  let m := { m with num := s.xpt.nextNum }
  let s := s.setXpt (fun x => { x with nextNum := x.nextNum + 1 })
  if (s.tx c).state = .error then s.setXpt (fun x => { x with ended := x.ended ++ [⟨peer, m, 11⟩] })
  else s.updTx c (fun x => { x with msgs := x.msgs ++ [m] })

/-! ## Pair handshakes (R466, R467) -/

/-- A handshake message is queued for a device, and its context moves on. -/
def Chip.sendShake (s : Chip) (peer type hid : Nat) (body : Bytes) : Chip :=
  let tc := s.svcTc 8
  (s.queueMsg peer tc { num := 0, svc := 8, srcPart := 0, dstPart := 0, bytes := toLE 1 type ++ zeros 7 ++ toLE 8 hid ++ body }).pump peer tc

/-- Start a handshake with a device, unless one runs or no firmware has been accepted. -/
def Chip.startShake (s : Chip) (peer : Nat) : Chip :=
  if s.sec.shakes.any (fun x => x.dev == peer) || s.sec.running.isEmpty then s
  else
    let (s, hid) := s.draw 64
    let s := s.setSec (fun x => { x with shakes := x.shakes ++ [{ dev := peer, hid := hid, own := true, start := s.alm.now }] })
    s.sendShake peer 0x10 hid s.credential

/-- Does a context hold a message that waits for a key alone? [log 42, DEDUCED] -/
def Chip.wantsKey (s : Chip) (peer : Nat) (x : TxCtx) : Bool := x.state != .error && x.msgs.any (fun m => !m.wait && (s.msgKey peer m).isNone)

/-- Move a context on, starting a handshake where its messages wait for keys, where the count of the device key has reached 2^35, and where the
context's WRAP comes to 2^15 (R471). [log 42, DEDUCED] -/
def Chip.pumpKeyed (s : Chip) (peer tc : Nat) : Chip :=
  let c := ctxNo 0 peer tc
  let old := (s.tx c).next
  let spent := match s.pair peer with
    | some k => decide (2 ^ 35 ≤ k.ctrlTx)
    | none => s.wantsKey peer (s.tx c)
  let s := if s.xptOn && spent then s.startShake peer else s
  let s := s.pump peer tc
  if old < 2 ^ 47 && 2 ^ 47 ≤ (s.tx c).next then s.startShake peer else s

/-- Send contexts that hold messages: peer and class. -/
def Chip.busyCtxs (s : Chip) : List (Nat × Nat) :=
  s.xpt.ctxs.filterMap (fun c => match c.2 with
    | .tx x => if x.msgs.isEmpty then none else some (c.1 / 8, c.1 % 8)
    | .rx _ => none)

/-- Move every context on: a link, a key, room or an epoch has come. -/
def Chip.pumpAll (s : Chip) : Chip := s.each s.busyCtxs (fun s c => s.pumpKeyed c.1 c.2)

/-- Hand a message or memory operation to the transport in a traffic class. -/
def Chip.transmitIn (s : Chip) (tc peer : Nat) (m : TxMsg) : Chip := (s.queueMsg peer tc m).pumpKeyed peer tc

/-- Hand a message to the transport for another device. -/
def Chip.transmit (s : Chip) (svc peer dstPart srcPart : Nat) (bytes : Bytes) : Chip :=
  s.transmitIn (s.svcTc svc) peer { num := 0, svc := svc, srcPart := srcPart, dstPart := dstPart, bytes := bytes }

end Sys2Proof.Machine
end

