-- ==== Sys2Proof/Machine/Send.lean ====
section
/-! DEFINITION. Sending a message from one unit to another: within the device it is delivered at once, between devices it goes to the
transport (R135, R375). -/

namespace Sys2Proof.Machine

open Sys2Proof

/-- Deliver a message to a unit. A journal message is cut into its records; one that cannot be is discarded whole (R91). [log 60, DESIGN CHOICE] -/
def Chip.deliver (s : Chip) (svc : Nat) (src : MsgSrc) (bytes : Bytes) : Chip :=
  if svc = 2 then
    match splitRecords bytes.length bytes with
    | some rs => { s with xpt := { s.xpt with inbox := s.xpt.inbox ++ rs.map (fun r => ⟨svc, src, r⟩) } }
    | none => s.raise Pg.RTB 2
  else { s with xpt := { s.xpt with inbox := s.xpt.inbox ++ [⟨svc, src, bytes⟩] } }

/-- A unit takes a message: the first equal one leaves the inbox. [log 60, DESIGN CHOICE] -/
def Chip.take (s : Chip) (svc : Nat) (src : MsgSrc) (bytes : Bytes) : Chip :=
  { s with xpt := { s.xpt with inbox := s.xpt.inbox.erase ⟨svc, src, bytes⟩ } }

/-- Send a message of a service to a partition of a device. -/
def Chip.send (s : Chip) (svc dstDev dstPart srcPart : Nat) (bytes : Bytes) : Chip :=
  if dstDev = s.selfDev then s.deliver svc ⟨s.selfDev, srcPart, dstPart, s.step⟩ bytes
  else s.transmit svc dstDev dstPart srcPart bytes

end Sys2Proof.Machine
end

