-- ==== Sys2Proof/Machine/RequestOps.lean ====
section
/-! DEFINITION. Shared operations over request state: the Request Table and its cache (R77, R83, R84), models and tags (R195), block
hashes (R108–R110), the journal's sending side (R90, R94–R97), emission (R94, R442), and transition 7 (R87, R99, R100). -/

namespace Sys2Proof.Machine

open Sys2Proof

/-! ## Models -/

/-- A registered model. -/
def Chip.model (s : Chip) (id : Nat) : Option ModelEnt := s.sch.models.find id

/-- The model that produces a request's tokens: FALLBACK_ID once FLAGS.FALLBACK is set (R195, R204). -/
def Rte.producer (r : Rte) : Nat := if r.flags.fallback then r.fallbackId else r.model

/-- U of the model that produces a request's tokens; 1 where it is not registered. -/
def Chip.uOf (s : Chip) (r : Rte) : Nat := ((s.model r.producer).map (·.u)).getD 1

/-- Spans of a model: LAYERS × KV_HEADS (R242). -/
def ModelEnt.spans (m : ModelEnt) : Nat := m.layers * m.kvHeads

/-- Spans of a request. -/
def Chip.spansOf (s : Chip) (r : Rte) : Nat := ((s.model r.producer).map (·.spans)).getD 0

/-- Head dimension of a request's pages. -/
def Chip.dimOf (s : Chip) (r : Rte) : Nat := ((s.model r.producer).map (·.headDim)).getD 0

/-! ## The Request Table -/

/-- An entry that is not FREE. -/
def Chip.rte (s : Chip) (i : Nat) : Option Rte := s.rtb.rtes.find i

/-- Replace the Request Table. -/
def Chip.setRtes (s : Chip) (m : SMap Rte) : Chip := { s with rtb := { s.rtb with rtes := m } }

/-- Store an entry; a FREE entry is not listed. -/
def Chip.putRte (s : Chip) (i : Nat) (r : Rte) : Chip :=
  if r.state = .free then s.setRtes (s.rtb.rtes.del i) else s.setRtes (s.rtb.rtes.put i r)

/-- Change an entry that is there. -/
def Chip.updRte (s : Chip) (i : Nat) (f : Rte → Rte) : Chip :=
  match s.rte i with
  | some r => s.putRte i (f r)
  | none => s

/-- The entry that holds a RID, judged-lost requests apart (R101). -/
def Chip.findRid (s : Chip) (rid : Nat) : Option (Nat × Rte) :=
  s.rtb.rtes.find? (fun p => p.2.rid == rid)

/-- The same, for commands: a request judged lost is answered "unknown request" (R101). -/
def Chip.findKnown (s : Chip) (rid : Nat) : Option (Nat × Rte) :=
  match s.findRid rid with
  | some (i, r) => if r.lost then none else some (i, r)
  | none => none

/-- Indices that transfers, rebuilds and offers have reserved. -/
def Chip.reservedRtes (s : Chip) : List Nat :=
  s.smv.dsts.filterMap (·.rteIdx) ++ s.smv.rebuilt.map (·.rteIdx) ++ s.rtb.offers.map (·.idx)

/-- The lowest free index in a partition's range (R77). -/
def Chip.freeRte (s : Chip) (p : Nat) : Option Nat :=
  let v := s.rd (Reg.RTB_RANGE_CUR + 4 * p)
  let lo := bits v 7 0 * 1024
  let hi := lo + bits v 16 8 * 1024
  let used := s.rtb.rtes.keys ++ s.reservedRtes
  let i := firstFree (used.length + 1) lo used
  if i < hi then some i else none

/-- Entries pinned in the RTE cache: bound or served in the step, moving, or reserved or read by a transfer, a delivered rebuild among them
(R83). -/
def Chip.pinned (s : Chip) (i : Nat) : Bool :=
  s.smv.dsts.any (fun d => d.rteIdx == some i)
    || s.smv.rebuilt.any (fun d => d.rteIdx == i)
    || s.sch.sels.any (fun x => (x.bound ++ x.ride ++ x.back).any (fun b => b.1 == i))
    || (match s.rte i with
        | some r => r.flags.moving || r.flags.bound
            || s.smv.srcs.any (fun x => x.hdr.rid == r.rid && (x.hdr.kind == 1 || x.hdr.kind == 2 || x.hdr.kind == 4 || x.hdr.kind == 5))
        | none => false)

/-- An access to an entry goes through the cache: a hit or a miss is counted, and the least recently used entry that is not pinned
makes room (R83). -/
def Chip.touch (s : Chip) (i : Nat) : Chip :=
  if s.rtb.cache.contains i then
    { s.cnt Reg.RTB_CACHE_HIT with rtb := { s.rtb with cache := s.rtb.cache.erase i ++ [i] } }
  else
    let s := s.cnt Reg.RTB_CACHE_MISS
    let c := s.rtb.cache
    let c := if c.length < 16384 then c else
      match c.find? (fun j => !s.pinned j) with
      | some j => c.erase j
      | none => c.drop 1
    { s with rtb := { s.rtb with cache := c ++ [i] } }

/-! ## Block hashes (R108–R110) -/

/-- H(k) from its parent, the tags and the 64 tokens (R108). -/
def blockHash (parent modelTag adapterTag : Bytes) (toks : List Nat) : Bytes :=
  shake256 32 (padTo 32 parent ++ padTo 16 modelTag ++ padTo 16 adapterTag ++ (toks.take 64).flatMap (toLE 4 ·))

/-- MODEL_TAG and ADAPTER_TAG a request's hashes use (R108). -/
def Chip.tagsOf (s : Chip) (r : Rte) : Bytes × Bytes :=
  (((s.model r.producer).map (·.tag)).getD (zeros 16),
   if r.adapter = 0 then zeros 16 else ((s.sch.adapters.find r.adapter).map (·.tag)).getD (zeros 16))

/-- Hash the full blocks of a token log that are not hashed yet, `n` at most. -/
def extendHashes (tags : Bytes × Bytes) (toks : List Nat) : Nat → List Bytes → List Bytes
  | 0,     hs => hs
  | n + 1, hs =>
    if toks.length < 64 * (hs.length + 1) then hs
    else extendHashes tags toks n (hs ++ [blockHash (hs.getLastD (zeros 32)) tags.1 tags.2 (toks.drop (64 * hs.length))])

/-- Does the prefix index hash, look up and serve lookups (PFX_CFG.EN, R132)? -/
def Chip.pfxOn (s : Chip) : Bool := s.active Pg.PFX F.PFX_CFG_EN

/-- Bring a request's hashes and LAST_BLOCK_HASH up to its token log (R110), where hashing is enabled (R132). -/
def Chip.rehash (s : Chip) (i : Nat) : Chip :=
  match s.rte i with
  | some r =>
    if s.pfxOn then
      let hs := extendHashes (s.tagsOf r) r.tokens (r.len / 64) r.hashes
      s.putRte i { r with hashes := hs, lastHash := hs.getLastD (zeros 32) }
    else s
  | none => s

/-! ## The journal, as home -/

/-- Send journal records of a request to its partner (R90, R91). -/
def Chip.toPartner (s : Chip) (r : Rte) (recs : Bytes) : Chip :=
  if r.jrnPartner = 0xFFFF then s
  else s.send 2 r.jrnPartner (s.lowestPart (ridComp r.rid) r.jrnPartner) r.partition recs

/-- Token runs of at most 1,020 tokens for the positions from `first` (R92, R94). -/
def runsOf (flags rid : Nat) : Nat → Nat → List Nat → Bytes
  | 0,     _,     _ => []
  | k + 1, first, toks =>
    if toks.isEmpty then []
    else tokenRun flags first rid (toks.take 1020) ++ runsOf flags rid k (first + 1020) (toks.drop 1020)

/-- All token runs of a token log: the prompt with RUN_FLAGS[2], then each sampled token with its own flags. -/
def Rte.allRuns (r : Rte) : Bytes :=
  runsOf 4 r.rid (r.promptLen / 1020 + 1) 0 (r.tokens.take r.promptLen)
    ++ ((r.tokens.drop r.promptLen).zipIdx r.promptLen).flatMap (fun (t, p) =>
      tokenRun (b2n (r.fbAt.contains p) + 2 * b2n (r.lateAt.contains p)) p r.rid [t])

/-- Tokens sampled and not yet acknowledged (R95). -/
def Rte.held (r : Rte) : Nat :=
  let acked := if r.jrnAckPos = 0xFFFFFFFF then 0 else r.jrnAckPos + 1
  min r.genCount (r.len - acked)

/-- JRN_HELD brought up to date. -/
def Rte.rehold (r : Rte) : Rte := { r with jrnHeld := min 255 r.held }

/-- The partner candidates of a request, in order: not 0xFFFF, not this device, present in the map, not excluded (R90, R96). -/
def Chip.partnerCands (s : Chip) (p comp : Nat) (excluded : List Nat) : List Nat :=
  let lo := s.rd (Reg.RTB_JRN_CAND_LO + 8 * p)
  let hi := s.rd (Reg.RTB_JRN_CAND_HI + 8 * p)
  [bits lo 15 0, bits lo 31 16, bits hi 15 0, bits hi 31 16].filter (fun d =>
    d != 0xFFFF && d != s.selfDev && s.present comp d && !excluded.contains d)

/-- The home treats its partner as lost for a request: UNPROTECTED, ERR_STAT bit [1], and the device excluded (R96). -/
def Chip.partnerLost (s : Chip) (i : Nat) : Chip :=
  match s.rte i with
  | some r =>
    if r.flags.unprotected || r.jrnPartner = 0xFFFF then s
    else
      (s.putRte i { r with
        flags := { r.flags with unprotected := true }
        failedPartners := r.failedPartners ++ [r.jrnPartner] }).raise Pg.RTB 1
  | none => s

/-- Every request whose partner is a device treats it as lost (R96). -/
def Chip.partnerGone (s : Chip) (dev : Nat) : Chip :=
  s.each ((s.rtb.rtes.filter (fun x => x.2.jrnPartner == dev && x.2.state != .forward)).map (·.1)) Chip.partnerLost

/-! ## Emission (R94, R442) -/

/-- Send the Emit of one position to the origin. The sampling step of a position this home did not sample is a free value. -/
def Chip.sendEmit (s : Chip) (r : Rte) (p : Nat) : Chip :=
  let (s, st) := match r.sampled.find p with
    | some n => (s, n)
    | none => s.draw 32
  let flags := b2n (r.lateAt.contains p) + 2 * b2n (r.fbAt.contains p) + 4 * b2n r.flags.rebuilt
  s.send 2 (ridOrigin r.rid) r.originPart r.partition
    (emitRecord flags r.emitRing (r.tokens.getD p 0) r.hostTag r.rid p st)

/-- May a request emit: live, or ENDING after completion (R99, R100), with no Locate outstanding (R159)? -/
def Rte.mayEmit (r : Rte) : Bool :=
  (r.state.live || (r.state == .ending && (r.endStatus == 1 || r.endStatus == 2))) && !r.askedHome && !r.lost

/-- Emit every acknowledged position not yet emitted, in order (R94). -/
def Chip.pumpEmit (i : Nat) : Nat → Chip → Chip
  | 0,     s => s
  | k + 1, s =>
    match s.rte i with
    | some r =>
      if r.mayEmit && r.jrnAckPos ≠ 0xFFFFFFFF && r.emitPos + 1 ≤ r.jrnAckPos && r.emitPos + 1 < r.len then
        Chip.pumpEmit i k ((s.sendEmit r (r.emitPos + 1)).putRte i { r with emitPos := r.emitPos + 1 })
      else s
    | none => s

/-- Emit what may be emitted. -/
def Chip.emitReady (s : Chip) (i : Nat) : Chip :=
  match s.rte i with
  | some r => Chip.pumpEmit i r.len s
  | none => s

/-! ## Transition 7 (R87, R99, R100) -/

/-- Enter ENDING with a status; a later trigger finds ENDING and has no effect (R101). -/
def Chip.enterEnding (s : Chip) (i status : Nat) : Chip :=
  match s.rte i with
  | some r =>
    if r.state.live then s.putRte i { r with state := .ending, endStatus := status, endStep := s.step }
    else s
  | none => s

/-- End a request that did not complete: transition 7, tokens not yet emitted discarded, and the End record with LAST_POS =
EMIT_POS (R99). -/
def Chip.endNow (s : Chip) (i status : Nat) : Chip :=
  match s.rte i with
  | some r =>
    if r.state.live then
      let keep := max r.promptLen (r.emitPos + 1)
      let r' := { r with tokens := r.tokens.take keep, genCount := min r.genCount (keep - r.promptLen) }
      let s := (s.putRte i r'.rehold).enterEnding i status
      s.toPartner r (endRecord status r.emitPos r.rid)
    else s
  | none => s

/-- Request state judged lost at its living home (R151, R270): with a partner, a Lost message goes to it; without one, the origin is
told by a Finish with status 0x08. The entry is freed in row 7. -/
def Chip.stateLost (s : Chip) (i status : Nat) : Chip :=
  match s.rte i with
  | some r =>
    if r.lost || !(r.state.live || r.state == .ending) then s
    else
      let s := s.putRte i { r with lost := true }
      if r.flags.unprotected || r.jrnPartner = 0xFFFF then
        s.send 2 (ridOrigin r.rid) r.originPart r.partition
          (finishRecord 0x08 r.emitRing r.emitPos r.hostTag r.rid s.step)
      else
        let h : SHdr :=
          { type := 0x0A, kind := 0, srcPart := r.partition, dstPart := s.lowestPart (ridComp r.rid) r.jrnPartner,
            srcDev := s.selfDev, dstDev := r.jrnPartner, rid := r.rid, epoch := s.epochOf (ridComp r.rid), step := s.step }
        s.send 1 r.jrnPartner h.dstPart r.partition (h.toBytes ++ statusBody status)
  | none => s

/-! ## Accounting (R230, R231) -/

/-- Change the accounting entry of a tenant, where one is valid for it. -/
def Chip.acct (s : Chip) (tenant : Nat) (f : AcctEnt → AcctEnt) : Chip :=
  match s.sch.acct.find (tenant % 4096) with
  | some e =>
    if e.tenant = tenant then { s with sch := { s.sch with acct := s.sch.acct.put (tenant % 4096) (f e) } } else s
  | none => s

/-- The valid accounting entry of a tenant. -/
def Chip.acctOf (s : Chip) (tenant : Nat) : Option AcctEnt :=
  match s.sch.acct.find (tenant % 4096) with
  | some e => if e.tenant = tenant then some e else none
  | none => none

/-- Ticks that a row of the Boundary window costs (R232). [log 53, DEDUCED] -/
def Chip.charge (s : Chip) (n : Nat) : Chip := { s with alm := { s.alm with cost := s.alm.cost + n } }

/-- One item of rows 6–12: it is done only if it ends within the window. Where it does not, it and everything after it is carried, and
each carried item is counted (R66). -/
def Chip.item (s : Chip) (f : Chip → Chip) : Chip :=
  let t := f s
  if s.plan.w < t.alm.cost then { s.cnt Reg.ALM_CARRY with alm := { s.alm with cost := max s.alm.cost (s.plan.w + 1) } } else t

/-- The entries of one list of a row in the order in which they are taken: those carried into this window first, as they stood (R66). -/
def Chip.inTurn {α : Type} (s : Chip) (list : Nat) (key : α → Nat) (l : List α) : List α :=
  s.alm.queue.filterMap (fun q => if q.1 = list then l.find? (fun x => key x == q.2) else none)
    ++ l.filter (fun x => !s.alm.queue.contains (list, key x))

/-- Note that this window carries an item of a list. -/
def Chip.noteCarried (s : Chip) (list key : Nat) : Chip :=
  { s with alm := { s.alm with carrying := if s.alm.carrying.contains (list, key) then s.alm.carrying else s.alm.carrying ++ [(list, key)] } }

/-- The items of one list of a row: those carried from the last window, then the others; what is carried keeps its order (R66). -/
def Chip.items {α : Type} (s : Chip) (list : Nat) (key : α → Nat) (l : List α) (f : Chip → α → Chip) : Chip :=
  s.each (s.inTurn list key l) (fun s x =>
    let t := s.item (fun s => f s x)
    if s.plan.w < t.alm.cost then t.noteCarried list (key x) else t)

/-- The cost of one item of row 11, with the fixed cost once in a window (R232). -/
def Chip.charge11 (s : Chip) : Chip :=
  let s := if s.alm.fixed11 then s else { s with alm := { s.alm with fixed11 := true, cost := s.alm.cost + 600 } }
  s.charge 25

/-! ## Prefix references and release -/

/-- Change a prefix table entry. -/
def Chip.updEntry (s : Chip) (i : Nat) (f : PEntry → PEntry) : Chip :=
  match s.pfx.table.find i with
  | some e => { s with pfx := { s.pfx with table := s.pfx.table.put i (f e) } }
  | none => s

/-- Subtract one from REFCNT of entries (R124). -/
def Chip.unref (s : Chip) (l : List Nat) : Chip := s.each l (fun s i => s.updEntry i (fun e => { e with refcnt := e.refcnt - 1 }))

/-- Add one to REFCNT of entries, which sets LAST_USE (R114, R124). -/
def Chip.ref (s : Chip) (l : List Nat) : Chip :=
  s.each l (fun s i => s.updEntry i (fun e => { e with refcnt := e.refcnt + 1, lastUse := s.step % 2 ^ 32 }))

/-- Own pages of a request: valid page map entries without PREFIX. -/
def Rte.ownPages (r : Rte) : List Nat := r.pages.filter (fun e => entryValid e && !bit e 28)

/-- Release what a request holds at this home: own pages, prefix references, page map, token log and recurrent state. -/
def Chip.releaseState (s : Chip) (r : Rte) : Chip :=
  let s := s.unref r.refs
  let s := s.each (r.ownPages.map entryAddr) Chip.freePage
  s.freeObjs r.partition r.rid

/-- Free an entry. -/
def Chip.dropRte (s : Chip) (i : Nat) : Chip :=
  { s with rtb := { s.rtb with rtes := s.rtb.rtes.del i, cache := s.rtb.cache.erase i } }

end Sys2Proof.Machine
end

