-- ==== Sys2Proof/Machine/HostOps.lean ====
section
/-! DEFINITION. Shared operations of the host attachment (14): completion queues and their vectors (R438, R440, R446), emit rings, the
backlog and the emitted-position table (R442–R445), and the snoop filter (R431). -/

namespace Sys2Proof.Machine

open Sys2Proof

/-- Change the host block. -/
def Chip.setCxl (s : Chip) (f : Cxl → Cxl) : Chip := { s with cxl := f s.cxl }

/-- Does the host block read descriptors and write records (R451)? -/
def Chip.cxlOn (s : Chip) : Bool := s.active Pg.CXL F.CXL_CFG_EN && !s.d3hot

/-! ## Completion queues -/

/-- PHASE of the entry with a given count (R440): 1 in the first pass. -/
def phaseBit (count size : Nat) : Nat := (count / max 1 size + 1) % 2

/-- Signal a CQ whose unsignalled records number COAL_COUNT or more (R446). -/
def Chip.coalesceCq (s : Chip) (q : Nat) : Chip :=
  match s.cxl.qps.find q with
  | some x =>
    if 0 < x.unsig && max 1 x.coalCount ≤ x.unsig then
      (s.setCxl (fun c => { c with qps := c.qps.put q { x with unsig := 0 } })).msix x.vector
    else s
  | none => s

/-- Write one 32-byte CQ entry at the next index; `entry` has its PHASE bit clear. -/
def Chip.cqPut (s : Chip) (q : Nat) (entry : Bytes) : Chip :=
  match s.cxl.qps.find q with
  | some x =>
    let flags := putBits (le entry 4 1) 0 0 (phaseBit x.cqTail x.cqEntries)
    let s := s.hostWrite (x.cqBase + 32 * (x.cqTail % x.cqEntries)) (patch entry 4 (toLE 1 flags))
    (s.setCxl (fun c => { c with qps := c.qps.put q { x with cqTail := x.cqTail + 1, unsig := x.unsig + 1, reserved := x.reserved - 1 } })).coalesceCq q
  | none => s

/-- A CQ entry (R438). -/
def cqEntry (type status sqHead q hostTag rid step : Nat) : Bytes :=
  toLE 1 type ++ toLE 1 status ++ toLE 2 sqHead ++ zeros 1 ++ toLE 1 q ++ zeros 2 ++ toLE 8 hostTag ++ toLE 8 rid ++ toLE 8 step

/-- Answer a descriptor: its entry is written, or held while records are not written (CXL_CFG.EN). -/
def Chip.cqWrite (s : Chip) (q type status hostTag rid : Nat) : Chip :=
  match s.cxl.qps.find q with
  | some x =>
    let e := cqEntry type status (x.sqHead % x.sqEntries) q hostTag rid s.step
    if s.cxlOn then s.cqPut q e
    else s.setCxl (fun c => { c with qps := c.qps.put q { x with held := x.held ++ [e] } })
  | none => s

/-- Write the CQ entries that were held. -/
def Chip.cqFlush (s : Chip) : Chip :=
  if s.cxlOn then
    s.each s.cxl.qps.keys (fun s q =>
      match s.cxl.qps.find q with
      | some x => (s.setCxl (fun c => { c with qps := c.qps.put q { x with held := [] } })).each x.held (fun s e => s.cqPut q e)
      | none => s)
  else s

/-! ## Emit rings -/

/-- The emit ring of a number. -/
def Chip.ring (s : Chip) (r : Nat) : Option EmitRing := s.cxl.rings.find r

/-- Store a ring. -/
def Chip.setRing (s : Chip) (r : Nat) (x : EmitRing) : Chip := s.setCxl (fun c => { c with rings := c.rings.put r x })

/-- Can a record be written to a ring now: it exists, is not abandoned, has room, and records are written (R441, R451)? -/
def Chip.ringRoom (s : Chip) (r : Nat) : Bool :=
  s.cxlOn && (match s.ring r with
    | some x => !x.abandoned && x.tail - x.head < x.entries
    | none => false)

/-- Is a ring gone: absent or abandoned (R445)? -/
def Chip.ringGone (s : Chip) (r : Nat) : Bool :=
  match s.ring r with
  | some x => x.abandoned
  | none => true

/-- Signal a ring whose unsignalled records number COAL_COUNT or more (R446). -/
def Chip.coalesceRing (s : Chip) (r : Nat) : Chip :=
  match s.ring r with
  | some x =>
    if 0 < x.unsig && max 1 x.coalCount ≤ x.unsig then (s.setRing r { x with unsig := 0 }).msix x.vector else s
  | none => s

/-- Write a 32-byte record to a ring (R440, R444). `flags` are bits [7:1]; `last` says what the ring remembers as [4:2] of a
request's last emit record. -/
def Chip.ringWrite (s : Chip) (r : Nat) (head : Bytes) (flags stepLo : Nat) (last : SMap Nat) : Chip :=
  match s.ring r with
  | some x =>
    let rec' := head ++ toLE 1 (flags + phaseBit x.tail x.entries) ++ zeros 3 ++ toLE 4 stepLo
    let s := s.hostWrite (x.base + 32 * (x.tail % x.entries)) rec'
    let s := s.setRing r { x with tail := x.tail + 1, unsig := x.unsig + 1, lastFlags := last }
    (s.add64 Reg.CXL_EMIT_LO 1).coalesceRing r
  | none => s

/-- The locator entry of a RID that is not free. -/
def Chip.locator (s : Chip) (rid : Nat) : Option Locator :=
  match s.rtb.locators.find (locIdx rid) with
  | some l => if l.rid = rid then some l else none
  | none => none

/-- Change the locator entry of a RID. -/
def Chip.updLocator (s : Chip) (rid : Nat) (f : Locator → Locator) : Chip :=
  match s.locator rid with
  | some l => { s with rtb := { s.rtb with locators := s.rtb.locators.put (locIdx rid) (f l) } }
  | none => s

/-- Free the locator entry of a RID (R103), with the records held for it. -/
def Chip.freeLocator (s : Chip) (rid : Nat) : Chip :=
  { s with
    rtb := { s.rtb with locators := s.rtb.locators.del (locIdx rid) }
    cxl := { s.cxl with backlog := s.cxl.backlog.filter (fun h => h.rid != rid) } }

/-- The last emitted position of a RID's entry (R158). -/
def Chip.emitted (s : Chip) (rid : Nat) : Nat := s.rtb.emitted.getD (locIdx rid) 0

/-- The origin sends a Cancel record to the recorded home (R439, R442). -/
def Chip.sendCancel (s : Chip) (l : Locator) (srcPart : Nat) : Chip := s.send 2 l.device l.part srcPart (cancelRecord l.rid)

/-- Count a completion at the origin (R231). -/
def Chip.countCompletion (s : Chip) (tenant status : Nat) : Chip :=
  if status = 1 || status = 2 then s.acct tenant (fun e => { e with completed := e.completed + 1 })
  else if status = 3 then s.acct tenant (fun e => { e with cancelled := e.cancelled + 1 })
  else s

/-- Write a completion record, free the locator entry and count the completion (R443, R444). -/
def Chip.writeCompletion (s : Chip) (h : HeldEmit) : Chip :=
  match s.ring h.ring, s.locator h.rid with
  | some x, some l =>
    let fl := x.lastFlags.getD h.rid 0
    let s := s.ringWrite h.ring (toLE 8 h.hostTag ++ toLE 8 h.rid ++ toLE 4 (h.flags % 256) ++ toLE 4 h.position) (2 + fl * 4)
      h.stepLo (x.lastFlags.del h.rid)
    (s.countCompletion l.tenant h.flags).freeLocator h.rid
  | _, _ => s

/-- Write an emit record and advance the emitted position (R443, R444). -/
def Chip.writeEmit (s : Chip) (h : HeldEmit) : Chip :=
  match s.ring h.ring with
  | some x =>
    let s := s.ringWrite h.ring (toLE 8 h.hostTag ++ toLE 8 h.rid ++ toLE 4 h.token ++ toLE 4 h.position) (h.flags % 8 * 4)
      h.stepLo (x.lastFlags.put h.rid (h.flags % 8))
    { s with rtb := { s.rtb with emitted := s.rtb.emitted.put (locIdx h.rid) h.position } }
  | none => s

/-- May a held record be written now: the next position of its request, or a Finish whose last position is written; and room. -/
def Chip.heldReady (s : Chip) (h : HeldEmit) : Bool :=
  s.ringRoom h.ring && (if h.finish then s.emitted h.rid == h.position else s.emitted h.rid + 1 == h.position)

/-- Write held records that have become writable, in order of arrival, until none is. -/
def Chip.drainBacklog : Nat → Chip → Chip
  | 0,     s => s
  | k + 1, s =>
    match s.cxl.backlog.find? s.heldReady with
    | some h =>
      let s := s.setCxl (fun c => { c with backlog := c.backlog.erase h })
      Chip.drainBacklog k (if h.finish then s.writeCompletion h else s.writeEmit h)
    | none => s

/-- Write what may be written from the backlog. -/
def Chip.drain (s : Chip) : Chip := Chip.drainBacklog s.cxl.backlog.length s

/-- Abandon a ring (R445): its held records go, a Cancel is sent for each live request that names it, each is counted as
cancelled. -/
def Chip.abandonRing (s : Chip) (r : Nat) : Chip :=
  match s.ring r with
  | some x =>
    if x.abandoned then s
    else
      let s := s.setRing r { x with abandoned := true, unsig := 0 }
      let s := s.setCxl (fun c => { c with backlog := c.backlog.filter (fun h => h.ring != r) })
      let live := s.rtb.locators.vals.filter (fun l => l.ring == r && l.state == 1)
      let s := s.each live (fun s l => (s.sendCancel l x.partition).acct l.tenant (fun e => { e with cancelled := e.cancelled + 1 }))
      (s.cnt Reg.CXL_ABANDONED).raise Pg.CXL 3
  | none => s

/-- Records of a ring in the backlog. -/
def Chip.backlogOf (s : Chip) (r : Nat) : Nat := (s.cxl.backlog.filter (fun h => h.ring == r)).length

/-- Hold a record in the backlog; a full backlog abandons the ring that holds most of it (R445). -/
def Chip.holdEmit (s : Chip) (h : HeldEmit) : Chip :=
  let s := if s.cxl.backlog.length < 4194304 then s
    else
      match s.cxl.rings.keys with
      | [] => s
      | r0 :: rs => s.abandonRing (rs.foldl (fun b r => if s.backlogOf r > s.backlogOf b then r else b) r0)
  if s.ringGone h.ring then s else s.setCxl (fun c => { c with backlog := c.backlog ++ [h] })

/-- An Emit at the origin (R443). A ring that is gone takes nothing. -/
def Chip.takeEmit (s : Chip) (h : HeldEmit) : Chip :=
  match s.locator h.rid with
  | none => (s.cnt Reg.CXL_EMIT_ORPHAN).raise Pg.CXL 4
  | some _ =>
    if h.position ≤ s.emitted h.rid then s.cnt Reg.CXL_EMIT_DUP
    else if s.ringGone h.ring then s
    else if s.heldReady h then (s.writeEmit h).drain
    else s.holdEmit h

/-- A Finish at the origin (R443): status 0x08 at once, any other once the last position is written. A request whose ring is gone
ends without a record. -/
def Chip.takeFinish (s : Chip) (h : HeldEmit) : Chip :=
  match s.locator h.rid with
  | none => s.cnt Reg.CXL_EMIT_ORPHAN
  | some _ =>
    if s.ringGone h.ring then s.freeLocator h.rid
    else if h.flags = 0x08 then
      let s := s.raise Pg.RTB 3
      if s.ringRoom h.ring then s.writeCompletion h
      else ({ s with rtb := { s.rtb with emitted := s.rtb.emitted.put (locIdx h.rid) h.position } }).holdEmit h
    else if s.heldReady h then s.writeCompletion h
    else (s.updLocator h.rid (fun l => { l with state := 2 })).holdEmit h

/-- A completion with status 0x08 that the origin writes itself (R97, R443). -/
def Chip.originLost (s : Chip) (rid hostTag : Nat) : Chip :=
  match s.locator rid with
  | some l => s.takeFinish { finish := true, ring := l.ring, flags := 0x08, token := 0, hostTag := hostTag, rid := rid,
                             position := s.emitted rid, stepLo := s.step % 2 ^ 32 }
  | none => s

/-! ## The snoop filter (R431) -/

/-- Issue a back-invalidate snoop for a line, unless one is out (R431). -/
def Chip.backInvalidate (s : Chip) (line : Nat) : Chip :=
  if s.cxl.snooped.contains line then s
  else ((s.setCxl (fun c => { c with snooped := c.snooped ++ [line] })).add64 Reg.CXL_BISNP_LO 1).emit (.bisnp line)

/-- A command of a unit that waits for the host: it runs where it meets no line of the snoop filter; where it meets some, those lines are
back-invalidated and the command waits, with no other effect, for the host's responses (R431). -/
def Chip.devAccess (s : Chip) (i : Instr) (f : Chip → Chip) : Chip :=
  let t := f s
  if t.cxl.touched.isEmpty then t
  else (s.each t.cxl.touched Chip.backInvalidate).setCxl (fun c => { c with heldCmds := c.heldCmds ++ [i] })

/-- Lines that a command met and that it did not wait for: the host is asked to give them up. [log 44, PRESUMED] -/
def Chip.settleTouched (s : Chip) : Chip :=
  if s.cxl.touched.isEmpty then s
  else
    let l := s.cxl.touched
    (s.setCxl (fun c => { c with touched := [], filter := c.filter.filter (fun x => !l.contains x.1) })).each l Chip.backInvalidate

end Sys2Proof.Machine
end

