-- ==== Sys2Proof/Machine/Admission.lean ====
section
/-! DEFINITION. Admission in row 11 (R72, R89, R90, R436), the release of transition 8 in row 7 (R87, R100), and the partner's journal
store (R93, R98). -/

namespace Sys2Proof.Machine

open Sys2Proof

/-! ## The journal store of a partner -/

/-- The journal held for a RID. -/
def Chip.journal (s : Chip) (rid : Nat) : Option Journal := s.rtb.journals.find? (fun j => j.rid == rid)

/-- Change the journal of a RID. -/
def Chip.updJournal (s : Chip) (rid : Nat) (f : Journal → Journal) : Chip :=
  { s with rtb := { s.rtb with journals := s.rtb.journals.map (fun j => if j.rid = rid then f j else j) } }

/-- Unreserved units of the journal store, RTB_JRN_FREE (R105). -/
def Chip.jrnFree (s : Chip) : Nat :=
  s.rd Reg.RTB_JRN_SIZE - (s.rtb.journals.map (·.units)).foldl (· + ·) 0 - (s.smv.dsts.map (·.units)).foldl (· + ·) 0

/-- Is the device a journal partner (R93): a store, and journal service enabled (R106)? -/
def Chip.isPartner (s : Chip) : Bool := s.rd Reg.RTB_JRN_SIZE != 0 && s.active Pg.RTB F.RTB_CFG_EN

/-- Contiguous positions stored from 0: `n` counts how far to look. -/
def contiguous (m : SMap Nat) : Nat → Nat → Nat
  | 0,     p => p
  | n + 1, p => if (m.find p).isSome then contiguous m n (p + 1) else p

/-- POSITION of an acknowledgement (R92): the highest position stored with every lower one, 0xFFFF_FFFF for none. -/
def Journal.position (j : Journal) : Nat :=
  match contiguous j.tokens j.tokens.length 0 with
  | 0 => 0xFFFFFFFF
  | n => n - 1

/-- PROMPT_LEN + MAX_NEW of an anchor. -/
def anchorMax (a : Bytes) : Nat := le a 24 4 + le a 28 4

/-- Reserve a journal for an anchor; none where the units are not free (R93). [log 47, DEDUCED] -/
def Chip.reserveJournal (s : Chip) (anchor : Bytes) : Option Chip :=
  let u := ceilDiv (128 + 4 * anchorMax anchor) 4096
  if u ≤ s.jrnFree then
    some { s with rtb := { s.rtb with journals := s.rtb.journals ++ [{ rid := le anchor 8 8, anchor := padTo 128 anchor, tokens := [], units := u }] } }
  else none

/-- Store a token run (R92, R93). -/
def Journal.store (j : Journal) (run : Bytes) : Journal :=
  let fl := le run 1 1
  let n := le run 2 2
  let first := le run 4 4
  let ps := (List.range n).map (· + first)
  { j with
    tokens := ps.foldl (fun m p => m.put p (le run (16 + 4 * (p - first)) 4)) j.tokens
    fbAt := if bit fl 0 then j.fbAt ++ ps else j.fbAt
    lateAt := if bit fl 1 then j.lateAt ++ ps else j.lateAt }

/-- Does a run hold a position above PROMPT_LEN + MAX_NEW − 1? -/
def Journal.beyond (j : Journal) (run : Bytes) : Bool := decide (anchorMax j.anchor < le run 4 4 + le run 2 2)

/-- The partner answers a journal record's sender with an Acknowledgement (R90, R92). [log 47, DEDUCED] -/
def Chip.ackJournal (s : Chip) (src : MsgSrc) (status pos rid : Nat) : Chip :=
  s.send 2 src.dev src.part (s.lowestPart (ridComp rid) s.selfDev) (ackRecord status pos rid)

/-! ## Admission (row 11) -/

/-- Is every model a submission names registered (R89, R195): the model, its fallback, the adapter for that model? -/
def Chip.modelsKnown (s : Chip) (model adapter : Nat) : Bool :=
  match s.model model with
  | none => false
  | some m =>
    (m.fallbackId == 0xFFFF || (s.model m.fallbackId).isSome)
      && (adapter == 0 || (match s.sch.adapters.find adapter with
            | some a => a.model == model
            | none => false))

/-- Does whole-module tenancy refuse a tenant (R485)? -/
def Chip.tenantRefused (s : Chip) (tenant : Nat) : Bool :=
  bit (s.rd Reg.SEC_MOD_POLICY) 0 && s.rd Reg.SEC_MOD_TENANT != tenant

/-- Do lengths break R81? -/
def badLengths (promptLen maxNew : Nat) : Bool := promptLen == 0 || maxNew == 0 || decide (1048576 < promptLen + maxNew)

/-- The ring of a submission can take it (R436, R445). -/
def Chip.ringTakes (s : Chip) (ring part : Nat) : Bool :=
  match s.ring ring with
  | some x => !x.abandoned && x.partition == part
  | none => false

/-- The partition that admits from a submission's SQ. -/
def Chip.subPart (s : Chip) (b : Submission) : Nat := ((s.cxl.qps.find b.qid).map (·.partition)).getD 0

/-- KV_PAGES of a request of a model (R244). -/
def kvPages (m : ModelEnt) (promptLen maxNew : Nat) : Nat := m.spans * rowLen promptLen maxNew m.kvFormat m.headDim

/-- Allocate a request's page map and token log from its partition's pools (R287); none where they cannot hold them. -/
def Chip.allocRequest (s : Chip) (p rid : Nat) (m : ModelEnt) (promptLen maxNew : Nat) : Option (Chip × Nat × Nat) :=
  match s.allocObj p rid (8 * kvPages m promptLen maxNew) false with
  | (s1, some kv) =>
    match s1.allocObj p rid (4 * (promptLen + maxNew)) false with
    | (s2, some tl) => some (s2, kv, tl)
    | _ => none
  | _ => none

/-- May a partition still take a new request (R31, R89): the prompt role, no change pending? -/
def Chip.takesNew (s : Chip) (p : Nat) : Bool := s.role p == .prompt && !s.rolePending p

/-- Why row 11 refuses a submission before any anchor is offered (R89, in its order). -/
def Chip.subRefusal (s : Chip) (b : Submission) : Option Nat :=
  let p := s.subPart b
  if b.refusal.isSome then b.refusal
  else if badLengths b.promptLen b.maxNew || !s.ringTakes b.ring p || s.tenantRefused b.tenant || !s.modelsKnown b.model b.adapter then some 6
  else if !s.takesNew p then some 7
  else if (s.freeRte p).isNone || (s.rtb.locators.find (s.rd Reg.RTB_SERIAL % 262144)).isSome then some 4
  else
    match s.model b.model with
    | some m => if (s.allocRequest p 0 m b.promptLen b.maxNew).isNone then some 4 else none
    | none => some 6

/-- Remove a submission from the queue. -/
def Chip.dropSub (s : Chip) (b : Submission) : Chip := s.setCxl (fun c => { c with subs := c.subs.filter (fun x => x.num != b.num) })

/-- Refuse a submission with a code: its CQ entry, the count and the error bit (R89, R105, R438). -/
def Chip.refuseSub (s : Chip) (b : Submission) (code : Nat) : Chip :=
  let s := (s.dropSub b).cqWrite b.qid 1 code b.hostTag 0
  ((s.cnt Reg.RTB_ADMIT_REFUSED).raise Pg.RTB 0).charge11

/-- The entry a submission would be admitted with (R78, R436). [log 46, DEDUCED] -/
def Chip.newRte (s : Chip) (b : Submission) (m : ModelEnt) (rid p kv tl : Nat) : Rte :=
  let pr := (s.cxl.profiles.find b.profile).getD {}
  { rid := rid, state := .admitted, partition := p,
    flags := { rideAlong := ((s.acctOf b.tenant).map (·.ride)).getD false },
    tenant := b.tenant, model := b.model, adapter := b.adapter, fallbackId := m.fallbackId, dclass := b.dclass,
    kvFormat := m.kvFormat, admitStep := s.step, deadline := b.deadline, promptLen := b.promptLen, maxNew := b.maxNew,
    hostTag := b.hostTag, kvMap := kv, toklogAddr := tl, emitRing := b.ring, originPart := p, emitPos := b.promptLen - 1,
    mapEpoch := s.epochOf (ridComp rid), temperature := pr.temperature, topP := pr.topP, topK := pr.topK, seed := b.seed,
    submitTime := b.time, stops := pr.stops, tokens := b.tokens,
    pages := List.replicate (kvPages m b.promptLen b.maxNew) 0, hashDue := true, bindSeq := s.step }

/-- Offer the anchor to the next candidate that has not been tried; with none left, refuse with 0x05 (R89, R90). [log 46, DEDUCED] -/
def Chip.offerNext (s : Chip) (o : Offer) : Chip :=
  match s.partnerCands o.partition (ridComp o.rid) o.tried with
  | [] => (s.freeObjs o.partition o.rid).refuseSub o.sub 5
  | c :: _ =>
    let r := { o.rte with jrnPartner := c, admitStep := s.step }
    let s := { s with rtb := { s.rtb with offers := s.rtb.offers ++ [{ o with candidate := c, rte := r, carried := false }] } }
    s.toPartner r (anchorOf r s.selfDev)

/-- Give up a submission whose anchor has been offered: what was allocated is freed, and it is refused with 0x07 (R89). -/
def Chip.withdrawOffer (s : Chip) (o : Offer) : Chip :=
  ({ s with rtb := { s.rtb with offers := s.rtb.offers.filter (fun x => x.rid != o.rid) } }.freeObjs o.partition o.rid).refuseSub o.sub 7

/-- Transition 1 (R87): the entry, the locator, the emitted position, the counts, the prompt's journal records and the CQ entry. [log 46, DEDUCED] -/
def Chip.admitNow (s : Chip) (o : Offer) : Chip :=
  let r := { o.rte with bindSeq := s.step, admitStep := s.step }
  let s := { s with
    rtb := { s.rtb with
      offers := s.rtb.offers.filter (fun x => x.rid != o.rid)
      locators := s.rtb.locators.put (locIdx r.rid)
        { rid := r.rid, device := s.selfDev, part := r.partition, state := 1, partner := r.jrnPartner, ring := r.emitRing,
          tenant := r.tenant, hostTag := r.hostTag }
      emitted := s.rtb.emitted.put (locIdx r.rid) (r.promptLen - 1) } }
  let s := (s.putRte o.idx r).touch o.idx
  let s := if (s.acctOf r.tenant).isSome then s.acct r.tenant (fun e => { e with admitted := e.admitted + 1 })
    else s.cnt Reg.SCH_ACCT_MISS
  let s := s.toPartner r (runsOf 4 r.rid (r.promptLen / 1020 + 1) 0 r.tokens)
  ((s.dropSub o.sub).cqWrite o.sub.qid 1 0 r.hostTag r.rid).charge11

/-- Row 11 admits a submission whose anchor a partner has accepted, unless its partition has ceased to take new requests since: the partner is
then sent an End record, and the submission is refused (R31, R89). [log 46, DEDUCED] -/
def Chip.admitOffer (s : Chip) (o : Offer) : Chip :=
  if s.takesNew o.partition then s.admitNow o
  else (s.toPartner o.rte (endRecord 7 0xFFFFFFFF o.rid)).withdrawOffer o

/-- Take a submission in row 11: refuse it, or give it a serial and offer its anchor (R72, R89, R90). A serial is taken when the first
anchor that names it is offered; where there is no candidate to offer it to, none is taken. [log 46, DEDUCED] -/
def Chip.considerSub (s : Chip) (b : Submission) : Chip :=
  match s.subRefusal b with
  | some code => s.refuseSub b code
  | none =>
    let p := s.subPart b
    match s.compOf p, s.freeRte p, s.model b.model with
    | some comp, some idx, some m =>
      let serial := s.rd Reg.RTB_SERIAL
      let rid := comp * 2 ^ 48 + s.selfDev * 2 ^ 32 + serial
      match s.allocRequest p rid m b.promptLen b.maxNew with
      | some (s1, kv, tl) =>
        if (s.partnerCands p comp []).isEmpty then s.refuseSub b 5 else
        let s1 := s1.wr Reg.RTB_SERIAL ((serial + 1) % 2 ^ 32)
        s1.offerNext { sub := b, rid := rid, partition := p, candidate := 0xFFFF, idx := idx, rte := s1.newRte b m rid p kv tl }
      | none => s.refuseSub b 4
    | _, _, _ => s.refuseSub b 7

/-- A submission leaves before it is admitted or refused: what its offered anchor allocated is freed. A partner that has accepted is sent an End
record, and one that may still accept is remembered for it (R90). [log 46, DEDUCED] -/
def Chip.dropOffer (s : Chip) (o : Offer) : Chip :=
  let s := if o.accepted then s.toPartner o.rte (endRecord 3 0xFFFFFFFF o.rid)
    else if o.carried then s
    else { s with rtb := { s.rtb with lateAcks := s.rtb.lateAcks ++ [(o.rid, o.candidate)] } }
  { s with rtb := { s.rtb with offers := s.rtb.offers.filter (fun x => x.rid != o.rid) } }.freeObjs o.partition o.rid

/-- May submissions be taken: admissions enabled and a serial given (R72, R106)? [log 46, DEDUCED] -/
def Chip.admitting (s : Chip) : Bool :=
  s.active Pg.RTB F.RTB_CFG_EN && !s.quiet Pg.RTB && s.rf F.RTB_CFG_SERIAL_VALID == 1

/-- Offer a carried submission's anchor to its next candidate (R66, R90), if its partition still takes new requests. [log 6, DEDUCED] -/
def Chip.offerAgain (s : Chip) (o : Offer) : Chip :=
  if !s.takesNew o.partition then s.withdrawOffer o else
  { s with rtb := { s.rtb with offers := s.rtb.offers.filter (fun x => x.rid != o.rid) } }.offerNext o

/-- Row 11's submissions: those accepted since are admitted, those carried are offered to their next candidate, then every submission whose prompt is copied or that is already refused is
taken in the order in which it was read (R437). [log 46, DEDUCED] -/
def Chip.row11Subs (s : Chip) : Chip :=
  let s := s.items 110 (·.rid) (s.rtb.offers.filter (·.accepted)) Chip.admitOffer
  let s := s.items 111 (·.rid) (s.rtb.offers.filter (·.carried)) Chip.offerAgain
  if s.admitting then
    let busy := s.rtb.offers.map (·.sub.num)
    s.items 112 (·.num) (s.cxl.subs.filter (fun b => !busy.contains b.num && (b.refusal.isSome || badLengths b.promptLen b.maxNew || b.tokens.length == b.promptLen)))
      Chip.considerSub
  else s

/-- A candidate counts as refusing (R90); its late acknowledgement is remembered. While row 11 is open the anchor goes to the next candidate
at once; after the window it is carried to the next row 11 (R66). -/
def Chip.candidateRefuses (s : Chip) (o : Offer) (late : Bool) : Chip :=
  let s := if late then { s with rtb := { s.rtb with lateAcks := s.rtb.lateAcks ++ [(o.rid, o.candidate)] } } else s
  let o := { o with tried := o.tried ++ [o.candidate] }
  if s.alm.row = 11 then s.offerAgain o
  else { s with rtb := { s.rtb with offers := s.rtb.offers.map (fun x => if x.rid = o.rid then { o with carried := true } else x) } }

/-! ## Release (row 7) -/

/-- Is a request in ENDING ready for transition 8: a later window than the one it ended in, and R100 met? -/
def Chip.releasable (s : Chip) (r : Rte) : Bool :=
  r.state == .ending && !r.lost && decide (r.endStep < s.step)
    && (if r.endStatus = 1 || r.endStatus = 2 then r.jrnAckPos != 0xFFFFFFFF && r.len ≤ r.jrnAckPos + 1 && !r.flags.unprotected else true)

/-- Transition 8: the Finish goes to the origin, and everything the request held is released. -/
def Chip.releaseEnded (s : Chip) (i : Nat) : Chip :=
  match s.rte i with
  | some r =>
    let last := if r.endStatus = 1 || r.endStatus = 2 then r.len - 1 else r.emitPos
    let s := if r.noFinish then s
      else s.send 2 (ridOrigin r.rid) r.originPart r.partition (finishRecord r.endStatus r.emitRing last r.hostTag r.rid r.endStep)
    ((s.releaseState r).dropRte i).charge 20
  | none => s

/-- Row 7's releases: requests in ENDING that are due, and requests whose state is judged lost (R151, R160). -/
def Chip.row7Releases (s : Chip) : Chip :=
  let s := s.items 70 id ((s.rtb.rtes.filter (fun x => s.releasable x.2)).map (·.1)) Chip.releaseEnded
  s.items 71 id ((s.rtb.rtes.filter (fun x => x.2.lost)).map (·.1)) (fun s i =>
    match s.rte i with
    | some r => ((s.releaseState r).dropRte i).charge 20
    | none => s)

/-- Row 7 discards the journals whose End record has arrived before this window (R98). -/
def Chip.row7Journals (s : Chip) : Chip :=
  s.items 72 id ((s.rtb.journals.filter (fun j => j.ended && decide (j.endedStep < s.step))).map (·.rid)) (fun s rid =>
    { s with rtb := { s.rtb with journals := s.rtb.journals.filter (fun j => !(j.rid == rid && j.ended)) } })

end Sys2Proof.Machine
end

