-- ==== Sys2Proof/Machine/PrefixOps.lean ====
section
/-! DEFINITION. Shared operations of the prefix index (04): the prefix table, matching, leases, references, the home's lookup, row 7's
eviction, and the pages of a request's map (R244). -/

namespace Sys2Proof.Machine

open Sys2Proof

/-! ## The page map of a request (R244) -/

/-- ROW_LEN of a request. -/
def Chip.rowLenOf (s : Chip) (r : Rte) : Nat := rowLen r.promptLen r.maxNew r.kvFormat (s.dimOf r)

/-- PAGES_PER_SPAN of a request's prefix blocks. -/
def Chip.ppsOf (s : Chip) (r : Rte) : Nat := pagesPerSpan r.kvFormat (s.dimOf r)

/-- Capacity of a request's pages. -/
def Chip.capOf (s : Chip) (r : Rte) : Nat := pageCap r.kvFormat (s.dimOf r)

/-- Entry e of row σ; 0 where the map holds none. -/
def Chip.entry (s : Chip) (r : Rte) (σ e : Nat) : Nat := if e < s.rowLenOf r then r.pages.getD (σ * s.rowLenOf r + e) 0 else 0

/-- A map with entry e of row σ replaced. -/
def Chip.setEntry (s : Chip) (r : Rte) (σ e v : Nat) : Rte := { r with pages := r.pages.set (σ * s.rowLenOf r + e) v }

/-- Entry of the row that holds a position, and the record within its page (R240, R244). -/
def Chip.whereIs (s : Chip) (r : Rte) (pos : Nat) : Nat × Nat :=
  let n := max 1 (s.capOf r)
  let pps := s.ppsOf r
  let fst := 64 * r.prefixBlocks
  if pos < fst then ((pos / 64) * pps + pos % 64 / n, pos % 64 % n)
  else (r.prefixBlocks * pps + (pos - fst) / n, (pos - fst) % n)

/-! ## The prefix table (R113–R115) -/

/-- Change the prefix block. -/
def Chip.setPfx (s : Chip) (f : Pfx → Pfx) : Chip := { s with pfx := f s.pfx }

/-- Sets of the prefix table (R131). The spec gives the register the values 0 to 2,097,151; of a value above them the low 21 bits count.
[log 48, DESIGN CHOICE] -/
def Chip.tableSets (s : Chip) : Nat := s.rd Reg.PFX_TBL_SETS % 2097152

/-- Is a prefix table configured? [log 48, DEDUCED] -/
def Chip.hasTable (s : Chip) : Bool := s.tableSets != 0

/-- First table index of the set of a hash (R113). -/
def Chip.setOf (s : Chip) (h : Bytes) : Nat := le h 0 8 % max 1 s.tableSets * 8

/-- Entries of the set of a hash. -/
def Chip.waysOf (s : Chip) (h : Bytes) : SMap PEntry :=
  let b := s.setOf h
  s.pfx.table.filter (fun x => decide (b ≤ x.1) && decide (x.1 < b + 8))

/-- Does an entry match (R115)? -/
def PEntry.hits (e : PEntry) (h : Bytes) (part kv : Nat) : Bool :=
  e.hash == padTo 32 h && e.state == 2 && e.partition == part && e.kvFormat == kv

/-- Does an entry collide with a hash: bytes 0–15 equal, bytes 16–31 not (R115)? [log 48, DEDUCED] -/
def PEntry.collides (e : PEntry) (h : Bytes) : Bool := slice e.hash 0 16 == slice h 0 16 && slice e.hash 16 16 != slice h 16 16

/-- Does some entry collide with a hash? -/
def Chip.collidesAt (s : Chip) (h : Bytes) : Bool := s.hasTable && (s.waysOf h).any (fun x => x.2.collides h)

/-- A collision is counted (R115). -/
def Chip.collided (s : Chip) : Chip := (s.cnt Reg.PFX_COLLIDE).raise Pg.PFX 1

/-- The ready entry that matches a hash; a collision is counted and treated as absent. -/
def Chip.matchEntry (s : Chip) (h : Bytes) (part kv : Nat) : Chip × Option Nat :=
  if !s.hasTable then (s, none)
  else if s.collidesAt h then (s.collided, none)
  else (s, ((s.waysOf h).find? (fun x => x.2.hits h part kv)).map (·.1))

/-- Match a run of hashes in order, stopping at the first that does not; the entries matched. [log 48, DEDUCED] -/
def Chip.matchRun (part kv : Nat) : List Bytes → Chip → List Nat → Chip × List Nat
  | [],      s, got => (s, got)
  | h :: hs, s, got =>
    match s.matchEntry h part kv with
    | (s, some i) => Chip.matchRun part kv hs s (got ++ [i])
    | (s, none)   => (s, got)

/-- Prefix pages a partition holds, PFX_PAGES_USED_p. -/
def Chip.prefixPages (s : Chip) (p : Nat) : Nat :=
  ((s.pfx.table.filter (fun x => x.2.partition == p)).map (fun x => x.2.pages.length)).foldl (· + ·) 0

/-- A free way of the set of a hash. -/
def Chip.freeWay (s : Chip) (h : Bytes) : Option Nat :=
  (List.range 8).map (· + s.setOf h) |>.find? (fun i => (s.pfx.table.find i).isNone)

/-- Use an entry: REFCNT up by one and LAST_USE set. -/
def Chip.useEntry (s : Chip) (i : Nat) : Chip :=
  s.updEntry i (fun e => { e with refcnt := e.refcnt + 1, lastUse := s.step % 2 ^ 32 })

/-- Free an entry: its pages, and one child less of its parent (R126). -/
def Chip.dropEntry (s : Chip) (i : Nat) : Chip :=
  match s.pfx.table.find i with
  | some e =>
    let s := s.each e.pages Chip.freePage
    let s := s.setPfx (fun x => { x with table := x.table.del i })
    if e.state = 2 then s.updEntry e.parent (fun q => { q with children := q.children - 1 }) else s
  | none => s

/-- An entry becomes ready: its parent gains a child (R114). -/
def Chip.readyEntry (s : Chip) (i : Nat) (parent : Nat) : Chip :=
  let s := s.updEntry i (fun e => { e with state := 2, parent := parent })
  s.updEntry parent (fun q => { q with children := q.children + 1 })

/-- The table index of the entry for H(k − 1) on a partition, 0xFF_FFFF for none. -/
def Chip.parentSlot (s : Chip) (parentHash : Bytes) (part kv : Nat) : Nat :=
  (((s.waysOf parentHash).find? (fun x => x.2.hits parentHash part kv)).map (·.1)).getD 0xFFFFFF

/-- Insert an entry; none where the quota or the set refuses it (R127). The caller counts a refusal. [log 48, DEDUCED] -/
def Chip.insertEntry (s : Chip) (quota : Bool) (e : PEntry) : Chip × Option Nat :=
  if !s.hasTable || s.collidesAt e.hash then (s, none)
  else if quota && s.rd (Reg.PFX_QUOTA + 4 * e.partition) < s.prefixPages e.partition + e.pages.length then (s, none)
  else
    match s.freeWay e.hash with
    | some i =>
      let s := s.setPfx (fun x => { x with table := x.table.put i e })
      (s.each e.pages (fun s a => s.ownPage a (prefixOwner i)), some i)
    | none => (s, none)

/-- An insertion refused at the destination (R127). -/
def Chip.pfxRefused (s : Chip) : Chip := (s.cnt Reg.PFX_REFUSED).raise Pg.PFX 2

/-! ## Leases (R119) -/

/-- End a lease: one from each leased entry's REFCNT. -/
def Chip.endLease (s : Chip) (id : Nat) : Chip :=
  match s.pfx.leases.find? (fun l => l.id == id) with
  | some l => (s.unref l.entries).setPfx (fun x => { x with leases := x.leases.filter (fun y => y.id != id) })
  | none => s

/-! ## The home's lookup (R109, R110, R117, R120) -/

/-- PFX_PART_CFG of a partition. -/
def Chip.pfxPart (s : Chip) (p : Nat) (f : Fld) : Nat := s.rf (f.plus (4 * p))

/-- Blocks of the prompt that R109 hashes. -/
def Rte.promptBlocks (r : Rte) : Nat := (r.promptLen - 1) / 64

/-- Write the pages of entries for blocks from `k` (counted from 1) into a request's map (R244). -/
def Chip.mapBlocks (s : Chip) (r : Rte) : Nat → List Nat → Rte
  | _, []      => r
  | k, i :: is =>
    match s.pfx.table.find i with
    | some e =>
      let r' := (List.range (e.spans * e.pps)).foldl (fun r x =>
        s.setEntry r (x / e.pps) ((k - 1) * e.pps + x % e.pps) (entryOf (e.pages.getD x 0) true)) r
      s.mapBlocks r' (k + 1) is
    | none => r

/-- The shard of a chain (R116): its device and partition; none where no entry is valid for it. -/
def Chip.shardFor (s : Chip) (h1 : Bytes) : Option (Nat × Nat) :=
  let n := min 16 (s.rf F.PFX_CFG_SHARDS)
  let k := le h1 0 4 % max 1 n
  if n = 0 || s.rf (F.PFX_SHARD_VALID.plus (4 * k)) = 0 then none
  else some (s.rf (F.PFX_SHARD_DEVICE.plus (4 * k)), s.rf (F.PFX_SHARD_PARTITION.plus (4 * k)))

/-- The home treats the blocks it asked for as absent (R120). -/
def Chip.lookupFail (s : Chip) (i : Nat) : Chip :=
  let missed := match s.rte i with
    | some r => r.promptBlocks - r.localMatch
    | none => 0
  ((s.updRte i (fun r => { r with lookup := 3 })).cnt Reg.PFX_LOOKUP_FAIL |>.cntBy Reg.PFX_BLOCKS_MISSED missed).raise Pg.PFX 0

/-- Hash a request and look its prompt up, in a Compute phase (R109, R110, R117). R118 bounds one message at 1,024 hashes: of a prompt with more
blocks left than that, the first 1,024 are asked for. [log 48, DEDUCED] -/
def Chip.hashAndLook (s : Chip) (i : Nat) : Chip :=
  let s := s.rehash i
  match s.rte i with
  | some r =>
    let nb := r.promptBlocks
    let hs := (r.hashes.take nb)
    let (s, got) := Chip.matchRun r.partition r.kvFormat hs s []
    let j := got.length
    let s := s.each got Chip.useEntry
    let r := { s.mapBlocks r 1 got with prefixBlocks := j, localMatch := j, refs := got, hashDue := false, prefilled := max r.prefilled (64 * j) }
    let s := (s.putRte i r).cntBy Reg.PFX_BLOCKS_MATCHED j
    if j < nb && s.pfxPart r.partition F.PFX_PART_CFG_LOOKUP = 1 && min 16 (s.rf F.PFX_CFG_SHARDS) ≠ 0 then
      match s.shardFor (hs.headD []) with
      | some sh =>
        let ask := (hs.drop j).take 1024
        let s := s.updRte i (fun r => { r with lookup := 1, lookupStep := s.step, shard := sh })
        (s.cnt Reg.PFX_LOOKUPS).send 3 sh.1 sh.2 r.partition (lookupMsg r.kvFormat (j + 1) r.rid sh.2 ask)
      | none => s.lookupFail i
    else s.cntBy Reg.PFX_BLOCKS_MISSED (nb - j)
  | none => s

/-- Every request whose hashing is due is hashed at the start of Compute (R109): in this Compute phase or, with hashing disabled, never. -/
def Chip.computeHashes (s : Chip) : Chip :=
  let due := (s.rtb.rtes.filter (fun x => x.2.hashDue && x.2.state.live)).map (·.1)
  if s.pfxOn then s.each due Chip.hashAndLook
  else s.each due (fun s i => s.updRte i (fun r => { r with hashDue := false }))

/-- At Exchange start every lookup without a reply fails (R120). -/
def Chip.lookupDeadline (s : Chip) : Chip :=
  s.each ((s.rtb.rtes.filter (fun x => x.2.lookup == 1)).map (·.1)) Chip.lookupFail

/-- Send a Release for a lease of a shard; a reply that matched nothing names lease 0, and its Release ends none (R120). -/
def Chip.releaseLease (s : Chip) (sh : Nat × Nat) (srcPart lease rid : Nat) : Chip := s.send 3 sh.1 sh.2 srcPart (releaseMsg lease rid)

/-! ## Row 7 and row 8 (R126, R129) -/

/-- Entries that may be freed on a partition, lowest LAST_USE first: unreferenced and unpinned; on a cache-role partition leaves
only. -/
def Chip.evictable (s : Chip) (p : Nat) (leaf : Bool) : List Nat :=
  (sortBy (fun (x y : Nat × PEntry) => decide (x.2.lastUse ≤ y.2.lastUse))
    (s.pfx.table.filter (fun x => x.2.partition == p && x.2.refcnt == 0 && !x.2.pinned && x.2.state != 1 && (!leaf || x.2.children == 0)))).map (·.1)

/-- Free an entry under R126: counted, and charged to row 7. -/
def Chip.evictEntry (s : Chip) (i : Nat) : Chip := ((s.dropEntry i).cnt Reg.PFX_EVICT).charge 5

/-- Deliveries and publications to a partition that wait for a row 6. -/
def Chip.waitingXfers (s : Chip) (p : Nat) : List DstXfer :=
  s.smv.dsts.filter (fun d => (d.hdr.kind == 3 || d.hdr.kind == 4) && d.hdr.dstPart == p)

/-- Pages that they will add to the partition, those of their filling entries apart. -/
def Chip.waitingPages (s : Chip) (p : Nat) : Nat :=
  ((s.waitingXfers p).map (fun d =>
    let filling := (d.entries.filterMap id).filterMap (fun i => s.pfx.table.find i)
    d.pages.length - ((filling.map (fun e => e.pages.length)).foldl (· + ·) 0))).foldl (· + ·) 0

/-- Hashes that a waiting publication brings and that have no entry, because their set had no free way and still has none. -/
def Chip.waylessHashes (s : Chip) (p : Nat) : List Bytes :=
  ((s.waitingXfers p).flatMap (fun d => (d.entries.zipIdx).filterMap (fun (e, k) =>
    if e.isSome then none
    else (d.recs.find? (fun r => r.sect == 6 && r.index == le d.body 24 4 + k)).map (·.data)))).filter
      (fun h => s.hasTable && !s.collidesAt h && (s.freeWay h).isNone)

/-- Evict leaves of a cache-role partition until its pages keep the low-water margin and leave room for what waits (R126).
[log 48, DEDUCED] -/
def Chip.evictTo (p : Nat) : Nat → Chip → Chip
  | 0,     s => s
  | k + 1, s =>
    let short := decide (s.rd (Reg.PFX_QUOTA + 4 * p) - s.rd (Reg.PFX_LOW_WATER + 4 * p) < s.prefixPages p + s.waitingPages p)
    let sets := (s.waylessHashes p).map s.setOf
    let pick := (s.evictable p true).find? (fun i => short || sets.contains (i / 8 * 8))
    match pick with
    | some i => let t := s.item (fun s => s.evictEntry i); if s.plan.w < t.alm.cost then t else Chip.evictTo p k t
    | none => s

/-- Free a damaged entry; entries that named it as parent name none (R270). It is no eviction of R126, and not counted as one. -/
def Chip.dropDamaged (s : Chip) (i : Nat) : Chip :=
  let s := (s.dropEntry i).charge 5
  s.setPfx (fun x => { x with table := x.table.map (fun (k, e) => (k, if e.parent = i then { e with parent := 0xFFFFFF } else e)) })

/-- Row 7 of the prefix index: leases that lapse, damaged entries no longer referred to, then freeing and eviction on every
partition (R119, R126, R270). -/
def Chip.row7Prefix (s : Chip) : Chip :=
  let s := s.items 73 id ((s.pfx.leases.filter (fun l => decide (l.step ≤ s.step))).map (·.id)) Chip.endLease
  let s := s.items 74 id ((s.pfx.table.filter (fun x => x.2.state == 3 && x.2.refcnt == 0)).map (·.1)) Chip.dropDamaged
  s.each (below 8 s.partExists) (fun s p =>
    if s.role p = .cache then Chip.evictTo p s.pfx.table.length s
    else s.items 75 id (s.evictable p false) Chip.evictEntry)

/-- The cache role of a partition ceases: every entry of it is freed, pinned or not (R129). -/
def Chip.dropEntriesOf (s : Chip) (p : Nat) : Chip :=
  s.each ((s.pfx.table.filter (fun x => x.2.partition == p)).map (·.1)) Chip.dropEntry

end Sys2Proof.Machine
end

