-- ==== Sys2Proof/Machine/Views.lean ====
section
/-! DEFINITION. What a register reads as: its stored value, or a view of what the block holds (R542, R543 and the register tables of
the chapters). A read through these functions has no side effect; the vigil's latch is built on them (R530). -/

namespace Sys2Proof.Machine

open Sys2Proof

/-! ## Peers watched (R493) -/

/-- Devices of the maps in force of the compositions to which a partition belongs, and of maps pending with complete Votes, this
device apart; only while WATCH_EN is 1 (R493, R514). -/
def Chip.watched (s : Chip) : List Nat :=
  if s.rf F.FLT_CFG_WATCH_EN = 0 then []
  else
    let comps := s.parts.filterMap (·.comp)
    let devs := comps.flatMap (fun c => (s.members c).map (·.dev))
      ++ (s.xpt.proposals.filter (fun p => p.complete)).flatMap (fun p => p.map.members.map (·.dev))
    (devs.filter (fun d => d != s.selfDev)).eraseDups

/-! ## The common header (R542, R543, R545) -/

/-- The EN field of a block's own, where it has one. [log 61, DEDUCED] -/
def Blk.en (b : Blk) (pg : Nat) : Option Fld :=
  match b with
  | .cxl => some F.CXL_CFG_EN | .xpt => some F.XPT_CFG_EN | .smv => some F.SMV_CFG_EN | .rtb => some F.RTB_CFG_EN
  | .pfx => some F.PFX_CFG_EN | .sch => some F.SCH_CFG_EN | .sdg => some (F.SDG_CFG_EN.on pg) | .lnk => some (F.LNK_CFG_EN.on pg)
  | .cal => some (F.CAL_CFG_EN.on pg) | .shp => some ⟨regAt pg Reg.SHP_CFG, 0, 0⟩
  | _ => none

/-- BLK_STAT.ENABLED: ENABLE and the block's own EN field are both 1. [log 61, DEDUCED] -/
def Chip.blkEnabled (s : Chip) (b : Blk) (pg : Nat) : Bool :=
  s.enabled pg && (match b.en pg with | some f => s.rf f == 1 | none => true)

/-- Is a command accepted through a page still outstanding? [log 30, DEDUCED] -/
def Chip.outstanding (s : Chip) (b : Blk) (inst : Nat) : Bool :=
  match b with
  | .glb => s.rf F.GLB_FW_STAT_STATE == 1 || s.rf F.GLB_FW_STAT_STATE == 2
  | .sec => s.rf F.SEC_ATT_STAT_RESULT == 15 || s.rf F.SEC_SEAL_STAT_RESULT == 15 || s.rf F.SEC_FUSE_STAT_RESULT == 15
  | .cxl => s.rf F.CXL_CFG_STAT_RESULT == 15
  | .xpt => s.rf F.XPT_MAP_STAT_RESULT == 15 || s.rf F.XPT_WIN_STAT_RESULT == 15
  | .smv => s.smv.orders.any (·.runtime)
  | .sch => s.rf F.SCH_LOAD_STAT_RESULT == 15 || s.rf F.SCH_RES_STAT_RESULT == 15
  | .flt => s.rf F.FLT_REPAIR_STAT_RESULT == 15
  | .mem => inst == 0 && s.rf (F.MEM_DESC_STAT_RESULT.on (Pg.mem 0)) == 15
  | .cal => s.rf (F.CAL_STAT_PENDING.on (Pg.cal inst)) == 1
  | .vgl => s.vgl.now
  | _ => false

/-- Is the unit a page describes retired or in fault (R498)? -/
def Chip.unitRetired (s : Chip) (b : Blk) (inst : Nat) : Bool :=
  match b with
  | .til => s.rf (F.TIL_MAP_STATE.on (Pg.til inst)) == 4
  | .mem | .sdg => s.rf (F.MEM_STAT_STATE.on (Pg.mem inst)) == 3
  | .lnk => s.rf (F.LNK_STAT_STATE.on (Pg.lnk inst)) == 6
  | .opt => (s.chan (.engine inst)).perm
  | _ => false

/-- Words of SNAP that copy a register of the page. -/
def Blk.snapWords (b : Blk) (inst : Nat) : Nat := (below 48 (fun i => (rowHere b inst (0x100 + 4 * i)).isSome)).length

/-- A header register. SNAP reads what the last latch left. [log 30, DEDUCED] -/
def Chip.viewHeader (s : Chip) (b : Blk) (pg inst off : Nat) : Nat :=
  let a := regAt pg off
  if off = Reg.BLK_CAP then s.rd a + b.snapWords inst * 2 ^ 16
  else if off = Reg.BLK_STAT then
    b2n (s.blkEnabled b pg) + 2 * b2n (s.draining pg && !s.outstanding b inst) + 4 * s.rf (F.BLK_STAT_QUIESCED.on pg) + 8 * b2n (s.unitRetired b inst)
  else if 0x40 ≤ off then (s.vgl.snap.getD a 0).toNat
  else s.rd a

/-! ## Views of the blocks -/

/-- A word of a byte image. -/
def wordAt (b : Bytes) (off : Nat) : Nat := le b off 4

/-- Free page slots on a die of a stack, all partitions together (R273). -/
def Chip.dieSlots (s : Chip) (st die : Nat) : Nat :=
  ((List.range 256).map (fun i => let hb := 256 * die + i
    match s.cgOwner st (groupOf hb) with
    | some p => (s.freeSlots p st hb).length
    | none => 0)).foldl (· + ·) 0

/-- The image of the accounting entry shown: TENANT and its counters (R230). -/
def Chip.acctImage (s : Chip) : Bytes :=
  match s.sch.acct.find (s.rd Reg.SCH_ACCT_IDX % 4096) with
  | some e => toLE 4 e.tenant ++ toLE 1 (1 + 2 * b2n e.ride) ++ zeros 3 ++ toLE 8 e.admitted ++ toLE 8 e.completed ++ toLE 8 e.cancelled
      ++ toLE 8 e.failedOver ++ zeros 24
  | none => zeros 64

/-- State and live requests of the emit ring shown (R451). -/
def Chip.ringStat (s : Chip) : Nat :=
  let r := s.rd Reg.CXL_RING_SEL % 512
  match s.cxl.rings.find r with
  | some x => (if x.abandoned then 2 else 1) + (s.rtb.locators.filter (fun l => l.2.state != 0 && l.2.ring == r)).length % 2 ^ 18 * 2 ^ 8
  | none => 0

/-- Is the module idle (R524): firmware has started, no program runs on any partition, and no Sedge command, transfer or migration copy is
outstanding? [log 30, DEDUCED] -/
def Chip.idle (s : Chip) : Bool :=
  s.pwr.done.contains 8 && s.sch.sels.all (fun x => x.voided || x.ran) && s.sdgs.all (fun g => g.2.running.isEmpty)
    && s.smv.srcs.isEmpty && s.smv.dsts.isEmpty && s.memu.migs.isEmpty && s.memu.backs.isEmpty

/-- STATE of SCH_RES_STAT: of the entry named last (R223). [log 53, DEDUCED] -/
def Chip.resState (s : Chip) : Nat :=
  match s.sch.resNamed with
  | some n => (match s.sch.res.find? (fun r => r.part == n.1 && r.adapter == n.2.1 && r.id == n.2.2) with
    | some r => if !r.resident then 1 else if r.pinned then 3 else 2
    | none => 0)
  | none => 0

/-- Registers of the single-instance pages that report what a block holds; none where the register is stored. -/
def Chip.viewSingle (s : Chip) (a : Nat) : Option Nat :=
  if a = Reg.ALM_NOW_LO then some (s.alm.now % 2 ^ 32)
  else if a = Reg.ALM_NOW_HI then some (s.alm.now / 2 ^ 32 % 2 ^ 32)
  else if a = Reg.ALM_STEP_LO then some (s.step % 2 ^ 32)
  else if a = Reg.ALM_STEP_HI then some (s.step / 2 ^ 32 % 2 ^ 32)
  else if a = Reg.ALM_STATE then some (putBits (s.rd a) 1 0 s.phase)
  else if a = Reg.PWR_STATE then some (if s.rf F.PWR_STATE_POWER = 0 && s.idle then putBits (s.rd a) 5 4 1 else s.rd a)
  else if a = Reg.SEC_PAIR_KEYS then some s.sec.pairs.length
  else if a = Reg.SEC_NMP_SESSIONS then some s.sec.sessions.length
  else if a = Reg.CXL_WAITING then some s.cxl.subs.length
  else if a = Reg.CXL_STAGE_USED then some (ceilDiv (((s.cxl.subs.map (fun x => 4 * x.promptLen)).foldl (· + ·) 0)) 1024)
  else if a = Reg.CXL_BACKLOG then some s.cxl.backlog.length
  else if a = Reg.CXL_SF_USED then some s.cxl.filter.length
  else if a = Reg.CXL_RING_STAT then some s.ringStat
  else if a = Reg.XPT_CTX_CACHED then some s.xpt.cached.length
  else if a = Reg.XPT_MISSBUF_USED then some ((s.xpt.miss.map (fun m => m.2.length)).foldl (· + ·) 0)
  else if a = Reg.XPT_REASM_OPEN then some s.reasmOpen
  else if a = Reg.XPT_ROUTE_DATA then some (s.xpt.routes.getD (s.rd Reg.XPT_ROUTE_IDX % 65536) 0).toNat
  else if a = Reg.XPT_MAP_EPOCH then
    let c := s.rd Reg.XPT_MAP_SEL % 65536
    some (if s.present c s.selfDev then s.epochOf c else 0)
  else if a = Reg.XPT_MAP_PEND then
    some (((s.xpt.proposals.find? (fun p => !p.lapsed && p.map.comp == s.rd Reg.XPT_MAP_SEL % 65536)).map (·.map.epoch)).getD 0)
  else if a = Reg.XPT_RTX_USED then some (ceilDiv s.rtxUsed 1024)
  else if a = Reg.SMV_CTX_USED then some (s.smv.srcs.length + s.smv.dsts.length)
  else if a = Reg.SMV_INDOUBT then some (s.smv.dsts.filter (fun x => x.state == .inDoubt)).length
  else if a = Reg.SMV_ORD_STAT then some (putBits (s.rd a) 23 16 (s.smv.orders.filter (·.runtime)).length)
  else if a = Reg.RTB_JRN_FREE then some s.jrnFree
  else if Reg.RTB_STATE_CNT ≤ a && a < Reg.RTB_STATE_CNT + 36 then
    let k := (a - Reg.RTB_STATE_CNT) / 4
    let n := (s.rtb.rtes.filter (fun r => r.2.state.code == k)).length
    some (if k = 0 then 262144 - s.rtb.rtes.length else n)
  else if Reg.RTB_PEEK_DATA ≤ a && a < Reg.RTB_PEEK_DATA + 256 then some (wordAt s.rtb.peek (a - Reg.RTB_PEEK_DATA))
  else if a = Reg.PFX_ENTRIES_USED then some s.pfx.table.length
  else if a = Reg.PFX_LEASES then some s.pfx.leases.length
  else if Reg.PFX_PAGES_USED ≤ a && a < Reg.PFX_PAGES_USED + 32 then some (s.prefixPages ((a - Reg.PFX_PAGES_USED) / 4))
  else if a = Reg.SCH_RES_STAT then some (putBits (s.rd a) 5 4 s.resState)
  else if Reg.SCH_ACCT_DATA ≤ a && a < Reg.SCH_ACCT_DATA + 64 then some (wordAt s.acctImage (a - Reg.SCH_ACCT_DATA))
  else if a = Reg.FLT_WATCHED then some s.watched.length
  else if Reg.FLT_LOG ≤ a && a < Reg.FLT_LOG + 2048 then
    some (wordAt (s.flt.log.getD ((a - Reg.FLT_LOG) / 32) []) ((a - Reg.FLT_LOG) % 32))
  else if Reg.GLB_INT_PEND ≤ a && a < Reg.GLB_INT_PEND + 36 then
    let i := (a - Reg.GLB_INT_PEND) / 4
    some (((below 32 (fun b => decide (32 * i + b < 284) && s.pagePending (32 * i + b))).map (2 ^ ·)).foldl (· + ·) 0)
  else if Reg.GLB_OWN_DATA ≤ a && a < Reg.GLB_OWN_DATA + 16 then
    some (wordAt (s.glb.ownLog.getD (s.rd Reg.GLB_OWN_IDX % 16) []) (a - Reg.GLB_OWN_DATA))
  else none

/-- The same for the pages of stacks, Sedge groups and egress queues, by page offset. -/
def Chip.viewMulti (s : Chip) (b : Blk) (inst off : Nat) : Option Nat :=
  match b with
  | .til =>
    if off = Reg.TIL_MAP then
      let v := s.rd (regAt (Pg.til inst) off)
      let o := (s.logicalOf inst).bind s.ltOwner
      some (putBits (putBits v 14 12 (o.getD 0)) 15 15 (b2n o.isSome))
    else none
  | .mem =>
    if Reg.MEM_ERR_DATA ≤ off && off < Reg.MEM_ERR_DATA + 32 then
      some (wordAt (s.memu.errRing.getD (16 * inst + s.rd (regAt (Pg.mem inst) Reg.MEM_ERR_IDX) % 16) []) (off - Reg.MEM_ERR_DATA))
    else if inst = 0 && off = Reg.MEM_OBJECTS then some (s.memu.descs.length + 1)
    else if inst = 0 && off = Reg.MEM_MIGRATING then some s.memu.migs.length
    else none
  | .sdg =>
    if off = Reg.SDG_OPND_FREE then some (65536 - (s.sdgAt inst).unitsUsed)
    else if off = Reg.SDG_SLOTS_FREE then some (((List.range 16).map (s.dieSlots inst)).foldl (· + ·) 0)
    else if Reg.SDG_DIE_FREE ≤ off && off < Reg.SDG_DIE_FREE + 64 then some (s.dieSlots inst ((off - Reg.SDG_DIE_FREE) / 4))
    else none
  | .shp =>
    if off = Reg.SHP_VTIME_LO then some ((s.shp inst).vtime % 2 ^ 32)
    else if off = Reg.SHP_VTIME_HI then some ((s.shp inst).vtime / 2 ^ 32 % 2 ^ 16)
    else if off = Reg.SHP_BUF_USED then some (s.shp inst).used
    else if Reg.SHP_QSTAT ≤ off && off < Reg.SHP_QSTAT + 512 && (off - Reg.SHP_QSTAT) % 16 = 0 then
      some (min ((s.shp inst).queued ((off - Reg.SHP_QSTAT) / 16)) (2 ^ 24 - 1))
    else none
  | _ => none

/-- What the register at a BAR0 address holds; zero beyond a page's registers and beyond the directory (R546). -/
def Chip.view (s : Chip) (a : Nat) : Nat :=
  let pg := a / 0x1000
  let off := a % 0x1000
  match blkOf pg with
  | none => 0
  | some (b, inst) =>
    if off < 0x100 then s.viewHeader b pg inst off
    else if (rowHere b inst off).isNone then 0
    else match (if pg < 12 then s.viewSingle a else s.viewMulti b inst off) with
      | some v => v
      | none => s.rd a

/-! ## The vigil's latch (R530, R533) -/

/-- Every page's SNAP takes the registers from +0x100 as they stand. -/
def Chip.snapshot (s : Chip) : SMap Word :=
  (List.range 284).flatMap (fun pg => (List.range 48).filterMap (fun i =>
    let v := BitVec.ofNat 32 (s.view (regAt pg (0x100 + 4 * i)))
    if v = 0 then none else some (regAt pg (0x40 + 4 * i), v)))

/-- A latch with a SOURCE of R540; held, it is ignored and counted (R533). -/
def Chip.latch (s : Chip) (source : Nat) : Chip :=
  if s.rf F.VGL_STAT_HELD = 1 then (s.cnt Reg.VGL_MISSED).raise Pg.VGL 1
  else
    let s := { s with vgl := { s.vgl with snap := s.snapshot } }
    let s := (s.wr64 Reg.VGL_LAST_TIME_LO s.alm.now).wr64 Reg.VGL_LAST_STEP_LO s.step
    let s := (s.wf F.VGL_STAT_SOURCE source).cnt Reg.VGL_LATCHES
    let s := if s.rf F.VGL_CFG_HOLD = 1 then s.wf F.VGL_STAT_HELD 1 else s
    s.raise Pg.VGL 0

end Sys2Proof.Machine
end

