-- ==== Sys2Proof/Machine/FaultOps.lean ====
section
/-! DEFINITION. Shared operations of fault handling (16): Presence and Departure (R494) and the fatal device error (R510). -/

namespace Sys2Proof.Machine

open Sys2Proof

/-! ## Peers (R494) -/

/-- Body of a Presence or Departure (R494). [log 24, PRESUMED] -/
def presenceMsg (type cause dev step serial : Nat) : Bytes :=
  toLE 1 type ++ toLE 1 cause ++ toLE 2 dev ++ zeros 4 ++ toLE 8 step ++ toLE 8 serial ++ zeros 8

/-! ## Fatal device errors (R448, R510) -/

/-- Signal viral (R448). -/
def Chip.viral (s : Chip) : Chip :=
  if s.rf F.CXL_STAT_VIRAL_OUT = 1 then s
  else ((s.wf F.CXL_STAT_VIRAL_OUT 1).raise Pg.CXL 6).emit .viral

/-- A fatal device error (R510): the condition stands until cold reset, so a second one changes nothing. The vigil latches before the
Departures go out (R531). -/
def Chip.fatal (s : Chip) (cause : Nat) : Chip :=
  if s.rf F.FLT_STAT_FATAL = 1 then s
  else
    let s := (s.wf F.FLT_STAT_FATAL 1).wf F.FLT_STAT_CAUSE cause
    let s := (s.faultRecord 13 4 0xFFFF 0xFFFF 0xFFFF 0xFF 0 0).raise Pg.FLT 5
    let s := s.latch 5
    let s := s.each s.watched (fun s d => s.send 8 d 0 0 (presenceMsg 0x21 cause s.selfDev s.step Config.serial.toNat))
    s.viral.setFlt (fun f => { f with mute := true })

end Sys2Proof.Machine
end

