-- ==== Sys2Proof/Machine/Loss.lean ====
section
/-! DEFINITION. Messages and operations the transport ends (R372, R373), fences (R378), and the loss of a peer (R373, R495). -/

namespace Sys2Proof.Machine

open Sys2Proof

/-! ## Fences -/

/-- Fences that wait for nothing more complete (R378). -/
def Chip.settleFences (s : Chip) : Chip :=
  let done := s.xpt.fences.filter (fun f => (f.psns.isEmpty && f.msgs.isEmpty) || f.lost)
  let s := s.setXpt (fun x => { x with fences := x.fences.filter (fun f => !((f.psns.isEmpty && f.msgs.isEmpty) || f.lost)) })
  s.each done (fun s f => s.emit (.fenceDone f.tile f.id (if f.lost then 11 else 0)))

/-- A packet of a context is acknowledged or marked. -/
def Chip.fenceAck (s : Chip) (c psn : Nat) : Chip :=
  s.setXpt (fun x => { x with fences := x.fences.map (fun f => { f with psns := f.psns.filter (fun p => !(p.1 == c && p.2.1 == psn)) }) })

/-- A message is wholly acknowledged or ended. -/
def Chip.fenceMsg (s : Chip) (num : Nat) : Chip :=
  s.setXpt (fun x => { x with fences := x.fences.map (fun f => { f with msgs := f.msgs.filter (· != num) }) })

/-- A context starts again under new PSNs: its fences wait for the messages instead. -/
def Chip.fenceRenumber (s : Chip) (c : Nat) (left : List Nat) : Chip :=
  let move := fun (f : Fence) =>
    let own := (f.psns.filter (fun p => p.1 == c)).map (fun p => p.2.2)
    { f with psns := f.psns.filter (fun p => p.1 != c), msgs := f.msgs ++ (own.filter (fun n => left.contains n)).eraseDups }
  s.setXpt (fun x => { x with fences := x.fences.map move })

/-! ## Ending messages -/

/-- A message or operation ends with a status, to be reported to its unit. -/
def Chip.endMsg (s : Chip) (peer status : Nat) (m : TxMsg) : Chip :=
  (s.setXpt (fun x => { x with ended := x.ended ++ [⟨peer, m, status⟩] })).fenceMsg m.num

/-- A send context to a lost peer: ERROR, and everything it holds ends TARGET_LOST (R373). -/
def Chip.ctxError (s : Chip) (peer tc : Nat) : Chip :=
  let c := ctxNo 0 peer tc
  let x := s.tx c
  let s := s.putTx c { state := .error }
  let s := s.setXpt (fun y => { y with fences := y.fences.map (fun f => { f with lost := f.lost || f.psns.any (fun p => p.1 == c)
                                                                                 || x.msgs.any (fun m => f.msgs.contains m.num) }) })
  s.each (x.msgs.filter (fun m => !m.skip)) (fun s m => s.endMsg peer 11 m)

/-- ERROR contexts of a peer pass to RESET (R373). -/
def Chip.flushCtxs (s : Chip) (peer : Nat) : Chip :=
  s.each (List.range 8) (fun s tc => let c := ctxNo 0 peer tc; if (s.tx c).state = .error then s.putTx c {} else s)

/-- A peer is declared lost, once per loss (R371, R373, R495). -/
def Chip.declareLost (s : Chip) (peer : Nat) : Chip :=
  if s.flt.gone.contains peer then s
  else
    let watched := s.watched.contains peer
    let s := s.setFlt (fun f => { f with gone := insertNat peer f.gone, seen := f.seen.del peer })
    let s := s.each (List.range 8) (fun s tc => s.ctxError peer tc)
    let s := (((s.wr Reg.XPT_LOST_DEVICE peer).cnt Reg.XPT_PEER_LOST).raise Pg.XPT 0).settleFences
    let s := if watched then
        let (s, v) := s.draw 8
        ((s.faultRecord 10 v 0xFFFF 0xFFFF peer 0xFF 0 0).cnt Reg.FLT_PEERS_LOST).raise Pg.FLT 0
      else s
    s.partnerGone peer

end Sys2Proof.Machine
end

