-- ==== Sys2Proof/Machine/MemOps.lean ====
section
/-! DEFINITION. Memory errors (R293, R294), what the holder of a damaged word loses, the retirement of half-banks (R295) and the
units of objects (R284, R285). -/

namespace Sys2Proof.Machine

open Sys2Proof

/-- Change what memory holds beside its bytes. -/
def Chip.setMemu (s : Chip) (f : Memu → Memu) : Chip := { s with memu := f s.memu }

/-! ## Objects by address -/

/-- A slot address before remapping: what the slot at a replacement address stands for (R295). -/
def Chip.unremapped (s : Chip) (a : Nat) : Nat :=
  match s.memu.remaps.find? (fun p => p.2 == a / 16384 * 16384) with
  | some p => p.1 + a % 16384
  | none => a

/-- Index of a group in a descriptor's list. -/
def Desc.groupIdx (d : Desc) (g : Nat) : Option Nat :=
  if d.mask.testBit g then some ((below g (fun i => d.mask.testBit i)).length) else none

/-- The unit of a descriptor that a physical address lies in (R285), remaps apart. -/
def Desc.unitOf (d : Desc) (a : Nat) : Option Nat :=
  if d.tier = 2 then
    if inT2 a && d.slotFirst ≤ slotOf a && slotOf a ≤ d.slotLast then
      let hb := halfBankOf a
      let i := dieOf hb + 16 * (bankOf hb % 16) + 256 * (hb % 2)
      (d.groupIdx (8 * stackOf a + groupOf hb)).map (fun gi => ((slotOf a - d.slotFirst) * 512 + i) * d.groups.length + gi)
    else none
  else if inT1 a then
    let b := (a - t1Base) % 2 ^ 31 / 4096
    if d.slotFirst ≤ b / 16 && b / 16 ≤ d.slotLast then
      (d.groupIdx (16 * ((a - t1Base) / 2 ^ 31) + b % 16)).map (fun gi => (b / 16 - d.slotFirst) * d.groups.length + gi)
    else none
  else none

/-- Descriptors, the device's own among them. -/
def Chip.allDescs (s : Chip) : SMap Desc := s.memu.descs ++ [(4095, deviceDesc)]

/-- The object and unit that hold a physical address, page pools apart. -/
def Chip.objectAt (s : Chip) (a : Nat) : Option (Nat × Desc × Nat) :=
  let a := s.unremapped a
  s.allDescs.findSome? (fun (o, d) =>
    if d.kind = 2 then none
    else match d.unitOf a with
      | some u => if u * d.unit < d.size then some (o, d, u) else none
      | none => none)

/-- A write to a unit of a migrating object that has been copied marks it dirty (R288), and so does one to a unit that is copied back to a repaired half-bank (R504). [log 52, DEDUCED] -/
def Chip.markDirty (s : Chip) (a n : Nat) : Chip :=
  let backs := s.memu.backs.map (fun b =>
    let here := match s.memu.remaps.find? (fun r => r.1 == b.1) with
      | some r => decide (r.2 < a + n) && decide (a < r.2 + 16384)
      | none => false
    (b.1, if here && b.2 == 1 then 2 else b.2))
  let s := s.setMemu (fun m => { m with backs := backs })
  if s.memu.migs.isEmpty then s
  else s.each (wordsOf a n) (fun s w =>
    match s.objectAt w with
    | some (o, _, u) =>
      match s.memu.migs.find o with
      | some m => if m.copied.contains u then s.setMemu (fun x => { x with migs := x.migs.put o { m with dirty := insertNat u m.dirty } }) else s
      | none => s
    | none => s)

/-! ## What a damaged word costs its holder (R270, R293) -/

/-- A prefix instance is damaged (R270): it matches no lookup from now on, and every request that refers to it is lost. -/
def Chip.damageInstance (s : Chip) (i : Nat) : Chip :=
  match s.pfx.table.find i with
  | some e =>
    let users := (s.rtb.rtes.filter (fun x => x.2.refs.contains i)).map (·.1)
    let s := if e.state = 2 then s.updEntry e.parent (fun q => { q with children := q.children - 1 }) else s
    let s := s.updEntry i (fun e => { e with state := 3 })
    s.each users (fun s k => s.stateLost k 0x09)
  | none => s

/-- A model or adapter becomes ABSENT on a partition in the next row 7 (R293, R317). -/
def Chip.residencyLost (s : Chip) (part : Nat) (adapter : Bool) (id : Nat) : Chip :=
  { s with sch := { s.sch with res := s.sch.res.map (fun r =>
      if r.part = part && r.adapter == adapter && r.id = id then { r with lost := true } else r) } }

/-- The request that owns a RID's state here loses it. -/
def Chip.ridLost (s : Chip) (rid : Nat) : Chip :=
  match s.findRid rid with
  | some (i, _) => s.stateLost i 0x09
  | none => s

/-- The unit that holds an address is damaged: every read of it fails until all of its words have been written (R293). -/
def Chip.damageUnit (s : Chip) (a : Nat) : Chip :=
  let base := a / unitSize a * unitSize a
  s.setMemu (fun m => { m with units := m.units.put base (wordsOf base (unitSize a)) })

/-- The consequence of an uncorrectable word for whatever holds it (the second table of R293). -/
def Chip.holderLoses (s : Chip) (pg a : Nat) : Chip :=
  let slot := a / 16384 * 16384
  match (if inT2 a then s.memu.pages.find slot else none) with
  | some owner => if owner < 2 ^ 64 then s.ridLost owner else s.damageInstance (owner - 2 ^ 64)
  | none =>
    match s.objectAt a with
    | some (o, d, u) =>
      if o = 4095 then s.fatal 1
      else if d.kind = 3 then
        s.each ((s.memu.allocs.filter (fun (o', u', n, _) => o' == o && decide (u' ≤ u) && decide (u < u' + n))).map (fun (_, _, _, r) => r)) Chip.ridLost
      else if d.use = 0 then (s.damageUnit a).raise pg 6
      else s.residencyLost d.partition (d.use == 2) d.id
    | none => s

/-! ## Error records (R294) -/

/-- Append an error record to a stack's ring; a T1 word's goes to M00. -/
def Chip.memRecord (s : Chip) (a kind reader sym : Nat) : Chip :=
  let t2 := inT2 a
  let st := if t2 then stackOf a else 0
  let obj := match (if t2 && (s.memu.pages.find (a / 16384 * 16384)).isSome then none else s.objectAt a) with
    | some (o, _, _) => o
    | none => 0xFFFFFFFF
  let lw := t2 && s.memu.sedgeW.contains (wordOf a)
  let r := toLE 8 a ++ toLE 2 (if t2 then halfBankOf a else 0xFFFF) ++ toLE 1 (if t2 then st else 0xFF) ++ toLE 1 kind ++ toLE 1 reader
    ++ toLE 1 (b2n lw + 2 * b2n t2) ++ toLE 1 sym ++ toLE 1 ((s.ownerAt a).getD 0xFF) ++ toLE 8 s.step ++ toLE 4 obj ++ zeros 4
  let n := s.rd (regAt (Pg.mem st) Reg.MEM_ERR_COUNT)
  (s.setMemu (fun m => { m with errRing := m.errRing.put (16 * st + n % 16) r })).cnt (regAt (Pg.mem st) Reg.MEM_ERR_COUNT)

/-! ## Half-bank retirement (R295) -/

/-- Is a slot of a half-bank named by no descriptor and no remap? -/
def Chip.slotUnnamed (s : Chip) (st hb slot : Nat) : Bool :=
  decide (slot < 1191) && s.memu.descs.all (fun x => !(x.2.tier == 2 && x.2.mask.testBit (8 * st + groupOf hb)
      && decide (x.2.slotFirst ≤ slot) && decide (slot ≤ x.2.slotLast)))
    && !(s.memu.remaps.any (fun p => p.2 == slotAddr st hb slot))

/-- Half-banks of the same die and channel group that are in service. -/
def Chip.mates (s : Chip) (st hb : Nat) : List Nat :=
  ((List.range 32).map (fun k => hbNum (dieOf hb) (16 * groupOf hb + k / 2) (k % 2))).filter (fun x => x != hb && !s.hbRetired st x)

/-- A free slot for a unit of a retired half-bank: one that no descriptor names, then one of a page pool of the same partition. [log 52, DEDUCED] -/
def Chip.spareSlot (s : Chip) (st hb p : Nat) : Option Nat :=
  let ms := s.mates st hb
  match ms.findSome? (fun x => ((List.range 1191).find? (s.slotUnnamed st x)).map (slotAddr st x)) with
  | some a => some a
  | none => ms.findSome? (fun x => ((s.freeSlots p st x).head?).map (slotAddr st x))

/-- Copy one 16 KiB unit of a retired half-bank to a free slot and remap it, or mark it damaged (R295). [log 52, DEDUCED] -/
def Chip.remapUnit (s : Chip) (st hb slot p : Nat) : Chip :=
  let a := slotAddr st hb slot
  let used := (s.memu.remaps.filter (fun r => stackOf r.1 == st)).length
  match s.readPhys a 16384, (if used < 16384 then s.spareSlot st hb p else none) with
  | some bs, some b =>
    let s := s.writePhys false b bs
    (s.setMemu (fun m => { m with remaps := m.remaps ++ [(a, b)] })).wr (regAt (Pg.mem st) Reg.MEM_REMAP_USED) (used + 1)
  | _, _ =>
    let s := s.setMemu (fun m => { m with damaged := (wordsOf a 16384).foldl (fun l w => insertNat w l) m.damaged })
    (s.raise (Pg.mem st) 3).holderLoses (Pg.mem st) a

/-- Units of KIND 1 and KIND 3 objects and of the device region in a half-bank: their slots and partitions. -/
def Chip.unitsIn (s : Chip) (st hb : Nat) : List (Nat × Nat) :=
  s.allDescs.flatMap (fun (_, d) =>
    if d.tier = 2 && d.kind ≠ 2 && d.mask.testBit (8 * st + groupOf hb) then
      ((List.range (d.slotLast + 1 - d.slotFirst)).map (fun k => (d.slotFirst + k, d.partition))).filter
        (fun x => match d.unitOf (slotAddr st hb x.1) with
          | some u => decide (u * 16384 < d.size)
          | none => false)
    else [])

/-- Retire a half-bank (R295). [log 52, DEDUCED] -/
def Chip.retireHalfBank (s : Chip) (st hb : Nat) : Chip :=
  let reg := regAt (Pg.mem st) (Reg.MEM_HB_RETIRED + 4 * (hb / 32))
  let s := (s.wr reg (s.rd reg ||| 2 ^ (hb % 32))).raise (Pg.mem st) 1
  let s := s.wr (regAt (Pg.mem st) Reg.MEM_RETIRED) (s.rd (regAt (Pg.mem st) Reg.MEM_RETIRED) + 1)
  let lost := s.memu.pages.filter (fun x => stackOf x.1 == st && halfBankOf x.1 == hb)
  let s := s.each lost (fun s x => if x.2 < 2 ^ 64 then s.ridLost x.2 else s.damageInstance (x.2 - 2 ^ 64))
  s.each (s.unitsIn st hb) (fun s x => s.remapUnit st hb x.1 x.2)

/-- An event of a half-bank (R496): it may be judged permanent and retired. -/
def Chip.hbEvent (s : Chip) (st hb : Nat) : Chip :=
  match s.countEvent (.halfBank st hb) 6 with
  | (s, true) => s.retireHalfBank st hb
  | (s, false) => s

/-! ## A word met in error -/

/-- A word that a reader meets corrected or uncorrectable (R293). READER: 0 tile, 1 Sedge unit, 2 State Mover, 3 host, 4 scrub,
5 migration copy. [log 52, DEDUCED] -/
def Chip.meetWord (s : Chip) (reader : Nat) (e : WordErr) : Chip :=
  let a := wordOf e.addr
  let t2 := inT2 a
  let st := if t2 then stackOf a else 0
  let pg := Pg.mem st
  if e.uncorr then
    let s := (s.cnt (regAt pg Reg.MEM_UNCORR)).raise pg 0
    let s := s.memRecord a 2 reader 0xFF
    let s := s.setMemu (fun m => { m with damaged := insertNat a m.damaged })
    let s := s.holderLoses pg a
    if t2 then s.hbEvent st (halfBankOf a) else s
  else
    let s := s.cnt (regAt pg Reg.MEM_CORR)
    let s := if s.rf (F.MEM_CFG_LOG_CORR.on pg) = 1 then s.memRecord a 1 reader e.sym else s
    if t2 then
      let c := Chan.halfBank st (halfBankOf a)
      let r := s.chan c
      if r.corr + 1 = 64 then (s.setChan c { r with corr := 0 }).hbEvent st (halfBankOf a)
      else s.setChan c { r with corr := r.corr + 1 }
    else s

/-- An access to `n` bytes at a physical address of T1 or T2 meets the words found in error: those the command brings and those
already damaged. The answer is whether every word can be delivered. -/
def Chip.access (s : Chip) (reader a n : Nat) (ecc : List WordErr) : Chip × Bool :=
  let lo := wordOf a
  let old := (s.memu.damaged.filter (fun w => decide (lo ≤ w) && decide (w < a + n))).map (fun w => (⟨w, true, 0xFF⟩ : WordErr))
  let new := ecc.filter (fun e => decide (lo ≤ e.addr) && decide (e.addr < a + n) && !old.any (fun o => o.addr == wordOf e.addr))
  let hit := old ++ new
  ((s.meetLines false a n).each hit (fun s e => s.meetWord reader e), hit.all (fun e => !e.uncorr) && !s.unitDown a n)

/-- Is the stack of a T2 address in fault (R502)? -/
def Chip.stackDown (s : Chip) (a : Nat) : Bool := inT2 a && s.rf (F.MEM_STAT_STATE.on (Pg.mem (stackOf a))) == 3

end Sys2Proof.Machine
end

