-- ==== Sys2Proof/Machine/FenOps.lean ====
section
/-! DEFINITION. The Packers and Expanders of the tiles as the State Mover and the tile programs use them (R300, R311, R317, R323,
R324). -/

namespace Sys2Proof.Machine

open Sys2Proof

/-- Active tiles of a tile die, by physical number (R38). -/
def Chip.activeTiles (s : Chip) (die : Nat) : List Nat :=
  ((List.range 17).map (· + 17 * die)).filter (fun t => (s.logicalOf t).isSome)

/-- The tile whose units the State Mover uses next on a die, in rotation (R311). -/
def Chip.nextUnit (s : Chip) (die : Nat) : Chip × Option Nat :=
  let l := s.activeTiles die
  let k := s.smv.rot.getD die 0
  match l[k % max 1 l.length]? with
  | some t => ({ s with smv := { s.smv with rot := s.smv.rot.put die ((k + 1) % max 1 l.length) } }, some t)
  | none => (s, none)

/-- Count a packed block on a tile (R323). -/
def Chip.countPack (s : Chip) (t : Nat) (p : Packed) : Chip :=
  let at' := fun r => regAt (Pg.til t) r
  (((s.cnt (at' Reg.TIL_PCK_BLOCKS)).cntBy (at' Reg.TIL_PCK_PAD) p.pad).add64 (at' Reg.TIL_PCK_OUT_LO) p.l1).cnt
    (at' (Reg.TIL_PCK_MODE + 4 * p.mode))

/-- Pack one block on a tile, or on none where the die has no active tile. -/
def Chip.packBlock (s : Chip) (die : Nat) (modes : List FMode) (bucket : Nat) (input : Bytes) : Chip × Bytes :=
  let p := fenPack modes bucket input
  match s.nextUnit die with
  | (s, some t) => (s.countPack t p, p.bytes)
  | (s, none) => (s, p.bytes)

/-- A block that failed a check on a tile (R317, R324). SOURCE: 0 tile program; 1 State Mover. -/
def Chip.expandFailed (s : Chip) (t check mode form source : Nat) : Chip :=
  let s := s.cnt (regAt (Pg.til t) Reg.TIL_EXP_DAMAGE)
  (s.wr (regAt (Pg.til t) Reg.TIL_EXP_LAST)
    (check + mode * 2 ^ 4 + form * 2 ^ 6 + source * 2 ^ 7 + s.step % 2 ^ 16 * 2 ^ 16)).raise (Pg.til t) 6

/-- A block that passed every check on a tile: `n` bytes are delivered. -/
def Chip.expandOk (s : Chip) (t n : Nat) : Chip :=
  (s.cnt (regAt (Pg.til t) Reg.TIL_EXP_BLOCKS)).add64 (regAt (Pg.til t) Reg.TIL_EXP_OUT_LO) n

/-- Unpack one block for the State Mover; none where a check fails. -/
def Chip.expandBlock (s : Chip) (die announced : Nat) (bs : Bytes) : Chip × Option Bytes :=
  let (s, t) := s.nextUnit die
  match fenUnpack announced bs, t with
  | .ok out, some t => (s.expandOk t 4096, some out)
  | .ok out, none => (s, some out)
  | .bad c m, some t => (s.expandFailed t c m 0 1, none)
  | .bad _ _, none => (s, none)

/-- Modes tried for pages of a format (R300). -/
def pageModes (kv : Nat) : List FMode := if kv = 1 then [.byte, .bf16] else [.byte, .nibble]

end Sys2Proof.Machine
end

