-- ==== Sys2Proof/Machine/MoverOps.lean ====
section
/-! DEFINITION. The State Mover as source (05): replies and their status, orders and their candidates, opening, packing, aborting, and
the source's half of row 6. -/

namespace Sys2Proof.Machine

open Sys2Proof

/-- Change the State Mover block. -/
def Chip.setSmv (s : Chip) (f : Smv → Smv) : Chip := { s with smv := f s.smv }

/-! ## Status codes (R143) -/
namespace St
abbrev ok : Nat := 0x00
abbrev moved : Nat := 0x01
abbrev unknown : Nat := 0x02
abbrev notTaking : Nat := 0x03
abbrev noRte : Nat := 0x04
abbrev noSpace : Nat := 0x05
abbrev notResident : Nat := 0x06
abbrev busy : Nat := 0x07
abbrev ending : Nat := 0x08
abbrev damaged : Nat := 0x09
abbrev count : Nat := 0x0A
abbrev late : Nat := 0x0B
abbrev peerLost : Nat := 0x0C
abbrev noAnchor : Nat := 0x0D
abbrev malformed : Nat := 0x0E
abbrev duplicate : Nat := 0x0F
end St

/-- SMV_LAST_ERR and its RID: the last non-OK Reply or Abort (R161, R162). -/
def Chip.noteErr (s : Chip) (status kind type dev rid : Nat) : Chip :=
  let s := s.wr Reg.SMV_LAST_ERR (status % 2 ^ 8 + kind % 8 * 2 ^ 8 + type % 16 * 2 ^ 12 + dev % 2 ^ 16 * 2 ^ 16)
  s.wr64 Reg.SMV_LAST_ERR_RID_LO rid

/-- Send a Reply to a message, repeating its header (R138, R140). -/
def Chip.reply (s : Chip) (h : SHdr) (src : MsgSrc) (b : ReplyBody) : Chip :=
  let h' := { h with type := 8, epoch := s.epochOf (ridComp h.rid) }
  let s := s.send 1 src.dev src.part src.dstPart (h'.toBytes ++ b.toBytes)
  if b.status = 0 then s else s.noteErr b.status h.kind b.replyTo src.dev h.rid

/-- The Reply to a RID-addressed command of another unit (R144): MOVED with the stub's new home, or UNKNOWN_REQUEST. -/
def Chip.replyCommand (s : Chip) (rid type : Nat) (src : MsgSrc) (stub : Option Rte) : Chip :=
  let h : SHdr := { type := 8, kind := 0, srcPart := (stub.map (·.partition)).getD src.dstPart, dstPart := src.part, srcDev := s.selfDev,
                    dstDev := src.dev, rid := rid, step := s.step }
  match stub with
  | some r => s.reply h src { status := St.moved, replyTo := 0x80 + type, homeDev := r.fwdHome, homePart := r.fwdPart, homeStep := r.fwdExpire - 2 }
  | none => s.reply h src { status := St.unknown, replyTo := 0x80 + type }

/-! ## Contexts -/

/-- The source context of a transfer number. -/
def Chip.srcX (s : Chip) (seq : Nat) : Option SrcXfer := s.smv.srcs.find? (fun x => x.hdr.seq == seq)

/-- Change a source context. -/
def Chip.updSrc (s : Chip) (seq : Nat) (f : SrcXfer → SrcXfer) : Chip :=
  s.setSmv (fun m => { m with srcs := m.srcs.map (fun x => if x.hdr.seq = seq then f x else x) })

/-- A transfer of this source ends; its outcome is remembered (R582). -/
def Chip.dropSrc (s : Chip) (x : SrcXfer) (outcome : Nat) : Chip :=
  s.setSmv (fun m => { m with srcs := m.srcs.filter (fun y => y.hdr.seq != x.hdr.seq), done := m.done ++ [(x.hdr.srcDev, x.hdr.seq, outcome)] })

/-- The destination context of a transfer. -/
def Chip.dstX (s : Chip) (dev seq : Nat) : Option DstXfer := s.smv.dsts.find? (fun x => x.hdr.srcDev == dev && x.hdr.seq == seq)

/-- Change a destination context. -/
def Chip.updDst (s : Chip) (dev seq : Nat) (f : DstXfer → DstXfer) : Chip :=
  s.setSmv (fun m => { m with dsts := m.dsts.map (fun x => if x.hdr.srcDev = dev && x.hdr.seq = seq then f x else x) })

/-- Transfer contexts in use, SMV_CTX_USED. -/
def Chip.ctxUsed (s : Chip) : Nat := s.smv.srcs.length + s.smv.dsts.length

/-- Does the State Mover open transfers (R162)? -/
def Chip.smvOn (s : Chip) : Bool := s.active Pg.SMV F.SMV_CFG_EN

/-- The outcome remembered of a transfer that has ended. -/
def Chip.doneOutcome (s : Chip) (dev seq : Nat) : Option Nat :=
  (s.smv.done.find? (fun d => d.1 == dev && d.2.1 == seq)).map (·.2.2)

/-! ## Orders (R136, R216) -/

/-- Add an order to the queue. -/
def Chip.queueOrder (s : Chip) (o : Order) : Chip := s.setSmv (fun m => { m with orders := m.orders ++ [o] })

/-- Runtime orders waiting, SMV_ORD_STAT.QUEUED. -/
def Chip.runtimeQueued (s : Chip) : Nat := (s.smv.orders.filter (·.runtime)).length

/-- Report the end of a runtime order (R136, R162). -/
def Chip.ordResult (s : Chip) (status : Nat) : Chip := (s.wf F.SMV_ORD_STAT_RESULT status).wf F.SMV_ORD_STAT_QUEUED s.runtimeQueued

/-- Rotate a list so that it starts at index k modulo its length. -/
def rotateFrom {α : Type} (l : List α) (k : Nat) : List α :=
  let i := k % max 1 l.length
  l.drop i ++ l.take i

/-- Destinations of the destination table for a partition, a model and a USE, in table order (R216). -/
def Chip.destEntries (s : Chip) (part model use : Nat) : List (Nat × Nat) :=
  let t := s.tableAt (s.rd64 Reg.SCH_DEST_BASE_LO) 2048
  (List.range 256).filterMap (fun i =>
    let o := 8 * i
    if le t (o + 2) 1 = use && le t o 2 = model && le t (o + 3) 1 = part then some (le t (o + 4) 2, le t (o + 6) 1) else none)

/-- Does a map that this device has accepted, and that is not in force yet, change the role of a member (R31)? -/
def Chip.changesRole (s : Chip) (comp dev part : Nat) : Bool :=
  s.xpt.proposals.any (fun p => p.map.comp == comp && !p.lapsed
    && (p.map.members.find? (fun m => m.dev == dev && m.part == part)).map (·.role) != s.memberRole comp dev part)

/-- Candidates of an order in the order in which they are tried (R90, R155, R216). [log 49, DEDUCED] -/
def Chip.candidates (s : Chip) (o : Order) : List (Nat × Nat) :=
  match o.use with
  | some u =>
    match s.findRid o.rid with
    | some (_, r) => rotateFrom (s.destEntries o.srcPart (if u = 2 then r.fallbackId else r.producer) u) (ridSerial o.rid)
    | none => []
  | none =>
    if o.kind = 5 then
      match s.findRid o.rid with
      | some (_, r) => (s.partnerCands r.partition (ridComp o.rid) r.failedPartners).map (fun d => (d, s.lowestPart (ridComp o.rid) d))
      | none => []
    else if o.kind = 6 then
      let old := ((s.journal o.rid).map (fun j => (le j.anchor 88 2, le j.anchor 90 1))).getD (0xFFFF, 0)
      let cs := (List.range 16).filterMap (fun i =>
        let c := (s.rf (F.SMV_RBLD_CAND_DEVICE.plus (4 * i)), s.rf (F.SMV_RBLD_CAND_PARTITION.plus (4 * i)))
        if s.rf (F.SMV_RBLD_CAND_VALID.plus (4 * i)) = 1 && s.memberRole (ridComp o.rid) c.1 c.2 = some .prompt && c != old
           && !(c.1 == s.selfDev && s.rolePending c.2) && !s.changesRole (ridComp o.rid) c.1 c.2 then some c else none)
      rotateFrom cs (ridSerial o.rid)
    else [o.dst]

/-- Is a Sedge segment still running on a bank that holds one of these pages (R63)? -/
def Chip.slotsBusy (s : Chip) (l : List Nat) : Bool :=
  l.any (fun a => (s.sdgAt (stackOf a)).running.any (fun x => x.1 == 128 * dieOf (halfBankOf a) + bankOf (halfBankOf a)))

/-- Is one still running on a bank that holds a page of a request (R63)? -/
def Chip.pagesBusy (s : Chip) (r : Rte) : Bool := s.slotsBusy ((r.pages.filter entryValid).map entryAddr)

/-- May a KIND 1 or 2 transfer of a request be opened (R137, R63 apart)? Transitions 5 and 6 lead from three of the live states only (R87). -/
def Rte.mayMove (r : Rte) : Bool :=
  (r.state == .prefilled || r.state == .generating || r.state == .parked)
    && !r.flags.moving && !r.flags.unprotected && r.held == 0 && !r.lost && !r.askedHome
    && (r.jrnAckPos == 0xFFFFFFFF || r.emitPos == r.jrnAckPos || r.jrnAckPos + 1 ≤ r.promptLen)

/-- Offset at which the source stops sending, SMV_CUTOFF limited to 1,000 … C − S before the step's end (R148, R161). -/
def Chip.cutoffAt (s : Chip) : Nat := s.plan.c - min (s.plan.c - s.plan.s) (max 1000 (s.rd Reg.SMV_CUTOFF))

/-- Is this moment in a Settle phase, before the cutoff (R62, R148)? -/
def Chip.maySend (s : Chip) : Bool := s.phase == 3 && decide (s.offset < s.cutoffAt)

/-! ## Opening -/

/-- Own pages of a request that carry positions: (span, entry, map entry). -/
def Chip.mappedPages (s : Chip) (r : Rte) (pref : Bool) : List (Nat × Nat × Nat) :=
  let n := max 1 (s.rowLenOf r)
  (r.pages.zipIdx).filterMap (fun (e, i) => if entryValid e && bit e 28 == pref then some (i / n, i % n, e) else none)

/-- Header of a new transfer of this device. -/
def Chip.newHdr (s : Chip) (o : Order) (dst : Nat × Nat) (seq : Nat) : SHdr :=
  { type := 1, kind := o.kind, srcPart := o.srcPart, dstPart := dst.2, srcDev := s.selfDev, dstDev := dst.1, rid := o.rid, seq := seq,
    epoch := s.epochOf (ridComp o.rid), step := s.step }

/-- The blocks of a lease that a Pull asks for, with their entries. -/
def Chip.leaseBlocks (s : Chip) (lease first count : Nat) : List (Nat × PEntry) :=
  match s.pfx.leases.find? (fun l => l.id == lease) with
  | some l => (l.entries.filterMap (fun i => (s.pfx.table.find i).map (fun e => (i, e)))).filter
      (fun x => decide (first ≤ x.2.blockNo) && decide (x.2.blockNo < first + count) && x.2.state == 2)
  | none => []

/-- The Open body of an order. -/
def Chip.openBody (s : Chip) (o : Order) : OpenBody :=
  match o.kind with
  | 3 =>
    let es := s.leaseBlocks o.lease o.first o.count
    let e := (es.head?.map (·.2))
    let sp := (e.map (·.spans)).getD 0
    let pps := (e.map (·.pps)).getD 0
    { prefixes := es.length, spans := sp, pps := pps, kvFormat := (e.map (·.kvFormat)).getD 0, lease := o.lease, first := o.first,
      raw := es.length * (sp * pps * 16384 + 32) }
  | 6 =>
    match s.journal o.rid with
    | some j => { kvFormat := le j.anchor 3 1, tokens := j.tokens.length, recEpoch := o.recEpoch, raw := 4 * j.tokens.length, image := j.anchor }
    | none => {}
  | k =>
    match s.findRid o.rid with
    | some (_, r) =>
      let sp := s.spansOf r
      let pps := s.ppsOf r
      if k = 1 then
        let own := (s.mappedPages r false).length
        { ownPages := own, prefixes := r.prefixBlocks, spans := sp, pps := pps, kvFormat := r.kvFormat, tokens := r.len, recurLen := r.recurLen,
          raw := own * 16384 + r.prefixBlocks * (sp * pps * 16384 + 32) + 4 * r.len + r.recurLen, image := r.toBytes }
      else if k = 2 then { kvFormat := r.kvFormat, tokens := r.len, raw := 4 * r.len, image := r.toBytes }
      else if k = 4 then
        { prefixes := o.count, spans := sp, pps := pps, kvFormat := r.kvFormat, first := o.first, raw := o.count * (sp * pps * 16384 + 32) }
      else { kvFormat := r.kvFormat, tokens := r.len, raw := r.allRuns.length, image := anchorOf r s.selfDev }
    | none => {}

/-- Send the Open of an order to the first candidate left, in a new context (R136, R137); a transfer number that has come round names no
earlier transfer any more. The entry that the context reads is in the RTE cache from then on (R83). -/
def Chip.openTo (s : Chip) (o : Order) : Chip :=
  match o.left with
  | [] => s
  | d :: rest =>
    let seq := s.smv.nextSeq
    let h := s.newHdr o d seq
    let b := s.openBody o
    let used := if o.kind = 3 then (s.leaseBlocks o.lease o.first o.count).map (·.1) else []
    let s := s.setSmv (fun m => { m with
      nextSeq := if seq = 0xFFFFFFFF then 1 else seq + 1
      done := m.done.filter (fun d => !(d.1 == s.selfDev && d.2.1 == seq))
      srcs := m.srcs ++ [{ hdr := h, order := { o with left := rest }, entries := used, bucket := m.buckets.getD o.srcPart 0 }] })
    let s := s.ref used
    let s := match s.findRid o.rid with
      | some (i, r) =>
        if o.kind = 1 || o.kind = 2 then (s.putRte i { r with flags := { r.flags with moving := true } }).touch i
        else if o.kind = 4 || o.kind = 5 then s.touch i
        else s
      | none => s
    (s.cnt Reg.SMV_OPENED).send 1 d.1 d.2 o.srcPart (h.toBytes ++ b.toBytes)

/-- The request is no longer moving. -/
def Chip.clearMoving (s : Chip) (rid : Nat) : Chip :=
  match s.findRid rid with
  | some (i, _) => s.updRte i (fun r => { r with flags := { r.flags with moving := false } })
  | none => s

/-- An order ends with a status: reported to its orderer (R136, R143, R218, R222). -/
def Chip.orderEnded (s : Chip) (o : Order) (status : Nat) : Chip :=
  let s := if o.resume then
      match s.findRid o.rid with
      | some (i, _) => s.updRte i (fun r => { r with parkMark := 0 })
      | none => s
    else s
  if o.runtime then s.ordResult status else s

/-- Does an order wait for a later Settle phase after this status, once no candidate is left (R143, R155, R216)? A resumption never does
(R218). -/
def Order.waits (o : Order) (status : Nat) : Bool :=
  !o.resume && (o.use.isSome || o.kind == 6 || status == St.busy || status == St.late)

/-- The order stays in the queue for a later Settle phase. -/
def Chip.orderWaits (s : Chip) (o : Order) : Chip := s.queueOrder { o with left := [], notRes := true }

/-- Why an order of KIND 1 or 2 cannot open its transfer now (R63, R137, R152): its request may not move, or is in a transfer already; its
partition gives up no state on the device's initiative (R33); a Sedge command is outstanding for its pages. -/
inductive HoldBack where
  | none | waits | overrun
  deriving DecidableEq, Repr

/-- What holds back the transfer of an order's request. -/
def Chip.heldBack (s : Chip) (o : Order) (r : Rte) : HoldBack :=
  if s.smv.srcs.any (fun x => x.hdr.rid == o.rid && (x.hdr.kind == 1 || x.hdr.kind == 2 || x.hdr.kind == 5)) || !r.mayMove
      || (!o.runtime && s.rolePending r.partition) then .waits
  else if s.pagesBusy r then .overrun
  else .none

/-- An order that cannot be opened in this Settle phase waits for a later one; a resumption ends (R137, R218). -/
def Chip.holdOrder (s : Chip) (o : Order) : Chip := if o.resume then s.orderEnded o St.busy else s.orderWaits o

/-- Open an order of KIND 1 or 2 to its first candidate left, if nothing holds it back. -/
def Chip.openMove (s : Chip) (o : Order) : Chip :=
  match s.findRid o.rid with
  | none => s.orderEnded o St.unknown
  | some (_, r) =>
    if r.state = .ending then s.orderEnded o St.ending
    else match s.heldBack o r with
      | .none => s.openTo o
      | .waits => s.holdOrder o
      | .overrun => (s.cnt Reg.ALM_OVERRUN).holdOrder o

/-- Open an order to its next candidate, in the Settle phase in which the last one refused (R155, R216). -/
def Chip.openNext (s : Chip) (o : Order) : Chip :=
  if !s.maySend || 4096 ≤ s.ctxUsed then s.holdOrder o
  else if o.kind = 1 || o.kind = 2 then s.openMove o
  else s.openTo o

/-- An order whose transfer did not come about: the next candidate, a wait, or its end (R90, R143, R155, R216, R222). `refused` says
that a candidate answered the Open. -/
def Chip.orderFailed (s : Chip) (o : Order) (status : Nat) (refused : Bool) : Chip :=
  let o := { o with notRes := o.notRes && refused && status == St.notResident }
  if refused && !o.left.isEmpty && !o.resume then s.openNext o
  else if o.use = some 2 && refused && o.notRes then
    match s.findRid o.rid with
    | some (i, _) => (s.updRte i (fun r => { r with fbDecided := false })).endNow i 0x0A
    | none => s
  else
    let s := if o.kind = 6 && refused then s.raise Pg.SMV 5 else s
    if o.waits status then s.orderWaits o else s.orderEnded o status

/-- Send an Abort of a transfer to a party (R140). -/
def Chip.sendAbort (s : Chip) (h : SHdr) (status dev part srcPart : Nat) : Chip :=
  let h' := { h with type := 6, epoch := s.epochOf (ridComp h.rid) }
  (s.send 1 dev part srcPart (h'.toBytes ++ statusBody status)).noteErr status h.kind 6 dev h.rid

/-- The journal partner of the request of a transfer, with its partition. -/
def Chip.partnerOf (s : Chip) (rid : Nat) : Option (Nat × Nat) :=
  match s.findRid rid with
  | some (_, r) => if r.jrnPartner = 0xFFFF then none else some (r.jrnPartner, s.lowestPart (ridComp rid) r.jrnPartner)
  | none => none

/-- End a transfer at its source without a commit: the context, MOVING, the delivery's references and the count (R145). -/
def Chip.endSrc (s : Chip) (x : SrcXfer) (outcome : Nat) : Chip :=
  let s := (s.dropSrc x outcome).unref x.entries
  if x.hdr.kind = 1 || x.hdr.kind = 2 then s.clearMoving x.hdr.rid else s

/-- The source aborts a transfer: Abort to the destination, and to the partner that holds the Intent (R145). -/
def Chip.abortSrc (s : Chip) (x : SrcXfer) (status : Nat) (toDst : Bool) : Chip :=
  let s := if toDst then s.sendAbort x.hdr status x.hdr.dstDev x.hdr.dstPart x.hdr.srcPart else s.noteErr status x.hdr.kind 6 x.hdr.dstDev x.hdr.rid
  let s := if x.state = .intending || x.state = .prepared then
      match s.partnerOf x.hdr.rid with
      | some p => if x.hdr.kind = 1 || x.hdr.kind = 2 then s.sendAbort x.hdr status p.1 p.2 x.hdr.srcPart else s
      | none => s
    else s
  (((s.endSrc x 2).cnt Reg.SMV_ABORTED).raise Pg.SMV 1).orderFailed x.order status false

/-! ## Settle start and cutoff (R136, R148) -/

/-- Does an order of KIND 3 to 6 still have something to carry: its lease, its request, a relocation or a rebuild that is still due? -/
def Chip.orderStands (s : Chip) (o : Order) : Bool :=
  match o.kind with
  | 3 => !(s.leaseBlocks o.lease o.first o.count).isEmpty
  | 4 => (s.findRid o.rid).isSome
  | 5 => match s.findRid o.rid with
    | some (_, r) => r.flags.unprotected && (r.state.live || r.state == .ending) && !r.lost
    | none => false
  | 6 => match s.journal o.rid with
    | some j => j.homeLost && !j.ended
    | none => false
  | _ => true

/-- Does R63 or R152 hold an order of KIND 3 to 6 back? -/
def Chip.heldBackOther (s : Chip) (o : Order) : HoldBack :=
  let slots := if o.kind = 3 then (s.leaseBlocks o.lease o.first o.count).flatMap (fun e => e.2.pages)
    else if o.kind = 4 then (match s.findRid o.rid with
      | some (_, r) => (r.pages.filter entryValid).map entryAddr
      | none => [])
    else []
  if o.kind = 5 && s.smv.srcs.any (fun x => x.hdr.rid == o.rid && (x.hdr.kind == 1 || x.hdr.kind == 2 || x.hdr.kind == 5)) then .waits
  else if s.slotsBusy slots then .overrun
  else .none

/-- Try one order at the start of a Settle phase. [log 49, DEDUCED] -/
def Chip.tryOrder (s : Chip) (o : Order) : Chip :=
  if 4096 ≤ s.ctxUsed then s.holdOrder o
  else
    let cands := s.candidates o
    let first := { o with left := cands, notRes := true }
    if o.kind ≥ 3 && !s.orderStands o then s
    else if cands.isEmpty then
      let s := if o.kind = 6 then s.raise Pg.SMV 5 else s
      if o.waits St.notTaking then s.orderWaits o else s.orderEnded o St.notTaking
    else if o.kind = 1 || o.kind = 2 then s.openMove first
    else match s.heldBackOther o with
      | .none => s.openTo first
      | .waits => s.holdOrder o
      | .overrun => (s.cnt Reg.ALM_OVERRUN).holdOrder o

/-- Orders of KIND 1 and 2 whose request is not live here end before any is opened (R136). -/
def Chip.endStaleOrders (s : Chip) : Chip :=
  let stale := fun (o : Order) => (o.kind == 1 || o.kind == 2) && (match s.findRid o.rid with
    | some (_, r) => !r.state.live || r.lost
    | none => true)
  let old := s.smv.orders.filter stale
  let s := s.setSmv (fun m => { m with orders := m.orders.filter (fun o => !stale o) })
  s.each old (fun s o =>
    let isEnding : Bool := match s.findRid o.rid with
      | some (_, r) => r.state == .ending
      | none => false
    s.orderEnded o (if isEnding then St.ending else St.unknown))

/-- Does an order of a kind stand in the queue for a RID? -/
def Chip.queued (s : Chip) (kind rid : Nat) : Bool := s.smv.orders.any (fun o => o.kind == kind && o.rid == rid)

/-- Relocations due (R96): a KIND 5 order for every UNPROTECTED request, in ENDING too, that is the subject of no transfer and of no such
order. -/
def Chip.journalOrders (s : Chip) : List Order :=
  (s.rtb.rtes.filter (fun x => x.2.flags.unprotected && (x.2.state.live || x.2.state == .ending) && !x.2.lost && !x.2.askedHome
      && !s.queued 5 x.2.rid
      && !s.smv.srcs.any (fun t => t.hdr.rid == x.2.rid && (t.hdr.kind == 1 || t.hdr.kind == 2 || t.hdr.kind == 5)))).map
    (fun x => { kind := 5, rid := x.2.rid, srcPart := x.2.partition })

/-- Rebuilds to be ordered (R154, R155): the home is lost, no Intent is unresolved, the origin is present, and none is ordered yet. -/
def Chip.rebuildOrders (s : Chip) : List Order :=
  (s.rtb.journals.filter (fun j => j.homeLost && !j.ended && !s.queued 6 j.rid && !s.smv.intents.any (fun i => i.hdr.rid == j.rid)
      && (s.present (ridComp j.rid) (ridOrigin j.rid)) && !s.smv.srcs.any (fun t => t.hdr.rid == j.rid && t.hdr.kind == 6))).map
    (fun j => { kind := 6, rid := j.rid, srcPart := s.lowestPart (ridComp j.rid) s.selfDev, recEpoch := j.recEpoch })

/-- The start of a Settle phase: stale orders end, then queued orders open in queue order while contexts are free; while the State Mover opens
none they wait (R136, R162). [log 49, DEDUCED] -/
def Chip.settleOpens (s : Chip) : Chip :=
  let s := s.endStaleOrders
  let rb := s.rebuildOrders
  let s := s.each rb (fun s _ => (s.cnt Reg.SMV_REBUILDS).raise Pg.SMV 4)
  let q := s.smv.orders ++ s.journalOrders ++ rb
  let s := s.setSmv (fun m => { m with orders := [] })
  if s.smvOn && !s.quiet Pg.SMV then s.each q Chip.tryOrder else s.each q Chip.holdOrder

/-- Is a transfer not yet PREPARED? -/
def SrcState.unprepared : SrcState → Bool
  | .opening | .sending | .sealed | .intending => true
  | _ => false

/-- At the cutoff every transfer that is not PREPARED is aborted LATE (R148). -/
def Chip.cutoffAborts (s : Chip) : Chip :=
  s.each (s.smv.srcs.filter (fun x => x.state.unprepared)) (fun s x => s.abortSrc x St.late true)

/-! ## Packing (R135, R141) -/

/-- One Data record: its blocks packed between devices, carried as they are within one. `n` blocks are present. -/
def Chip.packRecord (s : Chip) (die : Nat) (modes : List FMode) (bucket : Nat) (local' : Bool) (index span page : Nat) (data : Bytes) (n : Nat) :
    Chip × Bytes :=
  let step := fun (st : Chip × List Bytes) (b : Nat) =>
    if b < n then
      let blk := slice data (4096 * b) 4096
      if local' then (st.1, st.2 ++ [blk])
      else
        let (t, p) := st.1.packBlock die modes bucket blk
        (t, st.2 ++ [p])
    else (st.1, st.2 ++ [[]])
  let (s, bs) := (List.range 4).foldl step (s, [])
  (s, recHead index span page (bs.map List.length) ++ bs.flatten)

/-- A sects records from its pieces: (index, span, page, tile die, contents, blocks). [log 43, DEDUCED] -/
def Chip.packAll (s : Chip) (modes : List FMode) (bucket : Nat) (local' : Bool) (l : List (Nat × Nat × Nat × Nat × Bytes × Nat)) : Chip × List Bytes :=
  l.foldl (fun (st : Chip × List Bytes) (index, span, page, die, data, n) =>
    let (t, r) := st.1.packRecord die modes bucket local' index span page data n
    (t, st.2 ++ [r])) (s, [])

/-- Pieces of a run of bytes in 16 KiB chunks, the last padded to whole blocks (R141). -/
def chunks (die : Nat) (bs : Bytes) (full : Bool) : List (Nat × Nat × Nat × Nat × Bytes × Nat) :=
  (List.range (ceilDiv bs.length 16384)).map (fun i =>
    let c := (bs.drop (16384 * i)).take 16384
    (i, 0, 0, die, padTo 16384 c, if full then 4 else ceilDiv c.length 4096))

/-- The page of a prefix block that a request's own pages hold, as an instance keeps it (R122, R240): page j of block k of span σ. -/
def Chip.blockPage (s : Chip) (r : Rte) (σ k j : Nat) : Option Bytes :=
  let d := s.dimOf r
  let f := r.kvFormat
  let n := s.capOf r
  let first := 64 * (k - 1) + j * n
  let cnt := min n (64 * k - first)
  let page := fun pos => let (e, i) := s.whereIs r pos
    ((s.readPhys (entryAddr (s.entry r σ e)) 16384).map (fun b => (b, i)))
  match page first, page (64 * k - 1) with
  | some (p0, _), some (pl, _) =>
    let recs := (List.range cnt).map (fun x => (page (first + x)).getD ([], 0))
    let keys := recs.flatMap (fun (b, i) => slice b (keyOff f d i) (keyBytes f d))
    let vals := recs.flatMap (fun (b, i) => slice b (valOff f d i) (valBytes f d))
    let lastFirst := le pl 8 4
    let slot := k - 1 - lastFirst / 64
    let sums := if first + cnt = 64 * k then slice pl (64 + slot * sumBytes d) (sumBytes d) else zeros (sumBytes d)
    let head := toLE 1 f ++ toLE 1 (pageSlots f d) ++ toLE 2 d ++ toLE 2 n ++ toLE 2 cnt ++ toLE 4 first ++ toLE 2 σ ++ toLE 1 1 ++ zeros 1
      ++ slice p0 16 8 ++ toLE 8 0 ++ padTo 32 (r.hashes.getD (k - 1) [])
    some (padTo 16384 (head ++ padTo (pageSlots f d * sumBytes d) sums ++ padTo (n * keyBytes f d) keys ++ vals))
  | _, _ => none

/-- What a transfer carries: sections and their pieces; none where a word of a page cannot be read. -/
def Chip.cargo (s : Chip) (x : SrcXfer) : List (Nat × List FMode × List (Nat × Nat × Nat × Nat × Bytes × Nat)) × List (Nat × Bytes) :=
  let pagePiece := fun (idx span page a : Nat) => (idx, span, page, stackOf a / 6, memRead s.mem a 16384, 4)
  match x.hdr.kind with
  | 3 =>
    let es := s.leaseBlocks x.order.lease x.order.first x.order.count
    let kv := (es.head?.map (fun e => e.2.kvFormat)).getD 0
    ([(2, pageModes kv, es.flatMap (fun (_, e) => (e.pages.zipIdx).map (fun (a, i) => pagePiece e.blockNo (i / max 1 e.pps) (i % max 1 e.pps) a)))],
     es.map (fun (_, e) => (e.blockNo, e.hash)))
  | 6 =>
    match s.journal x.hdr.rid with
    | some j => ([(3, [.byte], chunks 0 (j.tokens.vals.flatMap (toLE 4 ·)) false)], [])
    | none => ([], [])
  | k =>
    match s.findRid x.hdr.rid with
    | none => ([], [])
    | some (_, r) =>
      let die := stackOf (match s.resolve r.toklogAddr with
        | .phys a => if inT2 a then a else t2Base
        | _ => t2Base) / 6
      let toks := (3, [FMode.byte], chunks die (r.tokens.flatMap (toLE 4 ·)) false)
      let n := max 1 (s.rowLenOf r)
      if k = 1 then
        ([(1, pageModes r.kvFormat, (s.mappedPages r false).map (fun (σ, e, v) => pagePiece (σ * n + e) σ 0 (entryAddr v))),
          (2, pageModes r.kvFormat, (s.mappedPages r true).map (fun (σ, e, v) =>
            pagePiece (e / max 1 (s.ppsOf r) + 1) σ (e % max 1 (s.ppsOf r)) (entryAddr v))),
          toks, (4, [.byte, .fp32], chunks die (r.recur.take r.recurLen) true)],
         r.refs.filterMap (fun i => (s.pfx.table.find i).map (fun e => (e.blockNo, e.hash))))
      else if k = 2 then ([toks], [])
      else if k = 4 then
        let ks := (List.range x.order.count).map (· + x.order.first)
        ([(2, pageModes r.kvFormat, ks.flatMap (fun k => (List.range (s.spansOf r)).flatMap (fun σ => (List.range (s.ppsOf r)).map (fun j =>
            (k, σ, j, die, (s.blockPage r σ k j).getD (zeros 16384), 4)))))],
         ks.map (fun k => (k, r.hashes.getD (k - 1) [])))
      else ([(5, [.byte], chunks die r.allRuns false)], [])

/-- Physical words behind a run of device addresses. -/
def Chip.physWords (s : Chip) (a n : Nat) : List (Nat × Nat) :=
  (wordsOf a n).filterMap (fun w => match s.resolve w with
    | .phys p => some (p, 64)
    | _ => none)

/-- Words of the journal store that a command found in error (R93, R151). -/
def Chip.storeWords (s : Chip) (ecc : List WordErr) : List (Nat × Nat) :=
  let lo := s.rd64 Reg.RTB_JRN_BASE_LO / 4096 * 4096
  let hi := lo + 4096 * s.rd Reg.RTB_JRN_SIZE
  let names := fun (a : Nat) => a :: (match s.objectAt a with
    | some (o, d, u) => [objBase + o * 2 ^ 36 + u * d.unit + a % d.unit]
    | none => [])
  (ecc.filter (fun e => (names (wordOf e.addr)).any (fun a => decide (lo ≤ a) && decide (a < hi)))).map (fun e => (wordOf e.addr, 64))

/-- Runs of physical memory that a transfer reads: pages, token log, recurrent state, the journal store (R134, R151). Where a journal lies in
its store the spec does not say: of the store, the words count that the command found in error. [log 49, DEDUCED] -/
def Chip.cargoRuns (s : Chip) (x : SrcXfer) (ecc : List WordErr) : List (Nat × Nat) :=
  match x.hdr.kind with
  | 3 => (s.leaseBlocks x.order.lease x.order.first x.order.count).flatMap (fun e => e.2.pages.map (fun a => (a, 16384)))
  | 6 => s.storeWords ecc
  | k =>
    match s.findRid x.hdr.rid with
    | none => []
    | some (_, r) =>
      let pages := if k = 1 || k = 4 then ((r.pages.filter entryValid).map entryAddr).map (fun a => (a, 16384)) else []
      let toks := if k = 4 || r.toklogAddr = 0 then [] else s.physWords r.toklogAddr (4 * r.len)
      let recur := if k = 1 && r.recurLen ≠ 0 then s.physWords r.recurAddr r.recurLen else []
      pages ++ toks ++ recur

/-- Cut records into Data messages of at most 64 (R140). -/
def messagesOf (sect : Nat) : Nat → Nat → List Bytes → List Bytes
  | 0,     _,  _  => []
  | k + 1, no, rs =>
    if rs.isEmpty then []
    else (dataHead sect (rs.take 64).length no ++ (rs.take 64).flatten) :: messagesOf sect k (no + 1) (rs.drop 64)

/-- Send all Data messages and the Seal (R145, R146). [log 43, DEDUCED] -/
def Chip.sendData (s : Chip) (x : SrcXfer) : Chip :=
  let (secs, hashes) := s.cargo x
  let local' := x.hdr.dstDev == s.selfDev
  let packed := secs.foldl (fun (st : Chip × List Bytes × Nat) (sec, modes, pieces) =>
    let (t, rs) := st.1.packAll modes x.bucket local' pieces
    let ms := messagesOf sec rs.length st.2.1.length rs
    (t, st.2.1 ++ ms, st.2.2 + rs.length)) (s, [], 0)
  let hrecs := hashes.map (fun (k, h) => recHead k 0 0 [0, 0, 0, 0] ++ padTo 32 h)
  let bodies := packed.2.1 ++ messagesOf 6 hrecs.length packed.2.1.length hrecs
  let h := { x.hdr with type := 2, epoch := s.epochOf (ridComp x.hdr.rid) }
  let msgs := bodies.map (fun b => h.toBytes ++ b)
  let total := (msgs.map List.length).foldl (· + ·) 0
  let s := packed.1.each msgs (fun s m => s.send 1 x.hdr.dstDev x.hdr.dstPart x.hdr.srcPart m)
  let s := s.add64 Reg.SMV_BYTES_OUT_LO total
  let s := s.updSrc x.hdr.seq (fun y => { y with state := .sealed })
  s.send 1 x.hdr.dstDev x.hdr.dstPart x.hdr.srcPart
    ({ h with type := 3 }.toBytes ++ sealBody msgs.length (packed.2.2 + hrecs.length) total)

/-- Has the request of a transfer entered ENDING, or gone, so far as this device knows? KIND 4 and 5 go on nonetheless (R145, R146, R149). For
KIND 6 the journal tells: its End record has arrived. -/
def Chip.requestOver (s : Chip) (x : SrcXfer) : Bool :=
  let here := s.findRid x.hdr.rid
  match x.hdr.kind with
  | 4 | 5 => false
  | 6 => (match s.journal x.hdr.rid with
    | some j => j.ended
    | none => true)
  | 3 => (match here with
    | some (_, r) => r.state == .ending || r.lost
    | none => false)
  | _ => (match here with
    | some (_, r) => !r.state.live || r.lost
    | none => true)

/-- The Reply OK to an Open: read what is carried, and send it; an uncorrectable word aborts with DAMAGED (R151), a stack in fault
leaves the transfer where it is (R502). Nothing is sent for a request that has entered ENDING (R145), after the cutoff (R148), or while a Sedge
command is outstanding for the pages, which counts an overrun (R63): such a transfer stays as it is until it is aborted.
[log 43, DEDUCED] -/
def Chip.startData (s : Chip) (x : SrcXfer) (ecc : List WordErr) : Chip :=
  let runs := s.cargoRuns x ecc
  let s := s.updSrc x.hdr.seq (fun y => { y with state := .sending })
  let x := { x with state := .sending }
  if s.requestOver x || !s.maySend || runs.any (fun a => s.stackDown a.1) then s
  else if s.slotsBusy ((runs.filter (fun a => a.2 == 16384)).map (·.1)) then s.cnt Reg.ALM_OVERRUN
  else
    let (s, ok) := runs.foldl (fun (st : Chip × Bool) a =>
      let (t, g) := st.1.access 2 a.1 a.2 ecc
      (t, st.2 && g)) (s, true)
    if ok then s.sendData x
    else (s.abortSrc x St.damaged true).raise Pg.SMV 6

/-! ## Row 6: the source's decisions (R149) -/

/-- The role a kind requires of its destination (R134, R580). -/
def kindTakes (k : Nat) (r : Role) : Bool :=
  match k with
  | 1 => r == .generation || r == .cache
  | 2 => r == .prompt
  | 3 => r == .prompt
  | 4 => r == .cache
  | 6 => r == .prompt
  | _ => true

/-- Is the destination of a transfer a member of the map in force with the role its kind requires (R149)? -/
def Chip.dstMember (s : Chip) (x : SrcXfer) : Bool :=
  match s.memberRole (ridComp x.hdr.rid) x.hdr.dstDev x.hdr.dstPart with
  | some r => kindTakes x.hdr.kind r
  | none => x.hdr.kind == 5 && s.present (ridComp x.hdr.rid) x.hdr.dstDev

/-- Transition 9: the stub left at the old home (R74, R87). -/
def Chip.leaveStub (s : Chip) (i : Nat) (dev part : Nat) : Chip :=
  match s.rte i with
  | some r =>
    (s.releaseState r).putRte i
      { rid := r.rid, state := .forward, partition := r.partition, flags := { moving := true },
        fwdHome := dev, fwdPart := part, fwdExpire := s.step + 2, mapEpoch := r.mapEpoch }
  | none => s

/-- A Locate of a request to its origin (R140, R150). -/
def Chip.sendLocate (s : Chip) (r : Rte) (ask : Nat) : Chip :=
  let h : SHdr :=
    { type := 0x0B, kind := 0, srcPart := r.partition, dstPart := r.originPart, srcDev := s.selfDev, dstDev := ridOrigin r.rid,
      rid := r.rid, epoch := s.epochOf (ridComp r.rid), step := s.step }
  s.send 1 (ridOrigin r.rid) r.originPart r.partition (h.toBytes ++ locateBody s.selfDev r.partition ask r.jrnPartner r.tenant)

/-- The home's side of a committed journal move (R96): a new partner, which has acknowledged nothing yet. The spec does not say what
JRN_ACK_POS holds until it does: no position, and JRN_HELD counts from there. [log 47, DEDUCED] -/
def Chip.partnerMoved (s : Chip) (rid dev : Nat) : Chip :=
  match s.findRid rid with
  | some (i, r) =>
    s.putRte i { r with jrnPartner := dev, jrnAckPos := 0xFFFFFFFF, flags := { r.flags with unprotected := false }, failedPartners := [] }.rehold
  | none => s

/-- The new partner has applied a journal move: the Locate that names it goes to the origin (R150, R152), and a request in ENDING sends it its
End record (R96). -/
def Chip.partnerTold (s : Chip) (rid : Nat) : Chip :=
  match s.findRid rid with
  | some (_, r) =>
    let s := s.sendLocate r 0
    if r.state = .ending then s.toPartner r (endRecord r.endStatus (if r.endStatus = 1 || r.endStatus = 2 then r.len - 1 else r.emitPos) r.rid)
    else s
  | none => s

/-- The source commits a PREPARED transfer: Commit, transition 9, or the kind's own effect. -/
def Chip.commitSrc (s : Chip) (x : SrcXfer) : Chip :=
  let s := s.send 1 x.hdr.dstDev x.hdr.dstPart x.hdr.srcPart ({ x.hdr with type := 5, epoch := s.epochOf (ridComp x.hdr.rid) }.toBytes)
  let s := (s.updSrc x.hdr.seq (fun y => { y with state := .committed })).cnt Reg.SMV_COMMITTED
  let s := if x.hdr.kind = 1 || x.hdr.kind = 2 then
      match s.findRid x.hdr.rid with
      | some (i, _) => s.leaveStub i x.hdr.dstDev x.hdr.dstPart
      | none => s
    else if x.hdr.kind = 5 then s.partnerMoved x.hdr.rid x.hdr.dstDev
    else if x.hdr.kind = 6 then s.updJournal x.hdr.rid (fun j => { j with homeLost := false })
    else s
  s.orderEnded x.order St.ok

/-- Row 6, first: decisions on transfers of which the device is source (R149). -/
def Chip.row6Source (s : Chip) : Chip :=
  s.items 60 (·.hdr.seq) (s.smv.srcs.filter (fun x => x.state != .committed)) (fun s x =>
    let s := s.charge 10
    if s.requestOver x then s.abortSrc x St.ending true
    else if x.state ≠ .prepared then s.abortSrc x St.late true
    else if !s.dstMember x then
      s.abortSrc x (if s.present (ridComp x.hdr.rid) x.hdr.dstDev then St.notTaking else St.peerLost) true
    else s.commitSrc x)

end Sys2Proof.Machine
end

