-- ==== Sys2Proof/Machine/MoverDst.lean ====
section
/-! DEFINITION. The State Mover as destination, as journal partner and as origin (05): the checks of an Open (R580), what it reserves
(R147), Data and Seal, commits applied in row 6 (R149, R150, R153), doubt and its resolution (R150), rebuilds (R154–R159). -/

namespace Sys2Proof.Machine

open Sys2Proof

/-! ## Opening checks (R580) -/

/-- The entry an Open's image or anchor describes. -/
def openRte (kind : Nat) (b : OpenBody) : Rte :=
  if kind = 6 || kind = 5 then
    let a := b.image
    { rid := le a 8 8, state := .rebuilding, partition := 0, flags := .ofNat (le a 71 1), tenant := le a 4 4, dclass := le a 2 1, kvFormat := le a 3 1,
      model := le a 16 2, adapter := le a 18 2, fallbackId := le a 20 2, emitRing := le a 22 2, promptLen := le a 24 4, maxNew := le a 28 4,
      deadline := le a 32 8, submitTime := le a 40 8, hostTag := le a 48 8, seed := le a 56 8, temperature := le a 64 2, topP := le a 66 2,
      topK := le a 68 2, originPart := le a 70 1, stops := [le a 72 4, le a 76 4, le a 80 4, le a 84 4], mapEpoch := le a 92 4, admitStep := le a 96 8 }
  else .ofBytes b.image

/-- The model that produces a transferred request's tokens at its destination (R153, R157, R580). -/
def openModel (kind : Nat) (r : Rte) : Nat := if kind = 2 || r.flags.fallback then r.fallbackId else r.model

/-- Is a model or adapter RESIDENT on a partition (R223)? -/
def Chip.isResident (s : Chip) (part : Nat) (adapter : Bool) (id : Nat) : Bool :=
  s.sch.res.any (fun r => r.part == part && r.adapter == adapter && r.id == id && r.resident)

/-- Is a KV_FORMAT code that of a registered model? Only the codes of R179 are registered. -/
def Chip.knownFormat (s : Chip) (f : Nat) : Bool := s.sch.models.any (fun x => x.2.kvFormat == f)

/-- Check 7 of R580: of the model, the adapter and the KV format. A whole request's pages have its model's format; an anchor alone needs only a
code of R179. -/
def Chip.openResident (s : Chip) (h : SHdr) (b : OpenBody) : Bool :=
  match h.kind with
  | 3 => s.knownFormat b.kvFormat
  | 4 => s.knownFormat b.kvFormat
  | 5 => decide (1 ≤ b.kvFormat) && decide (b.kvFormat ≤ 3)
  | k =>
    let r := openRte k b
    let m := openModel k r
    ((s.model m).map (·.kvFormat)).any (fun f => k != 1 || (b.kvFormat == f && r.kvFormat == f)) && (k == 1 || s.knownFormat b.kvFormat)
      && s.isResident h.dstPart false m && (r.adapter == 0 || ((s.sch.adapters.find r.adapter).isSome && s.isResident h.dstPart true r.adapter))

/-- Check 4 of R580: partition, role, pending change, tenant. -/
def Chip.openTaking (s : Chip) (h : SHdr) (b : OpenBody) : Bool :=
  s.partExists h.dstPart && kindTakes h.kind (s.role h.dstPart) && !s.rolePending h.dstPart
    && !((h.kind == 1 || h.kind == 2) && s.tenantRefused (openRte h.kind b).tenant)

/-- Does the destination hold an open transfer or a live RTE for the RID (check 8 of R580)? The destination of a transfer is a partition (R134);
that of a delivery is the home itself, whose live RTE the delivery is for. [log 49, DEDUCED] -/
def Chip.openBusy (s : Chip) (h : SHdr) : Bool :=
  s.smv.dsts.any (fun d => d.hdr.rid == h.rid && d.hdr.dstPart == h.dstPart)
    || (h.kind != 3 && s.rtb.rtes.any (fun x => x.2.rid == h.rid && x.2.state.live && x.2.partition == h.dstPart))

/-- Rebuilds of a RID seen here with this epoch or a higher one: the outcome to answer (R156). A rebuild that was aborted is restarted with the
same key. -/
def Chip.recKnown (s : Chip) (rid epoch : Nat) : Option Nat :=
  match s.smv.recSeen.find? (fun x => x.1 == rid && x.2.1 == epoch && x.2.2 != 2) with
  | some x => some x.2.2
  | none => if s.smv.recSeen.any (fun x => x.1 == rid && decide (epoch < x.2.1)) then some 4 else none

/-- Entries of the spans' rows that a transfer's own pages and prefix pages take: (span, entry), own pages first (R147). -/
def wantedPages (b : OpenBody) : List (Nat × Nat) :=
  let own := b.ownPages / max 1 b.spans
  let pre := b.prefixes * b.pps
  (List.range b.spans).flatMap (fun σ => (List.range own).map (fun e => (σ, pre + e)))
    ++ (List.range b.spans).flatMap (fun σ => (List.range pre).map (fun e => (σ, e)))

/-- Prefix pages of a delivery or publication: (span, entry) by the entry index its block has in any row (R249). -/
def blockPages (b : OpenBody) : List (Nat × Nat) :=
  (List.range b.prefixes).flatMap (fun k => (List.range b.spans).flatMap (fun σ =>
    (List.range b.pps).map (fun j => (σ, (b.first + k - 1) * b.pps + j))))

/-- What an Open reserves (R147, R153): the pages, the objects and the journal units; none where one cannot be had. [log 49, DEDUCED] -/
def Chip.reserve (s : Chip) (h : SHdr) (b : OpenBody) (x : DstXfer) : Option (Chip × DstXfer) :=
  match h.kind with
  | 5 =>
    let u := ceilDiv (128 + 4 * anchorMax b.image) 4096
    if (s.journal h.rid).isSome then some (s, x)
    else if s.isPartner && u ≤ s.jrnFree then some (s, { x with units := u }) else none
  | 3 =>
    match s.allocPages h.dstPart h.rid (blockPages b) with
    | (s, .inl got) => some (s, { x with pages := got })
    | _ => none
  | 4 =>
    match s.allocPages h.dstPart h.rid (blockPages b) with
    | (s, .inl got) => some (s, { x with pages := got })
    | _ => none
  | k =>
    let r := openRte k b
    match s.model (openModel k r) with
    | none => some (s, x)
    | some m =>
      match s.allocRequest h.dstPart h.rid m r.promptLen r.maxNew with
      | none => none
      | some (s, kv, tl) =>
        let (s, ra) := if k = 1 && b.recurLen ≠ 0 then s.allocObj h.dstPart h.rid b.recurLen true else (s, some 0)
        match ra, (if k = 1 then s.allocPages h.dstPart h.rid (wantedPages b) else (s, .inl [])) with
        | some ra, (s, .inl got) => some (s, { x with pages := got, objs := (kv, tl, ra) })
        | _, _ => none

/-- Free what a destination context reserved. -/
def Chip.unreserve (s : Chip) (x : DstXfer) : Chip :=
  let s := s.each (x.entries.filterMap id) (fun s i => s.setPfx (fun p => { p with table := p.table.del i }))
  let s := s.each x.pages Chip.freePage
  if x.hdr.kind = 1 || x.hdr.kind = 2 || x.hdr.kind = 6 then s.freeObjs x.hdr.dstPart x.hdr.rid else s

/-- A destination context ends: its outcome is remembered, of a rebuild under its key too (R156). -/
def Chip.dropDst (s : Chip) (x : DstXfer) (outcome : Nat) : Chip :=
  let epoch := (OpenBody.ofBytes x.body).recEpoch
  s.setSmv (fun m => { m with
    dsts := m.dsts.filter (fun y => !(y.hdr.srcDev == x.hdr.srcDev && y.hdr.seq == x.hdr.seq))
    done := m.done ++ [(x.hdr.srcDev, x.hdr.seq, outcome)]
    recSeen := if x.hdr.kind = 6 then m.recSeen.map (fun r => if r.1 = x.hdr.rid && r.2.1 = epoch then (r.1, r.2.1, outcome) else r) else m.recSeen })

/-- The state of the fields of an Open that R142 checks: TYPE, KIND, size. -/
def badMessage (bytes : Bytes) (type : Nat) : Bool :=
  let h := SHdr.ofBytes bytes
  h.type != type || decide (6 < h.kind) || (type != 2 && bytes.length != smvSize type) || (type == 2 && decide (bytes.length < 48))

/-- A malformed message: a Reply MALFORMED where the header is whole, and ERR_STAT bit [3] (R142). -/
def Chip.malformed (s : Chip) (src : MsgSrc) (bytes : Bytes) : Chip :=
  let s := s.raise Pg.SMV 3
  if bytes.length < 32 then s
  else s.reply (SHdr.ofBytes bytes) src { status := St.malformed, replyTo := le bytes 0 1 }

/-- An Open at its destination: the first failing check answers, else space is reserved and the Reply is OK (R580). [log 49, DEDUCED] -/
def Chip.takeOpen (s : Chip) (src : MsgSrc) (bytes : Bytes) : Chip :=
  if badMessage bytes 1 || le bytes 1 1 = 0 then
    (if bytes.length < 32 then s else (s.cnt Reg.SMV_REFUSED).raise Pg.SMV 0).malformed src bytes
  else
    let h := SHdr.ofBytes bytes
    let b := OpenBody.ofBytes (bytes.drop 32)
    let refuse := fun (st out : Nat) =>
      ((s.cnt Reg.SMV_REFUSED).raise Pg.SMV 0).reply h src { status := st, replyTo := 1, outcome := out }
    let known := if h.kind = 6 then s.recKnown h.rid b.recEpoch else none
    if (s.dstX h.srcDev h.seq).isSome then refuse St.duplicate 3
    else if (s.doneOutcome h.srcDev h.seq).isSome then refuse St.duplicate ((s.doneOutcome h.srcDev h.seq).getD 0)
    else if known.isSome then refuse St.duplicate (known.getD 0)
    else if !s.smvOn || s.quiet Pg.SMV || 4096 ≤ s.ctxUsed then refuse St.busy 0
    else if !s.openTaking h b then refuse St.notTaking 0
    else if (h.kind = 1 || h.kind = 2 || h.kind = 6) && (s.freeRte h.dstPart).isNone then refuse St.noRte 0
    else
      let x : DstXfer := { hdr := h, body := (bytes.drop 32).take 320, rteIdx := if h.kind = 1 || h.kind = 2 || h.kind = 6 then s.freeRte h.dstPart else none,
                           partner := if h.kind = 6 then h.srcDev else (openRte h.kind b).jrnPartner }
      match s.reserve h b x with
      | none => refuse St.noSpace 0
      | some (t, x) =>
        if !s.openResident h b then refuse St.notResident 0
        else if s.openBusy h then refuse St.busy 0
        else
          let t := t.setSmv (fun m => { m with
            dsts := m.dsts ++ [x]
            recSeen := if h.kind = 6 then m.recSeen.filter (fun r => !(r.1 == h.rid && r.2.1 == b.recEpoch)) ++ [(h.rid, b.recEpoch, 3)] else m.recSeen })
          let t := match x.rteIdx with
            | some i => t.touch i
            | none => t
          t.reply h src { status := St.ok, replyTo := 1 }

/-! ## Data and Seal (R145) -/

/-- The destination aborts a transfer: Abort to the source, and the reservation is freed. -/
def Chip.abortDst (s : Chip) (x : DstXfer) (status : Nat) : Chip :=
  let s := s.sendAbort x.hdr status x.hdr.srcDev x.hdr.srcPart x.hdr.dstPart
  (((s.unreserve x).dropDst x 2).cnt Reg.SMV_ABORTED).raise Pg.SMV 1

/-- The records of a Data message; none where one runs past its end (R141, R142). -/
def splitData : Nat → Nat → Bytes → Option (List (Bytes × Bytes))
  | 0,     _,   b => if b.isEmpty then some [] else none
  | k + 1, sec, b =>
    let n := if sec = 6 then 32 else le b 8 2 + le b 10 2 + le b 12 2 + le b 14 2
    if b.length < 16 + n then none
    else (splitData k sec (b.drop (16 + n))).map ((b.take 16, (b.drop 16).take n) :: ·)

/-- Unpack the blocks of one record; none where a damage check fails. Blocks within one device are carried as they are (R135). -/
def Chip.unpackRecord (s : Chip) (die sec : Nat) (local' : Bool) (head body : Bytes) : Chip × Option DRec :=
  let mk := fun (d : Bytes) => ({ sect := sec, index := le head 0 4, span := le head 4 2, page := le head 6 1, data := d } : DRec)
  if sec = 6 then (s, some (mk body))
  else
    let lens := [le head 8 2, le head 10 2, le head 12 2, le head 14 2]
    let r := lens.foldl (fun (st : Chip × Option Bytes × Nat) len =>
      if len = 0 then st
      else
        let blk := (body.drop st.2.2).take len
        if local' then (st.1, st.2.1.map (· ++ blk), st.2.2 + len)
        else
          let (t, out) := st.1.expandBlock die len blk
          (t, (match st.2.1, out with
            | some a, some o => some (a ++ o)
            | _, _ => none), st.2.2 + len)) (s, some [], 0)
    (r.1, r.2.1.map mk)

/-- Has a sealed transfer everything it counted, or do the counts disagree? -/
inductive Sealed where
  | waiting | ready | wrong
  deriving DecidableEq, Repr

/-- Judge the Seal of a context. -/
def DstXfer.judge (x : DstXfer) : Sealed :=
  match x.sealed with
  | none => .waiting
  | some (m, r, b) =>
    if x.msgs.length < m then .waiting
    else if x.msgs.length = m && x.recCount = r && x.bytes = b then .ready else .wrong

/-- After a Data message or a Seal: READY, an abort with COUNT, or more to come (R143, R145). -/
def Chip.checkSeal (s : Chip) (dev seq : Nat) : Chip :=
  match s.dstX dev seq with
  | some x =>
    if x.state ≠ .receiving then s
    else
      match x.judge with
      | .waiting => s
      | .ready =>
        let s := s.updDst dev seq (fun x => { x with state := .ready })
        s.reply x.hdr ⟨x.hdr.srcDev, x.hdr.srcPart, x.hdr.dstPart, x.hdr.step⟩ { status := St.ok, replyTo := 3 }
      | .wrong => s.abortDst x St.count
  | none => s

/-- Answer a message about a transfer that has no context here: DUPLICATE with its outcome, or UNKNOWN_REQUEST. -/
def Chip.noContext (s : Chip) (h : SHdr) (src : MsgSrc) (type : Nat) : Chip :=
  match s.doneOutcome h.srcDev h.seq with
  | some o => s.reply h src { status := St.duplicate, replyTo := type, outcome := o }
  | none => s.reply h src { status := St.unknown, replyTo := type }

/-- Create the filling entries of a publication; a block whose set has no way has none (R153). The Open names no hash (R140), and an entry lies
in the set of its hash (R113): the entries are created when the hashes have come. [log 49, DEDUCED] -/
def Chip.fillEntries (s : Chip) (x : DstXfer) (b : OpenBody) (hashes : List (Nat × Bytes)) : Chip × List (Option Nat) :=
  (List.range b.prefixes).foldl (fun (st : Chip × List (Option Nat)) k =>
    let per := b.spans * b.pps
    let h := ((hashes.find? (fun y => y.1 == b.first + k)).map (·.2)).getD []
    let t := st.1
    match (if h.isEmpty || t.collidesAt h then none else t.freeWay h) with
    | some i =>
      let e : PEntry := { hash := padTo 32 h, state := 1, partition := x.hdr.dstPart, kvFormat := b.kvFormat, blockNo := b.first + k, spans := b.spans,
                          pages := (x.pages.drop (per * k)).take per, lastUse := t.step % 2 ^ 32, pps := b.pps }
      let t := t.setPfx (fun p => { p with table := p.table.put i e })
      (t.each e.pages (fun s a => s.ownPage a (prefixOwner i)), st.2 ++ [some i])
    | none => (t, st.2 ++ [none])) (s, [])

/-- Once every hash of a publication has arrived, its filling entries are created (R153). -/
def Chip.publishFill (s : Chip) (x : DstXfer) : Chip × DstXfer :=
  let b := OpenBody.ofBytes x.body
  let hs := x.recs.filter (fun r => r.sect == 6)
  if x.hdr.kind = 4 && x.entries.isEmpty && b.prefixes ≤ hs.length && b.prefixes ≠ 0 then
    let (t, es) := s.fillEntries x b (hs.map (fun d => (d.index, d.data)))
    (t, { x with entries := es })
  else (s, x)

/-- A Data message (R145). A damaged block aborts the transfer; a stack in fault takes nothing (R502). -/
def Chip.takeData (s : Chip) (src : MsgSrc) (bytes : Bytes) : Chip :=
  let h := SHdr.ofBytes bytes
  let sec := le bytes 32 1
  let n := le bytes 34 2
  match (if badMessage bytes 2 || n = 0 || 64 < n then none else splitData n sec (bytes.drop 48)) with
  | none => s.malformed src bytes
  | some rs =>
    match s.dstX h.srcDev h.seq with
    | none => s.noContext h src 2
    | some x =>
      if x.state ≠ .receiving || x.msgs.contains (le bytes 36 4) || x.pages.any s.stackDown then s
      else
        let die := (x.pages.head?.map (fun a => stackOf a / 6)).getD 0
        let got := rs.foldl (fun (st : Chip × Option (List DRec)) (hd, bd) =>
          match st.2 with
          | none => st
          | some l =>
            match st.1.unpackRecord die sec (h.srcDev == s.selfDev) hd bd with
            | (t, some r) => (t, some (l ++ [r]))
            | (t, none) => (t, none)) (s, some [])
        let s := got.1.add64 Reg.SMV_BYTES_IN_LO bytes.length
        match got.2 with
        | none => (s.abortDst x St.damaged).raise Pg.SMV 6
        | some l =>
          let x := { x with recs := x.recs ++ l, msgs := x.msgs ++ [le bytes 36 4], recCount := x.recCount + rs.length, bytes := x.bytes + bytes.length }
          let (s, x) := s.publishFill x
          (s.updDst h.srcDev h.seq (fun _ => x)).checkSeal h.srcDev h.seq

/-- A Seal (R145). -/
def Chip.takeSeal (s : Chip) (src : MsgSrc) (bytes : Bytes) : Chip :=
  if badMessage bytes 3 then s.malformed src bytes
  else
    let h := SHdr.ofBytes bytes
    match s.dstX h.srcDev h.seq with
    | none => s.noContext h src 3
    | some _ =>
      (s.updDst h.srcDev h.seq (fun x => { x with sealed := some (le bytes 32 4, le bytes 36 4, le bytes 40 8) })).checkSeal h.srcDev h.seq

/-! ## Applying a commit in row 6 (R150, R153) -/

/-- Send the Home records of a request's new home to its partner and its origin (R150). -/
def Chip.sendHome (s : Chip) (r : Rte) : Chip :=
  let rec' := homeRecord r.partition s.selfDev r.mapEpoch r.rid s.step (r.flags.toNat % 256)
  (s.toPartner r rec').send 2 (ridOrigin r.rid) r.originPart r.partition rec'

/-- Records of a section, in ascending INDEX. -/
def DstXfer.sec (x : DstXfer) (n : Nat) : List DRec := sortBy (fun a b => decide (a.index ≤ b.index)) (x.recs.filter (fun r => r.sect == n))

/-- The token log a transfer carries. -/
def DstXfer.toks (x : DstXfer) (n : Nat) : List Nat :=
  let bs := (x.sec 3).flatMap (·.data)
  (List.range n).map (fun i => le bs (4 * i) 4)

/-- Free the stub of a RID at this device (R149). -/
def Chip.freeStub (s : Chip) (rid : Nat) : Chip :=
  match s.rtb.rtes.find? (fun x => x.2.rid == rid && x.2.state == .forward) with
  | some (i, _) => s.dropRte i
  | none => s

/-- Write the pages of records into slots. -/
def Chip.writePages (s : Chip) (l : List (Nat × Bytes)) : Chip := s.each l (fun s x => s.writePhys false x.1 (padTo 16384 x.2))

/-- A prefix block of a moved request at its destination (R125): a reference to a matching instance, whose pages stand in for those
carried, or a new instance from them. The answer is the entry, or none where none could be created. Only deliveries and publications
are held to the quota (R127). -/
def Chip.takeBlock (s : Chip) (hash parent : Bytes) (part kv k spans pps : Nat) (pages : List Nat) (data : List (Nat × Bytes)) :
    Chip × Option Nat :=
  match s.matchEntry hash part kv with
  | (s, some i) => ((s.each pages Chip.freePage).useEntry i, some i)
  | (s, none) =>
    match s.insertEntry false { hash := padTo 32 hash, state := 1, partition := part, kvFormat := kv, blockNo := k, refcnt := 1, spans := spans,
                                pages := pages, lastUse := s.step % 2 ^ 32, pps := pps } with
    | (s, some i) => ((s.writePages data).readyEntry i (if parent.isEmpty then 0xFFFFFF else s.parentSlot parent part kv), some i)
    | (s, none) => (s, none)

/-- Pages of block k of a transfer with the contents carried for them: `pages` are the block's slots, span-major. -/
def DstXfer.blockData (x : DstXfer) (k spans pps : Nat) (pages : List Nat) : List (Nat × Bytes) :=
  (List.range (spans * pps)).map (fun i =>
    (pages.getD i 0, ((x.recs.find? (fun r => r.sect == 2 && r.index == k && r.span == i / max 1 pps && r.page == i % max 1 pps)).map (·.data)).getD []))

/-- The hash of block k that section 6 carries. -/
def DstXfer.hashOf (x : DstXfer) (k : Nat) : Bytes := ((x.recs.find? (fun r => r.sect == 6 && r.index == k)).map (·.data)).getD []

/-- Why the blocks of a delivery or publication were not taken (R115, R127). -/
inductive NotTaken where
  | refused | collision | dead
  deriving DecidableEq, Repr

/-- A delivery's blocks from `k` on, `n` of them, whose slots are given block by block: a filled instance with REFCNT 1 for each (R121);
stopping at the first that the quota or its set refuses, or that collides. -/
def Chip.takeBlocks (x : DstXfer) (part kv spans pps : Nat) : Nat → Nat → List (List Nat) → Chip → List Nat → Chip × (List Nat ⊕ NotTaken)
  | 0,     _, _,        s, got => (s, .inl got)
  | n + 1, k, slots, s, got =>
    let pages := slots.headD []
    let h := x.hashOf k
    if s.collidesAt h then (s, .inr .collision)
    else match s.insertEntry true { hash := padTo 32 h, state := 1, partition := part, kvFormat := kv, blockNo := k, refcnt := 1, spans := spans,
                                    pages := pages, lastUse := s.step % 2 ^ 32, pps := pps } with
    | (s, some i) =>
      let s := (s.writePages (x.blockData k spans pps pages)).readyEntry i (if k ≤ 1 then 0xFFFFFF else s.parentSlot (x.hashOf (k - 1)) part kv)
      Chip.takeBlocks x part kv spans pps n (k + 1) slots.tail s (got ++ [i])
    | (s, none) => (s, .inr .refused)

/-- What comes of a delivery or publication that is not taken: its reservation is freed, and a refusal or a collision counted. -/
def Chip.notTaken (s : Chip) (x : DstXfer) (why : NotTaken) : Chip :=
  let s := s.unreserve x
  match why with
  | .refused => s.pfxRefused
  | .collision => s.collided
  | .dead => s

/-- Apply a request move (KIND 1): transition 5 (R125, R150, R153). A prefix block that finds
neither an instance nor a free way keeps the carried pages as the request's own. -/
def Chip.applyMove (s : Chip) (x : DstXfer) (idx : Nat) : Chip :=
  let b := OpenBody.ofBytes x.body
  let r0 := openRte 1 b
  let s := s.freeStub r0.rid
  let gen := s.role x.hdr.dstPart == .generation
  let len := kvPages ((s.model (openModel 1 r0)).getD ⟨0, 0, 0, false, 0, 0, 0, [], 0, 0⟩) r0.promptLen r0.maxNew
  let r : Rte := { r0 with
    state := if gen then .generating else .parked
    partition := x.hdr.dstPart
    flags := { r0.flags with moving := false, bound := false }
    slot := 0xFFFFFFFF
    mapEpoch := s.epochOf (ridComp r0.rid)
    kvMap := x.objs.1, toklogAddr := x.objs.2.1, recurAddr := x.objs.2.2
    tokens := x.toks b.tokens
    recur := ((x.sec 4).flatMap (·.data)).take b.recurLen
    pages := List.replicate len 0
    genCount := b.tokens - r0.promptLen
    published := true, prefilled := b.tokens - 1, bindSeq := s.step, lookup := 4, hashes := [], refs := [] }
  let n := max 1 (s.rowLenOf r)
  let nOwn := b.ownPages
  -- own pages: record INDEX i lies at entry i of the map; its slot is the one reserved for that (span, entry)
  let want := wantedPages b
  let slotFor := fun (σ e : Nat) => ((want.zip x.pages).find? (fun w => w.1 == (σ, e))).map (·.2)
  let own := (x.sec 1).filterMap (fun d => (slotFor (d.index / n) (d.index % n)).map (fun a => (d, a)))
  let s := s.writePages (own.map (fun (d, a) => (a, d.data)))
  let r := own.foldl (fun r (d, a) => { r with pages := r.pages.set d.index (entryOf a false) }) r
  let pre := (x.pages.drop nOwn)
  let rows := b.prefixes * b.pps
  let slots := (List.range b.prefixes).map (fun k => (List.range b.spans).flatMap (fun σ => (List.range b.pps).map (fun j =>
    pre.getD (σ * rows + k * b.pps + j) 0)))
  let (s, r) := (List.range b.prefixes).foldl (fun (st : Chip × Rte) k0 =>
    let k := k0 + 1
    let pages := slots.getD k0 []
    let data := x.blockData k b.spans b.pps pages
    match st.1.takeBlock (x.hashOf k) (if k ≤ 1 then [] else x.hashOf (k - 1)) x.hdr.dstPart r.kvFormat k b.spans b.pps pages data with
    | (t, some i) => (t, { t.mapBlocks st.2 k [i] with refs := st.2.refs ++ [i] })
    | (t, none) => (t.writePages data, (pages.zipIdx).foldl (fun r (a, i) =>
        t.setEntry r (i / max 1 b.pps) (k0 * b.pps + i % max 1 b.pps) (entryOf a false)) st.2)) (s, { r with prefixBlocks := b.prefixes })
  let s := (s.putRte idx r.rehold).rehash idx
  let s := (s.touch idx).charge (30 + len / 256)
  s.sendHome r

/-- Apply a fallback move (KIND 2): transition 6 (R153). -/
def Chip.applyFallback (s : Chip) (x : DstXfer) (idx : Nat) : Chip :=
  let b := OpenBody.ofBytes x.body
  let r0 := openRte 2 b
  let s := s.freeStub r0.rid
  match s.model r0.fallbackId with
  | none => s
  | some m =>
    let r : Rte := { r0 with
      state := .rebuilding, partition := x.hdr.dstPart
      flags := { r0.flags with moving := false, bound := false, fallback := true }
      kvFormat := m.kvFormat, slot := 0xFFFFFFFF, mapEpoch := s.epochOf (ridComp r0.rid)
      kvMap := x.objs.1, toklogAddr := x.objs.2.1, recurAddr := 0, recurLen := 0
      prefixBlocks := 0, tokens := x.toks b.tokens, genCount := b.tokens - r0.promptLen
      pages := List.replicate (kvPages m r0.promptLen r0.maxNew) 0
      hashDue := true, published := true, lastHash := zeros 32, bindSeq := s.step, hashes := [], refs := [] }
    let s := (s.putRte idx r.rehold).touch idx
    (s.charge (30 + r.pages.length / 256)).sendHome r

/-- Apply a prefix delivery (KIND 3) at the home of the request (R121, R127). A delivery that comes when its request has begun its prefill, and one
that does not go on where PREFIX_BLOCKS ends, fails: no position that prefill computes is one that a delivery covers. The answer is
whether it was taken. [log 48, DEDUCED] -/
def Chip.applyDelivery (s : Chip) (x : DstXfer) : Chip × Bool :=
  let b := OpenBody.ofBytes x.body
  let per := b.spans * b.pps
  let slots := (List.range b.prefixes).map (fun k => (x.pages.drop (per * k)).take per)
  match s.findRid x.hdr.rid with
  | some (i, r) =>
    let fits := (b.first ≤ 1 || r.prefixBlocks + 1 == b.first) && r.prefilled ≤ 64 * r.prefixBlocks && !r.flags.bound
    if !r.state.live || !fits then (s.notTaken x .dead, false)
    else
      match Chip.takeBlocks x x.hdr.dstPart b.kvFormat b.spans b.pps b.prefixes b.first slots s [] with
      | (t, .inl got) =>
        let n := r.prefixBlocks + b.prefixes
        let r' := { t.mapBlocks r b.first got with prefixBlocks := n, refs := r.refs ++ got, prefilled := max r.prefilled (64 * n) }
        ((t.putRte i r').charge (30 + per * b.prefixes / 256), true)
      | (_, .inr why) => (s.notTaken x why, false)
  | none => (s.notTaken x .dead, false)

/-- Prefix pages of a partition that its ready and damaged entries hold; an entry still filling is no instance yet (R127). -/
def Chip.instancePages (s : Chip) (p : Nat) : Nat :=
  ((s.pfx.table.filter (fun x => x.2.partition == p && x.2.state != 1)).map (fun x => x.2.pages.length)).foldl (· + ·) 0

/-- Is block k of a publication ready on the shard already (R130)? -/
def Chip.publishedHere (s : Chip) (x : DstXfer) (kv k : Nat) : Bool :=
  s.hasTable && !s.collidesAt (x.hashOf k) && (s.waysOf (x.hashOf k)).any (fun y => y.2.hits (x.hashOf k) x.hdr.dstPart kv)

/-- One block of a publication at its commit: a duplicate discards its pages (R130), any other becomes ready in the entry it fills, or in one
created now that row 7 has made room for it (R126). -/
def Chip.publishBlock (s : Chip) (x : DstXfer) (b : OpenBody) (e : Option Nat) (k : Nat) (pages : List Nat) : Chip :=
  let parent := fun (s : Chip) => if k ≤ 1 then 0xFFFFFF else s.parentSlot (x.hashOf (k - 1)) x.hdr.dstPart b.kvFormat
  if s.publishedHere x b.kvFormat k then
    let s := match e with
      | some i => s.setPfx (fun p => { p with table := p.table.del i })
      | none => s
    (s.each pages Chip.freePage).cnt Reg.PFX_PUB_DUP
  else
    let (s, at') := match e with
      | some i => (s, some i)
      | none => s.insertEntry false { hash := padTo 32 (x.hashOf k), state := 1, partition := x.hdr.dstPart, kvFormat := b.kvFormat, blockNo := k,
                                      spans := b.spans, pages := pages, lastUse := s.step % 2 ^ 32, pps := b.pps }
    match at' with
    | some i => (s.writePages (x.blockData k b.spans b.pps pages)).readyEntry i (parent s)
    | none => s.each pages Chip.freePage

/-- Apply a publication (KIND 4) at the shard (R122, R127, R130). The quota counts the instances that are there and those the publication
adds; what later publications still fill does not count. A collision takes no block of it (R115). The answer is whether it was taken.
[log 48, DEDUCED] -/
def Chip.applyPublication (s : Chip) (x : DstXfer) : Chip × Bool :=
  let b := OpenBody.ofBytes x.body
  let per := b.spans * b.pps
  let blocks := (List.range b.prefixes).map (fun k => (b.first + k, (x.entries.getD k none), (x.pages.drop (per * k)).take per))
  let fresh := blocks.filter (fun y => !s.publishedHere x b.kvFormat y.1)
  let past := decide (s.rd (Reg.PFX_QUOTA + 4 * x.hdr.dstPart) < s.instancePages x.hdr.dstPart + per * fresh.length)
  if fresh.any (fun y => s.collidesAt (x.hashOf y.1)) then (s.notTaken x .collision, false)
  else if past || fresh.any (fun y => y.2.1.isNone && (!s.hasTable || (s.freeWay (x.hashOf y.1)).isNone)) then (s.notTaken x .refused, false)
  else ((s.charge (30 + per * b.prefixes / 256)).each blocks (fun s y => s.publishBlock x b y.2.1 y.1 y.2.2), true)

/-- Apply a journal move (KIND 5) at the new partner: the journal, and an acknowledgement of the whole token log (R96, R153). -/
def Chip.applyJournal (s : Chip) (x : DstXfer) : Chip :=
  let b := OpenBody.ofBytes x.body
  let bs := (x.sec 5).flatMap (·.data)
  let runs := (splitRuns bs.length bs).filter (fun r => le r 0 1 == 2)
  let j0 : Journal := (s.journal x.hdr.rid).getD { rid := x.hdr.rid, anchor := padTo 128 b.image, tokens := [], units := x.units }
  let j := runs.foldl (fun (j : Journal) r => j.store r) { j0 with anchor := padTo 128 b.image }
  let s := { s with rtb := { s.rtb with journals := s.rtb.journals.filter (fun (y : Journal) => y.rid != x.hdr.rid) ++ [j] } }
  (s.charge 30).ackJournal ⟨x.hdr.srcDev, x.hdr.srcPart, x.hdr.dstPart, s.step⟩ 0 j.position x.hdr.rid
where
  splitRuns : Nat → Bytes → List Bytes
    | 0,     _ => []
    | k + 1, b =>
      let n := recordSize b
      if n = 0 || b.length < n || le b 0 1 ≠ 2 then [] else b.take n :: splitRuns k (b.drop n)

/-- Deliver a rebuild (KIND 6): held from row 6 until transition 2 in row 11 (R146). -/
def Chip.applyRebuild (s : Chip) (x : DstXfer) (idx : Nat) : Chip :=
  let b := OpenBody.ofBytes x.body
  (s.setSmv (fun m => { m with
    rebuilt := m.rebuilt ++ [{ rid := x.hdr.rid, anchor := padTo 128 b.image, tokens := x.toks b.tokens, recEpoch := b.recEpoch, partner := x.hdr.srcDev,
                               part := x.hdr.dstPart, rteIdx := idx, objs := (x.objs.1, x.objs.2.1), alone := x.alone }] })).charge 30

/-- Apply one commit (R153). -/
def Chip.applyCommit (s : Chip) (x : DstXfer) : Chip :=
  let (s, taken) := match x.hdr.kind, x.rteIdx with
    | 1, some i => (let t := s.applyMove x i; if x.alone then t.partnerLost i else t, true)
    | 2, some i => (let t := s.applyFallback x i; if x.alone then t.partnerLost i else t, true)
    | 3, _ => s.applyDelivery x
    | 4, _ => s.applyPublication x
    | 5, _ => (s.applyJournal x, true)
    | _, some i => (s.applyRebuild x i, true)
    | _, none => (s, true)
  let s := s.dropDst x (if taken then 1 else 2)
  match x.replyTo with
  | some q =>
    s.reply x.hdr ⟨q.1, q.2, x.hdr.dstPart, x.hdr.step⟩
      (if taken then { status := St.ok, replyTo := 5, outcome := 1 } else { status := St.noSpace, replyTo := 5, outcome := 2 })
  | none => s

/-- Commit order: ascending (SRC_DEVICE, TRANSFER_SEQ) (R149). -/
def commitLe (a b : DstXfer) : Bool :=
  decide (a.hdr.srcDev < b.hdr.srcDev) || (a.hdr.srcDev == b.hdr.srcDev && decide (a.hdr.seq ≤ b.hdr.seq))

/-- Row 6, at its start for the destination: transfers still receiving end; deliveries whose request is no longer live are aborted
with a Release (R101, R130); resolved IN_DOUBT transfers are applied or ended. -/
def Chip.row6DstStart (s : Chip) : Chip :=
  let dead := fun (s : Chip) (x : DstXfer) => x.hdr.kind == 3 && (match s.findRid x.hdr.rid with
    | some (_, r) => !r.state.live || r.lost
    | none => true)
  let release := fun (s : Chip) (x : DstXfer) =>
    s.releaseLease (x.hdr.srcDev, x.hdr.srcPart) x.hdr.dstPart (OpenBody.ofBytes x.body).lease x.hdr.rid
  let s := s.each (s.smv.dsts.filter (fun x => x.state == .ready && dead s x)) (fun s x => release (s.abortDst x St.ending) x)
  let s := s.each (s.smv.dsts.filter (fun x => x.state == .receiving)) (fun s x =>
    let s := (((s.unreserve x).dropDst x 2).cnt Reg.SMV_ABORTED).raise Pg.SMV 1
    if dead s x then release s x else s)
  let s := s.each (s.smv.dsts.filter (fun x => x.state == .inDoubt && x.outcome == 2)) (fun s x =>
    (((s.unreserve x).dropDst x 2).cnt Reg.SMV_ABORTED).raise Pg.SMV 1)
  s.setSmv (fun m => { m with dsts := m.dsts.map (fun x => if x.state = .inDoubt && x.outcome = 1 then { x with state := .ready, commit := true } else x) })

/-- Destination transfers that row 6 waits for: READY, with neither Commit nor Abort yet. -/
def Chip.undecided (s : Chip) : List DstXfer := s.smv.dsts.filter (fun x => x.state == .ready && !x.commit)

/-- Row 6, second: the commits held are applied in commit order; third: stubs whose step has come are freed (R149, transition 10). -/
def Chip.row6Apply (s : Chip) : Chip :=
  let s := s.items 61 (fun x => x.hdr.srcDev + x.hdr.seq * 65536) (sortBy commitLe (s.smv.dsts.filter (fun x => x.state == .ready && x.commit))) Chip.applyCommit
  s.items 62 id ((s.rtb.rtes.filter (fun x => x.2.state == .forward && decide (x.2.fwdExpire ≤ s.step))).map (·.1)) Chip.dropRte

end Sys2Proof.Machine
end

