-- ==== Sys2Proof/Machine/MoverMsgs.lean ====
section
/-! DEFINITION. The rest of the State Mover's protocol (05): Intent, Commit, Abort, Query, Reply, Pull, Lost and Locate, transfers in
doubt and Intents to be resolved (R150), and transition 2 (R157). -/

namespace Sys2Proof.Machine

open Sys2Proof

/-! ## Rebuild orders (R154, R156) -/

/-- The partner learns that a request's home is lost: REC_EPOCH rises, and a rebuild is due in the next Settle phase. -/
def Chip.learnLost (s : Chip) (rid : Nat) : Chip :=
  s.updJournal rid (fun j => { j with homeLost := true, recEpoch := j.recEpoch + 1 })

/-- Is the home that an anchor names a member of the map in force? -/
def Chip.anchorHome (s : Chip) (j : Journal) : Bool := (s.memberRole (ridComp j.rid) (le j.anchor 88 2) (le j.anchor 90 1)).isSome

/-- A journal whose anchor names a home that is not in the map in force (R154). -/
def Chip.checkHome (s : Chip) (rid : Nat) : Chip :=
  match s.journal rid with
  | some j => if s.anchorHome j || j.ended || j.homeLost then s else s.learnLost rid
  | none => s

/-! ## Intents (R145, R150) -/

/-- An Intent at the journal partner. -/
def Chip.takeIntent (s : Chip) (src : MsgSrc) (bytes : Bytes) : Chip :=
  if badMessage bytes 4 then s.malformed src bytes
  else
    let h := SHdr.ofBytes bytes
    let i : Intent := { hdr := h, oldDev := le bytes 32 2, oldPart := le bytes 34 1, newPart := le bytes 35 1, newDev := le bytes 36 2, step := le bytes 40 8 }
    match s.journal h.rid with
    | some j =>
      if le j.anchor 88 2 = i.oldDev && le j.anchor 90 1 = i.oldPart then
        (s.setSmv (fun m => { m with intents := m.intents ++ [i] })).reply h src { status := St.ok, replyTo := 4 }
      else s.reply h src { status := St.noAnchor, replyTo := 4 }
    | none => s.reply h src { status := St.noAnchor, replyTo := 4 }

/-- Drop an Intent. -/
def Chip.dropIntent (s : Chip) (h : SHdr) : Chip :=
  s.setSmv (fun m => { m with intents := m.intents.filter (fun i => !(i.hdr.srcDev == h.srcDev && i.hdr.seq == h.seq)) })

/-- The journal partner resolves an Intent; the answer is final (R150). -/
def Chip.resolveIntent (s : Chip) (i : Intent) (outcome : Nat) : Chip :=
  let s := (s.dropIntent i.hdr).setSmv (fun m => { m with resolved := m.resolved ++ [(i.hdr.srcDev, i.hdr.seq, outcome)] })
  let s := if outcome = 1 then
      s.updJournal i.hdr.rid (fun j => { j with
        anchor :=
          let a := patch (patch j.anchor 88 (toLE 2 i.newDev)) 90 (toLE 1 i.newPart)
          if i.hdr.kind = 2 then patch a 71 (toLE 1 (putBits (le a 71 1) 2 2 1)) else a })
    else s
  s.checkHome i.hdr.rid

/-- Mark whom an Intent asks. -/
def Chip.intentAsking (s : Chip) (i : Intent) (n : Nat) : Chip :=
  s.setSmv (fun m => { m with intents := m.intents.map (fun y => if y.hdr.srcDev = i.hdr.srcDev && y.hdr.seq = i.hdr.seq then { y with asking := n } else y) })

/-- A Query about a transfer, to a party (R138, R140). -/
def Chip.askOutcome (s : Chip) (h : SHdr) (dev part srcPart : Nat) : Chip :=
  s.send 1 dev part srcPart ({ h with type := 7, epoch := s.epochOf (ridComp h.rid) }.toBytes ++ queryBody 0)

/-- Ask about an Intent whose source or destination is absent from the map in force (resolve_intent of R150). [log 49, DEDUCED] -/
def Chip.pursueIntent (s : Chip) (i : Intent) : Chip :=
  let comp := ridComp i.hdr.rid
  let me := s.lowestPart comp s.selfDev
  if s.present comp i.hdr.srcDev then (s.intentAsking i 1).askOutcome i.hdr i.hdr.srcDev i.hdr.srcPart me
  else if s.present comp i.hdr.dstDev then (s.intentAsking i 2).askOutcome i.hdr i.hdr.dstDev i.hdr.dstPart me
  else s.resolveIntent i 2

/-- Intents to be resolved in this window: one party is absent, and no Query is out. -/
def Chip.pursueIntents (s : Chip) : Chip :=
  s.each (s.smv.intents.filter (fun i => i.asking == 0
    && !(s.present (ridComp i.hdr.rid) i.hdr.srcDev && s.present (ridComp i.hdr.rid) i.hdr.dstDev))) Chip.pursueIntent

/-- An answer about an Intent: `o` is the OUTCOME, none where the Query could not be delivered. -/
def Chip.intentAnswer (s : Chip) (i : Intent) (o : Option Nat) : Chip :=
  let comp := ridComp i.hdr.rid
  if i.asking = 1 then
    match o with
    | some 1 => s.resolveIntent i 1
    | some 2 => s.resolveIntent i 2
    | some _ => s.intentAsking i 0
    | none => if s.present comp i.hdr.dstDev then
        (s.intentAsking i 2).askOutcome i.hdr i.hdr.dstDev i.hdr.dstPart (s.lowestPart comp s.selfDev)
      else s.resolveIntent i 2
  else
    match o with
    | some o' =>
      if o' = 1 || o' = 3 then
        let s := s.send 1 i.hdr.dstDev i.hdr.dstPart (s.lowestPart comp s.selfDev) ({ i.hdr with type := 5, epoch := s.epochOf comp }.toBytes)
        s.resolveIntent i 1
      else s.resolveIntent i 2
    | none => s.resolveIntent i 2

/-! ## Doubt (R150) -/

/-- Mark whom an IN_DOUBT transfer asks. -/
def Chip.doubtAsking (s : Chip) (x : DstXfer) (n : Nat) : Chip := s.updDst x.hdr.srcDev x.hdr.seq (fun y => { y with asked := n })

/-- A transfer in doubt is resolved; the outcome is applied in the next row 6. -/
def Chip.doubtResolved (s : Chip) (x : DstXfer) (outcome : Nat) (alone : Bool) : Chip :=
  s.updDst x.hdr.srcDev x.hdr.seq (fun y => { y with outcome := outcome, alone := alone, asked := 0 })

/-- The source cannot answer: the partner is asked, or the kind decides (resolve_in_doubt of R150). -/
def Chip.doubtNoSource (s : Chip) (x : DstXfer) : Chip :=
  let comp := ridComp x.hdr.rid
  if x.hdr.kind = 1 || x.hdr.kind = 2 then
    if x.partner ≠ 0xFFFF && s.present comp x.partner then
      (s.doubtAsking x 2).askOutcome x.hdr x.partner (s.lowestPart comp x.partner) x.hdr.dstPart
    else if !s.present comp x.hdr.srcDev then s.doubtResolved x 1 true
    else s.doubtAsking x 0
  else if x.hdr.kind = 6 then s.doubtResolved x 1 true
  else s.doubtResolved x 2 false

/-- Ask about a transfer in doubt. -/
def Chip.doubtAsk (s : Chip) (x : DstXfer) : Chip :=
  if s.present (ridComp x.hdr.rid) x.hdr.srcDev then (s.doubtAsking x 1).askOutcome x.hdr x.hdr.srcDev x.hdr.srcPart x.hdr.dstPart
  else s.doubtNoSource x

/-- An answer about a transfer in doubt; none where the Query could not be delivered. -/
def Chip.doubtAnswer (s : Chip) (x : DstXfer) (o : Option Nat) : Chip :=
  match o with
  | some 1 => s.doubtResolved x 1 false
  | some 2 => s.doubtResolved x 2 false
  | some _ => s.doubtAsking x 0
  | none =>
    if x.asked = 1 then s.doubtNoSource x
    else if !s.present (ridComp x.hdr.rid) x.hdr.srcDev && !s.present (ridComp x.hdr.rid) x.partner then s.doubtResolved x 1 true
    else s.doubtAsking x 0

/-- SMV_DECIDE_WAIT has run out for a READY transfer without Commit or Abort (R145). [log 49, DEDUCED] -/
def Chip.decideExpired (s : Chip) (dev seq : Nat) : Chip :=
  match s.dstX dev seq with
  | some x =>
    if x.state = .ready && !x.commit then
      let s := (s.updDst dev seq (fun y => { y with state := .inDoubt })).raise Pg.SMV 2
      s.doubtAsk { x with state := .inDoubt }
    else s
  | none => s

/-- Transfers in doubt ask again in each Boundary window (R150). -/
def Chip.askAgain (s : Chip) : Chip := s.each (s.smv.dsts.filter (fun x => x.state == .inDoubt && x.outcome == 0 && x.asked == 0)) Chip.doubtAsk

/-! ## Commit and Abort -/

/-- A Commit at the destination (R145, R152). -/
def Chip.takeCommit (s : Chip) (src : MsgSrc) (bytes : Bytes) : Chip :=
  if badMessage bytes 5 then s.malformed src bytes
  else
    let h := SHdr.ofBytes bytes
    match s.dstX h.srcDev h.seq with
    | some x =>
      match x.state with
      | .ready => s.updDst h.srcDev h.seq (fun y => { y with commit := true, replyTo := some (src.dev, src.part) })
      | .inDoubt => s.updDst h.srcDev h.seq (fun y => { y with outcome := 1, asked := 0, replyTo := some (src.dev, src.part) })
      | _ => s.noContext h src 5
    | none => s.noContext h src 5

/-- An Abort at whichever parties this device is (R145). -/
def Chip.takeAbort (s : Chip) (src : MsgSrc) (bytes : Bytes) : Chip :=
  if badMessage bytes 6 then s.malformed src bytes
  else
    let h := SHdr.ofBytes bytes
    let status := le bytes 32 2
    let s := s.noteErr status h.kind 6 src.dev h.rid
    let fromDst := src.dev == h.dstDev && src.part == h.dstPart
    let s := if fromDst && h.srcDev == s.selfDev then
        match s.srcX h.seq with
        | some x => if x.state = .committed then s else s.abortSrc x status false
        | none => s
      else s
    let s := if !fromDst then
        match s.dstX h.srcDev h.seq with
        | some x =>
          if x.state = .inDoubt then s.updDst h.srcDev h.seq (fun y => { y with outcome := 2, asked := 0 })
          else (((s.unreserve x).dropDst x 2).cnt Reg.SMV_ABORTED).raise Pg.SMV 1
        | none => s
      else s
    (s.dropIntent h).reply h src { status := St.ok, replyTo := 6 }

/-! ## Query (R582) -/

/-- OUTCOME of a transfer at this device (R582). -/
def Chip.outcomeHere (s : Chip) (h : SHdr) : Nat :=
  let known := s.findRid h.rid
  let live : Bool := match known with
    | some (_, r) => r.state.live
    | none => false
  let fwd : Bool := match known with
    | some (_, r) => r.state == .forward
    | none => false
  if h.srcDev = s.selfDev then
    match s.srcX h.seq, s.doneOutcome h.srcDev h.seq with
    | some x, _ => if x.state = .committed then 1 else 3
    | none, some o => o
    | none, none => if live then 2 else 1
  else if h.dstDev = s.selfDev then
    match s.dstX h.srcDev h.seq, s.doneOutcome h.srcDev h.seq with
    | some x, _ => if x.state = .receiving then 2 else if x.state = .committed then 1 else 3
    | none, some o => o
    | none, none => if live || fwd then 1 else 2
  else if s.smv.intents.any (fun i => i.hdr.srcDev == h.srcDev && i.hdr.seq == h.seq) then 3
  else ((s.smv.resolved.find? (fun r => r.1 == h.srcDev && r.2.1 == h.seq)).map (·.2.2)).getD 0

/-- A Query (R140, R144, R158, R582). -/
def Chip.takeQuery (s : Chip) (src : MsgSrc) (bytes : Bytes) : Chip :=
  if badMessage bytes 7 then s.malformed src bytes
  else
    let h := SHdr.ofBytes bytes
    match le bytes 32 1 with
    | 0 => s.reply h src { status := St.ok, replyTo := 7, outcome := s.outcomeHere h }
    | 1 =>
      match s.findKnown h.rid, s.locator h.rid with
      | some (_, r), _ =>
        if r.state = .forward then s.reply h src { status := St.moved, replyTo := 7, homeDev := r.fwdHome, homePart := r.fwdPart, homeStep := r.fwdExpire - 2 }
        else s.reply h src { status := St.ok, replyTo := 7, homeDev := s.selfDev, homePart := r.partition }
      | none, some l => s.reply h src { status := St.ok, replyTo := 7, homeDev := l.device, homePart := l.part }
      | none, none => s.reply h src { status := St.unknown, replyTo := 7 }
    | 2 =>
      match s.locator h.rid with
      | some _ => s.reply h src { status := St.ok, replyTo := 7, value := s.emitted h.rid }
      | none => s.reply h src { status := St.unknown, replyTo := 7 }
    | _ => s.malformed src bytes

/-! ## Pull, Lost, Locate -/

/-- A Pull at the shard: the delivery is opened in this step's Settle phase, or the lease has ended (R153). -/
def Chip.takePull (s : Chip) (src : MsgSrc) (bytes : Bytes) : Chip :=
  if badMessage bytes 9 then s.malformed src bytes
  else
    let h := SHdr.ofBytes bytes
    match s.pfx.leases.find? (fun l => l.id == le bytes 32 4) with
    | some l => s.queueOrder { kind := 3, rid := h.rid, srcPart := l.shardPart, dst := (src.dev, src.part), lease := l.id, first := le bytes 36 4, count := le bytes 40 4 }
    | none => s.reply h src { status := St.unknown, replyTo := 9 }

/-- A Lost message at the journal partner (R154). -/
def Chip.takeLost (s : Chip) (src : MsgSrc) (bytes : Bytes) : Chip :=
  if badMessage bytes 0x0A then s.malformed src bytes
  else
    let h := SHdr.ofBytes bytes
    match s.journal h.rid with
    | some j => if j.ended then s else s.learnLost h.rid
    | none => s.reply h src { status := St.unknown, replyTo := 0x0A }

/-- A Locate at the origin (R150, R158, R231). -/
def Chip.takeLocate (s : Chip) (src : MsgSrc) (bytes : Bytes) : Chip :=
  if badMessage bytes 0x0B then s.malformed src bytes
  else
    let h := SHdr.ofBytes bytes
    let ask := le bytes 35 1 == 1
    let s := if ask then s.acct (le bytes 40 4) (fun e => { e with failedOver := e.failedOver + 1 }) else s
    match s.locator h.rid with
    | some l =>
      if l.state = 1 then
        let s := s.updLocator h.rid (fun l => { l with device := le bytes 32 2, part := le bytes 34 1, partner := le bytes 36 2 })
        if ask then s.reply h src { status := St.ok, replyTo := 0x0B, value := s.emitted h.rid } else s
      else if ask then s.reply h src { status := St.unknown, replyTo := 0x0B } else s
    | none => if ask then s.reply h src { status := St.unknown, replyTo := 0x0B } else s

/-! ## Transition 2 (R87, R157, R159) -/

/-- The origin has answered the rebuilt home's Locate: emission resumes, or the request ends with 0x08 and sends no Finish (R159). -/
def Chip.locateAnswered (s : Chip) (i : Nat) (value : Option Nat) : Chip :=
  match value with
  | some v => (s.updRte i (fun r => { r with askedHome := false, emitPos := v })).emitReady i
  | none => (s.updRte i (fun r => { r with askedHome := false, noFinish := true })).endNow i 0x08

/-- Transition 2: a delivered rebuild becomes the home's request. -/
def Chip.transition2 (s : Chip) (d : Delivered) : Chip :=
  let r0 := openRte 6 { image := d.anchor }
  let m := (s.model (openModel 6 r0)).getD ⟨0, 0, 0, false, 0, 0, 0, [], 0, 0⟩
  let r : Rte := { r0 with
    rid := d.rid, state := .rebuilding, partition := d.part
    flags := { r0.flags with moving := false, bound := false, unprotected := d.alone, rebuilt := true }
    kvFormat := m.kvFormat, kvMap := d.objs.1, toklogAddr := d.objs.2, tokens := d.tokens
    genCount := d.tokens.length - r0.promptLen, jrnPartner := d.partner, jrnAckPos := d.tokens.length - 1
    emitPos := r0.promptLen - 1, mapEpoch := s.epochOf (ridComp d.rid), slot := 0xFFFFFFFF
    pages := List.replicate (kvPages m r0.promptLen r0.maxNew) 0
    hashDue := true, published := decide (r0.promptLen < d.tokens.length), bindSeq := s.step
    failedPartners := if d.alone then [d.partner] else [] }
  let s := (s.setSmv (fun x => { x with rebuilt := x.rebuilt.filter (fun y => y.rteIdx != d.rteIdx) })).freeStub d.rid
  let s := ((s.putRte d.rteIdx r).touch d.rteIdx).charge11
  let s := s.sendHome r
  if ridOrigin d.rid = s.selfDev then
    let s := s.acct r.tenant (fun e => { e with failedOver := e.failedOver + 1 })
    let live := match s.locator d.rid with
      | some l => l.state == 1
      | none => false
    s.locateAnswered d.rteIdx (if live then some (s.emitted d.rid) else none)
  else (s.updRte d.rteIdx (fun r => { r with askedHome := true })).sendLocate r 1

/-- Row 11's rebuilds. -/
def Chip.row11Rebuilds (s : Chip) : Chip := s.items 113 (·.rid) s.smv.rebuilt Chip.transition2

/-! ## Reply (R145) -/

/-- The Reply to a Seal: the Intent goes out, or the transfer is PREPARED (R145, R146). -/
def Chip.sealAnswered (s : Chip) (x : SrcXfer) (status : Nat) : Chip :=
  if status ≠ 0 then s.abortSrc x status true
  else if x.hdr.kind = 1 || x.hdr.kind = 2 then
    match s.partnerOf x.hdr.rid with
    | some p =>
      let s := s.updSrc x.hdr.seq (fun y => { y with state := .intending })
      s.send 1 p.1 p.2 x.hdr.srcPart ({ x.hdr with type := 4, epoch := s.epochOf (ridComp x.hdr.rid) }.toBytes
        ++ intentBody s.selfDev x.hdr.srcPart x.hdr.dstDev x.hdr.dstPart (x.hdr.step + 1))
    | none => s.abortSrc x St.noAnchor true
  else s.updSrc x.hdr.seq (fun y => { y with state := .prepared })

/-- A DUPLICATE Reply to an Open: its OUTCOME is the answer (R143, R156). What is committed, or superseded by a later rebuild, is done; what
is undecided is waited for; what was aborted has failed. -/
def Chip.openDuplicate (s : Chip) (x : SrcXfer) (outcome : Nat) : Chip :=
  if outcome = 1 || outcome = 4 then
    (s.updJournal x.hdr.rid (fun j => if x.hdr.kind = 6 then { j with homeLost := false } else j)).orderEnded x.order St.ok
  else if outcome = 3 then s.holdOrder x.order
  else s.orderFailed x.order St.duplicate true

/-- The Reply to an Open (R143, R145). [log 43, DEDUCED] -/
def Chip.openAnswered (s : Chip) (x : SrcXfer) (status outcome : Nat) (ecc : List WordErr) : Chip :=
  if status = 0 then s.startData x ecc
  else
    let s := (s.endSrc x 2).raise Pg.SMV 0
    if status = St.duplicate then s.openDuplicate x outcome else s.orderFailed x.order status true

/-- The Reply to an Intent (R145): PREPARED, or the transfer ends. A partner without the anchor, or one that is lost, leaves the request
UNPROTECTED (R96, R143). -/
def Chip.intentAnswered (s : Chip) (x : SrcXfer) (status : Nat) : Chip :=
  if status = 0 then s.updSrc x.hdr.seq (fun y => { y with state := .prepared })
  else
    let s := s.abortSrc { x with state := .sealed } status true
    if status = St.noAnchor || status = St.peerLost then
      match s.findRid x.hdr.rid with
      | some (i, _) => s.partnerLost i
      | none => s
    else s

/-- The Reply to a Commit, or the end of the Commit's message, ends the transfer (R145, R146). `applied` says that the destination has
acknowledged it: that ends a lease (R119), and the origin hears of a new partner (R150). -/
def Chip.commitAnswered (s : Chip) (x : SrcXfer) (applied : Bool) : Chip :=
  let s := s.endSrc x 1
  if !applied then s
  else if x.hdr.kind = 3 then s.endLease x.order.lease
  else if x.hdr.kind = 5 then s.partnerTold x.hdr.rid
  else s

/-- A sender that is answered "unknown request" for a request that is not homed here asks the origin for its current home (R102); the origin
itself has its locator table. -/
def Chip.askOrigin (s : Chip) (rid : Nat) (part : Nat) : Chip :=
  if (s.findRid rid).isSome || ridOrigin rid = s.selfDev then s
  else
    let comp := ridComp rid
    let op := match s.journal rid with
      | some j => le j.anchor 70 1
      | none => s.lowestPart comp (ridOrigin rid)
    let h : SHdr :=
      { type := 7, kind := 0, srcPart := part, dstPart := op, srcDev := s.selfDev, dstDev := ridOrigin rid, rid := rid,
        epoch := s.epochOf comp, step := s.step }
    s.send 1 (ridOrigin rid) op part (h.toBytes ++ queryBody 1)

/-- An answer about a transfer, wherever a Query of this device waits for it. -/
def Chip.queryAnswered (s : Chip) (h : SHdr) (o : Option Nat) : Chip :=
  let s := match s.dstX h.srcDev h.seq with
    | some x => if x.state = DstState.inDoubt && x.asked ≠ 0 then s.doubtAnswer x o else s
    | none => s
  match s.smv.intents.find? (fun (i : Intent) => i.hdr.srcDev == h.srcDev && i.hdr.seq == h.seq && i.asking != 0) with
  | some i => s.intentAnswer i o
  | none => s

/-- A Reply to one of this device's messages; `ecc` are the words found in error where it starts the sending of pages. -/
def Chip.takeReply (s : Chip) (src : MsgSrc) (bytes : Bytes) (ecc : List WordErr) : Chip :=
  if badMessage bytes 8 then s.malformed src bytes
  else
    let h := SHdr.ofBytes bytes
    let b := ReplyBody.ofBytes bytes
    let s := if b.status = 0 then s else s.noteErr b.status h.kind b.replyTo src.dev h.rid
    let x := if h.srcDev = s.selfDev then s.srcX h.seq else none
    let s := if b.status = St.unknown && b.replyTo != 7 && b.replyTo != 9 && b.replyTo != 0x0B then s.askOrigin h.rid src.dstPart else s
    match b.replyTo, x with
    | 1, some x => if x.state = .opening then s.openAnswered x b.status b.outcome ecc else s
    | 2, some x => if x.state.unprepared && b.status ≠ 0 then s.abortSrc x b.status true else s
    | 3, some x => if x.state = .sealed then s.sealAnswered x b.status else s
    | 4, some x => if x.state = .intending then s.intentAnswered x b.status else s
    | 5, some x => if x.state = .committed then
        s.commitAnswered x (b.status == 0 || (b.status == St.duplicate && b.outcome == 1)) else s
    | 7, _ => if h.seq = 0 then s else s.queryAnswered h (if b.status = St.unknown || b.status = St.moved then some 1 else some b.outcome)
    | 0x0B, _ =>
      match s.findRid h.rid with
      | some (i, r) => if r.askedHome then s.locateAnswered i (if b.status = 0 then some b.value else none) else s
      | none => s
    | 0x88, _ =>
      if b.status = St.moved then
        let s := s.updLocator h.rid (fun l => { l with device := b.homeDev, part := b.homePart })
        match s.locator h.rid with
        | some l => s.sendCancel l src.dstPart
        | none => s
      else s.updLocator h.rid (fun l => { l with cancel := true })
    | _, _ => s

/-! ## Messages the transport ended (R581) -/

/-- A State Mover message of this device that the transport ended, with the status R581 gives. -/
def Chip.smvEnded (s : Chip) (bytes : Bytes) (status dev : Nat) : Chip :=
  let h := SHdr.ofBytes bytes
  let s := s.noteErr status h.kind h.type dev h.rid
  let x := if h.srcDev = s.selfDev then s.srcX h.seq else none
  match h.type, x with
  | 1, some x => if x.state = .opening then s.openAnswered x status 0 [] else s
  | 2, some x => if x.state.unprepared then s.abortSrc x status true else s
  | 3, some x => if x.state.unprepared then s.abortSrc x status true else s
  | 4, some x => if x.state = .intending then s.intentAnswered x status else s
  | 5, some x => if x.state = .committed then s.commitAnswered x false else s
  | 7, _ => s.queryAnswered h none
  | 0x0B, _ =>
    match s.findRid h.rid with
    | some (i, r) => if r.askedHome && status ≠ St.peerLost then s.locateAnswered i none else s
    | none => s
  | _, _ => s

/-! ## Requests when a map epoch takes effect (R96, R103, R160) -/

/-- A device is no longer in the map in force: partners, origins. -/
def Chip.epochRequest (s : Chip) (comp : Nat) (i : Nat) : Chip :=
  match s.rte i with
  | some r =>
    if ridComp r.rid ≠ comp || r.state = .forward then s
    else if (s.memberRole comp s.selfDev r.partition).isNone then s.putRte i { r with lost := true }
    else if !s.present comp (ridOrigin r.rid) then s.endNow i 0x09
    else if r.jrnPartner ≠ 0xFFFF && !s.present comp r.jrnPartner then s.partnerLost i
    else s
  | none => s

/-- What a new map epoch of a composition does to the requests, the transfers and the journals here (R96, R103, R150, R154, R160). -/
def Chip.epochRequests (s : Chip) (comp : Nat) : Chip :=
  let s := s.each s.rtb.rtes.keys (fun s i => s.epochRequest comp i)
  let gone := s.smv.srcs.filter (fun x => x.state != .committed && ridComp x.hdr.rid == comp && (s.memberRole comp s.selfDev x.hdr.srcPart).isNone
    && x.hdr.kind != 6)
  let s := s.each gone (fun s x => s.abortSrc x St.peerLost true)
  let s := s.pursueIntents
  s.each ((s.rtb.journals.filter (fun j => ridComp j.rid == comp && !s.smv.intents.any (fun i => i.hdr.rid == j.rid))).map (·.rid)) Chip.checkHome

end Sys2Proof.Machine
end

