-- ==== Sys2Proof/Machine/Transport.lean ====
section
/-! DEFINITION. The receiving side of the transport (12): acknowledgement and retry at the sender (R369–R373), judgement and reassembly at
the receiver (R368, R375–R377), memory operations at the exporter (R386–R389). -/

namespace Sys2Proof.Machine

open Sys2Proof

/-! ## At the sender -/

/-- A packet leaves the retransmit store: its message is one fragment nearer its end, its fences one PSN. A STORE that is acknowledged
completes at its tile (R388). -/
def Chip.pktAcked (s : Chip) (c : Nat) (p : TxPkt) : Chip :=
  let s := s.fenceAck c p.psn
  match (s.tx c).msgs.find? (fun m => m.num == p.num) with
  | none => s
  | some m =>
    let n := m.acked + 1
    if n = m.frags then
      let s := (s.updTx c (fun x => { x with msgs := x.msgs.filter (fun y => y.num != m.num) })).fenceMsg m.num
      if m.op = 8 then s.emit (.loadDone m.tile m.num 0 []) else s
    else s.updTx c (fun x => { x with msgs := x.msgs.map (fun y => if y.num = m.num then { y with acked := n } else y) })

/-- May an answer under the open key act on a packet (R468)? -/
def actsOn (isOpen : Bool) (p : TxPkt) : Bool := !isOpen || p.openKey

/-- An ACK (R369, R371): frames acknowledged are freed; a LOAD waits for its LOAD_RESP. -/
def Chip.ackIn (s : Chip) (k : Packet) : Chip :=
  let c := ctxNo 0 k.srcDev k.tc
  let x := s.tx c
  if x.state ≠ .active then s
  else
    let cum := nearest (2 ^ 32) x.cum (k.psn + 1)
    let map := leNat (k.payload.take 128)
    let hit := fun (p : TxPkt) => actsOn k.openKey p && (decide (p.psn < cum) || (decide (p.psn < cum + 1024) && map.testBit (p.psn - cum)))
    let freed := x.pkts.filter (fun p => hit p && p.op != 6)
    let moved := x.cum < cum && (!k.openKey || x.pkts.any (fun p => hit p))
    let s := s.putTx c { x with
      pkts := (x.pkts.filter (fun p => !(hit p && p.op != 6))).map (fun p => if hit p then { p with acked := true } else p)
      cum := max x.cum cum
      expiries := if moved then 0 else x.expiries
      timeout := if moved then 8000 else x.timeout }
    let s := s.each freed (fun s p => s.pktAcked c p)
    let s := s.each (x.pkts.filter (fun p => hit p && p.op == 6)) (fun s p => s.fenceAck c p.psn)
    s.settleFences.pumpKeyed k.srcDev k.tc

/-- The same message again, whole, under new PSNs. -/
def TxMsg.again (m : TxMsg) (num : Nat) (wait : Bool) : TxMsg := { m with num := num, base := none, sent := 0, acked := 0, skip := false, wait := wait }

/-- Put an abandoned message at the head of its context once more. -/
def Chip.resendMsg (s : Chip) (c : Nat) (m : TxMsg) (wait : Bool) : Chip :=
  let n := s.xpt.nextNum
  let s := s.setXpt (fun x => { x with nextNum := n + 1 })
  s.updTx c (fun x => { x with msgs := m.again n wait :: x.msgs })

/-- NEED_SYNC (R372): every message not wholly acknowledged is sent again whole, after a new SYNC. -/
def Chip.resync (s : Chip) (peer tc : Nat) : Chip :=
  let c := ctxNo 0 peer tc
  let x := s.tx c
  let keep := x.msgs.filter (fun m => !m.skip)
  let s := s.putTx c { msgs := keep.map (fun m => m.again m.num m.wait) }
  (s.fenceRenumber c (keep.map (·.num))).settleFences.pumpKeyed peer tc

/-- A NAK (R372). -/
def Chip.nakIn (s : Chip) (k : Packet) : Chip :=
  let s := s.cnt Reg.XPT_NAK_RX
  let c := ctxNo 0 k.srcDev k.tc
  let x := s.tx c
  let reason := le k.payload 4 1
  match x.pkts.find? (fun p => p.psn % 2 ^ 32 == le k.payload 0 4 && actsOn k.openKey p) with
  | none => s
  | some p =>
    if x.state ≠ .active then s
    else if reason = 8 then s.resync k.srcDev k.tc
    else
      let s := (s.putTx c { x with pkts := x.pkts.filter (fun y => y.psn != p.psn) }).fenceAck c p.psn
      let s : Chip := match x.msgs.find? (fun m => m.num == p.num && !m.skip) with
        | none => s
        | some m =>
          let s := s.updTx c (fun y => y.abandon m)
          let member := ((s.compOf m.srcPart).bind (fun comp => s.memberRole comp k.srcDev m.dstPart)).isSome
          match reason with
          | 1 => if member then s.resendMsg c m false else s.endMsg k.srcDev 11 m
          | 2 => s.resendMsg c m true
          | r => s.endMsg k.srcDev r m
      s.settleFences.pumpKeyed k.srcDev k.tc

/-- A SYNC_ACK (R365). -/
def Chip.syncAckIn (s : Chip) (k : Packet) : Chip :=
  let c := ctxNo 0 k.srcDev k.tc
  let x := s.tx c
  if x.state = .syncing && x.session = le k.payload 4 4 then
    (s.putTx c { x with state := .active, expiries := 0, timeout := 8000 }).pumpKeyed k.srcDev k.tc
  else s

/-- Place a packet of the store again, unless a copy is still queued; without room it waits (R371, R402, R403). -/
def Chip.resendPkt (s : Chip) (peer tc : Nat) (p : TxPkt) : Chip :=
  let c := ctxNo 0 peer tc
  if s.copyQueued c p.psn then s
  else match s.route peer p.psn with
    | none => s
    | some l =>
      let part := bits (le p.frame 9 1) 2 0
      let q := s.originQueue l part tc
      let mark := fun (s : Chip) (b : Bool) => s.updTx c (fun x => { x with pkts := x.pkts.map (fun y => if y.psn = p.psn then { y with again := b } else y) })
      match s.queueFull l q (p.frame.length + 4) with
      | some b => if p.again then s else (mark s true).noteFull l q b
      | none => ((mark s false).placeFrame l part tc p.frame (some (c, p.psn))).cnt Reg.XPT_RETRY

/-- Resends that wait for room, in every context. -/
def Chip.resendWaiting (s : Chip) : Chip :=
  s.each s.xpt.ctxs (fun s c => match c.2 with
    | .tx x => s.each (x.pkts.filter (·.again)) (fun s p => s.resendPkt (c.1 / 8) (c.1 % 8) p)
    | .rx _ => s)

/-- A send context's retry timer expires (R371). [log 41, DEDUCED] -/
def Chip.retryExpired (s : Chip) (peer tc : Nat) : Chip :=
  let c := ctxNo 0 peer tc
  let x := s.tx c
  if x.state ≠ .syncing && (x.state ≠ .active || x.pkts.isEmpty) then s
  else if 7 ≤ x.expiries then s.declareLost peer
  else
    let s := s.putTx c { x with expiries := x.expiries + 1, timeout := min (2 * x.timeout) 1000000 }
    if x.state = .syncing then (s.sendSync peer tc).cnt Reg.XPT_RETRY
    else s.each x.pkts (fun s p => s.resendPkt peer tc p)

/-- A LOAD_RESP (R388): the LOAD ends at its tile. -/
def Chip.loadRespIn (s : Chip) (k : Packet) : Chip :=
  let c := ctxNo 0 k.srcDev k.tc
  let x := s.tx c
  match x.pkts.find? (fun p => p.op == 6 && p.psn % 2 ^ 32 == k.psn) with
  | none => s
  | some p =>
    let status := le k.payload 0 1
    let m := x.msgs.find? (fun y => y.num == p.num)
    let s := s.putTx c { x with pkts := x.pkts.filter (fun y => y.psn != p.psn), msgs := x.msgs.filter (fun y => y.num != p.num) }
    let s := (s.fenceAck c p.psn).fenceMsg p.num
    let s : Chip := match m with
      | some m => if status = 0 then s.emit (.loadDone m.tile m.num 0 (slice k.payload 16 64)) else s.endMsg k.srcDev status m
      | none => s
    s.settleFences.pumpKeyed k.srcDev k.tc

/-! ## Acknowledgement (R368, R369) -/

/-- Drop what EXPECT has passed: marks, and the names of messages refused or discarded. -/
def RxCtx.advance : Nat → RxCtx → RxCtx
  | 0, x => x
  | n + 1, x => if x.marks.contains x.expect then RxCtx.advance n { x with expect := x.expect + 1, marks := x.marks.filter (· != x.expect) } else x

/-- A PSN is marked. -/
def RxCtx.mark (x : RxCtx) (psn : Nat) : RxCtx :=
  let x := RxCtx.advance 1025 { x with marks := insertNat psn x.marks }
  { x with msgs := x.msgs.filter (fun m => !(m.closed && decide (m.base + max 1 (ceilDiv m.len 4096) ≤ x.expect))) }

/-- The 128-byte SACK map. -/
def RxCtx.sack (x : RxCtx) : Bytes :=
  toLE 128 (((x.marks.filter (fun p => decide (p < x.expect + 1024))).map (fun p => 2 ^ (p - x.expect))).foldl (· + ·) 0)

/-- Send the ACK of a receive context. -/
def Chip.ackNow (s : Chip) (peer tc : Nat) : Chip :=
  let c := ctxNo 1 peer tc
  let x := s.rx c
  (s.putRx c { x with owed := 0 }).sendControl 2 peer tc 0 x.parts.2 x.parts.1 (x.expect + 2 ^ 32 - 1) x.sack x.openKey

/-- An arrival is owed an acknowledgement; the sixteenth sends it. -/
def Chip.owe (s : Chip) (k : Packet) : Chip :=
  let c := ctxNo 1 k.srcDev k.tc
  let s := s.updRx c (fun x => { x with owed := x.owed + 1, parts := (k.srcPart, k.dstPart), openKey := k.openKey })
  if 16 ≤ (s.rx c).owed then s.ackNow k.srcDev k.tc else s

/-- Send a NAK about a packet (R370). -/
def Chip.sendNak (s : Chip) (k : Packet) (reason : Nat) : Chip :=
  let epoch := ((s.compOf k.dstPart).map s.epochOf).getD 0
  let s := s.cnt Reg.XPT_NAK_TX
  let s := if reason = 1 then (s.cnt Reg.XPT_STALE).raise Pg.XPT 3 else s
  s.sendControl 3 k.srcDev k.tc 0 k.dstPart k.srcPart k.psn (toLE 4 k.psn ++ toLE 1 reason ++ zeros 3 ++ toLE 4 epoch ++ zeros 4) k.openKey

/-- Refuse a packet: a NAK, and its PSN counts as marked. -/
def Chip.refuse (s : Chip) (k : Packet) (psn reason : Nat) : Chip :=
  ((s.sendNak k reason).updRx (ctxNo 1 k.srcDev k.tc) (fun x => x.mark psn)).owe k

/-! ## Judgement by epoch, membership and service (R361, R370, R394) -/

/-- Is a partition of a device a member of a map? -/
def CompMap.has (m : CompMap) (dev part : Nat) : Bool := m.members.any (fun x => x.dev == dev && x.part == part)

/-- A unit's service is disabled (R361). -/
def Chip.svcOff (s : Chip) (svc : Nat) : Bool :=
  match svc with
  | 2 => !s.active Pg.RTB F.RTB_CFG_EN
  | 3 => !s.active Pg.PFX F.PFX_CFG_EN
  | 4 => !s.active Pg.SCH F.SCH_CFG_EN
  | n => n == 0 || decide (8 < n)

/-- Both partitions of a packet are members of a map: 0, else NOT_MEMBER. A peer declared lost is no member until an epoch names it. -/
def Chip.memberCheck (s : Chip) (m : CompMap) (k : Packet) : Nat :=
  if m.has k.srcDev k.srcPart && m.has s.selfDev k.dstPart && !s.flt.gone.contains k.srcDev then 0 else 3

/-- The NAK reason that the epoch and the membership of a packet give; 0 where it is accepted. -/
def Chip.judgeEpoch (s : Chip) (k : Packet) : Nat :=
  let named := s.xpt.proposals.find? (fun p => p.map.epoch == k.epoch && p.complete && p.map.has s.selfDev k.dstPart)
  match s.compOf k.dstPart with
  | none => match named with | some p => s.memberCheck p.map k | none => 3
  | some c =>
    match s.map c with
    | none => 3
    | some m =>
      if k.epoch = m.epoch then s.memberCheck m k
      else if k.epoch < m.epoch then
        match s.xpt.lastMap.find c with
        | some (old, last) => if old.epoch = k.epoch && s.step ≤ last then s.memberCheck old k else 1
        | none => 1
      else match named with
        | some p => if p.map.comp = c then s.memberCheck p.map k else 2
        | none => 2

/-- A packet of a member that carries an epoch pending or lapsed here makes it take effect in the next row 4 (R393). [log 54, DEDUCED] -/
def Chip.noteEpoch (s : Chip) (k : Packet) : Chip :=
  let hit := fun (p : Proposal) => p.map.epoch == k.epoch && !p.complete && p.map.members.any (fun m => m.dev == k.srcDev && m.part == k.srcPart)
    && p.map.members.any (fun m => m.dev == s.selfDev)
  if k.svc = 0 || k.svc = 8 then s
  else s.setXpt (fun x => { x with proposals := x.proposals.map (fun p => if hit p then { p with late := true } else p) })

/-- The checks of R370 on a packet of SERVICE 1–8. -/
def Chip.judgePacket (s : Chip) (k : Packet) : Nat :=
  let e := if k.svc = 8 then 0 else s.judgeEpoch k
  if e ≠ 0 then e else if s.svcOff k.svc then 4 else 0

/-! ## Reassembly (R374–R377) -/

/-- Bytes in the reassembly store. -/
def Chip.reasmBytes (s : Chip) : Nat :=
  (s.xpt.ctxs.map (fun c => match c.2 with
    | .rx x => (x.msgs.map (fun m => (m.frags.map (fun f => f.2.length)).foldl (· + ·) 0)).foldl (· + ·) 0
    | .tx _ => 0)).foldl (· + ·) 0

/-- Replace the record of a message, or add it. -/
def RxCtx.putMsg (x : RxCtx) (m : RxMsg) : RxCtx := { x with msgs := x.msgs.filter (fun y => y.base != m.base) ++ [m] }

/-- Forget a message. -/
def RxCtx.dropMsg (x : RxCtx) (base : Nat) : RxCtx := { x with msgs := x.msgs.filter (fun y => y.base != base) }

/-- Hand a completed message to its unit. What came under the open key may only be handshake traffic (R468). -/
def Chip.completeMsg (s : Chip) (peer : Nat) (m : RxMsg) : Chip :=
  let bytes := m.frags.flatMap (·.2)
  if m.openKey && !(m.svc == 8 && (le bytes 0 1 == 0x10 || le bytes 0 1 == 0x11)) then s
  else s.deliver m.svc ⟨peer, m.srcPart, m.dstPart, m.step⟩ bytes

/-- Discard a message as malformed: its name is kept, and its fragments are refused. [log 41, DEDUCED] -/
def Chip.discardMsg (s : Chip) (k : Packet) (psn : Nat) (m : RxMsg) : Chip :=
  let c := ctxNo 1 k.srcDev k.tc
  (((s.updRx c (fun x => x.putMsg { m with frags := [], refused := 9 })).cnt Reg.XPT_REASM_BAD).raise Pg.XPT 4).refuse k psn 9

/-- The tile that an exchange message reaches: its DST_ADDR lies in the scratch of a served logical tile of the partition (R380). -/
def Chip.exchangeTile (s : Chip) (part : Nat) (b : Bytes) : Option Nat :=
  let a := le b 8 8
  let lt := a / 0x2000000
  if inT0 a && a % 0x2000000 + le b 4 4 ≤ 24 * 2 ^ 20 && s.ltOwner lt == some part then s.physOf lt else none

/-- Does fragment 0 of an exchange message name an address outside the partition's tiles? -/
def Chip.exchangeOut (s : Chip) (k : Packet) : Bool := k.svc == 6 && k.frag == 0 && (s.exchangeTile k.dstPart k.payload).isNone

/-- Store a fragment of an open message. -/
def Chip.storeFrag (s : Chip) (k : Packet) (psn : Nat) (m : RxMsg) : Chip :=
  let c := ctxNo 1 k.srcDev k.tc
  if m.skip || k.msgLen ≠ m.len || m.len < 4096 * k.frag || k.payload.length ≠ min 4096 (m.len - 4096 * k.frag) || (k.frag ≠ 0 && k.payload.isEmpty) then
    s.discardMsg k psn m
  else if s.exchangeOut k then (s.updRx c (fun x => x.putMsg { m with frags := [], refused := 7 })).refuse k psn 7
  else if s.reasmBytes + k.payload.length > 2 ^ 28 then s.cnt Reg.XPT_REASM_DROP
  else
    let m := { m with frags := m.frags.put k.frag k.payload, openKey := m.openKey || k.openKey }
    if (m.frags.map (fun f => f.2.length)).foldl (· + ·) 0 = m.len then
      let s := s.updRx c (fun x => { (x.dropMsg m.base).mark psn with parts := (k.srcPart, k.dstPart), openKey := k.openKey })
      (s.ackNow k.srcDev k.tc).completeMsg k.srcDev m
    else (s.updRx c (fun x => (x.putMsg m).mark psn)).owe k

/-- A fragment within the window. [log 41, DEDUCED] -/
def Chip.fragIn (s : Chip) (k : Packet) (psn : Nat) : Chip :=
  let c := ctxNo 1 k.srcDev k.tc
  let base := psn - k.frag
  match (s.rx c).msgs.find? (fun m => m.base == base) with
  | some m => if m.refused ≠ 0 then s.refuse k psn m.refused else s.storeFrag k psn m
  | none =>
    let r := s.judgePacket k
    let m : RxMsg := { base := base, len := k.msgLen, svc := k.svc, srcPart := k.srcPart, dstPart := k.dstPart, step := nearest 65536 s.step k.step
                       epoch := k.epoch, since := s.alm.now, refused := r }
    if r ≠ 0 then (s.updRx c (fun x => x.putMsg m)).refuse k psn r
    else if 16384 ≤ s.reasmOpen then s.cnt Reg.XPT_REASM_DROP
    else s.storeFrag k psn m

/-- A SKIP consumes its PSN (R368); fragments of its message that arrive later are refused (R375). -/
def Chip.skipIn (s : Chip) (k : Packet) (psn : Nat) : Chip :=
  let c := ctxNo 1 k.srcDev k.tc
  let base := psn - k.frag
  let m : RxMsg := match (s.rx c).msgs.find? (fun m => m.base == base) with
    | some m => { m with skip := true }
    | none => { base := base, len := k.msgLen, svc := k.svc, srcPart := k.srcPart, dstPart := k.dstPart, step := s.step, epoch := k.epoch
                since := s.alm.now, skip := true }
  (s.updRx c (fun x => (x.putMsg m).mark psn)).owe k

/-! ## Memory operations at the exporter (R386–R389) -/

/-- Where an operation of an export leads: NAK reason, and the device address of its 64 bytes. -/
def Chip.exportCheck (s : Chip) (k : Packet) : Nat × Nat :=
  let off := le k.payload 8 8
  match s.xpt.exports.find (le k.payload 0 2) with
  | none => (5, 0)
  | some x =>
    if x.gen ≠ le k.payload 2 2 then (5, 0)
    else if off % 64 ≠ 0 || x.size < off + 64 then (6, 0)
    else if !bit x.rights (if k.op = 6 then 0 else 1) || x.part ≠ k.dstPart
        || !(x.any || (x.peerDev == k.srcDev && x.peerPart == k.srcPart)) then (7, 0)
    else (0, objBase + x.obj * 2 ^ 36 + x.off + off)

/-- The judgement of a memory operation when it arrives. [log 54, DEDUCED] -/
def Chip.judgeOp (s : Chip) (k : Packet) : Nat × Nat :=
  let r := s.judgePacket k
  if r ≠ 0 then (r, 0)
  else if k.payload.length ≠ (if k.op = 6 then 16 else 80) then (9, 0)
  else s.exportCheck k

/-- A refusal as exporter is counted (R397). -/
def Chip.noteRefused (s : Chip) (reason : Nat) : Chip :=
  if 5 ≤ reason && reason ≤ 7 then (s.cnt Reg.XPT_WIN_REFUSED).raise Pg.XPT 8 else s

/-- Answer a LOAD. -/
def Chip.answerLoad (s : Chip) (k : Packet) (status : Nat) (data : Bytes) : Chip :=
  s.sendControl 7 k.srcDev k.tc 7 k.dstPart k.srcPart k.psn (toLE 1 status ++ zeros 15 ++ (if status = 0 then padTo 64 data else zeros 64)) false

/-- Serve a LOAD: the 64 bytes, or DAMAGED. -/
def Chip.serveLoad (s : Chip) (k : Packet) (reason addr : Nat) (ecc : List WordErr) : Chip :=
  if reason ≠ 0 then (s.noteRefused reason).answerLoad k reason []
  else match s.resolve addr with
    | .phys a =>
      let (s, ok) := s.access 2 a 64 ecc
      match s.readPhys a 64 with
      | some bs => if ok && !s.stackDown a then s.answerLoad k 0 bs else s.answerLoad k 10 []
      | none => s.answerLoad k 10 []
    | _ => s.answerLoad k 6 []

/-- Apply a STORE. -/
def Chip.applyStore (s : Chip) (addr : Nat) (data : Bytes) : Chip :=
  match s.resolve addr with
  | .phys a => if s.stackDown a then s else (s.writePhys false a (padTo 64 data)).markDirty a 64
  | _ => s

/-- Is a LOAD with a verdict answered by a LOAD_RESP, whose STATUS has no other codes (R389)? -/
def loadAnswers (reason : Nat) : Bool := reason == 0 || (decide (5 ≤ reason) && decide (reason ≤ 7))

/-- One memory operation whose turn has come. -/
def Chip.runOp (s : Chip) (o : MemOp) (ecc : List WordErr) : Chip :=
  let k := o.pkt
  let c := ctxNo 1 k.srcDev k.tc
  if k.op = 6 then
    if loadAnswers o.reason then ((s.serveLoad k o.reason o.addr ecc).updRx c (fun x => x.mark o.psn)).owe k
    else s.refuse k o.psn o.reason
  else if o.reason = 0 then ((s.applyStore o.addr (k.payload.drop 16)).updRx c (fun x => x.mark o.psn)).owe k
  else (s.noteRefused o.reason).refuse k o.psn o.reason

/-- Operations whose lower PSNs have all been received run in order (R387). -/
def Chip.runOps (c : Nat) (ecc : List WordErr) : Nat → Chip → Chip
  | 0, s => s
  | n + 1, s =>
    let x := s.rx c
    match x.ops.find? (fun o => o.psn == x.expect) with
    | some o => Chip.runOps c ecc n ((s.putRx c { x with ops := x.ops.filter (fun y => y.psn != o.psn) }).runOp o ecc)
    | none => s

/-- A memory operation within the window waits for its turn. -/
def Chip.opIn (s : Chip) (k : Packet) (psn : Nat) : Chip :=
  let c := ctxNo 1 k.srcDev k.tc
  let (r, a) := s.judgeOp k
  s.updRx c (fun x => { x with ops := x.ops.filter (fun o => o.psn != psn) ++ [⟨psn, k, r, a, le k.payload 0 2⟩] })

/-! ## Numbered packets -/

/-- A packet of OP 0x1, 0x6, 0x8 or 0x9 (R365, R368). -/
def Chip.numberedIn (s : Chip) (k : Packet) (ecc : List WordErr) : Chip :=
  let c := ctxNo 1 k.srcDev k.tc
  let x := s.rx c
  let s := s.noteEpoch k
  if !x.active then s.sendNak k 8
  else
    let psn := nearest (2 ^ 32) x.expect k.psn
    if psn < x.expect || x.marks.contains psn then
      let s := s.cnt Reg.XPT_DUP
      let s := if k.op = 6 then let (r, a) := s.judgeOp k; if loadAnswers r then s.serveLoad k r a ecc else s.sendNak k r else s
      s.owe k
    else if x.expect + 1024 ≤ psn then s.cnt Reg.XPT_OUT_WINDOW
    else
      let s := if k.op = 9 then s.skipIn k psn else if k.op = 1 then s.fragIn k psn else s.opIn k psn
      Chip.runOps c ecc 1025 s

/-- A SYNC (R365). [log 41, DEDUCED] -/
def Chip.syncIn (s : Chip) (k : Packet) : Chip :=
  let c := ctxNo 1 k.srcDev k.tc
  let x := s.rx c
  let start := le k.payload 0 4
  let session := le k.payload 4 4
  let s := if x.active && x.session = session then s else s.putRx c { active := true, session := session, expect := start, parts := (k.srcPart, k.dstPart) }
  s.sendControl 5 k.srcDev k.tc 0 k.dstPart k.srcPart k.psn (padTo 16 k.payload) k.openKey

end Sys2Proof.Machine
end

