-- ==== Sys2Proof/Machine/Maps.lean ====
section
/-! DEFINITION. Composition maps (12): proposals and their checks (R390–R392), Votes and the deadline (R393), and a map epoch that takes
effect (R394, R395, R579). -/

namespace Sys2Proof.Machine

open Sys2Proof

/-! ## The image (R390) -/

/-- The role a code names. -/
def roleOf : Nat → Role
  | 1 => .prompt | 2 => .generation | 3 => .cache | _ => .unassigned

/-- Code of a role. -/
def Role.code : Role → Nat
  | .unassigned => 0 | .prompt => 1 | .generation => 2 | .cache => 3

/-- Bytes of a map image with n members. -/
def mapSize (n : Nat) : Nat := 128 + 16 * n

/-- Entry i of a map image. -/
def mapEntry (b : Bytes) (i : Nat) : Bytes := slice b (mapSize i) 16

/-- The fields of an image as they stand. -/
def mapFields (b : Bytes) : CompMap :=
  { comp := le b 2 2, epoch := le b 4 4, step := le b 8 8
    plan := ⟨le b 20 4, le b 24 4, le b 28 4, le b 32 4⟩
    members := (List.range (min (le b 16 2) 4096)).map (fun i =>
      let e := mapEntry b i
      ⟨le e 0 2, le e 2 1, roleOf (le e 3 1), le e 8 8⟩) }

/-- Is an image whole: of VERSION 1, with no more members than a map may have, and as long as they need? -/
def mapWhole (b : Bytes) : Bool := le b 0 1 == 1 && decide (le b 16 2 ≤ 4096) && decide (mapSize (le b 16 2) ≤ b.length)

/-- The map of an image; none where it is malformed or names one partition twice (R391, result 1). -/
def mapOfBytes (b : Bytes) : Option CompMap :=
  let m := mapFields b
  let keys := m.members.map (fun k => (k.dev, k.part))
  if mapWhole b && keys.all (fun k => decide (k.2 ≤ 7)) && (List.range m.members.length).all (fun i => decide (le (mapEntry b i) 3 1 ≤ 3))
      && keys.eraseDups.length == keys.length then some m
  else none

/-- PREV_DIGEST of an image. [log 54, DEDUCED] -/
def prevDigest (b : Bytes) : Bytes := slice b 64 64

/-- Devices of a map, each once. -/
def CompMap.devices (m : CompMap) : List Nat := (m.members.map (·.dev)).eraseDups

/-! ## The checks (R26, R391) -/

/-- Is a partition home to request state (R32)? -/
def Chip.homes (s : Chip) (p : Nat) : Bool := s.rtb.rtes.any (fun x => x.2.partition == p && x.2.state != .forward && x.2.state != .free)

/-- OWNER of position i of the calendar in force on link l (R404). -/
def Chip.calOwner (s : Chip) (l i : Nat) : Nat := bits (s.rd (regAt (Pg.cal l) (Reg.CAL_CUR_LO + 8 * i))) 27 24

/-- Has a partition a calendar slot on some link (R26)? -/
def Chip.hasSlot (s : Chip) (p : Nat) : Bool := (List.range 48).any (fun l => (List.range 64).any (fun i => s.calOwner l i == p && !(s.shp l).dead.contains i))

/-- Does a partition meet the minima of R26 for a role? -/
def Chip.enough (s : Chip) (p : Nat) (r : Role) : Bool :=
  r == .unassigned
    || (!(s.stacksOf p).isEmpty && s.hasSlot p && decide (1 ≤ bits (s.rd (Reg.RTB_RANGE_CUR + 4 * p)) 16 8)
        && (r == .cache || (List.range 64).any (fun lt => s.ltOwner lt == some p)))

/-- Plans that the module's other compositions hold in force or pending (R47). -/
def Chip.otherPlans (s : Chip) (comp : Nat) : List Plan :=
  ((s.parts.filterMap (·.comp)).filter (· != comp)).flatMap (fun c =>
    ((s.map c).map (·.plan)).toList ++ (s.xpt.proposals.filter (fun p => p.map.comp == c && !p.lapsed)).map (·.map.plan))

/-- Does a member entry of this device fail check 5? -/
def Chip.memberUnfit (s : Chip) (comp : Nat) (m : Member) : Bool :=
  m.dev == s.selfDev && (!s.partExists m.part || (match s.compOf m.part with
    | some c => c != comp
    | none => false) || !s.enough m.part m.role)

/-- Does the epoch of a proposal not follow the map in force (check 2)? A device that holds no map of the composition has epoch 0 in force
there, as XPT_MAP_EPOCH reads (R397), and no predecessor to name (DEDUCED). [log 54, DEDUCED] -/
def Chip.epochWrong (s : Chip) (m : CompMap) (prev : Bytes) : Bool :=
  match s.map m.comp with
  | some cur => m.epoch != cur.epoch + 1 || prev != padTo 64 (s.xpt.digests.getD m.comp [])
  | none => m.epoch != 1 || !allZero prev

/-- RESULT of a well-formed proposal (R391). A device that is not locked joins no composition (R56): it has no step of its own by which
EFFECTIVE_STEP could be late enough. [log 54, DEDUCED] -/
def Chip.checkMap (s : Chip) (m : CompMap) (prev : Bytes) : Nat :=
  if s.epochWrong m prev then 2
  else if !s.locked || m.step < s.step + 2 then 3
  else if !m.plan.legal || (s.otherPlans m.comp).any (· != m.plan) then 4
  else if m.members.any (s.memberUnfit m.comp) then 5
  else if m.members.isEmpty && ((below 8 (fun p => s.compOf p == some m.comp && s.homes p)).length != 0
      || s.rtb.journals.any (fun j => ridComp j.rid == m.comp)) then 6
  else if s.xpt.proposals.any (fun p => p.map.comp == m.comp && !p.lapsed) then 7
  else 0

/-! ## Votes (R392, R393) -/

/-- A Vote. -/
def voteMsg (status : Nat) (m : CompMap) (dig : Bytes) (voter : Nat) : Bytes :=
  [1] ++ toLE 1 status ++ toLE 2 m.comp ++ toLE 4 m.epoch ++ toLE 8 m.step ++ padTo 64 dig ++ toLE 2 voter ++ zeros 14

/-- Send a Vote to every other device of a map. -/
def Chip.sendVotes (s : Chip) (status : Nat) (m : CompMap) (dig : Bytes) : Chip :=
  s.each (m.devices.filter (· != s.selfDev)) (fun s d => s.send 8 d 0 0 (voteMsg status m dig s.selfDev))

/-- Accepting Votes held for a proposal. -/
def Chip.votesFor (s : Chip) (p : Proposal) : Nat :=
  ((p.map.devices.filter (· != s.selfDev)).filter (fun d => s.xpt.votes.contains (p.map.comp, p.map.epoch, d, p.digest))).length

/-- A watched peer is counted present from the moment its watch begins. -/
def Chip.noteWatched (s : Chip) : Chip :=
  s.each s.watched (fun s d => if (s.flt.seen.find d).isSome then s else s.setFlt (fun f => { f with seen := f.seen.put d s.alm.now }))

/-- Votes have come or a proposal has: which proposals are complete, and XPT_MAP_STAT.VOTES. -/
def Chip.countVotes (s : Chip) : Chip :=
  let full := fun (s : Chip) (p : Proposal) => s.votesFor p == (p.map.devices.filter (· != s.selfDev)).length
  let s := s.setXpt (fun x => { x with proposals := x.proposals.map (fun p => if !p.lapsed && full s p then { p with complete := true } else p) })
  let n := match s.xpt.proposals.find? (fun p => p.map.comp == s.xpt.lastProp && !p.lapsed) with
    | some p => s.votesFor p
    | none => 0
  (s.wf F.XPT_MAP_STAT_VOTES (min n 65535)).noteWatched

/-- The plan of an accepted map is the pending plan (R47, R48). -/
def Chip.showPlan (s : Chip) (m : CompMap) : Chip :=
  let s := ((((s.wr Reg.ALM_CADENCE m.plan.c).wr Reg.ALM_BW_LEN m.plan.w).wr Reg.ALM_EXCH_START m.plan.x).wr Reg.ALM_SETTLE_START m.plan.s).wr64
    Reg.ALM_PLAN_STEP_LO m.step
  (s.wf F.ALM_PLAN_CTRL_ARM 1).wf F.ALM_PLAN_CTRL_SOURCE 1

/-- The plan registers after a plan has taken effect or was dropped: the plan of the map accepted last of those still pending; with none,
no plan is pending. [log 22, DEDUCED] -/
def Chip.showPending (s : Chip) (l : List Proposal) : Chip :=
  match l.getLast? with
  | some p => s.showPlan p.map
  | none => s.wf F.ALM_PLAN_CTRL_ARM 0

/-- A map is accepted: roles pending (R31), partitions belong to the composition (R48), its plan is the pending plan (R47), Votes sent. [log 22, DEDUCED] -/
def Chip.acceptMap (s : Chip) (m : CompMap) (dig : Bytes) : Chip :=
  let s := s.setXpt (fun x => { x with
    proposals := x.proposals.filter (fun p => p.map.comp != m.comp) ++ [{ map := m, digest := dig }]
    lastProp := m.comp })
  let s := s.each (m.members.filter (fun k => k.dev == s.selfDev)) (fun s k => s.setPart k.part (fun p =>
    { p with comp := some m.comp, pending := if p.due.getD p.role = k.role then none else some k.role, since := s.step + 1 }))
  let s := s.showPlan m
  let s := (s.wf F.XPT_MAP_STAT_RESULT 0).wf F.XPT_MAP_STAT_STATE 1
  (s.sendVotes 0 m dig).countVotes

/-- A proposal is placed (R391). An image that is refused as malformed is voted against where its members can be read. [log 54, DEDUCED] -/
def Chip.propose (s : Chip) (image : Bytes) : Chip :=
  match mapOfBytes image with
  | none =>
    let s := (s.wf F.XPT_MAP_STAT_RESULT 1).raise Pg.XPT 5
    if mapWhole image then s.sendVotes 1 (mapFields image) (digest (image.take (mapSize (le image 16 2)))) else s
  | some m =>
    let img := padTo (mapSize m.members.length) image
    let dig := digest img
    match s.checkMap m (prevDigest img) with
    | 0 => s.acceptMap m dig
    | r => ((s.wf F.XPT_MAP_STAT_RESULT r).raise Pg.XPT 5).sendVotes 1 m dig

/-- A proposal lapses (R393): the roles and the plan it made pending are dropped, and partitions it alone named leave the composition
(R48). [log 22, DEDUCED] -/
def Chip.lapse (s : Chip) (p : Proposal) : Chip :=
  let c := p.map.comp
  let inForce := fun (s : Chip) (q : Nat) => match s.map c with
    | some m => m.has s.selfDev q
    | none => false
  let s := s.setXpt (fun x => { x with proposals := x.proposals.map (fun y => if y.map.comp = c then { y with lapsed := true, complete := false } else y) })
  let s := s.each (List.range 8) (fun s q =>
    if s.compOf q = some c then
      s.setPart q (fun y => { y with pending := none, comp := if inForce s q then some c else none })
    else s)
  let s := if s.rf F.ALM_PLAN_CTRL_SOURCE = 1 then s.showPending (s.xpt.proposals.filter (fun y => !y.lapsed)) else s
  let s := if c = s.xpt.lastProp then (s.wf F.XPT_MAP_STAT_STATE 2).wf F.XPT_MAP_STAT_VOTES 0 else s
  s.raise Pg.XPT 6

/-- The deadline of proposals for the next step: those without every accepting Vote lapse (R393). -/
def Chip.voteDeadline (s : Chip) : Chip :=
  s.each (s.xpt.proposals.filter (fun p => !p.lapsed && !p.complete && decide (p.map.step ≤ s.step + 1))) Chip.lapse

/-! ## An epoch takes effect (R394, R395) -/

/-- An export is revoked. -/
def Chip.dropExport (s : Chip) (e : Nat) : Chip := s.setXpt (fun x => { x with exports := x.exports.del e })

/-- The plan of a map adopted late (R579): in force from the first step of the new plan that begins after the adoption. [log 22, DEDUCED] -/
def Chip.adoptPlanLate (s : Chip) (m : CompMap) : Chip :=
  let base := s.stepTime m.step
  let len := 10 * max 1 m.plan.c
  let k := (s.alm.now - base) / len + 1
  let s : Chip := { s with alm := { s.alm with late := some ⟨m.plan, base, m.step, base + k * len⟩ } }
  s.showPending (s.xpt.proposals.filter (fun p => !p.lapsed && p.map.comp != m.comp))

/-- Local partitions take their place in a map: the composition they belong to and the role that row 8 will give them. -/
def Chip.placeParts (s : Chip) (m : CompMap) : Chip :=
  s.each (List.range 8) (fun s q =>
    match m.members.find? (fun k => k.dev == s.selfDev && k.part == q) with
    | some k => s.setPart q (fun p => { p with comp := some m.comp, pending := none, due := if k.role = p.role then none else some k.role })
    | none =>
      if s.compOf q = some m.comp then
        s.setPart q (fun p => { p with comp := none, pending := none, due := if p.role = .unassigned then none else some .unassigned })
      else s)

/-- A map takes effect in row 4. [log 54, DEDUCED] -/
def Chip.adoptMap (s : Chip) (p : Proposal) (late : Bool) : Chip :=
  let m := p.map
  let had := (List.range 8).filter (fun q => s.compOf q == some m.comp)
  let s := if late then (s.cnt Reg.XPT_MAP_LATE).adoptPlanLate m else s
  let s := s.setXpt (fun x => { x with
    lastMap := match x.maps.find m.comp with
      | some old => x.lastMap.put m.comp (old, s.step + 1)
      | none => x.lastMap
    maps := x.maps.put m.comp m
    digests := x.digests.put m.comp p.digest
    proposals := x.proposals.filter (fun y => y.map.comp != m.comp)
    votes := x.votes.filter (fun v => !(v.1 == m.comp && decide (v.2.1 ≤ m.epoch))) })
  let s := s.placeParts m
  let s := if m.comp = s.xpt.lastProp then (s.wf F.XPT_MAP_STAT_STATE 3).wf F.XPT_MAP_STAT_VOTES 0 else s
  let left := had.filter (fun q => s.compOf q != some m.comp)
  let s := s.setXpt (fun x => { x with
    windows := x.windows.filter (fun w => !(had.contains w.2.part && !m.devices.contains w.2.dev))
    exports := x.exports.filter (fun e => !left.contains e.2.part) })
  let lostPeers := s.flt.gone
  let s := s.each lostPeers Chip.flushCtxs
  let s := s.setFlt (fun f => { f with gone := f.gone.filter (fun d => !m.devices.contains d) })
  let s := (s.epochRequests m.comp).noteWatched
  let s := s.setFlt (fun f => { f with seen := f.seen.filter (fun x => s.watched.contains x.1) })
  if m.members.isEmpty then s.setXpt (fun x => { x with maps := x.maps.del m.comp, digests := x.digests.del m.comp }) else s

/-- Row 4: epochs that are due, or that a packet has made due (R393); the drain window of an older one runs out by its step number. -/
def Chip.row4 (s : Chip) : Chip :=
  s.each (s.xpt.proposals.filter (fun p => decide (p.map.step ≤ s.step) && (p.complete || p.late))) (fun s p => s.adoptMap p (!p.complete || p.lapsed))

end Sys2Proof.Machine
end

