-- ==== Sys2Proof/Machine/SchedOps.lean ====
section
/-! DEFINITION. Shared operations of the scheduler (07): gangs (R204), the order of precedence (R205), Bids and Offers (R206, R218), the
fitness of programs (R201, R226), page allocation (R247), residency (R223, R224) and voids (R203). -/

namespace Sys2Proof.Machine

open Sys2Proof

/-- Change the scheduler block. -/
def Chip.setSch (s : Chip) (f : Sch → Sch) : Chip := { s with sch := f s.sch }

/-- Are selection and binding enabled (R234)? -/
def Chip.schOn (s : Chip) : Bool := s.active Pg.SCH F.SCH_CFG_EN

/-- A field of SCH_PART_CFG_p. -/
def Chip.schPart (s : Chip) (p : Nat) (f : Fld) : Nat := s.rf (f.plus (4 * p))

/-- SCH_GANG_MODEL_p; 0 for none. -/
def Chip.gangModel (s : Chip) (p : Nat) : Nat := s.rd (Reg.SCH_GANG_MODEL + 4 * p) % 65536

/-! ## Gangs (R204) -/

/-- MEMBERS of a partition's gang; 0 is a gang of one whose table is not read. -/
def Chip.gangMembers (s : Chip) (p : Nat) : Nat := min 64 (s.schPart p F.SCH_PART_CFG_MEMBERS)

/-- The first MEMBERS entries of the gang table: device, partition, valid. -/
def Chip.gangTable (s : Chip) (p : Nat) : List (Nat × Nat × Bool) :=
  let n := s.gangMembers p
  let t := s.tableAt (s.rd64 Reg.SCH_GANG_BASE_LO + 256 * p) (4 * n)
  (List.range n).map (fun i => (le t (4 * i) 2, le t (4 * i + 2) 1, bit (le t (4 * i + 3) 1) 7))

/-- Members of the gang, this partition among them. -/
def Chip.gang (s : Chip) (p : Nat) : List (Nat × Nat) :=
  if s.gangMembers p = 0 then [(s.selfDev, p)] else ((s.gangTable p).filter (fun e => e.2.2)).map (fun e => (e.1, e.2.1))

/-- Is the table whole: every entry valid, this partition in it exactly once? [log 53, DEDUCED] -/
def Chip.gangWhole (s : Chip) (p : Nat) : Bool :=
  s.gangMembers p == 0
    || ((s.gangTable p).all (fun e => e.2.2) && ((s.gang p).filter (fun e => e == (s.selfDev, p))).length == 1)

/-- The other members. -/
def Chip.gangPeers (s : Chip) (p : Nat) : List (Nat × Nat) := (s.gang p).filter (fun e => e != (s.selfDev, p))

/-- The number of members a program must be compiled for. -/
def Chip.gangSize (s : Chip) (p : Nat) : Nat := max 1 (s.gangMembers p)

/-- Send a Void for the current step to every other member (R203, R206). -/
def Chip.sendVoid (s : Chip) (p reason : Nat) : Chip :=
  s.each (s.gangPeers p) (fun s d => s.send 4 d.1 d.2 p (voidMsg p s.selfDev reason s.step))

/-! ## The order of precedence (R205) -/

/-- Lexicographic order of two keys. -/
def lexLe : List Nat → List Nat → Bool
  | [],      _       => true
  | _ :: _,  []      => false
  | a :: x,  b :: y  => a < b || (a == b && lexLe x y)

/-- The key of a request. -/
def Chip.bindKey (s : Chip) (r : Rte) : List Nat :=
  let age := s.rf F.SCH_CFG_AGE
  [if age ≠ 0 && age ≤ r.unbound then 0 else 1, s.rf (F.SCH_DLC_RANK.plus (4 * (r.dclass % 16))),
   if r.deadline = 0 then 2 ^ 64 else r.deadline, r.admitStep, r.rid]

/-- Requests in the order in which the scheduler considers them. -/
def Chip.inOrder (s : Chip) (l : SMap Rte) : SMap Rte := sortBy (fun (a b : Nat × Rte) => lexLe (s.bindKey a.2) (s.bindKey b.2)) l

/-! ## Programs -/

/-- COMPUTE_TICKS under the level in force (R526). -/
def Chip.computeTicks (s : Chip) (g : Prog) : Nat :=
  if g.kind = 1 then g.compute else ceilDiv (g.compute * 940) (940 - 30 * s.rf F.PWR_STATE_LEVEL)

/-- Does a program's timing fit the plan in force (R201, R207)? -/
def Chip.timeFits (s : Chip) (g : Prog) : Bool :=
  decide (s.plan.w + s.computeTicks g ≤ s.plan.x) && decide (g.exch ≤ s.plan.s - s.plan.x)

/-- Do all channel groups of a stack belong to one partition (R226)? -/
def Chip.ownsStack (s : Chip) (st p : Nat) : Bool := (List.range 8).all (fun g => s.cgOwner st g == some p)

/-- Slices of a partition on a stack in force: (start, length). -/
def Chip.slicesOf (s : Chip) (st p : Nat) : List (Nat × Nat) :=
  (s.sch.slices.filter (fun x => decide (8 * st ≤ x.1) && decide (x.1 < 8 * st + 8) && x.2.part == p)).map (fun x => (x.2.start, x.2.len))

/-- Has a stack any valid slice? -/
def Chip.sliced (s : Chip) (st : Nat) : Bool := s.sch.slices.any (fun x => decide (8 * st ≤ x.1) && decide (x.1 < 8 * st + 8))

/-- Ticks that a partition still owes on a stack for the slice that starts at `start` in the current step: its overrun less the slices that
have been cut since (R228). [log 53, DEDUCED] -/
def Chip.owedAt (s : Chip) (st p start : Nat) : Nat :=
  match s.sch.debts.find (8 * st + p) with
  | none => 0
  | some d =>
    let l := s.slicesOf st p
    let sum := fun (lo hi : Nat) => ((l.filter (fun x => decide (lo ≤ x.1) && decide (x.1 < hi))).map (·.2)).foldl (· + ·) 0
    let used := if s.step = d.step then sum d.ends start
      else sum d.ends s.plan.x + (s.step - d.step - 1) * sum 0 s.plan.x + sum 0 start
    d.ticks + d.owed - used

/-- Slices of a partition on a stack as they run in the current step, as offsets: moved by a neighbour's breach and cut by the partition's
own overruns (R228). -/
def Chip.openSlices (s : Chip) (st p : Nat) : List (Nat × Nat) :=
  (s.sch.slices.filter (fun x => decide (8 * st ≤ x.1) && decide (x.1 < 8 * st + 8) && x.2.part == p)).map (fun x =>
    let m := match s.sch.moved.find x.1 with
      | some v => if v.1 = s.step then v.2 else 0
      | none => 0
    let owed := min x.2.len (s.owedAt st p x.2.start)
    (min s.plan.x (x.2.start + m), min s.plan.x (x.2.start + m + x.2.len - owed)))

/-- Ticks a partition may use a stack in a step (R226). -/
def Chip.sliceTime (s : Chip) (st p : Nat) : Nat :=
  if s.sliced st then ((s.openSlices st p).map (fun x => x.2 - x.1)).foldl (· + ·) 0
  else if s.ownsStack st p then s.plan.x - s.plan.w
  else 0

/-- The slice in which a partition's Sedge commands may be issued on a stack at this moment, by its end; 0 where the stack is the
partition's for the whole Compute phase (R226). -/
def Chip.inSlice (s : Chip) (st p : Nat) : Option Nat :=
  if s.sliced st then ((s.openSlices st p).find? (fun x => decide (x.1 ≤ s.offset) && decide (s.offset < x.2))).map (·.2)
  else if s.ownsStack st p then some 0
  else none

/-- Does a partition have time left on a stack before X (R257)? -/
def Chip.sliceLeft (s : Chip) (st p : Nat) : Bool :=
  if s.sliced st then (s.openSlices st p).any (fun x => decide (s.offset < x.2)) else s.ownsStack st p

/-- Does a partition own enough served logical tiles for a program (R201, R169)? -/
def Chip.tilesFit (s : Chip) (p : Nat) (g : Prog) : Bool :=
  (List.range 4).all (fun d =>
    let own := below 64 (fun lt => lt / 16 == d && s.ltOwner lt == some p)
    let need := g.dieTiles.getD d 0
    decide (need ≤ own.length) && (own.take need).all (fun lt => (s.physOf lt).isSome))

/-- The registered model whose tag a program carries (R200). -/
def Chip.progModel (s : Chip) (g : Prog) : Option Nat := (s.sch.models.find? (fun m => m.2.tag == g.tag)).map (·.1)

/-- Is a program of a model? -/
def Chip.progOf (s : Chip) (model : Nat) (g : Prog) : Bool := ((s.model model).map (·.tag)) == some g.tag

/-- Is a program fit for a partition in the step (R201)? -/
def Chip.progFit (s : Chip) (p : Nat) (g : Prog) : Bool :=
  !g.barred && s.tilesFit p g && s.timeFits g && g.stackSet.all (fun st => decide (g.sedge ≤ s.sliceTime st p))
    && (match s.progModel g with
        | some m => s.isResident p false m
        | none => false)
    && (g.kind != 1 || g.members == s.gangSize p)

/-- Programs of a kind and model, by table index. -/
def Chip.progsOf (s : Chip) (kind model : Nat) : SMap Prog := s.sch.progs.filter (fun x => x.2.kind == kind && s.progOf model x.2)

/-- Candidates of R207 for a gang. -/
def Chip.gangCands (s : Chip) (p model : Nat) : SMap Prog :=
  (s.progsOf 1 model).filter (fun x => !x.2.barred && x.2.members == s.gangSize p && s.timeFits x.2)

/-- The element with the least key. -/
def leastBy {α : Type} (key : α → List Nat) : List α → Option α
  | []     => none
  | x :: l => some (l.foldl (fun b y => if lexLe (key b) (key y) then b else y) x)

/-! ## Bindable requests -/

/-- Largest CTX_MAX of the programs of a kind loaded for a model; none where none is loaded. -/
def Chip.ctxLimit (s : Chip) (kind model : Nat) : Option Nat :=
  match s.progsOf kind model with
  | [] => none
  | l => some ((l.map (fun x => x.2.ctxMax)).foldl max 0)

/-- Is a request unfit (R197)? -/
def Chip.unfit (s : Chip) (kind : Nat) (r : Rte) : Bool :=
  match s.ctxLimit kind r.producer with
  | some m => decide (m < r.len + s.uOf r)
  | none => false

/-- JRN_HOLD, 1 to 8 (R106). -/
def Chip.jrnHold (s : Chip) : Nat := min 8 (max 1 (s.rf F.RTB_CFG_JRN_HOLD))

/-- Is the adapter of a request, if any, RESIDENT on its partition (R223)? -/
def Chip.adapterReady (s : Chip) (r : Rte) : Bool := r.adapter == 0 || s.isResident r.partition true r.adapter

/-- Does an order of KIND 1 or 2 stand for a request? -/
def Chip.ordered (s : Chip) (rid : Nat) : Bool := s.smv.orders.any (fun o => o.rid == rid && (o.kind == 1 || o.kind == 2))

/-- GENERATING requests of a partition for its gang's model that no move holds back, JRN_HELD and CTX_MAX apart (R204, R206). -/
def Chip.genRequests (s : Chip) (p : Nat) : SMap Rte :=
  s.rtb.rtes.filter (fun x => x.2.state == .generating && x.2.partition == p && x.2.producer == s.gangModel p && !x.2.lost
    && !x.2.askedHome && !x.2.flags.moving && !x.2.fbDecided && x.2.parkMark == 0)

/-- The requests a member counts in its Bid, and binds (R206, R210). -/
def Chip.genBindable (s : Chip) (p : Nat) : SMap Rte :=
  (s.genRequests p).filter (fun x => decide (x.2.held < s.jrnHold) && !s.unfit 1 x.2)

/-- Requests of a partition that are bindable for prefill (R214), JRN_HELD apart. -/
def Chip.prefillRequests (s : Chip) (p : Nat) : SMap Rte :=
  s.rtb.rtes.filter (fun x => (x.2.state == .admitted || x.2.state == .prefill || x.2.state == .rebuilding) && x.2.partition == p
    && !x.2.flags.moving && !x.2.flags.bound && !x.2.lost && !x.2.askedHome && decide (x.2.bindSeq < s.step))

/-- The requests that row 12 may bind for prefill: those that R95 does not hold. -/
def Chip.prefillBindable (s : Chip) (p : Nat) : SMap Rte := (s.prefillRequests p).filter (fun x => decide (x.2.held < s.jrnHold))

/-- Those of them that are not unfit for binding (R197). -/
def Chip.prefillFit (s : Chip) (p : Nat) : SMap Rte := (s.prefillBindable p).filter (fun x => !s.unfit 2 x.2)

/-- Prompt tokens that a request's prefill still needs. -/
def Rte.remaining (r : Rte) : Nat := r.len - max r.prefilled (64 * r.prefixBlocks)

/-- First position of a request's next prefill chunk. -/
def Rte.cursor (r : Rte) : Nat := max r.prefilled (64 * r.prefixBlocks)

/-! ## Pages for the step's appends (R180, R247) -/

/-- A page factor of a span: the calibration value, or 1.0 where it is not a positive, finite, normal FP32 value; and whether it was
replaced. -/
def calibFactor (model σ : Nat) (value : Bool) : Nat × Bool :=
  let v := (Config.calib model σ value).toNat
  let e := v / 2 ^ 23 % 256
  if v / 2 ^ 31 = 0 && e ≠ 0 && e ≠ 255 then (v, false) else (0x3F800000, true)

/-- The header of a new own page (R240). -/
def pageHeader (fmt d first σ kf vf rid : Nat) : Bytes :=
  toLE 1 fmt ++ toLE 1 (pageSlots fmt d) ++ toLE 2 d ++ toLE 2 (pageCap fmt d) ++ toLE 2 0 ++ toLE 4 first ++ toLE 2 σ ++ zeros 2
    ++ toLE 4 kf ++ toLE 4 vf ++ toLE 8 rid ++ zeros 32

/-- First position of own entry e of a request's rows. -/
def Chip.entryFirst (s : Chip) (r : Rte) (e : Nat) : Nat := 64 * r.prefixBlocks + (e - r.prefixBlocks * s.ppsOf r) * s.capOf r

/-- The bytes of a page that no region of its layout takes are zero (R240). -/
def Chip.clearTail (s : Chip) (a fmt d : Nat) : Chip :=
  let o := valOff fmt d (pageCap fmt d)
  s.writePhys true (a + o) (zeros (16384 - o))

/-- Write the header of a new page and its map entry. -/
def Chip.newPage (s : Chip) (r : Rte) (σ e a : Nat) : Chip × Rte :=
  let d := s.dimOf r
  let (kf, kb) := if r.kvFormat = 2 then calibFactor r.producer σ false else (0x3F800000, false)
  let (vf, vb) := if r.kvFormat = 2 then calibFactor r.producer σ true else (0x3F800000, false)
  let s := (s.writePhys true a (pageHeader r.kvFormat d (s.entryFirst r e) σ kf vf r.rid)).clearTail a r.kvFormat d
  let s := if kb || vb then
      match (List.range 17).map (· + 17 * (stackOf a / 6)) |>.find? (fun t => (s.logicalOf t).isSome) with
      | some t => s.raise (Pg.til t) 5
      | none => s
    else s
  (s, s.setEntry r σ e (entryOf a false))

/-- Allocate every page that appends at `n` positions from `lo` first write; none of them where one is refused. -/
def Chip.allocFor (s : Chip) (i : Nat) (lo n : Nat) : Chip × Bool :=
  match s.rte i with
  | none => (s, false)
  | some r =>
    let es := (((List.range n).map (fun k => (s.whereIs r (lo + k)).1)).eraseDups).filter (fun e => !entryValid (s.entry r 0 e))
    let want := es.flatMap (fun e => (List.range (s.spansOf r)).map (fun σ => (σ, e)))
    match s.allocPages r.partition r.rid want with
    | (_, .inr st) => ((s.cnt (regAt (Pg.sdg st) Reg.SDG_ALLOC_FAIL)).raise (Pg.sdg st) 0, false)
    | (t, .inl got) =>
      let (t, r) := (want.zip got).foldl (fun (x : Chip × Rte) w => x.1.newPage x.2 w.1.1 w.1.2 w.2) (t, r)
      (t.putRte i r, true)

/-! ## Selections -/

/-- What a partition runs in the step. -/
def Chip.sel (s : Chip) (p : Nat) : Option Sel := s.sch.sels.find? (fun x => x.part == p)

/-- Change a partition's selection. -/
def Chip.updSel (s : Chip) (p : Nat) (f : Sel → Sel) : Chip :=
  s.setSch (fun x => { x with sels := x.sels.map (fun y => if y.part = p then f y else y) })

/-- Requests bound in the step, in every way (R84). -/
def Chip.boundCount (s : Chip) : Nat := (s.sch.sels.map (fun x => x.bound.length + x.ride.length + x.back.length)).foldl (· + ·) 0

/-- May one more request be pinned for binding and attention (R84)? A request that is refused is counted once in a step. -/
def Chip.pinRoom (s : Chip) (i : Nat) : Chip × Bool :=
  if s.boundCount < 12288 then (s, true)
  else if s.sch.pinRefused.contains i then (s, false)
  else ((s.cnt Reg.RTB_PIN_REFUSED).setSch (fun x => { x with pinRefused := x.pinRefused ++ [i] }), false)

/-- The program of a table index. -/
def Chip.prog (s : Chip) (i : Nat) : Option Prog := s.sch.progs.find i

/-- A program becomes the partition's for the step: SCH_CUR_PROG, and the residency's last selection (R224). [log 53, DEDUCED] -/
def Chip.selectProg (s : Chip) (p i : Nat) (forced : Bool) : Chip :=
  match s.prog i with
  | none => s
  | some g =>
    let m := s.progModel g
    let s := s.wr64 (Reg.SCH_CUR_PROG_LO + 8 * p) g.id
    s.setSch (fun x => { x with
      sels := x.sels.filter (fun y => y.part != p) ++ [{ part := p, prog := i, forced := forced }]
      res := x.res.map (fun r => if r.part = p && !r.adapter && some r.id == m then { r with lastSel := s.step } else r) })

/-! ## Voids and sequencer faults (R202, R203) -/

/-- The step is void for a partition: counted once. -/
def Chip.voidStep (s : Chip) (p : Nat) : Chip :=
  match s.sel p with
  | some x => if x.voided || x.ran then s else ((s.updSel p (fun y => { y with voided := true })).cnt Reg.SCH_VOID).raise Pg.SCH 1
  | none => s

/-- Change a program of the table. -/
def Chip.updProg (s : Chip) (i : Nat) (f : Prog → Prog) : Chip :=
  match s.prog i with
  | some g => s.setSch (fun x => { x with progs := x.progs.put i (f g) })
  | none => s

/-- A sequencer fault of a tile (R202). `time` says that it is a time overrun, which bars the program only after FAULT_LIMIT
consecutive steps. -/
def Chip.seqFault (s : Chip) (t p : Nat) (time : Bool) : Chip :=
  let s := (s.setTile t (fun x => { x with stopped := true })).raise (Pg.til t) 4
  let s := (s.cnt Reg.SCH_SEQ_FAULT).raise Pg.SCH 0
  let mark : Prog → Prog := fun g => if time then { g with overran := true } else { g with barred := true }
  let s : Chip := match s.sel p with
    | some x => s.updProg x.prog mark
    | none => s
  let s := if s.role p = .generation then s.sendVoid p 1 else s
  s.voidStep p

/-- At the end of a step: programs that overran count one more consecutive step, the others none (R202). -/
def Chip.countOverruns (s : Chip) : Chip :=
  let limit := max 1 (s.rf F.SCH_CFG_FAULT_LIMIT)
  let next : Prog → Prog := fun g =>
    if g.overran then { g with overran := false, overruns := g.overruns + 1, barred := g.barred || decide (limit ≤ g.overruns + 1) }
    else { g with overruns := 0 }
  s.setSch (fun x => { x with progs := x.progs.map (fun p => (p.1, next p.2)) })

/-! ## Bids and Offers (R206, R218) -/

/-- Incoming KIND 1 transfers of a model for which the partition is a READY destination. -/
def Chip.incoming (s : Chip) (p model : Nat) : List Nat :=
  (s.smv.dsts.filter (fun x => x.hdr.kind == 1 && x.hdr.dstPart == p && x.state == .ready)).filterMap (fun x =>
    let b := OpenBody.ofBytes x.body
    if openModel 1 (openRte 1 b) = model then some b.tokens else none)

/-- COUNT and CTX_MAX of a member. -/
def Chip.bidCount (s : Chip) (p : Nat) : Nat × Nat :=
  let m := s.gangModel p
  let u := ((s.model m).map (·.u)).getD 1
  let l := (s.genBindable p).map (fun x => x.2.len + u) ++ (s.incoming p m).map (· + u)
  (l.length, l.foldl max 0)

/-- Does a partition take part in gangs: the generation role, a gang model, not forced? -/
def Chip.inGang (s : Chip) (p : Nat) : Bool :=
  s.partExists p && s.role p == .generation && s.gangModel p != 0 && s.schPart p F.SCH_PART_CFG_FORCE_EN == 0

/-- Send the Offer of a member that has had room (R218). -/
def Chip.sendOffer (s : Chip) (p count : Nat) : Chip :=
  let m := s.gangModel p
  if s.sch.room.getD p 0 < max 1 (s.rf F.SCH_CFG_ROOM_STEPS) then s
  else
    let slots := (((s.gangCands p m).filter (fun x => s.progFit p x.2)).map (fun x => x.2.slots)).foldl max 0
    let room := slots / s.gangSize p - count
    if room = 0 then s
    else s.each (s.destEntries p m 1) (fun s d => s.send 4 d.1 d.2 p (offerMsg p s.selfDev room (s.step + 1) m))

/-- The Bids and Offers of the cutoff, for the next step. The member's own Bid is kept beside those it receives. -/
def Chip.sendBids (s : Chip) : Chip :=
  if !s.schOn then s
  else s.each (below 8 s.inGang) (fun s p =>
    if !s.gangWhole p then s
    else
      let (n, ctx) := s.bidCount p
      let member := (s.gang p).findIdx (fun e => e == (s.selfDev, p))
      let own : BidRec := { step := s.step + 1, dev := s.selfDev, part := p, dst := p, count := n, ctx := ctx, model := s.gangModel p }
      let s := s.setSch (fun x => { x with bids := x.bids ++ [own] })
      let s := s.each (s.gangPeers p) (fun s d => s.send 4 d.1 d.2 p (bidMsg p s.selfDev n (s.step + 1) ctx (s.gangModel p) member))
      s.sendOffer p n)

/-- The Bid of a member for the current step; a Bid of another model is none (R206). -/
def Chip.bidOf (s : Chip) (p : Nat) (m : Nat × Nat) : Option BidRec :=
  s.sch.bids.find? (fun b => b.step == s.step && b.dst == p && b.dev == m.1 && b.part == m.2 && b.model == s.gangModel p)

/-! ## Residency (R223, R224) -/

/-- The residency entry of a model or adapter on a partition. -/
def Chip.residency (s : Chip) (p : Nat) (adapter : Bool) (id : Nat) : Option Residency :=
  s.sch.res.find? (fun r => r.part == p && r.adapter == adapter && r.id == id)

/-- Change a residency entry. -/
def Chip.updRes (s : Chip) (p : Nat) (adapter : Bool) (id : Nat) (f : Residency → Residency) : Chip :=
  s.setSch (fun x => { x with res := x.res.map (fun r => if r.part = p && r.adapter == adapter && r.id = id then f r else r) })

/-- Remove a residency entry: it is ABSENT. -/
def Chip.dropRes (s : Chip) (p : Nat) (adapter : Bool) (id : Nat) : Chip :=
  s.setSch (fun x => { x with res := x.res.filter (fun r => !(r.part == p && r.adapter == adapter && r.id == id)) })

/-- May an entry be evicted (R224, R225)? -/
def Chip.evictableRes (s : Chip) (r : Residency) : Bool :=
  r.resident && !r.pinned
    && !s.rtb.rtes.any (fun x => x.2.state.live && x.2.partition == r.part &&
          (if r.adapter then x.2.adapter == r.id else x.2.model == r.id || (x.2.flags.fallback && x.2.fallbackId == r.id)))
    && (r.adapter || !s.sch.sels.any (fun x => x.part == r.part && ((s.prog x.prog).bind s.progModel) == some r.id))

/-- Report the result of a residency command; SCH_RES_STAT shows the state of the entry it named from then on. -/
def Chip.resResult (s : Chip) (p : Nat) (adapter : Bool) (id result : Nat) : Chip :=
  (s.wf F.SCH_RES_STAT_RESULT result).setSch (fun x => { x with resNamed := some (p, adapter, id) })

/-- WEIGHT_BYTES of a registered model or adapter. -/
def Chip.weightOf (s : Chip) (adapter : Bool) (id : Nat) : Option Nat :=
  if adapter then (s.sch.adapters.find id).map (·.weightBytes) else (s.model id).map (·.weightBytes)

/-- Bytes resident or loading on a partition. -/
def Chip.resUsed (s : Chip) (p : Nat) : Nat := ((s.sch.res.filter (fun r => r.part == p)).map (·.size)).foldl (· + ·) 0

/-- Start a load whose room is there. [log 53, DEDUCED] -/
def Chip.startLoad (s : Chip) (p : Nat) (adapter : Bool) (id : Nat) : Chip :=
  let size := (s.weightOf adapter id).getD 0
  let s := s.setSch (fun x => { x with res := x.res ++ [{ part := p, adapter := adapter, id := id, size := size }], loads := x.loads ++ [(p, adapter, id)] })
  s.resResult p adapter id 0

/-- Row 7: residencies lost to damage end, and the evictions that wait are carried out or refused (R224, R293). -/
def Chip.row7Evicts (s : Chip) : Chip :=
  let s := s.setSch (fun x => { x with res := x.res.filter (fun r => !r.lost) })
  s.items 76 (fun _ => 0) s.sch.evicts (fun s c =>
    let s := s.setSch (fun x => { x with evicts := x.evicts.drop 1 })
    let ok := c.victims.all (fun v => match s.residency c.part v.1 v.2 with
      | some r => s.evictableRes r
      | none => true)
    let who := c.load.getD (c.victims.headD (false, 0))
    if ok then
      let s := s.each c.victims (fun s v => s.dropRes c.part v.1 v.2)
      match c.load with
      | some l => s.startLoad c.part l.1 l.2
      | none => s.resResult c.part who.1 who.2 0
    else s.resResult c.part who.1 who.2 (if c.load.isSome then 3 else 4))

/-! ## Stack slices (R226) -/

/-- The pending slices: index 8 × stack + entry. -/
def Chip.pendingSlices (s : Chip) : SMap Slice :=
  (List.range 192).filterMap (fun i =>
    if s.rf (F.SCH_SLICE_HI_VALID.plus (8 * i)) = 1 then
      some (i, { start := s.rd (Reg.SCH_SLICE_LO + 8 * i), len := s.rf (F.SCH_SLICE_HI_LENGTH.plus (8 * i)),
                 part := s.rf (F.SCH_SLICE_HI_PARTITION.plus (8 * i)) })
    else none)

/-- Do pending slices keep the rules of R226? -/
def Chip.slicesLegal (s : Chip) (l : SMap Slice) : Bool :=
  let guard := s.rd Reg.SCH_SLICE_GUARD
  l.all (fun x => decide (s.plan.w ≤ x.2.start) && decide (x.2.start + x.2.len ≤ s.plan.x))
    && l.all (fun x => l.all (fun y => x.1 == y.1 || x.1 / 8 != y.1 / 8 ||
      (let g := if x.2.part = y.2.part then 0 else guard
       decide (x.2.start + x.2.len + g ≤ y.2.start) || decide (y.2.start + y.2.len + g ≤ x.2.start))))

/-- Row 9: a slice commit (R226). -/
def Chip.row9Slices (s : Chip) : Chip :=
  if bit (s.rd Reg.SCH_SLICE_STAT) 0 then
    let l := s.pendingSlices
    if s.slicesLegal l then (s.setSch (fun x => { x with slices := l })).wr Reg.SCH_SLICE_STAT 0
    else (s.wr Reg.SCH_SLICE_STAT 2).raise Pg.SCH 6
  else s

end Sys2Proof.Machine
end

