-- ==== Sys2Proof/Machine/SchedRows.lean ====
section
/-! DEFINITION. What the scheduler does in rows 10 and 12 of a Boundary window (R207–R215, R217–R222) and at a program's gang barrier
(R94, R203, R217, R219). -/

namespace Sys2Proof.Machine

open Sys2Proof

/-! ## Row 10: the deadline monitor (R219–R222) -/

/-- RIDs that may not sample in this step: an item failed, or its Result is missing (R259). -/
def Sel.unanswered (x : Sel) : List Nat := x.barred ++ x.asked.map (·.1)

/-- Is a request subject to the fallback decision (R220)? The device moves no state out of a partition whose role change is pending (R33). -/
def Chip.fbSubject (s : Chip) (r : Rte) : Bool :=
  !s.rolePending r.partition &&
  (r.state == .generating || r.state == .parked || r.state == .prefilled) && !r.flags.fallback && !r.flags.moving && !r.lost && !r.fbDecided
    && !s.smv.orders.any (fun o => o.rid == r.rid && (o.runtime || o.kind == 2))
    && s.rf (F.SCH_DLC_FB_EN.plus (4 * (r.dclass % 16))) == 1

/-- T_primary and T_fallback of R221, in almanac nanoseconds. -/
def Chip.deadlineTimes (s : Chip) (r : Rte) (m f : ModelEnt) : Nat × Nat :=
  let t := s.stepTime s.step
  let d := 10 * s.plan.c
  let left := r.maxNew - r.genCount
  let h := if r.state = .generating then 0 else 1
  let q := ceilDiv r.len f.prefillRate
  (t + (h + ceilDiv left m.u) * d, t + (q + ceilDiv (left - 1) f.u + 2) * d)

/-- Order a fallback move; a KIND 1 order of the scheduler that stands for the request makes way for it (R220, R222). -/
def Chip.orderFallback (s : Chip) (i : Nat) (r : Rte) : Chip :=
  let o : Order := { kind := 2, rid := r.rid, srcPart := r.partition, use := some 2 }
  let old := fun (x : Order) => x.rid == r.rid && x.kind == 1 && !x.runtime
  let s := if s.smv.orders.any old then
      s.setSmv (fun m => { m with orders := m.orders.map (fun x => if old x then o else x) })
    else s.queueOrder o
  ((s.putRte i { r with fbDecided := true, parkMark := 0 }).cnt Reg.SCH_FALLBACKS).charge 50

/-- The check of one request (R222). -/
def Chip.checkDeadline (s : Chip) (i : Nat) : Chip :=
  match s.rte i with
  | none => s
  | some r =>
    if !s.fbSubject r then s
    else match s.model r.model with
      | none => s
      | some m =>
        let fb := s.model r.fallbackId
        let f := fb.getD m
        let (tp, tf) := s.deadlineTimes r m f
        if tp + s.rf (F.SCH_DLC_GUARD.plus (4 * (r.dclass % 16))) * 10000 ≤ r.deadline then s
        else if r.fallbackId = 0xFFFF || fb.isNone || !f.fbReady || f.prefillRate = 0 || (s.destEntries r.partition r.fallbackId 2).isEmpty then
          (s.cnt Reg.SCH_FB_UNAVAIL).charge 50
        else if tf < tp then s.orderFallback i r
        else s

/-- Row 10 (R220): every live request here with a deadline, whether or not selection and binding are enabled. -/
def Chip.row10 (s : Chip) : Chip :=
  if s.quiet Pg.SCH then s
  else
    let l := (s.rtb.rtes.filter (fun x => x.2.state.live && x.2.deadline != 0 && !x.2.lost)).map (·.1)
    let hit := s.rtb.cache
    let costs := (l.foldl (fun (st : Nat × List (Nat × Nat)) i =>
      if hit.contains i then (st.1 + 1, st.2 ++ [(i, if st.1 % 8 = 0 then 1 else 0)]) else (st.1, st.2 ++ [(i, 8)])) (0, [])).2
    s.items 100 (·.1) costs (fun s c => ((s.charge c.2).touch c.1).checkDeadline c.1)

/-- A 32-bit number as a key of a descending order. -/
def descKey (n : Nat) : Nat := 0xFFFFFFFF - n

/-- The program that fits a demand: the least by `small` among those that cover it, else the least by `large` of all. -/
def pickProg (all : SMap Prog) (covers : Prog → Bool) (small large : Prog → List Nat) : Option (Nat × Prog) :=
  match all.filter (fun x => covers x.2) with
  | []  => leastBy (fun x => large x.2) all
  | big => leastBy (fun x => small x.2) big

/-! ## Row 12: generation partitions (R207–R210, R217, R218) -/

/-- Requests left unbound in the step: one more window; those at PARK_AFTER are marked for parking and ordered (R205, R217), but none out of a
partition whose role change is pending (R33). -/
def Chip.leftUnbound (s : Chip) (p : Nat) (rows : List Nat) : Chip :=
  let park := s.schPart p F.SCH_PART_CFG_PARK_AFTER
  s.each rows (fun s i =>
    match s.rte i with
    | some r =>
      let r := { r with unbound := r.unbound + 1 }
      if park ≠ 0 && park ≤ r.unbound && r.state = .generating && r.parkMark = 0 && !s.rolePending p then
        ((s.putRte i { r with parkMark := 1 }).cnt Reg.SCH_PARKS).queueOrder { kind := 1, rid := r.rid, srcPart := p, use := some 1 }
      else s.putRte i r
    | none => s)

/-- Requests of a member that runs nothing in the step: unbound one window more, and none is marked for parking: each stays in its state and is
counted again in the next Bid (R203, R208). [log 53, DEDUCED] -/
def Chip.passedOver (s : Chip) (rows : List Nat) : Chip := s.each rows (fun s i => s.updRte i (fun r => { r with unbound := r.unbound + 1 }))

/-- A member without a fit program (R204, R208). -/
def Chip.noFit (s : Chip) (p : Nat) : Chip := ((s.cnt Reg.SCH_NOFIT).raise Pg.SCH 8).sendVoid p 4

/-- Bind a request to a slot (R210, R247): its pages are allocated, SLOT and BOUND set. -/
def Chip.bindSlot (s : Chip) (i slot lo n : Nat) : Chip × Bool :=
  match s.pinRoom i with
  | (s, false) => (s, false)
  | (s, true) =>
    match s.allocFor i lo n with
    | (s, false) => (s, false)
    | (s, true) =>
      let s := s.updRte i (fun r => { r with slot := slot, unbound := 0, flags := { r.flags with bound := true } })
      ((s.touch i).charge 2, true)

/-- Slots of a member (R209): the first and how many. `l` lists the members' counts in ascending (DEVICE, PARTITION). -/
def slotRange (slots : Nat) (l : List ((Nat × Nat) × Nat)) (me : Nat × Nat) : Nat × Nat :=
  let total := (l.map (·.2)).foldl (· + ·) 0
  let base := if total ≤ slots then l.map (·.2) else l.map (fun x => slots * x.2 / total)
  let spare := if total ≤ slots then 0 else slots - base.foldl (· + ·) 0
  let sizes := base.zipIdx.map (fun (n, i) => n + spare / l.length + (if i < spare % max 1 l.length then 1 else 0))
  let k := l.findIdx (fun x => x.1 == me)
  ((sizes.take k).foldl (· + ·) 0, sizes.getD k 0)

/-- Requests bound in generation slots of the step, on the whole module. -/
def Chip.genBound (s : Chip) : Nat :=
  ((s.sch.sels.filter (fun x => ((s.sch.progs.find x.prog).map (·.kind)) == some 1)).map (fun x => x.bound.length)).foldl (· + ·) 0

/-- Bind a partition's requests in order to its slots (R210); a module's generation step holds at most 8,192 (R40). A request whose adapter is
not RESIDENT here is passed over: with it bound the program would not be fit (R223). [log 53, DEDUCED] -/
def Chip.bindGen (s : Chip) (p : Nat) (g : Prog) (range : Nat × Nat) (rows : List Nat) : Chip :=
  let one := fun (s : Chip) (i : Nat) =>
    match s.sel p, s.rte i with
    | some x, some r =>
      let k := x.bound.length
      if k < range.2 && s.genBound < 8192 && r.len + s.uOf r ≤ g.ctxMax && s.adapterReady r then
        match s.bindSlot i (range.1 + k) (r.len - 1) (s.uOf r) with
        | (s, true) => s.updSel p (fun y => { y with bound := y.bound ++ [(i, 0)] })
        | (s, false) => s
      else s
    | _, _ => s
  s.each rows one

/-- Row 12 of a generation partition. -/
def Chip.genRow (s : Chip) (p : Nat) : Chip :=
  let s := s.charge 500
  let model := s.gangModel p
  let ran := s.sch.room.getD p 0
  let s := s.setSch (fun x => { x with room := x.room.del p })
  if !s.gangWhole p then (s.noFit p).passedOver ((s.genBindable p).map (·.1))
  else
    let all := s.genRequests p
    let hold := s.jrnHold
    let s := s.cntBy Reg.RTB_JRN_STALL ((all.filter (fun x => decide (hold ≤ x.2.held))).length)
    let bad := (all.filter (fun x => decide (x.2.held < hold) && s.unfit 1 x.2)).length
    let s := if bad ≠ 0 && (s.gangCands p model).any (fun x => s.progFit p x.2) then (s.cntBy Reg.SCH_UNFIT bad).raise Pg.SCH 3 else s
    let rows := (s.inOrder (s.genBindable p)).map (·.1)
    let s := s.charge (ceilDiv rows.length 4)
    let me := (s.selfDev, p)
    let own := (s.bidOf p me).map (fun b => (b.count, b.ctx)) |>.getD (s.bidCount p)
    let peers := s.gangPeers p
    if peers.any (fun m => (s.bidOf p m).isNone) then
      (((s.cnt Reg.SCH_BID_MISS).raise Pg.SCH 2).sendVoid p 3).passedOver rows
    else
      let heard : List ((Nat × Nat) × (Nat × Nat)) := peers.map (fun m => (m, ((s.bidOf p m).map (fun b => (b.count, b.ctx))).getD (0, 0)))
      let counts := sortBy (fun (a b : (Nat × Nat) × (Nat × Nat)) => lexLe [a.1.1, a.1.2] [b.1.1, b.1.2]) ((me, own) :: heard)
      let n := (counts.map (fun x => x.2.1)).foldl (· + ·) 0
      let l := (counts.map (fun x => x.2.2)).foldl max 0
      let ok := (s.gangCands p model).filter (fun x => decide (l ≤ x.2.ctxMax))
      match pickProg ok (fun g => decide (n ≤ g.slots)) (fun g => [g.slots, g.compute, g.id]) (fun g => [descKey g.slots, g.compute, g.id]) with
      | none => if n = 0 then s else (s.noFit p).passedOver rows
      | some (i, g) =>
        if !s.progFit p g then (s.noFit p).passedOver rows
        else
          let range := slotRange g.slots (counts.map (fun x => (x.1, x.2.1))) me
          let s := (s.selectProg p i false).bindGen p g range rows
          let bound := ((s.sel p).map (fun x => x.bound.map (·.1))).getD []
          let left := rows.filter (fun j => !bound.contains j)
          let s := s.wr (Reg.SCH_BOUND + 4 * p) bound.length
          let s := if bound.length < range.2 && left.isEmpty then s.setSch (fun x => { x with room := x.room.put p (ran + 1) }) else s
          s.leftUnbound p left

/-! ## Row 12: prefill (R212–R214) -/

/-- Bind a request for `n` prompt tokens, its adapter RESIDENT (R223); its first chunk is transition 3. -/
def Chip.bindPrefill (s : Chip) (i slot n : Nat) : Chip × Bool :=
  match s.rte i with
  | none => (s, false)
  | some r =>
    if !s.adapterReady r then (s, false)
    else match s.bindSlot i slot r.cursor n with
    | (s, false) => (s, false)
    | (s, true) => (s.updRte i (fun r => { r with state := if r.state = .admitted then .prefill else r.state }), true)

/-- Ride-along or backfill rows of a generation partition's program for requests of its pair (R212, R213). -/
def Chip.pairRows (s : Chip) (p : Nat) (back : Bool) : Chip :=
  match s.sel p with
  | none => s
  | some x =>
    match s.prog x.prog with
    | none => s
    | some g =>
      if s.schPart p F.SCH_PART_CFG_PAIR_EN = 0 then s
      else
        let q := s.schPart p F.SCH_PART_CFG_PAIR
        let cand := (s.prefillFit q).filter (fun y => (back || y.2.flags.rideAlong) && y.2.producer == s.gangModel p
          && decide (y.2.len + s.uOf y.2 ≤ g.ctxMax))
        let rows := (s.inOrder cand).map (·.1)
        let s := s.charge (ceilDiv rows.length 4)
        let one := fun (st : Chip × Nat) (i : Nat) =>
          match st.1.rte i with
          | some r =>
            let n := min r.remaining st.2
            if n = 0 then st
            else match st.1.bindPrefill i i n with
              | (t, true) => (t.updSel p (fun y => if back then { y with back := y.back ++ [(i, n)] } else { y with ride := y.ride ++ [(i, n)] }), st.2 - n)
              | (t, false) => (t, st.2)
          | none => st
        if s.role q = .prompt then (rows.foldl one (s, if back then g.backfill else g.ride)).1 else s

/-- Requests of a prompt partition that are unfit for binding are counted, of whatever model, in a step in which the partition has a fit prefill
program (R197). [log 53, DEDUCED] -/
def Chip.countUnfit (s : Chip) (q : Nat) : Chip :=
  let bad := ((s.prefillBindable q).filter (fun x => s.unfit 2 x.2)).length
  if bad ≠ 0 && s.sch.progs.any (fun x => x.2.kind == 2 && s.progFit q x.2) then (s.cntBy Reg.SCH_UNFIT bad).raise Pg.SCH 3 else s

/-- Row 12 of a prompt partition (R214): an unfit request is not among those that choose the program (R197). [log 53, DEDUCED] -/
def Chip.promptRow (s : Chip) (q : Nat) : Chip :=
  let s := (s.charge 500).countUnfit q
  let all := s.inOrder (s.prefillFit q)
  let s := s.charge (ceilDiv all.length 4)
  match all with
  | [] => s
  | (_, r0) :: _ =>
    let model := r0.producer
    let mine := all.filter (fun x => x.2.producer == model)
    let progs := (s.progsOf 2 model).filter (fun x => s.progFit q x.2)
    if progs.isEmpty then s
    else
      let t := (mine.map (fun x => x.2.remaining)).foldl (· + ·) 0
      match pickProg progs (fun g => decide (t ≤ g.chunk) && decide (mine.length ≤ g.slots)) (fun g => [g.chunk, g.compute, g.id])
        (fun g => [descKey g.chunk, g.compute, g.id]) with
      | none => s
      | some (pi, g) =>
          let one := fun (st : Chip × Nat) (x : Nat × Rte) =>
            match st.1.sel q with
            | some y =>
              let n := min x.2.remaining st.2
              if n = 0 || g.slots ≤ y.bound.length || g.ctxMax < x.2.len + st.1.uOf x.2 then st
              else match st.1.bindPrefill x.1 y.bound.length n with
                | (t, true) => (t.updSel q (fun y => { y with bound := y.bound ++ [(x.1, n)] }), st.2 - n)
                | (t, false) => (t, st.2)
            | none => st
          let (s, _) := mine.foldl one (s.selectProg q pi false, g.chunk)
          s.wr (Reg.SCH_BOUND + 4 * q) ((s.sel q).map (fun x => x.bound.length) |>.getD 0)

/-- Prompt requests that no row took stay unbound one window more. -/
def Chip.promptLeft (s : Chip) (q : Nat) : Chip := s.leftUnbound q ((s.prefillBindable q).map (·.1))

/-! ## Row 12: forced programs and resumptions (R215, R218) -/

/-- Does a forced program's kind fit a role (R24, R25, R215)? -/
def forcedKind (k : Nat) (r : Role) : Bool := ((k == 3 || k == 4) && r == .prompt) || (k == 5 && r == .cache)

/-- A forced program (R215). -/
def Chip.forcedRow (s : Chip) (p : Nat) : Chip :=
  let s := s.charge 500
  let i := s.schPart p F.SCH_PART_CFG_FORCE
  match s.prog i with
  | some g => if forcedKind g.kind (s.role p) && s.progFit p g then s.selectProg p i true else s.raise Pg.SCH 5
  | none => s.raise Pg.SCH 5

/-- Row 12 of a cache partition: the Offers addressed to it mark its PARKED requests for resumption (R218), unless its role change is pending
(R33). -/
def Chip.cacheRow (s : Chip) (p : Nat) : Chip :=
  let s := s.charge 500
  let offers := if s.rolePending p then [] else sortBy (fun (a b : OfferRec) => lexLe [a.dev, a.part] [b.dev, b.part])
    (s.sch.offers.filter (fun o => o.step == s.step && o.dst == p))
  s.each offers (fun s o =>
    let parked := s.inOrder (s.rtb.rtes.filter (fun x => x.2.state == .parked && x.2.partition == p && x.2.producer == o.model
      && x.2.parkMark == 0 && !x.2.flags.moving && !x.2.lost && !x.2.fbDecided && !s.ordered x.2.rid))
    (s.charge (ceilDiv parked.length 4)).each ((parked.take o.room).map (·.1)) (fun s i =>
      match s.rte i with
      | some r => ((s.putRte i { r with parkMark := 2 }).cnt Reg.SCH_RESUMES).queueOrder
          { kind := 1, rid := r.rid, srcPart := p, dst := (o.dev, o.part), resume := true }
      | none => s))

/-! ## Row 12 -/

/-- Unloads that were accepted, and loads that have finished (R200, R223). -/
def Chip.row12Tables (s : Chip) : Chip :=
  let s := s.setSch (fun x => { x with
    progs := x.progs.filter (fun g => !g.2.unload)
    res := x.res.map (fun r => if r.loaded then { r with loaded := false, resident := true, lastSel := s.step } else r) })
  s.wr Reg.SCH_PROGS s.sch.progs.length

/-- The part of row 12 that belongs to a partition: kept only if it ends within the window, else carried, and with it everything
after it (R66). -/
def Chip.stage (s : Chip) (p : Nat) (f : Chip → Chip) : Chip :=
  let t := f s
  if s.alm.carried.contains p then s
  else if s.plan.w < t.alm.cost then
    { s.cnt Reg.ALM_CARRY with alm := { s.alm with cost := max s.alm.cost (s.plan.w + 1), carried := insertNat p s.alm.carried } }.noteCarried 120 p
  else t

/-- Prompt requests that R95 holds in this step are counted. -/
def Chip.promptStalls (s : Chip) : Chip :=
  let all := (below 8 (fun p => s.partExists p && s.role p == .prompt)).flatMap (fun p => s.prefillRequests p)
  s.cntBy Reg.RTB_JRN_STALL ((all.filter (fun x => decide (s.jrnHold ≤ x.2.held))).length)

/-- Row 12 in the order of R211. SCH_CFG.EN enables selection and binding (R234); cache partitions take Offers without it. [log 53, DEDUCED] -/
def Chip.row12 (s : Chip) : Chip :=
  let s := s.item Chip.row12Tables
  let caches := fun (s : Chip) => s.each (s.inTurn 120 id (below 8 (fun p => s.partExists p && s.role p == .cache))) (fun s p => s.stage p (fun s => s.cacheRow p))
  if s.quiet Pg.SCH then s
  else if !s.schOn then caches s
  else
    let s := if s.plan.w < s.alm.cost then s else s.promptStalls
    let forced := fun (s : Chip) (p : Nat) => s.schPart p F.SCH_PART_CFG_FORCE_EN == 1
    let turn := s.inTurn 120 id
    let gens := turn (below 8 s.inGang)
    let prompts := turn (below 8 (fun p => s.partExists p && s.role p == .prompt && !forced s p))
    let s := s.each gens (fun s p => s.stage p (fun s => s.genRow p))
    let s := s.each gens (fun s p => s.stage p (fun s => s.pairRows p false))
    let s := s.each prompts (fun s p => s.stage p (fun s => s.promptRow p))
    let s := s.each gens (fun s p => s.stage p (fun s => s.pairRows p true))
    let s := s.each (prompts.filter (fun p => !s.alm.carried.contains p)) Chip.promptLeft
    let s := s.each (turn (below 8 (fun p => s.partExists p && forced s p))) (fun s p => s.stage p (fun s => s.forcedRow p))
    caches s

/-- At the start of a step nothing is selected or bound, and messages about earlier steps are forgotten. -/
def Chip.clearBinding (s : Chip) : Chip :=
  let s := s.countOverruns
  let s := s.setRtes (s.rtb.rtes.map (fun x => (x.1, { x.2 with slot := 0xFFFFFFFF, flags := { x.2.flags with bound := false } })))
  let s := s.setSch (fun x => { x with
    sels := []
    pinRefused := []
    bids := x.bids.filter (fun b => decide (s.step ≤ b.step))
    offers := x.offers.filter (fun o => decide (s.step ≤ o.step))
    voids := x.voids.filter (fun v => decide (s.step ≤ v.1)) })
  s.each (List.range 8) (fun s p => (s.wr64 (Reg.SCH_CUR_PROG_LO + 8 * p) 0).wr (Reg.SCH_BOUND + 4 * p) 0)

/-! ## The gang barrier (R94, R203) -/

/-- Publish new prompt blocks after the first transition 4 (R122). -/
def Chip.publishPrompt (s : Chip) (i : Nat) : Chip :=
  match s.rte i with
  | some r =>
    let s := s.putRte i { r with published := true }
    let first := max r.prefixBlocks (r.localMatch + r.matched) + 1
    let last := min r.promptBlocks (r.localMatch + 1024)
    let n := min (last + 1 - first) (s.pfxPart r.partition F.PFX_PART_CFG_PUB_MAX)
    if !r.published && s.pfxOn && s.pfxPart r.partition F.PFX_PART_CFG_PUBLISH = 1 && r.lookup = 2 && n ≠ 0 then
      s.queueOrder { kind := 4, rid := r.rid, srcPart := r.partition, dst := r.shard, first := first, count := n }
    else s
  | none => s

/-- Publish the full generated blocks of a completed request (R123), under R122: a home that made the lookup publishes only if the shard answered
it with STATUS 0; one to which the request has moved cannot know and publishes. The last token is sampled and never fed back, so the block whose
64th position holds it is not full of key/value contents and is left out. [log 48, DEDUCED] -/
def Chip.publishGenerated (s : Chip) (i : Nat) : Chip :=
  match s.rte i with
  | some r =>
    let first := max r.prefixBlocks r.promptBlocks + 1
    let n := min ((r.len - 1) / 64 + 1 - first) (s.pfxPart r.partition F.PFX_PART_CFG_PUB_MAX)
    match s.shardFor (r.hashes.headD []) with
    | some sh =>
      if s.pfxOn && s.pfxPart r.partition F.PFX_PART_CFG_PUBLISH_GEN = 1 && (r.lookup == 2 || r.lookup == 4) && n ≠ 0 && !r.hashes.isEmpty then
        s.queueOrder { kind := 4, rid := r.rid, srcPart := r.partition, dst := sh, first := first, count := n }
      else s
    | none => s
  | none => s

/-- A stop token of a request; 0xFFFF_FFFF names none. -/
def Rte.stopsAt (r : Rte) (t : Nat) : Bool := t != 0xFFFFFFFF && r.stops.contains t

/-- A sampled token is appended, journalled, and may end the request (R87, R94, R100, R219). A request already in ENDING takes none. -/
def Chip.sampleToken (s : Chip) (i t : Nat) : Chip :=
  match s.rte i with
  | none => s
  | some r =>
    if !r.state.live then s
    else
      let p := r.len
      let late := r.deadline != 0 && decide (r.deadline < s.alm.now)
      let r' := { r with
        tokens := r.tokens ++ [t], genCount := r.genCount + 1, sampled := r.sampled.put p (s.step % 2 ^ 32)
        lateAt := if late then r.lateAt ++ [p] else r.lateAt
        fbAt := if r.flags.fallback then r.fbAt ++ [p] else r.fbAt
        lateCount := r.lateCount + b2n late
        flags := { r.flags with late := r.flags.late || late } }
      let s := if late then s.cnt Reg.SCH_LATE else s
      let status := if r.stopsAt t then 1 else if r.maxNew ≤ r'.genCount then 2 else 0
      let run := tokenRun (b2n r.flags.fallback + 2 * b2n late) p r.rid [t]
      let s := s.putRte i r'.rehold
      let s := if r.hashDue then s else s.rehash i
      if status = 0 then s.toPartner r' run
      else ((s.enterEnding i status).toPartner r' (run ++ endRecord status p r.rid)).publishGenerated i

/-- Candidates of the sampler in falling order of their FP32 logits; among equals the one named first. -/
def ranked (l : List (Nat × Nat)) : List (Nat × Nat) := sortBy (fun a b => !(of32 a.2).lt (of32 b.2)) l

/-- The token that the sampler takes for position p of a request from its candidates, each a token and its logit: none without candidates. TOP_K
keeps the highest, a TEMPERATURE of 0 is greedy (R78); what the spec leaves open is which of those kept falls to the random values, and these
come from the generator of (SEED, p) alone (R82). [log 63, DESIGN CHOICE] -/
def Rte.sampleOf (r : Rte) (p : Nat) (l : List (Nat × Nat)) : Option Nat :=
  let c := if r.topK = 0 then ranked l else (ranked l).take r.topK
  let k := if r.temperature % 2 ^ 15 = 0 || c.length ≤ 1 then 0
    else Config.samplePick (BitVec.ofNat 16 r.temperature) (BitVec.ofNat 16 r.topP) (c.map (fun x => BitVec.ofNat 32 x.2))
      (Config.samplerRandom (BitVec.ofNat 64 r.seed) (BitVec.ofNat 32 p)) % c.length
  ((c.drop k).head?).map (fun x => x.1 % 2 ^ 32)

/-- The tokens a program samples for a request, from the candidates that the command brings for each position; where it brings none, the
token is a free value. [log 63, DESIGN CHOICE] -/
def Chip.sampleTokens (s : Chip) (i : Nat) (given : List (List (Nat × Nat))) : Nat → Chip
  | 0 => s
  | n + 1 =>
    match s.rte i with
    | none => s
    | some r =>
      let (s, t) := match r.sampleOf r.len (given.headD []) with
        | some t => (s, t)
        | none => s.draw 32
      (s.sampleToken i t).sampleTokens i given.tail n

/-- Candidates that a command brings for a RID, position by position. -/
def logitsFor (samples : List (Nat × List (List (Nat × Nat)))) (rid : Nat) : List (List (Nat × Nat)) :=
  ((samples.find? (fun x => x.1 == rid)).map (·.2)).getD []

/-- A bound generation request samples U tokens, unless an item of it failed (R210, R259). -/
def Chip.stepGen (s : Chip) (samples : List (Nat × List (List (Nat × Nat)))) (barred : List Nat) (i : Nat) : Chip :=
  match s.rte i with
  | some r => if r.state = .generating && r.flags.bound && !barred.contains r.rid then s.sampleTokens i (logitsFor samples r.rid) (s.uOf r) else s
  | none => s

/-- A bound prefill request advances its cursor; reaching TOKLOG_LEN it samples a token and takes transition 4, with the move and the
publication that follow (R87, R122, R214, R217). -/
def Chip.stepPrefill (s : Chip) (samples : List (Nat × List (List (Nat × Nat)))) (barred : List Nat) (i n : Nat) : Chip :=
  match s.rte i with
  | some r =>
    if !(r.state == .prefill || r.state == .rebuilding) || !r.flags.bound || barred.contains r.rid then s
    else
      let c := r.cursor + n
      if c < r.len then s.putRte i { r with prefilled := c }
      else
        let s := s.putRte i { r with prefilled := c, state := .prefilled }
        let s := (s.sampleTokens i (logitsFor samples r.rid) 1).publishPrompt i
        match s.rte i with
        | some q => if q.state = .prefilled then s.queueOrder { kind := 1, rid := r.rid, srcPart := r.partition, use := some 0 } else s
        | none => s
  | none => s

/-- The gang barrier of a partition's program (R203). -/
def Chip.barrier (s : Chip) (p : Nat) (samples : List (Nat × List (List (Nat × Nat)))) (missing : Bool) : Chip :=
  match s.sel p with
  | none => s
  | some x =>
    if x.ran || x.voided then s
    else if missing || s.sch.voids.any (fun v => v.1 == s.step && v.2.1 == p) then s.voidStep p
    else
      let s := s.updSel p (fun y => { y with ran := true })
      match s.prog x.prog with
      | none => s
      | some g =>
        let s := if g.kind = 1 then s.each (x.bound.map (·.1)) (fun s i => s.stepGen samples x.unanswered i)
          else s.each x.bound (fun s b => s.stepPrefill samples x.unanswered b.1 b.2)
        s.each (x.ride ++ x.back) (fun s b => s.stepPrefill samples x.unanswered b.1 b.2)

end Sys2Proof.Machine
end

