-- ==== Sys2Proof/Machine/Resources.lean ====
section
/-! DEFINITION. Rows 8 and 9 of the Boundary window: roles that take effect (R32, R129), partitions created and deleted, moves of logical
tiles, channel groups and Request Table ranges (R29, R104, R281, R559), and the check of submitted calendars (R409, R411, R412). -/

namespace Sys2Proof.Machine

open Sys2Proof

/-! ## Row 8 (R32) -/

/-- Does a partition still hold request state, or take part in an uncommitted migration; leased prefix entries count as such (R32, R129)? -/
def Chip.partBusy (s : Chip) (p : Nat) : Bool :=
  s.homes p || s.smv.srcs.any (fun x => x.hdr.srcPart == p && x.state != .committed) || s.smv.dsts.any (fun x => x.hdr.dstPart == p)
    || s.smv.rebuilt.any (fun x => x.part == p) || s.rtb.offers.any (fun o => o.partition == p) || s.pfx.leases.any (fun l => l.shardPart == p)

/-- A role takes effect; a cache role that ceases frees the partition's prefix entries (R129). -/
def Chip.takeRole (s : Chip) (p : Nat) (r : Role) : Chip :=
  let s := if s.role p = .cache then s.dropEntriesOf p else s
  (s.setPart p (fun x => { x with role := r, due := none })).charge 200

/-- Row 8. The minima of R26, checked when the map was accepted, are not checked again. [log 66, DESIGN CHOICE] -/
def Chip.row8 (s : Chip) : Chip :=
  s.items 80 id (below 8 (fun p => (s.part p).due.isSome && !s.partBusy p)) (fun s p =>
    match (s.part p).due with
    | some r => s.takeRole p r
    | none => s)

/-! ## Row 9: partitions (R559) -/

/-- May resources of a partition move: it holds the unassigned role (R29), though a map that is accepted is to give it another in row 8?
[log 66, DESIGN CHOICE] -/
def Chip.movable (s : Chip) (p : Nat) : Bool := s.role p == .unassigned

/-- A refused change of partitions or logical tiles. -/
def Chip.refusePart (s : Chip) : Chip := s.raise Pg.GLB 4

/-- Create a partition: it holds the unassigned role and owns nothing. -/
def Chip.createPart (s : Chip) (p : Nat) : Chip :=
  ((s.setPart p (fun _ => {})).wr Reg.GLB_PART_CUR (s.rd Reg.GLB_PART_CUR ||| 2 ^ p)).charge 5000

/-- Byte i of the logical tile owners in force. -/
def Chip.setLtOwner (s : Chip) (lt : Nat) (o : Option Nat) : Chip :=
  let a := Reg.GLB_LT_OWN_CUR + 4 * (lt / 4)
  s.wr a (putBits (s.rd a) (8 * (lt % 4) + 7) (8 * (lt % 4)) (match o with
    | some p => 128 + p
    | none => 0))

/-- Owner of channel group g of stack st in force. -/
def Chip.setCgOwner (s : Chip) (st g : Nat) (o : Option Nat) : Chip :=
  s.wr (regAt (Pg.mem st) (Reg.MEM_CG_CUR + 4 * g)) (match o with
    | some p => 128 + p
    | none => 0)

/-- Delete a partition (R559): what it owns passes to no owner; its descriptors, residencies, calendar entries and queued frames go. -/
def Chip.deletePart (s : Chip) (p : Nat) : Chip :=
  let s := s.each (below 64 (fun lt => s.ltOwner lt == some p)) (fun s lt => s.setLtOwner lt none)
  let s := s.each (List.range 24) (fun s st => s.each (below 8 (fun g => s.cgOwner st g == some p)) (fun s g => s.setCgOwner st g none))
  let s := s.wr (Reg.RTB_RANGE_CUR + 4 * p) 0
  let objs := (s.memu.descs.filter (fun d => d.2.partition == p)).map (·.1)
  let s : Chip := match s.memu.install with
    | some x => if x.2.partition = p then (s.setMemu (fun m => { m with install := none })).wf (F.MEM_DESC_STAT_RESULT.on (Pg.mem 0)) 3 else s
    | none => s
  let s := s.setMemu (fun m => { m with descs := m.descs.filter (fun d => d.2.partition != p), migs := m.migs.filter (fun d => !objs.contains d.1) })
  let s := s.setSch (fun x => { x with res := x.res.filter (fun r => r.part != p), evicts := x.evicts.filter (fun e => e.part != p)
                                       loads := x.loads.filter (fun l => l.1 != p) })
  let s := s.each (List.range 48) (fun s l =>
    let own := below 64 (fun i => s.calOwner l i == p)
    if own.isEmpty && (s.shp l).queues.isEmpty then s
    else s.updShp l (fun x => { x with dead := (x.dead ++ own).eraseDups
                                       queues := x.queues.filter (fun q => !(3 * p ≤ q.1 && q.1 < 3 * p + 3)) }))
  (((s.dropMsgs p).setPart p (fun _ => {})).wr Reg.GLB_PART_CUR (s.rd Reg.GLB_PART_CUR - 2 ^ p)).charge 5000

/-- Creations and deletions that GLB_PART_PEND asks for. -/
def Chip.row9Parts (s : Chip) : Chip :=
  let want := s.rd Reg.GLB_PART_PEND
  s.items 90 id (below 8 (fun p => bit want p != s.partExists p)) (fun s p =>
    if bit want p then s.createPart p else if s.movable p then s.deletePart p else s.refusePart)

/-! ## Row 9: tiles, channel groups and ranges (R29, R104, R281) -/

/-- May a unit pass from one owner to another: each holds the unassigned role, and the new one exists? -/
def Chip.mayMove (s : Chip) (old new : Option Nat) : Bool :=
  (match old with
    | some p => s.movable p
    | none => true)
  && (match new with
    | some p => s.partExists p && s.movable p
    | none => true)

/-- An owner byte: PARTITION and OWNED. -/
def ownerByte (v : Nat) : Option Nat := if bit v 7 then some (bits v 2 0) else none

/-- Pending moves of the logical tiles of register i. -/
def Chip.row9Tiles (s : Chip) (i : Nat) : Chip :=
  let want := fun (s : Chip) (lt : Nat) => ownerByte (bits (s.rd (Reg.GLB_LT_OWN_PEND + 4 * i)) (8 * (lt % 4) + 7) (8 * (lt % 4)))
  s.items 91 id (((List.range 4).map (· + 4 * i)).filter (fun lt => want s lt != s.ltOwner lt)) (fun s lt =>
    if s.mayMove (s.ltOwner lt) (want s lt) then (s.setLtOwner lt (want s lt)).charge 500
    else s.refusePart)

/-- Does a placement descriptor of a partition name channel group 8 × st + g? -/
def Chip.groupNamed (s : Chip) (p st g : Nat) : Bool :=
  s.memu.descs.any (fun d => d.2.partition == p && d.2.tier == 2 && d.2.mask.testBit (8 * st + g))
    || (match s.memu.install with
        | some (_, d) => d.partition == p && d.tier == 2 && d.mask.testBit (8 * st + g)
        | none => false)
    || s.memu.migs.any (fun m => m.2.desc.partition == p && m.2.desc.tier == 2 && m.2.desc.mask.testBit (8 * st + g))

/-- A pending move of a channel group. -/
def Chip.row9Group (s : Chip) (st g : Nat) : Chip :=
  let want := ownerByte (s.rd (regAt (Pg.mem st) (Reg.MEM_CG_PEND + 4 * g)))
  let old := s.cgOwner st g
  if want = old then s
  else if s.mayMove old want && !(match old with
      | some p => s.groupNamed p st g
      | none => false) then (s.setCgOwner st g want).charge 500
  else s.raise (Pg.mem st) 5

/-- BASE and COUNT of a range register. -/
def rangeOf (v : Nat) : Nat × Nat := (bits v 7 0, bits v 16 8)

/-- The pending Request Table ranges, taken together (R104). -/
def Chip.row9Ranges (s : Chip) : Chip :=
  let cur := fun (p : Nat) => rangeOf (s.rd (Reg.RTB_RANGE_CUR + 4 * p))
  let new := fun (p : Nat) => let v := rangeOf (s.rd (Reg.RTB_RANGE_PEND + 4 * p)); if v.2 = 0 && !s.partExists p then cur p else v
  let changed := below 8 (fun p => cur p != new p)
  let all := (List.range 8).filter (fun p => (new p).2 != 0)
  let ok := changed.all (fun p => s.partExists p && s.movable p) && all.all (fun p => decide ((new p).1 + (new p).2 ≤ 256))
    && all.all (fun p => all.all (fun q => p == q || decide ((new p).1 + (new p).2 ≤ (new q).1) || decide ((new q).1 + (new q).2 ≤ (new p).1)))
  if changed.isEmpty then s
  else if ok then s.item (fun s => (s.each changed (fun s p => s.wr (Reg.RTB_RANGE_CUR + 4 * p) ((new p).1 + (new p).2 * 2 ^ 8))).charge (500 * changed.length))
  else s.item (fun s => s.raise Pg.RTB 4)

/-! ## Row 9: calendars (R404–R412) -/

/-- A calendar position. -/
structure CalEntry where
  start  : Nat
  owner  : Nat
  phases : Nat
  len    : Nat
  tcs    : Nat
  deriving DecidableEq, Repr

/-- The entry two words hold (R404). -/
def calEntry (lo hi : Nat) : CalEntry := ⟨bits lo 23 0, bits lo 27 24, bits lo 31 28, bits hi 23 0, bits hi 31 24⟩

/-- Position i of the calendar in force. -/
def Chip.calCur (s : Chip) (l i : Nat) : CalEntry :=
  calEntry (s.rd (regAt (Pg.cal l) (Reg.CAL_CUR_LO + 8 * i))) (s.rd (regAt (Pg.cal l) (Reg.CAL_CUR_HI + 8 * i)))

/-- Position i of the pending calendar. -/
def Chip.calPend (s : Chip) (l i : Nat) : CalEntry :=
  calEntry (s.rd (regAt (Pg.cal l) (Reg.CAL_PEND_LO + 8 * i))) (s.rd (regAt (Pg.cal l) (Reg.CAL_PEND_HI + 8 * i)))

/-- Cycle length in force: 0, or more than C, acts as C (R405). -/
def Chip.calCycle (s : Chip) (l : Nat) : Nat :=
  let c := s.rd (regAt (Pg.cal l) Reg.CAL_CYCLE)
  if c = 0 || s.plan.c < c then s.plan.c else c

/-- Do two entries overlap at some offset of the cycle? -/
def CalEntry.overlaps (a b : CalEntry) : Bool := decide (a.start < b.start + b.len) && decide (b.start < a.start + a.len)

/-- Do two entries lie closer than a guard, the gap across the cycle boundary included? -/
def CalEntry.tooNear (a b : CalEntry) (cyc guard : Nat) : Bool :=
  let gap := fun (x y : CalEntry) => (y.start + cyc - (x.start + x.len) % (max 1 cyc)) % (max 1 cyc)
  decide (gap a b < guard) || decide (gap b a < guard)

/-- REASON of a submitted calendar; 0 where it passes (R409). [log 40, DEDUCED] -/
def Chip.calReason (s : Chip) (l : Nat) (w : Writer) : Nat :=
  let cyc := s.calCycle l
  let guard := min 1000 (s.rd (regAt (Pg.cal l) Reg.CAL_GUARD))
  let es := (List.range 64).map (fun i => (i, s.calPend l i))
  let valid := es.filter (fun e => e.2.owner != 15)
  let pairs := fun (p : CalEntry → CalEntry → Bool) => valid.any (fun a => valid.any (fun b => a.1 != b.1 && (a.2.phases &&& b.2.phases) != 0 && p a.2 b.2))
  let part := fun (o : Nat) => if o < 8 then some o else none
  if valid.any (fun e => (10 ≤ e.2.owner && e.2.owner ≤ 14) || e.2.phases == 0 || e.2.tcs == 0) then 1
  else if valid.any (fun e => decide (cyc < e.2.start + e.2.len)) then 2
  else if pairs CalEntry.overlaps then 3
  else if pairs (fun a b => a.owner != b.owner && a.tooNear b cyc guard) then 4
  else if es.any (fun e => s.calOwner l e.1 != e.2.owner && !s.mayMove (if (s.shp l).dead.contains e.1 then none else part (s.calOwner l e.1)) (part e.2.owner)) then 5
  else if valid.any (fun e => decide (e.2.owner < 8) && !s.mayName w e.2.owner) then 6
  else 0

/-- The check of a link's submitted calendar. One that passes is in force from the start of the next step. -/
def Chip.row9Cal (s : Chip) (l : Nat) : Chip :=
  let pg := Pg.cal l
  let w := ((s.shp l).writer).getD .host
  let s := (s.wf (F.CAL_STAT_PENDING.on pg) 0).updShp l (fun x => { x with writer := none })
  match s.calReason l w with
  | 0 =>
    let moves := (below 64 (fun i => s.calOwner l i != (s.calPend l i).owner)).length
    let words := (List.range 128).map (fun k => s.word (regAt pg (Reg.CAL_PEND_LO + 4 * k)))
    ((s.wf (F.CAL_STAT_REFUSED.on pg) 0).updShp l (fun x => { x with switch := some words })).charge (500 * moves)
  | r => (((s.wf (F.CAL_STAT_REFUSED.on pg) 1).wf (F.CAL_STAT_REASON.on pg) r).raise pg 0)

/-- At offset 0 of a step a calendar that row 9 has passed comes into force (R409). -/
def Chip.switchCal (s : Chip) (l : Nat) : Chip :=
  match (s.shp l).switch with
  | none => s
  | some ws =>
    let pg := Pg.cal l
    let s := s.each (ws.zipIdx) (fun s x => s.wr (regAt pg (Reg.CAL_CUR_LO + 4 * x.2)) x.1.toNat)
    let s := (s.wr64 (regAt pg Reg.CAL_SWITCH_STEP_LO) s.step).wf (F.CAL_STAT_TRUNC.on pg) 0
    s.updShp l (fun x => { x with switch := none, trunc := [], dead := [] })

/-- A new step plan: entries that no longer fit the cycle are inactive until a later commit (R411). -/
def Chip.truncCal (s : Chip) (l : Nat) : Chip :=
  let cyc := s.calCycle l
  let bad := below 64 (fun i => let e := s.calCur l i; e.owner != 15 && decide (cyc < e.start + e.len))
  if bad.isEmpty then s
  else ((s.updShp l (fun x => { x with trunc := (x.trunc ++ bad).eraseDups })).wf (F.CAL_STAT_TRUNC.on (Pg.cal l)) 1).raise (Pg.cal l) 1

/-! ## Row 9 -/

/-- Row 9: the pending changes written since the last one. Where the window ends first they all stay pending. -/
def Chip.row9 (s : Chip) : Chip :=
  let d := s.glb.dirty
  let s := if d.contains Reg.GLB_PART_PEND then s.row9Parts else s
  let s := s.each (below 16 (fun i => d.contains (Reg.GLB_LT_OWN_PEND + 4 * i))) Chip.row9Tiles
  let s := s.items 92 id (below 192 (fun k => d.contains (regAt (Pg.mem (k / 8)) (Reg.MEM_CG_PEND + 4 * (k % 8))))) (fun s k =>
    s.row9Group (k / 8) (k % 8))
  let s := if (List.range 8).any (fun p => d.contains (Reg.RTB_RANGE_PEND + 4 * p)) then s.row9Ranges else s
  let s := s.items 93 id (below 48 (fun l => s.rf (F.CAL_STAT_PENDING.on (Pg.cal l)) == 1)) Chip.row9Cal
  let s := s.item Chip.row9Slices
  if s.plan.w < s.alm.cost then s else { s with glb := { s.glb with dirty := [] } }

end Sys2Proof.Machine
end

