-- ==== Sys2Proof/Machine/PowerOps.lean ====
section
/-! DEFINITION. Shared operations of power (17): the clock levels of the module and its tile dies (R525, R527), and the vigil triggers that
are due (R531). -/

namespace Sys2Proof.Machine

open Sys2Proof

/-! ## Clock levels (R525, R527) -/

/-- PWR_DIE of tile die d. -/
def dieReg (d : Nat) : Nat := Reg.PWR_DIE + 4 * d

/-- A field of PWR_DIE of tile die d. -/
def dieFld (d : Nat) (f : Fld) : Fld := f.plus (4 * d)

/-- f_L in MHz. -/
def levelMHz (l : Nat) : Nat := 940 - 30 * l

/-- Clock level l is in force on tile die d: its tiles report the clock (R190). [log 62, DEDUCED] -/
def Chip.setDieLevel (s : Chip) (d l : Nat) : Chip :=
  let s := s.wf (dieFld d F.PWR_DIE_LEVEL) l
  s.each (List.range 17) (fun s i => s.wr (regAt (Pg.til (17 * d + i)) Reg.TIL_CLK) (levelMHz l))

/-- P_lim in watts (R561). [log 62, DEDUCED] -/
def Chip.powerLimit (s : Chip) : Nat := max 1000 (min 2800 (s.rd Reg.PWR_LIMIT))

/-- Increase of the level that the power of the previous step asks for. -/
def Chip.powerIncrease (s : Chip) (p : Nat) : Nat := ceilDiv (p - s.powerLimit) 50

/-- Increase that temperatures ask for. -/
def tempIncrease (tTile tStack : Nat) : Nat := if 100 ≤ tTile || 90 ≤ tStack then 1 else 0

/-- L′ of R525. [log 62, DEDUCED] -/
def Chip.nextLevel (s : Chip) (p tTile tStack : Nat) : Nat :=
  let l := s.rf F.PWR_STATE_LEVEL
  let inc := max (s.powerIncrease p) (tempIncrease tTile tStack)
  if 0 < inc then min 15 (l + inc)
  else if p + 100 ≤ s.powerLimit && tTile ≤ 95 && tStack ≤ 85 then l - 1
  else l

/-- The power registers after a step (R561). [log 62, DEDUCED] -/
def Chip.notePower (s : Chip) (r : PowerReading) : Chip :=
  let s := ((s.wr Reg.PWR_STEP_W r.stepW).wr Reg.PWR_MEAN100_W r.mean100).wr Reg.PWR_INPUT_MV r.mv
  let s := (s.add64 Reg.PWR_ENERGY_LO r.joules).wr Reg.PWR_PEAK_W (max (s.rd Reg.PWR_PEAK_W) r.peak)
  let s := s.each r.tiles.zipIdx (fun s x => if x.2 < 68 then s.wr (regAt (Pg.til x.2) Reg.TIL_TEMP) x.1 else s)
  s.each (List.range 4) (fun s d =>
    (s.wf (dieFld d F.PWR_DIE_T_TILE) (r.tTile.getD d 0)).wf (dieFld d F.PWR_DIE_T_STACK) (r.tStack.getD d 0))

/-- The controller's work at offset 0 of a step: the module's level, and each die's, a tripped die below 100 °C among them. [log 62, DEDUCED] -/
def Chip.capping (s : Chip) (r : PowerReading) : Chip :=
  let s := s.notePower r
  let tTile := r.tTile.foldl max 0
  let tStack := r.tStack.foldl max 0
  let old := s.rf F.PWR_STATE_LEVEL
  let new := s.nextLevel r.stepW tTile tStack
  let byP := s.powerIncrease r.stepW
  let byT := tempIncrease tTile tStack
  let s := s.wf F.PWR_STATE_LEVEL new
  let s :=
    if old < new then
      let s := (s.cnt Reg.PWR_LEVEL_UPS).wf F.PWR_STATE_CAUSE (if byT ≤ byP then 1 else 2)
      let s := if 0 < byP then s.raise Pg.PWR 1 else s
      if 0 < byT then s.raise Pg.PWR 2 else s
    else if new < old then s.wf F.PWR_STATE_CAUSE 3
    else s
  s.each (List.range 4) (fun s d =>
    let held := s.rf (dieFld d F.PWR_DIE_TRIPPED) == 1 && decide (100 ≤ r.tTile.getD d 0)
    (s.wf (dieFld d F.PWR_DIE_TRIPPED) (b2n held)).setDieLevel d (if held then 15 else new))

/-! ## Vigil triggers (R531) -/

/-- Arm a timed trigger, or remove it. [log 24, PRESUMED] -/
def Chip.setArmed (s : Chip) (t : Option (Nat × Nat)) : Chip :=
  ({ s with vgl := { s.vgl with armed := t } }).wf F.VGL_STAT_ARMED (b2n t.isSome)

/-- Sources of the triggers that are due at this tick, lowest code first (R538). -/
def Chip.latchSources (s : Chip) : List Nat :=
  (match s.vgl.armed with
    | some (t, src) => if s.alm.valid && t ≤ s.alm.now then [src] else []
    | none => [])
  ++ (if s.vgl.now then [2] else []) ++ (if s.vgl.fault then [4] else [])

/-- Latch for the triggers that are due: one latch for all of them, or, while one is held, each ignored. -/
def Chip.latchDue (s : Chip) : Chip :=
  match sortBy (fun a b => decide (a ≤ b)) s.latchSources with
  | [] => s
  | x :: rest =>
    let timed := (x :: rest).any (fun c => c == 1 || c == 3)
    let s : Chip := { s with vgl := { s.vgl with now := false, fault := false } }
    let s := if timed then s.setArmed none else s
    if s.rf F.VGL_STAT_HELD = 1 then s.each (x :: rest) Chip.latch else s.latch x

end Sys2Proof.Machine
end

