-- ==== Sys2Proof/Machine/Boundary.lean ====
section
/-! DEFINITION. The start of a step and its Boundary window (02, R65, R66): rows 1 to 12 in order, what waits within the window, and what is
carried where it ends. -/

namespace Sys2Proof.Machine

open Sys2Proof

/-! ## Time -/

/-- Change the almanac block. -/
def Chip.setAlm (s : Chip) (f : Alm → Alm) : Chip := { s with alm := f s.alm }

/-- What is left of an offset, in fs, that the tick rate has corrected over a number of ticks: at most 10 ns in each ms of 100,000 ticks,
which is 100 fs in a tick (R43). -/
def slewAfter (slew : Int) (ticks : Nat) : Int :=
  let most : Int := 100 * ticks
  if slew < 0 then min 0 (slew + most) else max 0 (slew - most)

/-- The almanac time comes to a moment; it never goes back. -/
def Chip.advance (s : Chip) (t : Nat) : Chip := s.setAlm (fun a => { a with now := max a.now t, slew := slewAfter a.slew ((t - a.now) / 10) })

/-- The almanac time at which an offset of the current step falls; the present where it is past. -/
def Chip.atOffset (s : Chip) (off : Nat) : Nat :=
  s.rd64 Reg.ALM_BASE_TIME_LO + 10 * ((s.step - s.rd64 Reg.ALM_BASE_STEP_LO) * max 1 s.plan.c + off)

/-- The almanac time comes to an offset of the current step. [log 5, DESIGN CHOICE] -/
def Chip.toOffset (s : Chip) (off : Nat) : Chip := s.advance (s.atOffset off)

/-- Is the window of the current step still to be opened at this tick? -/
def Chip.atStart (s : Chip) : Bool := s.offset == 0 && s.alm.stepTaken != some s.step

/-- The almanac time at which the next step begins: at the present tick where its window has not been opened, at the moment of a plan
adopted late where one waits (R579). -/
def Chip.nextStart (s : Chip) : Nat :=
  match s.alm.late with
  | some l => l.moment
  | none => if s.atStart then s.alm.now else s.stepTime (s.step + 1)

/-- A plan comes into force with its base (R46). [log 22, DEDUCED] -/
def Chip.takePlan (s : Chip) (p : Plan) (baseTime baseStep : Nat) : Chip :=
  let s := (((s.wr Reg.ALM_CUR_CADENCE p.c).wr Reg.ALM_CUR_BW_LEN p.w).wr Reg.ALM_CUR_EXCH p.x).wr Reg.ALM_CUR_SETTLE p.s
  let s := (s.wr64 Reg.ALM_BASE_TIME_LO baseTime).wr64 Reg.ALM_BASE_STEP_LO baseStep
  s.each (List.range 48) Chip.truncCal

/-- Moment T of a plan adopted late (R579): step number and offset become those of the new plan. [log 22, DEDUCED] -/
def Chip.planSwitch (s : Chip) : Chip :=
  match s.alm.late with
  | none => s
  | some l => ((s.advance l.moment).setAlm (fun a => { a with late := none })).takePlan l.plan l.baseTime l.baseStep

/-! ## Rows 2 and 3 -/

/-- The pending plan. -/
def Chip.pendPlan (s : Chip) : Plan := ⟨s.rd Reg.ALM_CADENCE, s.rd Reg.ALM_BW_LEN, s.rd Reg.ALM_EXCH_START, s.rd Reg.ALM_SETTLE_START⟩

/-- Row 2: the pending plan whose step has come (R46, R48): an armed register plan, or the plan of each map whose epoch takes effect in this
window (R47). ARM then shows whether another map's plan is still pending. -/
def Chip.row2 (s : Chip) : Chip :=
  let n := s.rd64 Reg.ALM_PLAN_STEP_LO
  if s.rf F.ALM_PLAN_CTRL_ARM = 1 && s.rf F.ALM_PLAN_CTRL_SOURCE = 0 then
    (if n ≤ s.step then (s.wf F.ALM_PLAN_CTRL_ARM 0).takePlan s.pendPlan (s.stepTime n) n else s)
  else
    let due := s.xpt.proposals.filter (fun p => p.complete && !p.lapsed && decide (p.map.step ≤ s.step))
    if due.isEmpty then s
    else (s.each due (fun s p => s.takePlan p.map.plan (s.stepTime p.map.step) p.map.step)).showPending
      (s.xpt.proposals.filter (fun p => !p.lapsed && !due.contains p))

/-- Row 3: every rotating order of precedence moves on by one (R229). -/
def Chip.row3 (s : Chip) : Chip := s.setSch (fun x => { x with rot := x.rot + 1 })

/-! ## Row 5 (R351, R505) -/

/-- A half-bank is back in service; its remapped units are to be copied back (R504). -/
def Chip.admitHalfBank (s : Chip) (st hb : Nat) : Chip :=
  let pg := Pg.mem st
  let reg := regAt pg (Reg.MEM_HB_RETIRED + 4 * (hb / 32))
  let s := (s.wr reg (putBits (s.rd reg) (hb % 32) (hb % 32) 0)).sub (regAt pg Reg.MEM_RETIRED) 1
  let own := s.memu.remaps.filter (fun r => stackOf r.1 == st && halfBankOf r.1 == hb)
  let s := s.each own (fun s r => s.setMemu (fun m => { m with backs := m.backs.put r.1 0 }))
  if s.flt.repair = some (.halfBank st hb) then
    if own.isEmpty then ((s.wf F.FLT_REPAIR_STAT_RESULT 0).wf F.FLT_REPAIR_STAT_STAGE 0).setFlt (fun f => { f with repair := none })
    else s.wf F.FLT_REPAIR_STAT_STAGE 3
  else s

/-- A returning unit is admitted. A half-bank that was repaired leaves its channel's record behind; any other keeps its events, and its run of
retrain failures ends (R497). -/
def Chip.admitUnit (s : Chip) (c : Chan) : Chip :=
  let s : Chip := match c with
    | .tile t => ((s.wf (F.TIL_MAP_STATE.on (Pg.til t)) 1).wf (F.TIL_MAP_LOGICAL.on (Pg.til t)) (s.tile t).takes).setTile t (fun _ => {})
    | .halfBank st hb => s.admitHalfBank st hb
    | .stack st => s.wf (F.MEM_STAT_STATE.on (Pg.mem st)) 2
    | _ => s
  let s := s.returned c
  match c with
  | .halfBank _ _ => s.setChan c { attempt := (s.chan c).attempt }
  | _ => s.retrainOk c

/-- A link is admitted at its agreed step. -/
def Chip.admitLink (s : Chip) (l n : Nat) : Chip :=
  let s := ((s.lnkWf l F.LNK_STAT_STATE Ls.admitted).lnkWf l F.LNK_STAT_ADMIT_PENDING 0).wr64 (regAt (Pg.lnk l) Reg.LNK_ADMIT_STEP_LO) n
  let s := s.updLink l (fun k => { k with proposed := none, admitAt := none })
  let s := s.retrainOk (.link l)
  if (s.returning (.link l)).isSome then s.returned (.link l) else s

/-- The end with the lower SERIAL proposes the current step plus 2, once this end has passed and is locked. -/
def Chip.proposeAdmit (s : Chip) (l : Nat) : Chip :=
  let k := s.link l
  if s.locked && s.lowerEnd l && k.passed && s.lnkState l == Ls.selftest && k.admitAt.isNone
      && (match k.proposed with | some n => decide (n ≤ s.step) | none => true) then
    (s.updLink l (fun k => { k with proposed := some (s.step + 2) })).sendCtl l 4 (admitPayload 1 (s.step + 2))
  else s

/-- Row 5. -/
def Chip.row5 (s : Chip) : Chip :=
  let s := s.each ((s.flt.returns.filter (fun r => r.stage == .awaiting)).map (·.chan)) Chip.admitUnit
  let s := s.each (List.range 48) (fun s l =>
    match (s.link l).admitAt with
    | some n => if n ≤ s.step && s.lnkState l == Ls.selftest then s.admitLink l n else s
    | none => s)
  s.each (s.links.keys) Chip.proposeAdmit

/-! ## Row 7's end (R508) -/

/-- Requests of this origin whose home and journal partner are both absent from the map in force. -/
def Chip.row7Orphans (s : Chip) : Chip :=
  let gone := fun (l : Locator) => let c := ridComp l.rid
    (s.map c).isSome && !s.present c l.device && !s.present c l.partner
  s.items 79 (·.rid) (s.rtb.locators.vals.filter (fun l => l.state != 0 && l.device != s.selfDev && gone l
      && !s.cxl.backlog.any (fun h => h.finish && h.rid == l.rid))) (fun s l =>
    s.originLost l.rid l.hostTag)

/-! ## The rows that may be carried -/

/-- Row 7. -/
def Chip.row7 (s : Chip) : Chip := s.row7Releases.row7Journals.row7Prefix.row7Evicts.row7Orphans

/-- Does row 11 wait for a partner's answer to an anchor? -/
def Chip.offersOpen (s : Chip) : Bool := s.rtb.offers.any (fun o => !o.accepted && !o.carried)

/-- Rows 6 to 12 from the row the window has come to. Row 6 waits for decisions on READY transfers, row 11 for answers to anchors; a
window that has ended waits for nothing. [log 6, DEDUCED] -/
def Chip.rowsFrom : Nat → Chip → Chip
  | 0, s => s
  | n + 1, s =>
    let past := decide (s.plan.w < s.alm.cost)
    let next := fun (t : Chip) (r : Nat) => Chip.rowsFrom n (t.setAlm (fun a => { a with row := r }))
    match s.alm.row with
    | 6 => if !past && !s.undecided.isEmpty then s else next s.row6Apply.askAgain.pursueIntents 7
    | 7 => next s.row7 8
    | 8 => next s.row8 9
    | 9 => next s.row9 10
    | 10 => next s.row10 11
    | 11 =>
      let t := s.row11Rebuilds.row11Subs
      if !past && t.offersOpen then t else next t 12
    | 12 => next s.row12 13
    | _ => s

/-- Has a block finished everything it accepted (R545)? -/
def Chip.blkIdle (s : Chip) (b : Blk) (i : Nat) : Bool :=
  !s.outstanding b i && (match b with
    | .smv => s.smv.orders.isEmpty && s.smv.srcs.isEmpty && s.smv.dsts.isEmpty
    | .rtb => s.rtb.offers.isEmpty
    | .cxl => s.cxl.subs.isEmpty && s.cxl.backlog.isEmpty
    | .xpt => s.busyCtxs.isEmpty
    | .sch => s.sch.sels.isEmpty && s.sch.loads.isEmpty
    | .til => (s.tile i).done && (s.tile i).loads.isEmpty
    | .sdg => (s.sdgAt i).running.isEmpty
    | .mem => i != 0 || s.memu.migs.isEmpty
    | .shp => (s.shp i).used == 0
    | _ => true)

/-- A block that was told to hold still does so once nothing that it accepted is outstanding (R545). [log 30, DEDUCED] -/
def Chip.settleQuiet (s : Chip) : Chip :=
  s.each (below 284 (fun pg => s.quiet pg && s.rf (F.BLK_STAT_QUIESCED.on pg) == 0)) (fun s pg =>
    match blkOf pg with
    | some (b, i) => if s.blkIdle b i then s.wf (F.BLK_STAT_QUIESCED.on pg) 1 else s
    | none => s)

/-- Keys that have served their time (R471): REKEY_STEPS. [log 42, DEDUCED] -/
def Chip.rekeyOld (s : Chip) : Chip :=
  let n := s.rf F.SEC_CFG_REKEY_STEPS
  if n = 0 then s else s.each ((s.sec.pairs.filter (fun p => decide (p.made + n ≤ s.step))).map (·.dev)) Chip.startShake

/-- The window's list is finished: what waited for it goes on. -/
def Chip.windowDone (s : Chip) : Chip :=
  let clear := fun (c : Nat × Ctx) => match c.2 with
    | .tx x => (c.1, Ctx.tx { x with msgs := x.msgs.map (fun m => { m with wait := false }) })
    | .rx x => (c.1, Ctx.rx x)
  (s.setXpt (fun x => { x with ctxs := x.ctxs.map clear })).settleQuiet.rekeyOld.pumpAll

/-- Go on with the rows of an open window, while the device is locked (R56); at its end do what waited for it. [log 6, DEDUCED] -/
def Chip.windowGo (s : Chip) : Chip :=
  if s.alm.row = 13 || !s.locked then s
  else
    let t := Chip.rowsFrom 9 s
    if t.alm.row = 13 then t.windowDone else t

/-- The window takes note of the pages that are told to hold still and of those disabled (R545). [log 23, DEDUCED] [log 61, DEDUCED] -/
def Chip.noteHeld (s : Chip) : Chip :=
  { s with glb := { s.glb with held := below 284 (fun pg => s.rf (F.BLK_CTRL_QUIESCE.on pg) == 1), stopped := below 284 (fun pg => !s.enabled pg) } }

/-- Open the Boundary window at the present tick: rows 1 to 5, the start of row 6, and on from there. [log 6, DEDUCED] -/
def Chip.openWindow (s : Chip) : Chip :=
  let s := s.setAlm (fun a => { a with winStep := s.step, cost := 0, fixed11 := false, carried := [], queue := a.carrying, carrying := [] })
  let s := s.noteHeld.latchDue.row2.row3.row4.row5
  let s := (s.setAlm (fun a => { a with row := 6, cost := 300 })).row6Source.row6DstStart
  s.windowGo

/-! ## The step's first tick and its phases -/

/-- Votes still missing when a proposal's step begins: it lapses (R393). -/
def Chip.lapseDue (s : Chip) : Chip :=
  s.each (s.xpt.proposals.filter (fun p => !p.lapsed && !p.complete && decide (p.map.step ≤ s.step))) Chip.lapse

/-- Bucket codes in force in the step (R320, R484). -/
def Chip.takeBuckets (s : Chip) : Chip :=
  s.setSmv (fun m => { m with buckets := (List.range 8).map (fun p =>
    (p, max (s.rf (F.SEC_PART_POLICY_BUCKET.plus (4 * p))) (s.rf (F.SEC_PART_POLICY_FLOOR.plus (4 * p))))) })

/-- Compute begins: rows of the window that are left are carried, each item counted (R66), and a generation partition whose row 12 is
among them tells its gang (R203). [log 6, DEDUCED] -/
def Chip.closeWindow (s : Chip) : Chip :=
  let s := if s.alm.row = 13 then s else (s.setAlm (fun a => { a with cost := max a.cost (s.plan.w + 1) })).windowGo
  let left := s.alm.carried.filter s.inGang
  (s.setAlm (fun a => { a with carried := [] })).each left (fun s p => s.sendVoid p 2)

/-- At the start of a step the merge units are empty: partials serve the command sequences of one step. [log 51, DESIGN CHOICE] -/
def Chip.clearMerges (s : Chip) : Chip := s.each s.sdgs.keys (fun s st => s.setSdg st (fun x => { x with merge := [] }))

/-- At the start of a step no tile runs a program, and one that stopped goes on. -/
def Chip.freshTiles (s : Chip) : Chip :=
  s.each s.tiles.keys (fun s t => s.setTile t (fun x => { x with stopped := false, reported := false, done := true, prog := 0 }))

/-- The first tick of a step: what is tied to offset 0, then the Boundary window while the device is locked (R56). `t3` is what the
device finds in the tables that lie in host memory. -/
def Chip.beginStep (s : Chip) (r : PowerReading) (t3 : List (Nat × Bytes)) : Chip :=
  let s := { (s.planSwitch) with t3seen := t3.foldl (fun m (x : Nat × Bytes) => SMap.put m x.1 x.2) s.t3seen }
  let s := s.closeWindow
  let s := s.setAlm (fun a => { a with stepTaken := some s.step })
  let s := ((s.each s.shps.keys Chip.switchCal).capping r).takeBuckets
  let s := s.clearBinding.clearMerges.setXpt (fun x => { x with exchanged := [] })
  let s := s.freshTiles
  if s.locked then s.lapseDue.openWindow else s

/-- The command that opens the Boundary window: the time comes to the next step's first tick. [log 5, DESIGN CHOICE] -/
def Chip.boundary (s : Chip) (r : PowerReading) (t3 : List (Nat × Bytes)) : Chip :=
  let s := s.advance s.nextStart
  s.beginStep r t3

end Sys2Proof.Machine
end

