-- ==== Sys2Proof/Machine/Run.lean ====
section
/-! DEFINITION. What follows every command: units hear of the messages the transport has ended (R373, R388, R581), a Boundary window that
waited goes on, and frames that waited for room move. -/

namespace Sys2Proof.Machine

open Sys2Proof

/-- A tile takes no further part in the step, and its member voids the step (R167, R388, R502). -/
def Chip.stopTile (s : Chip) (t : Nat) : Chip :=
  let s := s.setTile t (fun x => { x with stopped := true })
  match (s.logicalOf t).bind s.ltOwner with
  | some p => (if s.role p = .generation then s.sendVoid p 1 else s).voidStep p
  | none => s

/-- Status with which a State Mover message ends that the transport ended (R581). -/
def moverStatus : Nat → Nat
  | 11 => 0x0C
  | 3 => 0x03
  | 4 => 0x07
  | _ => 0x0E

/-- A unit hears of one of its messages or operations that has ended. A journal partner that is lost is treated as R96 says; other
services wait for an answer that does not come, as their own rules provide. -/
def Chip.endedOne (s : Chip) (e : Ended) : Chip :=
  let s := if e.status = 11 then s.raise Pg.XPT 1 else s
  match e.msg.svc with
  | 1 => s.smvEnded e.msg.bytes (moverStatus e.status) e.peer
  | 2 => if e.status = 11 then s.partnerGone e.peer else s
  | 7 => (s.emit (.loadDone e.msg.tile e.msg.num e.status [])).stopTile e.msg.tile
  | _ => s

/-- Report endings, `n` at most: a report may end another message. -/
def Chip.reportEnded : Nat → Chip → Chip
  | 0, s => s
  | n + 1, s =>
    match s.xpt.ended with
    | [] => s
    | e :: rest => Chip.reportEnded n ((s.setXpt (fun x => { x with ended := rest })).endedOne e)

/-- What follows every command. -/
def Chip.settle (s : Chip) : Chip :=
  let s := Chip.reportEnded (2 * s.xpt.ended.length) s
  let s := s.windowGo.settleTouched
  if s.busyCtxs.isEmpty then s else s.resendWaiting.pumpAll

/-- A command that may send or decide something: what it does to the chip, and what follows. [log 2, DESIGN CHOICE] -/
def State.run (s : State) (f : Chip → Chip) : Host.Outcome State Fault Refusal := s.onChip (fun c => (f c).settle)

/-- The same for a command that names a unit: one that names a unit the module does not have does nothing. [log 2, DESIGN CHOICE] -/
def State.runOn (s : State) (ok : Bool) (f : Chip → Chip) : Host.Outcome State Fault Refusal := s.run (fun c => if ok then f c else c)

end Sys2Proof.Machine
end

