-- ==== Sys2Proof/Machine/Phases.lean ====
section
/-! DEFINITION. The moments of a step after its first tick (R62): Compute, Exchange, Settle and the State Mover's cutoff, and what a tick of
the almanac takes (R41, R42, R579). -/

namespace Sys2Proof.Machine

open Sys2Proof

/-- Does an offset of the current step fall at or after the moment of a plan adopted late, so that its event is skipped (R579)? -/
def Chip.skipped (s : Chip) (off : Nat) : Bool :=
  match s.alm.late with
  | some l => decide (l.moment ≤ s.atOffset off)
  | none => false

/-- An event at an offset of the step, unless it is skipped. [log 5, DESIGN CHOICE] -/
def Chip.atMoment (s : Chip) (off : Nat) (f : Chip → Chip) : Chip := if s.skipped off then s else f (s.toOffset off)

/-- Physical tiles that a selection's program runs on (R201): on each die, the lowest-numbered logical tiles its partition owns. -/
def Chip.tilesUsed (s : Chip) (x : Sel) : List Nat :=
  match s.prog x.prog with
  | some g => (List.range 4).flatMap (fun d => ((s.tilesOf x.part d).take (g.dieTiles.getD d 0)).filterMap s.physOf)
  | none => []

/-- Offset W: the window is closed, tiles start their programs, and hashing begins (R62, R109). A tile that has not answered the watchdog's
probe runs none (R499). -/
def Chip.computeStart (s : Chip) (seeds : List (Nat × Nat)) : Chip :=
  let s := s.closeWindow
  let s := s.each (s.sch.sels.filter (fun x => !x.voided)) (fun s x =>
    s.each (s.tilesUsed x) (fun s t => s.setTile t (fun y => { y with prog := x.prog + 1, part := x.part, done := false, stopped := false })))
  let s := s.each (below 68 (fun t => (s.tile t).probed && (s.tile t).prog != 0)) Chip.stopTile
  let s := s.each seeds (fun s x =>
    if x.1 < 68 then (s.wr64 (regAt (Pg.til x.1) Reg.TIL_SR_SEED_LO) x.2).setTile x.1 (fun y => { y with srCount := 0 }) else s)
  s.computeHashes

/-- Tiles whose Compute part is not finished when it must be: a sequencer fault each (R202, R579). -/
def Chip.unfinishedAtT (s : Chip) (unfinished : List Nat) : Chip :=
  s.each (unfinished.filter (fun t => let y := s.tile t; y.prog != 0 && !y.done && !y.stopped)) (fun s t => s.seqFault t (s.tile t).part true)

/-- Offset X: a tile that has not finished its Compute part has a sequencer fault (R202); lookups without a reply fail (R120). -/
def Chip.exchangeStart (s : Chip) (unfinished : List Nat) : Chip :=
  let s := s.unfinishedAtT unfinished
  let s := s.each s.tiles.keys (fun s t => s.setTile t (fun y => { y with done := true }))
  s.lookupDeadline

/-- Moment T of a plan adopted late that comes before the step's offset X: what X would have ended ends with the step, so a Compute part that is
not finished is a sequencer fault (R579). [log 22, DEDUCED] -/
def Chip.endOldStep (s : Chip) (unfinished : List Nat) : Chip :=
  if s.alm.late.isSome && s.skipped s.plan.x then s.exchangeStart unfinished else s

/-- Offset C − SMV_CUTOFF: transfers end, and the Bids and Offers for the next step go out (R148, R206, R218). [log 5, DESIGN CHOICE] -/
def Chip.cutoff (s : Chip) : Chip := s.cutoffAborts.sendBids

/-- Events of a step that fall on the present offset. -/
def Chip.dueHere (s : Chip) (x : StepInput) : Chip :=
  let off := s.offset
  let s := if off = s.plan.w then s.computeStart x.seeds else s
  let s := if off = s.plan.x then s.exchangeStart x.unfinished else s
  let s := if off = s.plan.s then s.voteDeadline.settleOpens else s
  if off = s.cutoffAt then s.cutoff else s

/-- One tick of 10 ns (R41), and what is due at it. [log 5, DESIGN CHOICE] -/
def Chip.tick (s : Chip) (x : StepInput) : Chip :=
  let s := s.advance (s.alm.now + 10)
  let switch := match s.alm.late with
    | some l => decide (l.moment ≤ s.alm.now)
    | none => false
  if switch || (s.alm.late.isNone && s.atStart) then ((s.endOldStep x.unfinished).beginStep x.reading x.t3).latchDue
  else if s.alm.late.isSome && s.skipped s.offset then s.latchDue
  else s.latchDue.dueHere x

end Sys2Proof.Machine
end

