-- ==== Sys2Proof/Machine/Almanac.lean ====
section
/-! DEFINITION. Meanings of the almanac's commands (02): ticks and phases, plans, election, synchronisation and the ALM_SYNC input. -/

namespace Sys2Proof.Machine

open Sys2Proof

/-! ## Almanac records (R49, R344) -/

/-- The fields of an almanac record. -/
structure AlmRec where
  type   : Nat
  cls    : Nat
  prio   : Nat
  device : Nat
  hops   : Nat
  serial : Nat
  seq    : Nat
  time   : Stamp := ⟨0, 0⟩
  echo   : Stamp := ⟨0, 0⟩
  deriving DecidableEq, Repr

/-- A timestamp rounded to the nearest nanosecond, for a version-1 peer. -/
def roundStamp (t : Stamp) : Stamp := if 500 ≤ t.ps then ⟨t.ns + 1, 0⟩ else ⟨t.ns, 0⟩

/-- The 48 bytes of a record in a version. -/
def AlmRec.toBytes (r : AlmRec) (ver : Nat) : Bytes :=
  let t := if ver = 1 then roundStamp r.time else r.time
  let e := if ver = 1 then roundStamp r.echo else r.echo
  toLE 1 r.type ++ toLE 1 ver ++ toLE 1 r.cls ++ toLE 1 r.prio ++ toLE 2 r.device ++ toLE 1 r.hops ++ zeros 1 ++ toLE 8 r.serial
    ++ toLE 4 r.seq ++ toLE 2 t.ps ++ toLE 2 e.ps ++ toLE 8 t.ns ++ toLE 8 e.ns ++ zeros 8

/-- A record from its bytes; fractions of a version-1 record are zero. -/
def AlmRec.ofBytes (b : Bytes) : AlmRec :=
  let v1 := le b 1 1 == 1
  { type := le b 0 1, cls := le b 2 1, prio := le b 3 1, device := le b 4 2, hops := le b 6 1, serial := le b 8 8, seq := le b 16 4
    time := ⟨le b 24 8, if v1 then 0 else le b 20 2⟩, echo := ⟨le b 32 8, if v1 then 0 else le b 22 2⟩ }

/-- Is a control frame's payload an almanac record of a type in the version of its link? -/
def Chip.almOk (s : Chip) (l type : Nat) (b : Bytes) : Bool :=
  decide (b.length = 48) && le b 0 1 == type && le b 1 1 == s.linkVer l && s.linkUp l

/-- A unit of the link takes a control frame that was heard. [log 60, DESIGN CHOICE] -/
def Chip.takeCtl (s : Chip) (l type : Nat) (b : Bytes) : Chip :=
  s.updLink l (fun k => { k with heard := match k.heard.find? (fun h => h.1 == type && h.2.2 == b) with
    | some h => k.heard.erase h
    | none => k.heard })

/-- The next SEQUENCE of a record type on a link. -/
def Chip.nextSeq (s : Chip) (l type : Nat) : Chip × Nat :=
  let k := 4 * l + (type - 1)
  let n := s.alm.seqTx.getD k 0
  (s.setAlm (fun a => { a with seqTx := a.seqTx.put k ((n + 1) % 2 ^ 32) }), n)

/-- Send a record on a link, about the device's own master. -/
def Chip.sendAlm (s : Chip) (l : Nat) (r : AlmRec) : Chip := s.sendCtl l 2 (r.toBytes (s.linkVer l))

/-- The record of a type about the device's master. -/
def Chip.masterRec (s : Chip) (type seq : Nat) : AlmRec :=
  { type := type, cls := s.rf F.ALM_MASTER_CLASS, prio := s.rf F.ALM_MASTER_PRIORITY, device := s.rf F.ALM_MASTER_DEVICE
    hops := s.rf F.ALM_STATE_HOPS, serial := s.rd64 Reg.ALM_MASTER_SERIAL_LO, seq := seq }

/-- Links that are up. -/
def Chip.linksUp (s : Chip) : List Nat := below 48 s.linkUp

/-! ## Election (R52, R53) -/

/-- Is this device master? -/
def Chip.isMaster (s : Chip) : Bool := s.rf F.ALM_STATE_MASTER == 1

/-- Upstream link; 63 for none. -/
def Chip.upstream (s : Chip) : Nat := s.rf F.ALM_STATE_UPSTREAM

/-- Has the device a master: itself or one upstream? -/
def Chip.hasMaster (s : Chip) : Bool := s.isMaster || s.upstream != 63

/-- The device as a candidate. -/
def Chip.ownCand (s : Chip) : Cand := ⟨s.rf F.ALM_STATE_CLASS, s.rf F.ALM_ELECT_PRIORITY, ownSerial, s.selfDev, 0, s.alm.now⟩

/-- Does one candidate rank before another? -/
def Cand.before (a b : Cand) : Bool := lexLe [a.cls, a.prio, a.serial] [b.cls, b.prio, b.serial] && a.serial != b.serial

/-- Candidates still heard: an Announce has come within 3 ms (R53). -/
def Chip.heardNow (s : Chip) : SMap Cand := s.alm.heard.filter (fun x => decide (s.alm.now < x.2.heard + 3000000))

/-- The better of two candidates by rank, then by fewest hops; of equals the first. -/
def betterOf (b : Option (Nat × Cand)) (x : Nat × Cand) : Option (Nat × Cand) :=
  match b with
  | none => some x
  | some y => if x.2.before y.2 || (x.2.serial == y.2.serial && decide (x.2.hops < y.2.hops)) then some x else some y

/-- The best candidate still heard, with its link: fewest hops, then the lowest link. -/
def Chip.bestHeard (s : Chip) : Option (Nat × Cand) := s.heardNow.foldl betterOf none

/-- Follow a candidate: itself, or one heard on a link. -/
def Chip.follow (s : Chip) (c : Cand) (link : Option Nat) : Chip :=
  let hops := match link with
    | some _ => c.hops + 1
    | none => 0
  let s := ((s.wf F.ALM_MASTER_DEVICE c.device).wf F.ALM_MASTER_HOPS hops).wf F.ALM_MASTER_CLASS c.cls
  let s := (s.wf F.ALM_MASTER_PRIORITY c.prio).wr64 Reg.ALM_MASTER_SERIAL_LO c.serial
  let s := ((s.wf F.ALM_STATE_MASTER (b2n link.isNone)).wf F.ALM_STATE_UPSTREAM (link.getD 63)).wf F.ALM_STATE_HOPS hops
  s.setAlm (fun a => { a with better := [] })

/-- Choose a master among the candidates heard and the device itself; with none, run in holdover. -/
def Chip.elect (s : Chip) : Chip :=
  let own := s.ownCand
  let may := s.rf F.ALM_ELECT_ELIGIBLE == 1
  match s.bestHeard with
  | some (l, c) => if may && own.before c then s.follow own none else s.follow c (some l)
  | none =>
    if may then s.follow own none
    else ((s.wf F.ALM_STATE_MASTER 0).wf F.ALM_STATE_UPSTREAM 63).wf F.ALM_STATE_HOPS 0

/-- The current master as a candidate. -/
def Chip.curMaster (s : Chip) : Cand :=
  ⟨s.rf F.ALM_MASTER_CLASS, s.rf F.ALM_MASTER_PRIORITY, s.rd64 Reg.ALM_MASTER_SERIAL_LO, s.rf F.ALM_MASTER_DEVICE, s.rf F.ALM_MASTER_HOPS, 0⟩

/-- A better candidate has been heard: each is counted on its own, and the one heard in three successive intervals of 1 ms is taken (R53).
[log 21, DEDUCED] -/
def Chip.countBetter (s : Chip) (c : Cand) : Chip :=
  let now := s.alm.now / 1000000
  let n := match s.alm.better.find c.serial with
    | some (k, at') => if at' = now then k else if at' + 1 = now then k + 1 else 1
    | none => 1
  if 3 ≤ n then
    (match (s.heardNow.filter (fun x => x.2.serial == c.serial)).foldl betterOf none with
     | some (l, best) => s.follow best (some l)
     | none => s)
  else s.setAlm (fun a => { a with better := a.better.put c.serial (n, now) })

/-- The device as a candidate against its master (R52): a master that may no longer be one chooses again, one whose own rank has changed
announces it, and a device that outranks the master it follows takes itself. [log 21, DEDUCED] -/
def Chip.reviewOwn (s : Chip) : Chip :=
  let may := s.rf F.ALM_ELECT_ELIGIBLE == 1
  if s.isMaster then (if may then s.follow s.ownCand none else s.elect)
  else if s.hasMaster && may && s.ownCand.before s.curMaster then s.follow s.ownCand none
  else s

/-- An Announce is ranked, and the master's is forwarded (R52): on every other link, beside the Announces of R51. A device's own Announce that
comes back to it is no candidate. [log 21, DEDUCED] -/
def Chip.announceIn (s : Chip) (l : Nat) (b : Bytes) : Chip :=
  let s := s.takeCtl l 2 b
  if !s.almOk l 1 b || (AlmRec.ofBytes b).serial == ownSerial then s
  else
    let r := AlmRec.ofBytes b
    let c : Cand := ⟨r.cls, r.prio, r.serial, r.device, r.hops, s.alm.now⟩
    let s := s.setAlm (fun a => { a with heard := a.heard.put l c })
    let s :=
      if !s.hasMaster then s.elect
      else if s.upstream = l && c.serial = s.curMaster.serial then (s.follow c (some l)).reviewOwn
      else if c.serial = s.curMaster.serial then
        (if !s.isMaster && (c.hops + 1 < s.rf F.ALM_STATE_HOPS || (c.hops + 1 = s.rf F.ALM_STATE_HOPS && l < s.upstream)) then s.follow c (some l) else s)
      else if c.before s.curMaster then s.countBetter c
      else s
    if s.upstream = l && c.serial = s.curMaster.serial && c.hops + 1 < 32 then
      s.each (s.linksUp.filter (· != l)) (fun s o =>
        let (s, q) := s.nextSeq o 1
        s.sendAlm o { r with hops := c.hops + 1, seq := q })
    else s

/-- The Announce of every millisecond: of this device's master, on every link that is up. -/
def Chip.announceSend (s : Chip) : Chip :=
  let s := if s.hasMaster then s else s.elect
  if s.hasMaster && s.rf F.ALM_STATE_HOPS < 32 then
    s.each s.linksUp (fun s l => let (s, q) := s.nextSeq l 1; s.sendAlm l (s.masterRec 1 q))
  else s

/-- The master is lost: the candidates heard within 3 ms are left to choose from (R53). -/
def Chip.masterLost (s : Chip) : Chip :=
  if s.upstream = 63 then s
  else
    let up := s.upstream
    let s := s.setAlm (fun a => { a with heard := a.heard.filter (fun x => x.1 != up) })
    (s.raise Pg.ALM 2).elect

/-! ## Lock (R56, R57) -/

/-- The device is locked. [log 21, DEDUCED] -/
def Chip.lockNow (s : Chip) : Chip := (s.wf F.ALM_STATE_LOCK 2).setAlm (fun a => { a with valid := true })

/-- A Sync interval with an offset below 10 ns: the sixty-fourth in succession locks. -/
def Chip.goodSync (s : Chip) : Chip :=
  let n := s.alm.syncGood + 1
  let s := s.setAlm (fun a => { a with syncGood := min n 64 })
  let s := if s.rf F.ALM_STATE_LOCK = 0 then s.wf F.ALM_STATE_LOCK 1 else s
  if 64 ≤ n && !s.locked then s.lockNow else s

/-- The device leaves every composition, and the plan of a map that is dropped goes with it (R57, R393). -/
def Chip.leaveComps (s : Chip) : Chip :=
  let comps := (s.parts.filterMap (·.comp)).eraseDups
  let s := s.setXpt (fun x => { x with maps := [], digests := [], lastMap := [], proposals := [], votes := [] })
  let s := s.each (List.range 8) (fun s p => if (s.part p).comp.isSome then
    s.setPart p (fun y => { y with comp := none, pending := none, due := if y.role = .unassigned then none else some .unassigned }) else s)
  let s := if s.rf F.ALM_PLAN_CTRL_SOURCE = 1 then s.showPending [] else s
  s.each comps Chip.epochRequests

/-- The almanac is stepped by an offset in picoseconds, to a multiple of 10 ns. -/
def Chip.stepTo (s : Chip) (offset : Int) : Chip :=
  s.setAlm (fun a => { a with now := (((a.now : Int) * 1000 - offset) / 10000 * 10).toNat, slew := 0, syncGood := 0, stepTaken := none })

/-- The offset of a locked device exceeds 1 µs: it is unaligned, takes no further action of a Boundary window, leaves its compositions, and
steps to its upstream (R57). [log 21, DEDUCED] -/
def Chip.unalign (s : Chip) (offset : Int) : Chip :=
  let (s, v) := (s.wf F.ALM_STATE_LOCK 3).draw 8
  let s := ((s.faultRecord 11 v 0xFFFF 0xFFFF 0xFFFF 0xFF 0 0).raise Pg.ALM 1).leaveComps
  (s.setAlm (fun a => { a with row := 13 })).stepTo offset

/-- An offset from upstream is measured (R54, R56, R57). A locked device, and a member of a composition, corrects it by its tick rate (R43);
the register keeps the low 32 bits. [log 21, DEDUCED] -/
def Chip.takeOffset (s : Chip) (o : Int) : Chip :=
  let s := s.wr Reg.ALM_OFFSET (ofSigned 32 o)
  let m := o.natAbs
  if s.locked then
    if 1000000 < m then s.unalign o else s.setAlm (fun a => { a with slew := -o * 1000 })
  else if m < 10000 then s.goodSync
  else if s.inComposition then s.setAlm (fun a => { a with slew := -o * 1000 })
  else (if s.rf F.ALM_STATE_LOCK = 0 then s.wf F.ALM_STATE_LOCK 1 else s).stepTo o

/-- A Sync from upstream. -/
def Chip.syncRecIn (s : Chip) (l : Nat) (b : Bytes) (rx : Stamp) : Chip :=
  let s := s.takeCtl l 2 b
  if s.almOk l 2 b && s.upstream = l then
    let r := AlmRec.ofBytes b
    let d := toSigned 32 (s.rd (Reg.ALM_LNK_DELAY + 4 * l))
    let a := toSigned 32 (s.rd (Reg.ALM_LNK_ASYM + 4 * l))
    s.takeOffset ((rx.total : Int) - r.time.total - (d + a / 2))
  else s

/-- Links whose peer follows this device: it has sent a Delay request within the last 3 ms (R51). [log 21, DEDUCED] -/
def Chip.followers (s : Chip) : List Nat := (s.alm.downs.filter (fun x => s.linkUp x.1 && decide (s.alm.now < x.2 + 3000000))).map (·.1)

/-- The Sync of every 125 µs to the peers downstream. A master's own intervals count towards its lock. -/
def Chip.syncSend (s : Chip) (at' : Stamp) : Chip :=
  let s := s.each s.followers (fun s l =>
    let (s, q) := s.nextSeq l 2
    s.sendAlm l { s.masterRec 2 q with time := at' })
  if s.isMaster && !s.locked then s.goodSync else s

/-- Delay requests: of every millisecond to the upstream (R51), and of every 125 µs on the links in SELFTEST (R350). -/
def Chip.delaySend (s : Chip) (at' : Stamp) : Chip :=
  s.each (s.linksUp.filter (fun l => l == s.upstream || s.lnkState l == Ls.selftest)) (fun s l =>
    let (s, q) := s.nextSeq l 3
    (s.setAlm (fun a => { a with delayReq := a.delayReq.put l (q, at'.total) })).sendAlm l { s.masterRec 3 q with time := at' })

/-- A Delay request is answered. Outside SELFTEST its sender has chosen this device as upstream. [log 21, DEDUCED] -/
def Chip.delayIn (s : Chip) (l : Nat) (b : Bytes) (rx tx : Stamp) : Chip :=
  let s := s.takeCtl l 2 b
  if s.almOk l 3 b then
    let s := if s.lnkState l = Ls.selftest then s else s.setAlm (fun a => { a with downs := a.downs.put l a.now })
    s.sendAlm l { s.masterRec 4 (le b 16 4) with time := rx, echo := tx }
  else s

/-- A Delay reply: the mean delay of the link (R54). -/
def Chip.delayReplyIn (s : Chip) (l : Nat) (b : Bytes) (rx : Stamp) : Chip :=
  let s := s.takeCtl l 2 b
  match s.almOk l 4 b, s.alm.delayReq.find l with
  | true, some (q, t1) =>
    let r := AlmRec.ofBytes b
    if r.seq = q then
      let d : Int := (((rx.total : Int) - t1) - ((r.echo.total : Int) - r.time.total)) / 2
      let s := if s.lnkState l = Ls.selftest then s.updLink l (fun k => { k with delays := k.delays + 1 }) else s
      (s.setAlm (fun a => { a with delayReq := a.delayReq.del l })).wr (Reg.ALM_LNK_DELAY + 4 * l) (ofSigned 32 d)
    else s
  | _, _ => s

/-! ## The ALM_SYNC input (R59–R61) -/

/-- The clock takes a class; a master announces the new one. -/
def Chip.setClass (s : Chip) (c : Nat) : Chip :=
  if s.rf F.ALM_STATE_CLASS = c then s
  else
    let s := (s.wf F.ALM_STATE_CLASS c).raise Pg.ALM 3
    if s.isMaster then s.elect else s.reviewOwn

/-- A bad or missing edge. [log 21, DEDUCED] -/
def Chip.badEdge (s : Chip) : Chip :=
  let s := (s.wf F.ALM_SYNC_STAT_GOOD 0).wf F.ALM_SYNC_STAT_BAD_CNT (min 255 (s.rf F.ALM_SYNC_STAT_BAD_CNT + 1))
  let s := s.setAlm (fun a => { a with goodEdges := 0, badEdges := min 3 (a.badEdges + 1) })
  if s.alm.badEdges = 3 && s.rf F.ALM_STATE_CLASS = 0 then s.setClass 1 else s

/-- A good edge, `diff` ns after the almanac's own time; the third in succession restores class 0. [log 21, DEDUCED] -/
def Chip.goodEdge (s : Chip) (diff : Int) : Chip :=
  let s := s.wf F.ALM_SYNC_STAT_GOOD 1
  let s := s.setAlm (fun a => { a with badEdges := 0, goodEdges := min 3 (a.goodEdges + 1), slew := if s.isMaster then diff * 1000000 else a.slew })
  if s.alm.goodEdges = 3 then s.setClass 0 else s

/-- A rising edge, seen at a time of the device's own almanac. A device that has never locked has no prediction to judge it by: it takes the
edge's time. [log 21, DEDUCED] -/
def Chip.syncEdge (s : Chip) (own : Nat) : Chip :=
  let s := s.wf F.ALM_SYNC_STAT_PRESENT 1
  if s.rf F.ALM_SYNC_CFG_EN = 0 then s
  else
    let armed := s.rf F.ALM_SYNC_STAT_TOD_PENDING == 1
    let t := s.rd64 Reg.ALM_SYNC_TOD_LO * 1000000000 + s.rf F.ALM_SYNC_CFG_DELAY
    let diff : Int := (t : Int) - own
    let s := s.wf F.ALM_SYNC_STAT_TOD_PENDING 0
    let shown : Int := if diff < -32767 then -32767 else if 32767 < diff then 32767 else diff
    let s := if armed then s.wf F.ALM_SYNC_STAT_DIFF (ofSigned 16 shown) else s
    if !armed then s.badEdge
    else if !s.alm.valid && s.isMaster then (s.setAlm (fun a => { a with now := t / 10 * 10, stepTaken := none })).goodEdge 0
    else if 1000 < diff.natAbs then s.badEdge
    else s.goodEdge diff

/-! ## Plans (R48) -/

/-- Arm the register plan. [log 22, DEDUCED] -/
def Chip.armPlan (s : Chip) : Chip :=
  if s.inComposition || s.rf F.ALM_PLAN_CTRL_ARM = 1 then s
  else if s.pendPlan.legal && s.step < s.rd64 Reg.ALM_PLAN_STEP_LO then
    ((s.wf F.ALM_PLAN_CTRL_ARM 1).wf F.ALM_PLAN_CTRL_BAD 0).wf F.ALM_PLAN_CTRL_SOURCE 0
  else (s.wf F.ALM_PLAN_CTRL_BAD 1).raise Pg.ALM 0

/-- Withdraw the register plan; a map's plan is not withdrawn by a write. [log 22, DEDUCED] -/
def Chip.withdrawPlan (s : Chip) : Chip := if s.inComposition || s.rf F.ALM_PLAN_CTRL_SOURCE = 1 then s else s.wf F.ALM_PLAN_CTRL_ARM 0

/-! ## Meanings -/

/-- ALMANAC_TICK (R41). -/
def execAlmanacTick (x : StepInput) (s : State) : Host.Outcome State Fault Refusal := s.onMgmt (fun c => (c.tick x).settle)

/-- BOUNDARY_WINDOW (R65). -/
def execBoundaryWindow (x : StepInput) (s : State) : Host.Outcome State Fault Refusal := s.run (fun c => ((c.advance c.nextStart).endOldStep x.unfinished).boundary x.reading x.t3)

/-- COMPUTE_START (R66). -/
def execComputeStart (seeds : List (Nat × Nat)) (s : State) : Host.Outcome State Fault Refusal :=
  s.run (fun c => c.atMoment c.plan.w (fun c => c.computeStart seeds))

/-- EXCHANGE_START (R62). Where a plan adopted late skips the offset, the command tells which tiles are unfinished at moment T (R579). -/
def execExchangeStart (unfinished : List Nat) (s : State) : Host.Outcome State Fault Refusal :=
  s.run (fun c => if c.skipped c.plan.x then c.unfinishedAtT unfinished else c.atMoment c.plan.x (fun c => c.exchangeStart unfinished))

/-- SETTLE_START (R136). -/
def execSettleStart (s : State) : Host.Outcome State Fault Refusal := s.run (fun c => c.atMoment c.plan.s Chip.settleOpens)

/-- SMV_CUTOFF (R148). -/
def execSmvCutoff (s : State) : Host.Outcome State Fault Refusal := s.run (fun c => c.atMoment c.cutoffAt Chip.cutoff)

/-- PLAN_SWITCH (R579). -/
def execPlanSwitch (s : State) : Host.Outcome State Fault Refusal := s.run (fun c => (c.endOldStep []).planSwitch)

/-- PLAN_ARM (R48). -/
def execPlanArm (acc : Access) (s : State) : Host.Outcome State Fault Refusal :=
  s.run (fun c => c.write acc Pg.ALM (Reg.ALM_PLAN_CTRL % 0x1000) 1 false [] Chip.armPlan)

/-- PLAN_WITHDRAW (R48). -/
def execPlanWithdraw (acc : Access) (s : State) : Host.Outcome State Fault Refusal :=
  s.run (fun c => c.write acc Pg.ALM (Reg.ALM_PLAN_CTRL % 0x1000) 0 false [] Chip.withdrawPlan)

/-- ALM_SYNC_TOD (R59). -/
def execAlmSyncTod (acc : Access) (value : Nat) (s : State) : Host.Outcome State Fault Refusal :=
  s.run (fun c => c.write acc Pg.ALM (Reg.ALM_SYNC_TOD_HI % 0x1000) (value % 2 ^ 32) false []
    (fun c => (c.wr Reg.ALM_SYNC_TOD_HI value).wf F.ALM_SYNC_STAT_TOD_PENDING 1))

/-- ALM_SYNC_EDGE (R60). -/
def execAlmSyncEdge (own : Nat) (s : State) : Host.Outcome State Fault Refusal := s.run (fun c => c.syncEdge own)

/-- ALM_SYNC_EDGE_MISSED (R60). -/
def execAlmSyncEdgeMissed (s : State) : Host.Outcome State Fault Refusal :=
  s.run (fun c => if c.rf F.ALM_SYNC_CFG_EN = 1 then (c.wf F.ALM_SYNC_STAT_PRESENT 0).badEdge else c.wf F.ALM_SYNC_STAT_PRESENT 0)

/-- HOLDOVER_TIMEOUT (R60). [log 4, DESIGN CHOICE] -/
def execHoldoverTimeout (s : State) : Host.Outcome State Fault Refusal :=
  s.run (fun c => if c.rf F.ALM_STATE_CLASS = 1 && c.alm.goodEdges < 3 then c.setClass 2 else c)

/-- ANNOUNCE_SEND (R51). -/
def execAnnounceSend (s : State) : Host.Outcome State Fault Refusal := s.run Chip.announceSend

/-- ALMANAC_SYNC_SEND (R51). -/
def execAlmanacSyncSend (at' : Stamp) (s : State) : Host.Outcome State Fault Refusal := s.run (fun c => c.syncSend at')

/-- DELAY_REQUEST_SEND (R51). -/
def execDelayRequestSend (at' : Stamp) (s : State) : Host.Outcome State Fault Refusal := s.run (fun c => c.delaySend at')

/-- ANNOUNCE (R52). -/
def execAnnounce (link : Nat) (bytes : Bytes) (s : State) : Host.Outcome State Fault Refusal := s.runOn (link < 48) (fun c => c.announceIn link bytes)

/-- ALMANAC_SYNC (R54). -/
def execAlmanacSync (link : Nat) (bytes : Bytes) (rx : Stamp) (s : State) : Host.Outcome State Fault Refusal :=
  s.runOn (link < 48) (fun c => c.syncRecIn link bytes rx)

/-- DELAY_REQUEST (R51). -/
def execDelayRequest (link : Nat) (bytes : Bytes) (rx tx : Stamp) (s : State) : Host.Outcome State Fault Refusal :=
  s.runOn (link < 48) (fun c => c.delayIn link bytes rx tx)

/-- DELAY_REPLY (R54). -/
def execDelayReply (link : Nat) (bytes : Bytes) (rx : Stamp) (s : State) : Host.Outcome State Fault Refusal :=
  s.runOn (link < 48) (fun c => c.delayReplyIn link bytes rx)

/-- MASTER_LOST (R53). -/
def execMasterLost (s : State) : Host.Outcome State Fault Refusal := s.run Chip.masterLost

end Sys2Proof.Machine
end

