-- ==== Sys2Proof/Machine/TileOps.lean ====
section
/-! DEFINITION. Shared operations of the tiles (06, 16): tile failure and spares (R500), scratch errors (R167), passes (R165, R177–R183),
conversions (R174–R176) and the Router (R184–R188). -/

namespace Sys2Proof.Machine

open Sys2Proof

/-! ## Failure and spares (R500) -/

/-- STATE of a physical tile. -/
def Chip.tileState (s : Chip) (t : Nat) : Nat := s.rf (F.TIL_MAP_STATE.on (Pg.til t))

/-- Set the STATE of a physical tile. -/
def Chip.setTileState (s : Chip) (t v : Nat) : Chip := s.wf (F.TIL_MAP_STATE.on (Pg.til t)) v

/-- A tile passes to TESTING, to take logical tile `lt` on its return. -/
def Chip.testTile (s : Chip) (t lt : Nat) : Chip :=
  let s := (s.setTileState t 3).wf (F.TIL_MAP_LOGICAL.on (Pg.til t)) 127
  (s.setTile t (fun _ => { takes := lt })).startReturn (.tile t) .selfTest

/-- The SPARE tile of a die. -/
def Chip.spareOf (s : Chip) (die : Nat) : Option Nat := (List.range 17).findSome? (fun i => if s.tileState (17 * die + i) = 2 then some (17 * die + i) else none)

/-- The tile of the die that was SPARE and is being tested for a higher-numbered logical tile than `lt`. -/
def Chip.higherClaim (s : Chip) (die lt : Nat) : Option Nat :=
  (List.range 17).findSome? (fun i => let t := 17 * die + i
    if s.tileState t = 3 && (s.tile t).spare && lt < (s.tile t).takes && (s.tile t).takes < 64 then some t else none)

/-- A tile is RETIRED; the die's spare takes its logical tile where AUTO_SPARE has it do so, the lower-numbered one where two wait
(R500, R512, R514). -/
def Chip.retireTile (s : Chip) (t lt : Nat) : Chip :=
  let s := ((s.setTileState t 4).wf (F.TIL_MAP_LOGICAL.on (Pg.til t)) 127).setTile t (fun _ => {})
  let s := s.setFlt (fun f => { f with returns := f.returns.filter (fun r => r.chan != .tile t) })
  let auto := s.rf F.FLT_CFG_AUTO_SPARE == 1
  if 64 ≤ lt then s
  else match s.spareOf (t / 17) with
    | some u => if auto then (s.testTile u lt).setTile u (fun x => { x with spare := true }) else s
    | none =>
      let s := s.raise Pg.FLT 6
      match (if auto then s.higherClaim (t / 17) lt else none) with
      | some u => s.setTile u (fun x => { x with takes := lt })
      | none => s

/-- An event of a tile, of class 8 or 9: it stops, and is reset and tested or retired. [log 50, DEDUCED] -/
def Chip.tileFailed (s : Chip) (t cls : Nat) : Chip :=
  let lt := s.rf (F.TIL_MAP_LOGICAL.on (Pg.til t))
  let s := s.stopTile t
  match s.countEvent (.tile t) cls with
  | (s, true) => s.retireTile t lt
  | (s, false) => s.testTile t lt

/-- A tile's self-test in service fails: permanent at once (R496), unless it has been judged so before. -/
def Chip.tileSelfTestFailed (s : Chip) (t : Nat) : Chip :=
  let s := s.raise (Pg.til t) 3
  (if (s.chan (.tile t)).perm then s else s.judgePermanent (.tile t) (s.chanClass (.tile t))).retireTile t (s.tile t).takes

/-- Words of a tile's scratch found in error (R167): the state, and whether none was uncorrectable. [log 50, DEDUCED] -/
def Chip.scratchErrs (s : Chip) (t : Nat) (ecc : List WordErr) : Chip × Bool :=
  let bad := (ecc.filter (·.uncorr)).length
  let s := (s.cntBy (regAt (Pg.til t) Reg.TIL_T0_CORR) (ecc.length - bad)).cntBy (regAt (Pg.til t) Reg.TIL_T0_UNCORR) bad
  if bad = 0 then (s, true) else ((s.raise (Pg.til t) 1).tileFailed t 8, false)

/-- Does a tile execute instructions: ACTIVE, running the program of a partition that has a role (R24, R199), and neither its page nor the tile
itself stopped? -/
def Chip.tileRuns (s : Chip) (t : Nat) : Bool :=
  decide (t < 68) && s.tileState t == 1 && (s.tile t).prog != 0 && s.role (s.tile t).part != .unassigned && !s.blkStopped (Pg.til t)
    && !(s.tile t).stopped

/-- First address of an active tile's scratch. -/
def Chip.scratch (s : Chip) (t : Nat) : Nat := ((s.logicalOf t).getD 0) * 0x2000000

/-- Do `n` bytes at an offset lie in a tile's 24 MiB of scratch (R164)? -/
def inScratch (off n : Nat) : Bool := decide (off + n ≤ 24 * 2 ^ 20)

/-- Write bytes to a tile's scratch. -/
def Chip.writeScratch (s : Chip) (t off : Nat) (bs : Bytes) : Chip := s.writePhys false (s.scratch t + off) bs

/-! ## Passes -/

/-- May operands of two element types meet in a pass (R166)? -/
def pairOk (a b : Elem) : Bool :=
  match a, b with
  | .int8, .int8 | .bf16, .bf16 => true
  | .int8, _ | _, .int8 | .bf16, _ | _, .bf16 => false
  | _, _ => true

/-- Legal group indices of the sparse form (R181). -/
def legalIdx : List Nat := [0x4, 0x8, 0xC, 0x9, 0xD, 0xE]

/-- The element codes of a sparse block in its 32 dense positions; an illegal group is four zeros (R182). -/
def unsparse (elems : List Nat) (idx : Nat) : List Nat :=
  (List.range 32).map (fun p =>
    let g := p / 4
    let i := bits idx (4 * g + 3) (4 * g)
    if !legalIdx.contains i then 0
    else if p % 4 = i % 4 then elems.getD (2 * g) 0
    else if p % 4 = i / 4 then elems.getD (2 * g + 1) 0
    else 0)

/-- Groups of an index word that are not legal. -/
def badGroups (idx : Nat) : Nat := (below 8 (fun g => !legalIdx.contains (bits idx (4 * g + 3) (4 * g)))).length

/-- The dense form of a block of operand B. -/
def denseBlock (b : PassB) (x : MxBlock × Nat) : MxBlock := if b.sparse && b.elem.mx then { x.1 with elems := unsparse x.1.elems x.2 } else x.1

/-- Is a block of operand A skipped: all elements ±0 and scale not 0xFF (R183)? -/
def MxBlock.skipped (t : Elem) (b : MxBlock) : Bool := b.scale != 0xFF && b.elems.all (fun c => (t.decode c).isZero)

/-- One accumulator over a row of A and a column of B, block pairs in ascending K (R177, R178). A block that is skipped saves energy only
(R183): its products enter as any others. -/
def accumulate (a : PassMat) (b : PassB) (row : List MxBlock) (col : List (MxBlock × Nat)) (c : Nat) : Nat :=
  (List.zip row col).foldl (fun c p =>
    if a.elem = .bf16 then accBf16 c (p.1.values a.elem) ((denseBlock b p.2).values b.elem)
    else accMx a.elem b.elem c p.1 (denseBlock b p.2)) c

/-- C + A × B. -/
def passResult (a : PassMat) (b : PassB) (c : List (List Nat)) : List (List Nat) :=
  a.rows.zipIdx.map (fun r => b.cols.zipIdx.map (fun k => accumulate a b r.1 k.1 ((c.getD r.2 []).getD k.2 0)))

/-- Clocks of a pass (R165): sparse operands count in dense positions at twice the rate. -/
def passClocks (a : PassMat) (b : PassB) : Nat :=
  let k := 32 * ((a.rows.head?).map (·.length)).getD 0
  let rate := if a.elem = .bf16 then 16 else if a.elem = .e2m1 && b.elem = .e2m1 then 64 else 32
  ceilDiv a.rows.length 64 * ceilDiv b.cols.length 64 * ceilDiv k (if b.sparse then 2 * rate else rate)

/-- Is a pass one that the tile has (R165, R166, R182): types that may meet, B not a sparse BF16 operand, M and N multiples of 64, and K the same
throughout, a multiple of 64 for MX operands and of 32 for BF16? [log 50, DEDUCED] -/
def passOk (a : PassMat) (b : PassB) : Bool :=
  let k := ((a.rows.head?).map (·.length)).getD 0
  pairOk a.elem b.elem && (!b.sparse || b.elem.mx) && a.rows.length % 64 == 0 && b.cols.length % 64 == 0 && (!a.elem.mx || k % 2 == 0)
    && a.rows.all (fun r => r.length == k) && b.cols.all (fun c => c.length == k)

/-- One pass on a tile, whose MXE waits `stall` clocks on the Expander (R192). A pass that the tile does not have is a sequencer
fault. [log 50, DEDUCED] -/
def Chip.runPass (s : Chip) (t : Nat) (a : PassMat) (b : PassB) (clear : Bool) (stall : Nat) : Chip :=
  let pg := Pg.til t
  if !passOk a b then s.seqFault t (s.tile t).part false
  else
    let acc := if clear then [] else (s.tile t).acc
    let s := s.setTile t (fun x => { x with acc := passResult a b acc })
    let skips := ((a.rows.map (fun r => (r.filter (·.skipped a.elem)).length)).foldl (· + ·) 0)
    let s := s.cntBy (regAt pg Reg.TIL_EXP_STALL) stall
    let bad := if b.sparse then ((b.cols.map (fun c => (c.map (fun x => badGroups x.2)).foldl (· + ·) 0)).foldl (· + ·) 0) else 0
    let s := (s.add64 (regAt pg Reg.TIL_MXE_BUSY_LO) (passClocks a b)).add64 (regAt pg Reg.TIL_MXE_SKIP_LO) skips
    let s := if b.sparse then s.cnt (regAt pg Reg.TIL_SPARSE_PASSES) else s
    if bad = 0 then s else (s.cntBy (regAt pg Reg.TIL_SPARSE_BADMETA) bad).raise pg 0

/-! ## Conversions and the arithmetic of the VXU -/

/-- A word through an opaque function of words. -/
def viaWord (f : Word → Word) (x : Nat) : Nat := (f (BitVec.ofNat 32 x)).toNat

/-- The FP32 results of an instruction's operation (R164, R189). [log 9, DESIGN CHOICE] -/
def convResults (o : ConvOp) : List Nat :=
  let y := fun (i : Nat) => o.ys.getD i 0
  let z := fun (i : Nat) => o.zs.getD i 0
  let each := fun (f : Nat → Nat → Nat) => o.values.zipIdx.map (fun v => f v.1 v.2)
  match o.fn with
  | .keep  => o.values
  | .add   => each (fun v i => add32 v (y i))
  | .sub   => each (fun v i => sub32 v (y i))
  | .mul   => each (fun v i => mul32 v (y i))
  | .fma   => each (fun v i => fma32 v (y i) (z i))
  | .max   => each (fun v i => max32 v (y i))
  | .min   => each (fun v i => min32 v (y i))
  | .exp   => each (fun v _ => exp32 v)
  | .recip => each (fun v _ => viaWord Config.recip32 v)
  | .sqrt  => each (fun v _ => viaWord Config.sqrt32 v)
  | .sum   => [(Config.reduceSum (o.values.map (BitVec.ofNat 32 ·))).toNat]
  | .maxOf => [o.values.foldl max32 (o.values.headD 0)]

/-- The overflow flag of the tensor that an instruction works on: a reduction that meets Inf or NaN sets it (R189). -/
def convOverflows (o : ConvOp) (flag : Bool) : Bool :=
  (flag && !o.fresh) || (o.fn.reduces && o.values.any (fun v => (of32 v).special))

/-- Bytes that an instruction writes at its address, and at that of the scales. -/
def convSizes (o : ConvOp) : Nat × Nat :=
  let n := (convResults o).length
  if o.fp32 then (4 * n, 0) else if o.elem = .bf16 then (2 * n, 0) else (ceilDiv (n * o.elem.width) 8, ceilDiv n 32)

/-- Do an instruction's results lie in the tile's scratch (R202)? -/
def convFits (o : ConvOp) : Bool := inScratch o.dst (convSizes o).1 && ((convSizes o).2 == 0 || inScratch o.scaleDst (convSizes o).2)

/-- Rounding of element n of an instruction: to nearest, or with the generator's next integers (R175). -/
def Chip.roundingAt (s : Chip) (t : Nat) (sr : Bool) (n : Nat) : Rounding :=
  if sr then .sr (Config.srRandom (s.rd64 (regAt (Pg.til t) Reg.TIL_SR_SEED_LO)) ((s.tile t).srCount + n)).toNat else .rne

/-- The results of an instruction are converted, where it asks, and written (R174–R176). -/
def Chip.storeResults (s : Chip) (t : Nat) (o : ConvOp) : Chip :=
  let pg := Pg.til t
  let drawn := if o.sr && !o.fp32 then (convResults o).length else 0
  let s' := s.setTile t (fun x => { x with srCount := x.srCount + drawn })
  if o.fp32 then s'.writeScratch t o.dst ((convResults o).flatMap (toLE 4))
  else if o.elem = .bf16 then
    s'.writeScratch t o.dst ((convResults o).zipIdx.flatMap (fun v => toLE 2 (bf16.encode (s.roundingAt t o.sr v.2) (of32 v.1))))
  else
    let cs := (chunksOf 32 (convResults o)).zipIdx.map (fun b => toMx o.elem (fun i => s.roundingAt t o.sr (32 * b.2 + i)) (b.1.map of32))
    let s' := s'.writeScratch t o.dst (cs.flatMap (fun c => packElems o.elem.width c.block.elems))
    let s' := s'.writeScratch t o.scaleDst (cs.map (fun c => BitVec.ofNat 8 c.block.scale))
    (s'.cntBy (regAt pg Reg.TIL_CONV_SAT) ((cs.map (·.sat)).foldl (· + ·) 0)).cntBy (regAt pg Reg.TIL_CONV_NAN) ((cs.filter (·.nan)).length)

/-- An instruction of the VXU (R174–R176, R189). One whose results lie outside the scratch is a sequencer fault; one that the overflow flag
guards does nothing where the flag is set. [log 50, DEDUCED] -/
def Chip.runConversion (s : Chip) (t : Nat) (o : ConvOp) : Chip :=
  if !convFits o then s.seqFault t (s.tile t).part false
  else if o.guarded && (s.tile t).overflow then s
  else (s.setTile t (fun x => { x with overflow := convOverflows o x.overflow })).storeResults t o

/-! ## The Router -/

/-- A choice: token, rank, expert and weight (FP32). -/
structure Choice where
  token  : Nat
  rank   : Nat
  expert : Nat
  weight : Nat
  deriving DecidableEq, Repr

/-- A word list through an opaque function of words. -/
def viaWords (f : List Word → List Word) (l : List Nat) : List Nat := (f (l.map (BitVec.ofNat 32 ·))).map (·.toNat)

/-- Sigmoid of an FP32 number. -/
def sigmoid32 (z : Nat) : Nat := (Config.sigmoid (BitVec.ofNat 32 z)).toNat

/-- Choices of one token, rank by rank: largest keys first, of equal keys the lower expert (R184). -/
def choicesOf (o : RouterOp) (token : Nat) (z : List Nat) : List Choice :=
  let p := viaWords Config.softmax z
  let key := fun (e : Nat) => match o.mode with
    | 0 => p.getD e 0
    | 1 => z.getD e 0
    | _ => add32 (sigmoid32 (z.getD e 0)) ((o.experts.getD e ⟨0, 0, 0, 0⟩).bias)
  let order := sortBy (fun (a b : Nat) => !(of32 (key a)).lt (of32 (key b)) && ((of32 (key b)).lt (of32 (key a)) || decide (a ≤ b))) (List.range o.experts.length)
  let chosen := order.take o.k
  let w1 := viaWords Config.softmax (chosen.map (fun e => z.getD e 0))
  chosen.zipIdx.map (fun c => ⟨token, c.2, c.1, match o.mode with
    | 0 => p.getD c.1 0
    | 1 => w1.getD c.2 0
    | _ => sigmoid32 (z.getD c.1 0)⟩)

/-- Is any logit of a token NaN? -/
def nanToken (z : List Nat) : Bool := z.any (fun x => (of32 x).isNan)

/-- Keep the choices that find room, in rank order (R186). [log 50, DEDUCED] -/
def keepChoices (cap : Nat) (l : List Choice) : List Choice :=
  l.foldl (fun kept c => if (kept.filter (fun k => k.expert == c.expert)).length < cap then kept ++ [c] else kept) []

/-- BF16 weight of a kept choice: where RENORM divides it, the FP32 quotient by the FP32 sum of the weights that remain, in rank
order. [log 9, DESIGN CHOICE] -/
def gateOf (o : RouterOp) (all kept : List Choice) (c : Choice) : Nat :=
  let mine := kept.filter (fun k => k.token == c.token)
  let dropped := mine.length != (all.filter (fun k => k.token == c.token)).length
  if o.renorm && (o.mode != 1 || dropped) then
    bf16.encode .rne (of32 (quot32 c.weight ((mine.map (·.weight)).foldl add32 0)))
  else bf16.encode .rne (of32 c.weight)

/-- Is a Router run one that the Router has (R184): E from 1 to 256, k from 1 to 8, and a mode of the table? [log 50, DEDUCED] -/
def routerOk (o : RouterOp) : Bool :=
  decide (1 ≤ o.experts.length) && decide (o.experts.length ≤ 256) && decide (1 ≤ o.k) && decide (o.k ≤ 8) && decide (o.mode ≤ 2)

/-- A Router run on a tile (R184–R188). One that the Router does not have, or whose list does not lie in the scratch, is a sequencer
fault. [log 50, DEDUCED] -/
def Chip.runRouter (s : Chip) (t : Nat) (o : RouterOp) : Chip :=
  let pg := Pg.til t
  let toks := o.logits.zipIdx
  let nans := (toks.filter (fun x => nanToken x.1)).length
  let per := toks.flatMap (fun x => if nanToken x.1 then [] else choicesOf o x.2 x.1)
  let all := (List.range o.k).flatMap (fun r => per.filter (fun c => c.rank == r))
  let kept := keepChoices o.cap all
  let groups := (List.range o.experts.length).map (fun e => sortBy (fun (a b : Choice) => decide (a.token ≤ b.token)) (kept.filter (fun c => c.expert == e)))
  let lt := (s.logicalOf t).getD 0
  let drop := all.length - kept.length
  let head := toLE 2 o.layer ++ toLE 2 o.experts.length ++ toLE 1 o.k ++ toLE 1 o.mode ++ toLE 1 (b2n o.renorm) ++ toLE 1 lt ++ toLE 4 o.logits.length
    ++ toLE 4 kept.length ++ toLE 4 drop ++ toLE 4 nans ++ toLE 8 s.step ++ toLE 2 s.selfDev ++ toLE 1 ((s.ltOwner lt).getD 0) ++ zeros 29
  let table := o.experts.zipIdx.flatMap (fun x =>
    toLE 2 x.2 ++ toLE 2 x.1.device ++ toLE 1 x.1.partition ++ toLE 1 x.1.tile ++ toLE 2 o.cap
      ++ toLE 4 (((groups.take x.2).map (·.length)).foldl (· + ·) 0) ++ toLE 4 ((groups.getD x.2 []).length))
  let entries := groups.flatten.flatMap (fun c => toLE 4 (c.token + c.rank * 2 ^ 20) ++ toLE 2 (gateOf o all kept c) ++ zeros 2)
  let list := head ++ table ++ entries
  if !routerOk o || !inScratch o.dst list.length then s.seqFault t (s.tile t).part false
  else
  let s := s.writeScratch t o.dst list
  let s := (s.cntBy (regAt pg Reg.TIL_ROUTE_TOKENS) o.logits.length).cntBy (regAt pg Reg.TIL_ROUTE_DROP) drop
  if nans = 0 then s else (s.cntBy (regAt pg Reg.TIL_ROUTE_NAN) nans).raise pg 2

end Sys2Proof.Machine
end

