-- ==== Sys2Proof/Machine/TileIo.lean ====
section
/-! DEFINITION. What tiles exchange with other devices (12): exchange messages (R379–R382), LOADs and STOREs through windows (R386, R388),
fences (R378); and the packed regions that their programs read and write (R312, R313, R317). -/

namespace Sys2Proof.Machine

open Sys2Proof

/-! ## Exchange messages -/

/-- Fenpack modes that a MODES byte allows. -/
def modesOf (v : Nat) : List FMode :=
  (if bit v 0 then [FMode.byte] else []) ++ (if bit v 1 then [FMode.nibble] else []) ++ (if bit v 2 then [FMode.bf16] else [])
    ++ (if bit v 3 then [FMode.fp32] else [])

/-- Entry i of the gang table of a partition, whatever MEMBERS holds (R379). -/
def Chip.gangEntry (s : Chip) (p i : Nat) : Nat × Nat :=
  let t := s.tableAt (s.rd64 Reg.SCH_GANG_BASE_LO + 256 * p) 256
  (le t (4 * i) 2, le t (4 * i + 2) 1)

/-- The header of an exchange message (R380). -/
def exchHeader (e : Bytes) : Bytes := toLE 2 (le e 0 2) ++ toLE 1 (le e 4 1) ++ zeros 1 ++ toLE 4 (le e 16 4) ++ toLE 8 (le e 24 8) ++ zeros 16

/-- Pack the blocks of a tensor on a tile: the state, and the blocks in link form. -/
def Chip.packTile (t : Nat) (modes : List FMode) (bucket : Nat) : List Bytes → Chip → Chip × List Bytes
  | [], s => (s, [])
  | b :: rest, s =>
    let p := fenPack modes bucket b
    let (s, l) := Chip.packTile t modes bucket rest (s.countPack t p)
    (s, p.bytes :: l)

/-- The contents of an exchange message for an entry of the plan. -/
def Chip.exchMessage (s : Chip) (t p : Nat) (e data : Bytes) : Chip × Bytes :=
  let modes := le e 4 1
  if modes = 0 then (s, exchHeader e ++ data)
  else
    let blocks := (List.range (data.length / 4096)).map (fun i => slice data (4096 * i) 4096)
    let (s, packed) := Chip.packTile t (modesOf modes) (s.smv.buckets.getD p 0) blocks s
    let lens := packed.flatMap (fun b => toLE 2 b.length)
    (s, exchHeader e ++ padTo (roundUp 16 lens.length) lens ++ packed.flatten)

/-- A fence over the packets numbered so far to a device, in one class or all (R378). One over a context in ERROR is lost at once. -/
def Chip.issueFence (s : Chip) (t id dev : Nat) (tc : Option Nat) : Chip :=
  let cs := ((List.range 8).filter (fun c => match tc with
    | some x => x == c
    | none => true)).map (ctxNo 0 dev)
  let own := cs.flatMap (fun c => ((s.tx c).pkts.filter (fun p => !p.acked)).map (fun p => (c, p.psn, p.num)))
  let f : Fence := { id := id, tile := t, psns := own, lost := cs.any (fun c => (s.tx c).state == .error) }
  (s.setXpt (fun x => { x with fences := x.fences ++ [f] })).settleFences

/-- Do `n` bytes at a T0 address lie in the scratch of a logical tile of partition `p` (R202, R278)? -/
def Chip.inOwnTiles (s : Chip) (p addr n : Nat) : Bool :=
  inT0 addr && inScratch (addr % 0x2000000) n && s.ltOwner (addr / 0x2000000) == some p

/-- A tile sends an entry of its exchange plan, or meets a sequencer fault where SRC_ADDR leaves the partition's tiles. The tile's own scratch
words may be found in error. -/
def Chip.sendExchange (s : Chip) (x : ExchOp) (ecc : List WordErr) : Chip :=
  let t := x.tile
  let e := x.bytes
  if !s.tileRuns t then s
  else match s.scratchErrs t ecc with
    | (s, false) => s
    | (s, true) =>
      let p := (s.tile t).part
      if !s.inOwnTiles p (le e 8 8) (le e 16 4) then s.seqFault t p false
      else
      let dst := s.gangEntry p (le e 2 1)
      let tc := bits (le e 3 1) 2 0
      let (s, msg) := s.exchMessage t p e (memRead s.mem (le e 8 8) (le e 16 4))
      let s := if dst.1 = s.selfDev then s.deliver 6 ⟨s.selfDev, p, dst.2, s.step⟩ msg
        else s.transmitIn tc dst.1 { num := 0, svc := 6, srcPart := p, dstPart := dst.2, bytes := msg }
      if bit (le e 3 1) 7 then s.issueFence t (le e 0 2) dst.1 (some tc) else s

/-- Unpack the blocks of an exchanged tensor on a tile; none where one fails a check (R317). -/
def Chip.expandTile (t : Nat) : List Nat → Bytes → Chip → Chip × Option Bytes
  | [], _, s => (s, some [])
  | n :: rest, bs, s =>
    match fenUnpack n (bs.take n) with
    | .bad c m => (s.expandFailed t c m 0 0, none)
    | .ok d =>
      match Chip.expandTile t rest (bs.drop n) (s.expandOk t d.length) with
      | (s, some l) => (s, some (d ++ l))
      | (s, none) => (s, none)

/-- A tile receives an exchanged tensor: the unpacked bytes go to DST_ADDR, or the tile stops (R317, R380). -/
def Chip.takeExchange (s : Chip) (src : MsgSrc) (b : Bytes) : Chip :=
  let dst := le b 8 8
  match s.exchangeTile src.dstPart b with
  | none => s
  | some t =>
    let seen := fun (s : Chip) => s.setXpt (fun x => { x with exchanged := (src.dstPart, src.dev, le b 0 2) :: x.exchanged })
    if le b 2 1 = 0 then seen (s.writePhys false dst (padTo (le b 4 4) (b.drop 32)))
    else
      let n := le b 4 4 / 4096
      let lens := (List.range n).map (fun i => le b (32 + 2 * i) 2)
      match Chip.expandTile t lens (b.drop (32 + roundUp 16 (2 * n))) s with
      | (s, some d) => seen (s.writePhys false dst d)
      | (s, none) => s.stopTile t

/-- Has every exchange message that an instruction reads arrived, by source device and ID (R381)? [log 64, DESIGN CHOICE] -/
def Chip.arrived (s : Chip) (t : Nat) (awaits : List (Nat × Nat)) : Bool :=
  awaits.all (fun a => s.xpt.exchanged.contains ((s.tile t).part, a.1, a.2))

/-- Exchange messages that have arrived go to their tiles; `n` at most. -/
def Chip.serveExchange : Nat → Chip → Chip
  | 0, s => s
  | n + 1, s =>
    match s.xpt.inbox.find? (fun m => m.svc == 6) with
    | some m => Chip.serveExchange n ((s.take 6 m.src m.bytes).takeExchange m.src m.bytes)
    | none => s

/-- Every exchange message in the inbox. -/
def Chip.exchanges (s : Chip) : Chip := Chip.serveExchange s.xpt.inbox.length s

/-! ## Packed regions (R312, R313, R317) -/

/-- The object of a packed region that a tile's program may use, where the region lies within it (R277, R312). -/
def Chip.regionDesc (s : Chip) (t : Nat) (r : SlotOp) : Option Desc :=
  (s.memu.descs.find r.obj).filter (fun d => d.kind == 1 && d.partition == (s.tile t).part && r.base % 4096 == 0
    && decide (r.block < r.blocks) && decide (r.base + 4100 * r.blocks ≤ d.size))

/-- Offset of the slot of a block (R312). -/
def slotOff (r : SlotOp) : Nat := r.base + 4096 * r.block

/-- Offset of the tag of a block (R312). -/
def tagOff (r : SlotOp) : Nat := r.base + 4096 * r.blocks + 4 * r.block

/-- A tile reads `n` bytes of T1 or T2, or stops where a word cannot be delivered or the stack is in fault (R293, R502). -/
def Chip.tileRead (s : Chip) (t a n : Nat) (ecc : List WordErr) : Chip × Option Bytes :=
  if s.stackDown a then (s.stopTile t, none)
  else match s.access 0 a n ecc with
    | (s, true) => (s, some (memRead s.mem a n))
    | (s, false) => (s.stopTile t, none)

/-- The work that reads a damaged block of a packed region fails (R317). -/
def Chip.slotFailed (s : Chip) (t : Nat) (d : Desc) (check mode : Nat) : Chip :=
  let s := (s.expandFailed t check mode 1 0).stopTile t
  if d.use = 0 then s else s.residencyLost d.partition (d.use == 2) d.id

/-- Tag n is read, then the words of slot n that hold the block; what unpacks goes to the tile's scratch (R313, R316). A tile that has
stopped reads no more. [log 64, DESIGN CHOICE] -/
def Chip.expandSlot (s : Chip) (t : Nat) (r : SlotOp) : Chip :=
  if !s.tileRuns t then s
  else match s.regionDesc t r, inScratch r.scratch 4096 with
    | some d, true =>
      match s.tileRead t (s.placeOf d (tagOff r)) 4 r.ecc with
      | (s, none) => s
      | (s, some tag) =>
        match s.tileRead t (s.placeOf d (slotOff r)) (64 * slotWords (le tag 0 2)) r.ecc with
        | (s, none) => s
        | (s, some words) =>
          match fenUnpackSlot (le tag 0 2) words with
          | .bad c m => s.slotFailed t d c m
          | .ok out => (s.expandOk t out.length).writeScratch t r.scratch out
    | _, _ => s.seqFault t (s.tile t).part false

/-- 4,096 bytes of the tile's scratch are packed into slot n, with tag n (R300, R312). [log 64, DESIGN CHOICE] -/
def Chip.packSlot (s : Chip) (t : Nat) (r : SlotOp) : Chip :=
  if !s.tileRuns t then s
  else match s.regionDesc t r, inScratch r.scratch 4096 with
    | some d, true =>
      if s.stackDown (s.placeOf d (slotOff r)) || s.stackDown (s.placeOf d (tagOff r)) then s.stopTile t
      else
        let input := memRead s.mem (s.scratch t + r.scratch) 4096
        let x := fenSlot (modesOf r.modes) input
        let s := s.countPack t (fenPack (modesOf r.modes) 0 input)
        let s := (s.markDirty (s.placeOf d (slotOff r)) 4096).markDirty (s.placeOf d (tagOff r)) 4
        (s.writePhys false (s.placeOf d (slotOff r)) x.1).writePhys false (s.placeOf d (tagOff r)) (toLE 4 x.2)
    | _, _ => s.seqFault t (s.tile t).part false

/-! ## Memory operations (R385, R386) -/

/-- The window that serves a tile's access of 64 bytes at a T4 address; none where the access is unmapped (R277, R385). -/
def Chip.windowFor (s : Chip) (t addr : Nat) (write : Bool) : Option Window :=
  if !inT4 addr || addr % 64 != 0 then none
  else match s.xpt.windows.find ((addr - t4Base) / 2 ^ 32) with
    | some w =>
      if (s.logicalOf t).bind s.ltOwner = some w.part && bit w.rights (b2n write) && addr % 2 ^ 32 + 64 ≤ w.size then some w else none
    | none => none

/-- The first 16 bytes of a LOAD or STORE payload. -/
def opHead (w : Window) (off : Nat) : Bytes := toLE 2 w.exp ++ toLE 2 w.gen ++ zeros 4 ++ toLE 8 off

/-- A tile issues a memory operation; an unmapped address, or a LOAD whose data would leave the scratch, is a sequencer fault (R202, R277). -/
def Chip.tileOp (s : Chip) (t addr : Nat) (data : Option Bytes) (dst : Nat) : Chip :=
  if !s.tileRuns t then s
  else if data.isNone && !inScratch dst 64 then s.seqFault t (s.tile t).part false
  else match s.windowFor t addr data.isSome with
    | none => s.seqFault t (((s.logicalOf t).bind s.ltOwner).getD (s.tile t).part) false
    | some w =>
      let num := s.xpt.nextNum
      let body := opHead w (addr % 2 ^ 32) ++ (match data with
        | some d => padTo 64 d
        | none => [])
      let s := if data.isSome then s else s.setTile t (fun x => { x with loads := x.loads ++ [(num, dst)] })
      s.transmitIn w.tc w.dev
        { num := 0, op := if data.isSome then 8 else 6, svc := 7, srcPart := w.part, dstPart := w.peerPart, bytes := body, tile := t }

/-- A LOAD_RESP: its data goes to the scratch address that the LOAD names (R388). -/
def Chip.loadData (s : Chip) (k : Packet) : Chip :=
  let x := s.tx (ctxNo 0 k.srcDev k.tc)
  let m := (x.pkts.find? (fun p => p.op == 6 && p.psn % 2 ^ 32 == k.psn)).bind (fun p => x.msgs.find? (fun y => y.num == p.num))
  let s := s.loadRespIn k
  match m with
  | none => s
  | some m =>
    let at' := ((s.tile m.tile).loads.find? (fun l => l.1 == m.num)).map (·.2)
    let s := s.setTile m.tile (fun y => { y with loads := y.loads.filter (fun l => l.1 != m.num) })
    match at' with
    | some a => if le k.payload 0 1 = 0 then s.writeScratch m.tile a (slice k.payload 16 64) else s
    | none => s

end Sys2Proof.Machine
end

