-- ==== Sys2Proof/Machine/Wire.lean ====
section
/-! DEFINITION. What arrives on a link, from codewords to packets (R329–R336, R345, R359, R366, R468–R470). -/

namespace Sys2Proof.Machine

open Sys2Proof

/-! ## The generator of R331 -/

/-- One step of the generator x^31 + x^28 + 1: the next state and the bit that leaves. [log 36, DEDUCED] -/
def lfsrStep (s : Nat) : Nat × Nat := let o := (bit s 30 ^^ bit s 27).toNat; ((2 * s + o) % 2 ^ 31, o)

/-- Eight bits of the generator, the first in bit 0. [log 36, DEDUCED] -/
def lfsrByte (s : Nat) : Nat × Nat :=
  (List.range 8).foldl (fun (a : Nat × Nat) i => let (t, o) := lfsrStep a.1; (t, a.2 + o * 2 ^ i)) (s, 0)

/-- `n` bytes of the generator's output. -/
def lfsrBytes : Nat → Nat → Bytes
  | 0, _ => []
  | n + 1, s => let (t, b) := lfsrByte s; BitVec.ofNat 8 b :: lfsrBytes n t

/-- The state that a count loads. -/
def lfsrLoad (count : Nat) : Nat := (count * 2 ^ 7 + 0x7F) % 2 ^ 31

/-- The frame-stream bytes of a codeword, scrambled or descrambled. [log 36, DEDUCED] -/
def scramble (count : Nat) (b : Bytes) : Bytes := List.zipWith (· ^^^ ·) b (lfsrBytes b.length (lfsrLoad count))

/-- The payload of a Test frame (R336): the output of the generator loaded with the frame's LINK_SEQ. [log 36, DEDUCED] -/
def testPayload (seq : Nat) : Bytes := lfsrBytes 4096 (lfsrLoad seq)

/-! ## Lanes (R329, R330, R345, R346) -/

/-- Lanes that a direction is striped onto, of those in good order: a version-1 link and one without WIDTH3 use 4 or 2 (R330, R341). -/
def Chip.stripe (s : Chip) (l good : Nat) : Nat :=
  let lanes := below 4 (fun w => good.testBit w)
  let narrow := lanes.length == 3 && (s.linkVer l == 1 || !bit (s.rd (regAt (Pg.lnk l) Reg.LNK_CAPS)) 1)
  ((if narrow then lanes.take 2 else lanes).map (2 ^ ·)).foldl (· + ·) 0

/-- The control field of a good codeword (R329): RX_DOWN, the masks, the lanes asked for. -/
def Chip.cwControl (s : Chip) (l ctl : Nat) : Chip :=
  if bit ctl 70 then s.linkLost l
  else
    let good := bits ctl 65 62
    let s := (s.lnkWf l F.LNK_STAT_RX_MASK (bits ctl 61 58)).updLink l (fun k => { k with peerGood := good, reqIn := bits ctl 69 66 })
    let s := if 5 ≤ (s.link l).stage || s.linkUp l then s.lnkWf l F.LNK_STAT_TX_MASK (s.stripe l (good &&& (s.link l).lanes)) else s
    if s.linkUp l && lanesIn (bits ctl 61 58) < s.minWidth l then s.linkDown l else s

/-- A lane that was asked for passes 64 codewords in succession: it is in use again. -/
def Chip.laneBack (s : Chip) (l w : Nat) : Chip :=
  let s := s.updLink l (fun k => { k with rxGood := putBits k.rxGood w w 1, reqOut := maskDel k.reqOut w, goodRun := k.goodRun.del w })
  let s := (s.setLane l w 2).retrainOk (.lane l w)
  s.lnkWf l (F.LNK_LANE_RETRAIN_FAILS.plus (4 * w)) 0

/-- A lane is judged failed at the eighth uncorrectable codeword within 10 µs. -/
def Chip.cwBad (s : Chip) (l w : Nat) : Chip :=
  let s := s.cnt (regAt (Pg.lnk l) Reg.LNK_FEC_UNCORR)
  let now := s.alm.now
  let times := now :: ((s.link l).badAt.getD w []).filter (fun t => decide (now < t + 10000))
  let s := s.updLink l (fun k => { k with badAt := k.badAt.put w (times.take 8), goodRun := k.goodRun.del w
                                          tested := k.tested && s.lnkState l != Ls.selftest })
  if 8 ≤ times.length then s.laneFailed l w else s

/-- A codeword corrected or without error, on a lane being retrained or in use. -/
def Chip.cwGood (s : Chip) (l w corrected : Nat) : Chip :=
  let s := if corrected = 0 then s else s.add64 (regAt (Pg.lnk l) Reg.LNK_FEC_CORR_LO) 1
  let s := if s.lnkState l = Ls.selftest then
      s.updLink l (fun k => { k with symbols := k.symbols.upd w (0, 0) (fun n => (n.1 + 544, n.2 + corrected)) })
    else s
  if s.laneState l w = 4 then
    let n := (s.link l).goodRun.getD w 0 + 1
    if 64 ≤ n then s.laneBack l w else s.updLink l (fun k => { k with goodRun := k.goodRun.put w n })
  else s

/-! ## The frame stream (R330–R333) -/

/-- Codeword numbers run modulo this. -/
abbrev cwModulus : Nat := 12582912

/-- Frames complete in a stream, and what is left of it. [log 36, DEDUCED] -/
def cutFrames : Nat → Bytes → List Bytes × Bytes
  | 0, b => ([], b)
  | n + 1, b =>
    let b := b.dropWhile (· == 0)
    let len := 52 + le b 2 2
    if b.length < 4 || b.length < len then ([], b)
    else let (fs, rest) := cutFrames n (b.drop len); (b.take len :: fs, rest)

/-- The next codeword of the stream in order. [log 36, DEDUCED] -/
def Link.consume (k : Link) (c : Codeword) : Link :=
  match c.bytes with
  | none => { k with hunt := true, stream := [] }
  | some b =>
    if k.hunt && 625 ≤ c.ptr then k
    else
      let all := if k.hunt then b.drop c.ptr else k.stream ++ b
      let (fs, rest) := cutFrames (all.length / 52 + 1) all
      { k with hunt := false, stream := rest, frames := k.frames ++ fs }

/-- Codewords whose turn has come leave the reorder buffer; one more than 16 behind the newest is taken as lost. -/
def Link.drain : Nat → Link → Link
  | 0, k => k
  | n + 1, k =>
    match k.nextCw with
    | none => k
    | some c =>
      match k.rx.find? (fun x => x.count == c) with
      | some x => Link.drain n (({ k with rx := k.rx.filter (fun y => y.count != c), nextCw := some ((c + 1) % cwModulus) } : Link).consume x)
      | none =>
        let ahead := k.rx.map (fun x => (x.count + cwModulus - c) % cwModulus)
        if ahead.any (fun d => decide (16 < d)) then
          Link.drain n { k with hunt := true, stream := [], nextCw := some ((c + ahead.foldl min cwModulus) % cwModulus) }
        else k

/-- A codeword joins the reorder buffer; one whose turn is past is dropped. [log 36, DEDUCED] -/
def Link.place (k : Link) (c : Codeword) : Link :=
  let next := k.nextCw.getD c.count
  if cwModulus / 2 ≤ (c.count + cwModulus - next) % cwModulus then k
  else Link.drain (2 * k.rx.length + 4) { k with nextCw := some next, rx := k.rx.filter (fun x => x.count != c.count) ++ [c] }

/-- Does a link take codewords of a lane into its frame stream: from DESKEW onward, the lane in good order? -/
def Chip.takesCw (s : Chip) (l w : Nat) : Bool := (decide (4 ≤ (s.link l).stage) || s.linkUp l) && (s.link l).rxGood.testBit w

/-- A codeword arrives on a lane. -/
def Chip.codeword (s : Chip) (l w : Nat) (cw : CwIn) : Chip :=
  if !((s.lnkState l == Ls.training && decide (3 ≤ (s.link l).stage)) || s.linkUp l) || s.laneState l w = 5 then s
  else
    let count := bits cw.ctl 47 24 % cwModulus
    let take := s.takesCw l w
    let c : Codeword := ⟨count, bits cw.ctl 57 48, cw.data.map (fun b => scramble count (padTo 625 b))⟩
    let s := if take then s.updLink l (fun k => k.place c) else s
    match cw.data with
    | none => s.cwBad l w
    | some _ => (s.cwGood l w cw.corrected).cwControl l cw.ctl

/-! ## Data frames at the transport -/

/-- The packet of a data frame, its payload still sealed. -/
def packetOf (b : Bytes) : Packet :=
  { op := bits (le b 8 1) 3 0, tc := bits (le b 8 1) 6 4, last := bit (le b 8 1) 7, srcPart := bits (le b 9 1) 2 0, dstPart := bits (le b 9 1) 5 3
    srcDev := le b 10 2, dstDev := le b 12 2, svc := le b 14 1, hops := le b 15 1, psn := le b 16 4, epoch := le b 20 4, step := le b 24 2
    frag := le b 26 2 % 4096, msgLen := le b 28 3, payload := slice b 32 (le b 2 2) }

/-- Does an OP use a PSN (R360)? -/
def numberedOp (op : Nat) : Bool := op == 1 || op == 6 || op == 8 || op == 9

/-- A key that R468 allows for a frame. -/
inductive RxKey where
  | pair (p : Pair)
  | shake (pmk : Bytes) (serial : Nat)
  | open'
  deriving DecidableEq, Repr

/-- The keys that R468 allows for a packet and that this device holds. A partition that does not exist has no SA. -/
def Chip.rxKeys (s : Chip) (k : Packet) : List RxKey :=
  if usesSa k.op k.svc then (if s.partExists k.dstPart then (s.rxPairs k.srcDev).map .pair else [])
  else
    let pend := if k.op = 1 && k.svc = 8 then
        (s.sec.shakes.filter (fun x => x.dev == k.srcDev && !x.pmk.isEmpty)).map (fun x => RxKey.shake x.pmk (credSerial x.cred))
      else []
    (s.rxPairs k.srcDev).map .pair ++ pend ++ (if (k.svc == 0 || k.svc == 8) && k.op != 9 then [.open'] else [])

/-- The key bytes. -/
def RxKey.bytes (r : RxKey) (k : Packet) : Bytes :=
  match r with
  | .pair p => p.rxKey k.op k.svc k.srcPart k.dstPart
  | .shake pmk serial => deviceKey pmk serial ownSerial
  | .open' => openKey

/-- IV of a packet (R469). -/
def Chip.rxIv (s : Chip) (k : Packet) : Bytes :=
  if numberedOp k.op then
    let x := s.rx (ctxNo 1 k.srcDev k.tc)
    ivNumbered k.tc x.session (nearest (2 ^ 32) x.expect k.psn)
  else ivCounted k.tc (k.frag + 4096 * k.msgLen)

/-- Has a count under a pair key been used before? -/
def RxKey.replays (r : RxKey) (k : Packet) : Bool :=
  match r with
  | .pair p => !numberedOp k.op && replayed 4096 p.rxHigh p.rxSeen (k.frag + 4096 * k.msgLen)
  | _ => false

/-- A tag has verified under a key: the count is noted, and under a pair key the peer counts as present (R493). -/
def Chip.noteOpened (s : Chip) (r : RxKey) (k : Packet) : Chip :=
  match r with
  | .pair p =>
    let note := fun (y : Pair) => let (h, l) := noteSeen 4096 y.rxHigh y.rxSeen (k.frag + 4096 * k.msgLen); { y with rxHigh := h, rxSeen := l }
    let s := if numberedOp k.op then s
      else if (s.pair k.srcDev).map (·.pmk) = some p.pmk then s.updPair k.srcDev note else s.updOld p.pmk note
    if s.watched.contains k.srcDev then s.setFlt (fun f => { f with seen := f.seen.put k.srcDev s.alm.now }) else s
  | _ => s

/-- A packet waits for its command. -/
def Chip.pushRx (s : Chip) (k : Packet) : Chip := s.setXpt (fun x => { x with rx := x.rx ++ [k] })

/-- Open a data frame addressed to this device, under the keys that R468 allows (R469, R470). A numbered packet of a context in RESET has no
session to be opened under: it passes unopened, to be answered NEED_SYNC. -/
def Chip.openFrame (s : Chip) (b : Bytes) : Chip :=
  let k := packetOf b
  let keys := s.rxKeys k
  if keys.isEmpty then s.cnt Reg.SEC_NO_KEY
  else if numberedOp k.op && !(s.rx (ctxNo 1 k.srcDev k.tc)).active then s.pushRx { k with payload := [], openKey := (s.pair k.srcDev).isNone }
  else
    let n := le b 2 2
    let try' := fun (r : RxKey) => gcmUnlock (r.bytes k) (s.rxIv k) (frameAad b) k.payload (slice b (32 + n) 16)
    match keys.find? (fun r => (try' r).isSome) with
    | none => (s.cnt Reg.SEC_TAG_FAIL).raise Pg.SEC 3
    | some r => if r.replays k then s else (s.noteOpened r k).pushRx { k with payload := (try' r).getD [], openKey := r == .open' }

/-- Bytes in the miss buffer. -/
def Chip.missUsed (s : Chip) : Nat := (s.xpt.miss.map (fun m => m.2.length)).foldl (· + ·) 0

/-- A data frame for this device whose receive context must be on the chip (R366). -/
def Chip.contextFrame (s : Chip) (b : Bytes) : Chip :=
  let k := packetOf b
  let c := ctxNo 1 k.srcDev k.tc
  if !numberedOp k.op then s.openFrame b
  else match s.needCtx c with
    | (s, true) => s.openFrame b
    | (s, false) =>
      if s.missUsed + b.length ≤ 2097152 then s.setXpt (fun x => { x with miss := x.miss ++ [(c, b)] })
      else (s.cnt Reg.XPT_MISSBUF_DROP).raise Pg.XPT 2

/-- A data frame that passes R335 is handed to the transport: for another device it is to be forwarded (R364). [log 39, DEDUCED] -/
def Chip.dataFrame (s : Chip) (l : Nat) (b : Bytes) : Chip :=
  let k := packetOf b
  if !s.xptOn then s
  else if k.dstDev ≠ s.selfDev then s.setXpt (fun x => { x with fwd := x.fwd ++ [(l, b)] })
  else if k.op = 0 || 9 < k.op then s.cnt Reg.XPT_REASM_BAD
  else s.contextFrame b

/-! ## The checks of R335 -/

/-- A frame fails check 2, or a frame comes that the state of the link does not carry. [log 39, DEDUCED] -/
def Chip.dropFrame (s : Chip) (l : Nat) : Chip := s.cnt (regAt (Pg.lnk l) Reg.LNK_FRAME_DROP)

/-- A Test frame has failed R335 (R350). -/
def Chip.testFailed (s : Chip) (l : Nat) (b : Bytes) : Chip :=
  if bits (le b 0 1) 3 0 = 2 && le b 4 1 = 5 && s.lnkState l = Ls.selftest then s.updLink l (fun k => { k with tested := false }) else s

/-- A control frame is heard. [log 39, DEDUCED] -/
def Chip.hear (s : Chip) (l type n : Nat) (payload : Bytes) : Chip := s.updLink l (fun k => { k with heard := k.heard ++ [(type, n, payload)] })

/-- Check 3: the flags that the link's state allows, and the tag. A confirm message of stage 6 is heard whole, header and tag with it: verifying
it is NEGOTIATE_CONFIRM's part. [log 39, DEDUCED] -/
def Chip.controlFrame (s : Chip) (l lseq : Nat) (b : Bytes) : Chip :=
  let k := s.link l
  let type := le b 4 1
  let flags := bits (le b 5 1) 1 0
  let payload := slice b 32 (le b 2 2)
  let tag := slice b (32 + le b 2 2) 16
  let fail := fun (s : Chip) => ((s.dropFrame l).raise (Pg.lnk l) 6).testFailed l b
  if k.clear then (if type = 1 && flags = 2 && allZero tag then s.hear l 1 (le b 16 8) payload else fail s)
  else if k.stage = 6 && type = 1 && le payload 0 1 = 2 && flags = 1 then s.hear l 1 (le b 16 8) (b.take (48 + le b 2 2))
  else
    let (key, n) := if k.stage = 6 && type = 1 then (k.lck0, lseq) else ({ k with stage := 0 } : Link).ctlKey type payload lseq
    if flags ≠ 1 || key.isEmpty || (gcmUnlock key (ivControl (!s.lowerEnd l) n) (b.take (32 + le b 2 2)) [] tag).isNone then fail s
    else if type = 0 || 7 < type then s.dropFrame l
    else s.hear l type (if type = 5 then le b 6 2 else le b 16 8) payload

/-- A frame is received (R335). One whose CRC fails took its place in the count of LINK_SEQ. [log 39, DEDUCED] -/
def Chip.frameIn (s : Chip) (l : Nat) (b : Bytes) : Chip :=
  let s := s.updLink l (fun k => { k with frames := k.frames.erase b })
  if !(decide (4 ≤ (s.link l).stage) || s.linkUp l) then s
  else
    let s := (s.add64 (regAt (Pg.lnk l) Reg.LNK_FRAMES_RX_LO) 1).add64 (regAt (Pg.lnk l) Reg.LNK_BYTES_RX_LO) b.length
    let n := b.length - 4
    if b.length < 52 || crc32 0xEDB88320 (b.take n) ≠ le b n 4 then
      ((s.cnt (regAt (Pg.lnk l) Reg.LNK_CRC_DROP)).testFailed l b).updLink l (fun k => { k with rxSeq := k.rxSeq + 1 })
    else
      let exp := (s.link l).rxSeq
      let lseq := nearest 65536 exp (le b 6 2)
      let s := if exp < lseq then s.cntBy (regAt (Pg.lnk l) Reg.LNK_FRAME_GAP) (lseq - exp) else s
      let s := s.updLink l (fun k => { k with rxSeq := max exp (lseq + 1) })
      let ftype := bits (le b 0 1) 3 0
      let ver := bits (le b 0 1) 7 4
      let agreed := s.lnkRf l F.LNK_STAT_VERSION
      let verOk := if agreed = 0 then ver == 1 || ver == 2 else ver == agreed
      if !(ftype == 1 || ftype == 2) || !verOk || 4096 < le b 2 2 || b.length ≠ 52 + le b 2 2 then (s.dropFrame l).testFailed l b
      else if ftype = 2 then s.controlFrame l lseq b
      else if s.admitted l then s.dataFrame l b
      else s.dropFrame l

end Sys2Proof.Machine
end

