-- ==== Sys2Proof/Machine/FabricOps.lean ====
section
/-! DEFINITION. Operations behind the transport's commands (12): packets that are taken in, contexts that arrive from host memory, map
proposals and Votes, exports and windows, forwarding. -/

namespace Sys2Proof.Machine

open Sys2Proof

/-- Take a packet of an OP: the first equal one leaves the queue of opened packets, and it acts while the transport is on. -/
def Chip.packetIn (s : Chip) (op : Nat) (k : Packet) (f : Chip → Packet → Chip) : Chip :=
  let s := s.setXpt (fun x => { x with rx := x.rx.erase k })
  if s.xptOn then f s { k with op := op } else s

/-! ## Contexts (R366) -/

/-- Is a context pinned? -/
def Chip.ctxPinned (s : Chip) (c : Nat) : Bool :=
  match s.xpt.ctxs.find c with
  | some (.tx x) => !x.pkts.isEmpty || !x.msgs.isEmpty || x.state == .error
  | some (.rx x) => x.msgs.any (fun m => !m.closed) || x.owed != 0
  | none => false

/-- A fetched context takes its place on the chip; the least recently used one that is not pinned makes way. -/
def Chip.placeCtx (s : Chip) (c : Nat) : Option Chip :=
  let put := fun (l : List Nat) => s.setXpt (fun x => { x with cached := l ++ [c], fetching := x.fetching.filter (· != c) })
  if s.xpt.cached.length < 65536 then some (put s.xpt.cached)
  else match s.xpt.cached.find? (fun d => !s.ctxPinned d) with
    | some d => some (put (s.xpt.cached.filter (· != d)))
    | none => none

/-- A context arrives: its waiting packets are handled in arrival order, or its sender moves on. -/
def Chip.ctxArrived (s : Chip) (c : Nat) : Chip :=
  if !s.xpt.fetching.contains c then s
  else match s.placeCtx c with
    | none => s
    | some s =>
      let waiting := (s.xpt.miss.filter (fun m => m.1 == c)).map (·.2)
      let s := s.setXpt (fun x => { x with miss := x.miss.filter (fun m => m.1 != c) })
      if c < 2 ^ 19 then s.pumpKeyed (c / 8) (c % 8) else s.each waiting Chip.openFrame

/-- A message open for 4 ms is discarded (R376). -/
def Chip.reasmTimeout (s : Chip) (peer tc base : Nat) : Chip :=
  let c := ctxNo 1 peer tc
  if (s.rx c).msgs.any (fun m => m.base == base && !m.closed) then
    (s.updRx c (fun x => x.dropMsg base)).cnt Reg.XPT_REASM_DROP
  else s

/-! ## Maps (R391–R393) -/

/-- A map image placed at XPT_MAP_ADDR is proposed. -/
def Chip.proposeAt (s : Chip) (brought : Bytes) : Chip :=
  let a := s.rd64 Reg.XPT_MAP_ADDR_LO
  let head := s.image a 128 brought
  s.propose (s.image a (mapSize (le head 16 2)) brought)

/-- A Vote is received: an accepting one is kept until its epoch has passed. -/
def Chip.voteIn (s : Chip) (src : MsgSrc) (b : Bytes) : Chip :=
  let s := s.take 8 src b
  let v := (le b 2 2, le b 4 4, src.dev, slice b 16 64)
  if b.length ≠ 96 || le b 0 1 ≠ 1 || le b 80 2 ≠ src.dev || le b 1 1 ≠ 0 || s.xpt.votes.contains v then s
  else (s.setXpt (fun x => { x with votes := x.votes ++ [v] })).countVotes

/-! ## Exports and windows (R383–R385) -/

/-- Result of a command of XPT_WIN_CTRL. -/
def Chip.winResult (s : Chip) (r : Nat) : Chip := s.wf F.XPT_WIN_STAT_RESULT r

/-- A command of XPT_WIN_CTRL, ignored while one runs. It is a field shared by design. -/
def Chip.winCtrl (s : Chip) (a : Access) (op id part : Nat) (named : Bool) (run : Chip → Chip) : Chip :=
  s.command a Pg.XPT (Reg.XPT_WIN_CTRL % 0x1000) (op + 65536 * id) true (if named then [part] else []) (fun s => s.winResult 2)
    (fun s => if s.rf F.XPT_WIN_STAT_RESULT = 15 then s else run s)

/-- Do the fields of an export image break R383? RIGHTS bits [7:2] and FLAGS bits [7:1], to which it gives no meaning, must be
zero. [log 65, DESIGN CHOICE] -/
def Chip.exportBad (s : Chip) (b : Bytes) : Bool :=
  let off := le b 16 8
  let size := le b 24 8
  le b 0 1 != 1 || decide (3 < le b 1 1) || !s.partExists (le b 2 1) || decide (7 < le b 2 1) || decide (1 < le b 3 1) || decide (4095 < le b 4 2)
    || off % 4096 != 0 || size % 4096 != 0 || decide (2 ^ 32 < size)
    || (match s.desc (le b 8 2) with
        | some d => d.kind != 1 || d.partition != le b 2 1 || decide (d.size < off + size)
        | none => true)

/-- Open an export. -/
def Chip.exportOpen (s : Chip) (b : Bytes) : Chip :=
  let id := le b 4 2
  if s.exportBad b then s.winResult 1
  else if (s.xpt.exports.find id).isSome then s.winResult 3
  else
    let gen := (s.xpt.gens.getD id 0 + 1) % 65536
    let e : Export := { rights := le b 1 1, part := le b 2 1, any := bit (le b 3 1) 0, gen := gen, obj := le b 8 2, peerDev := le b 10 2
                        peerPart := le b 12 1, off := le b 16 8, size := le b 24 8 }
    let s := s.setXpt (fun x => { x with exports := x.exports.put id e, gens := x.gens.put id gen })
    ((s.winResult 0).wf F.XPT_WIN_STAT_EXPORT_ID id).wf F.XPT_WIN_STAT_GEN gen

/-- Revoke an export: free at once; the command is busy until what was accepted before has been applied. -/
def Chip.exportRevoke (s : Chip) (id : Nat) : Chip :=
  if (s.xpt.exports.find id).isNone then s.winResult 1
  else ((s.dropExport id).setXpt (fun x => { x with revoking := some id })).winResult 15

/-- Memory operations of an export that have been accepted and not yet applied. -/
def Chip.heldOps (s : Chip) (id : Nat) : Bool :=
  s.xpt.ctxs.any (fun c => match c.2 with
    | .rx x => x.ops.any (fun o => o.reason == 0 && o.exp == id)
    | .tx _ => false)

/-- The revoke completes. -/
def Chip.revokeDone (s : Chip) : Chip :=
  match s.xpt.revoking with
  | some id => if s.heldOps id then s else (s.setXpt (fun x => { x with revoking := none })).winResult 0
  | none => s

/-- Do the fields of a window image break R383? RIGHTS bits [7:2] must be zero, and SIZE is bounded as an export's is. [log 65, DESIGN CHOICE] -/
def Chip.windowBad (s : Chip) (b : Bytes) : Bool :=
  le b 0 1 != 1 || decide (3 < le b 1 1) || decide (7 < le b 2 1) || !s.partExists (le b 2 1) || decide (7 < le b 3 1) || decide (4095 < le b 8 2)
    || decide (7 < le b 12 1) || le b 16 8 % 4096 != 0 || decide (2 ^ 32 < le b 16 8)

/-- Open a window. -/
def Chip.windowOpen (s : Chip) (b : Bytes) : Chip :=
  let w := le b 4 2
  if s.windowBad b then s.winResult 1
  else if (s.xpt.windows.find w).isSome then s.winResult 3
  else
    let x : Window := { rights := le b 1 1, part := le b 2 1, tc := le b 3 1, gen := le b 6 2, exp := le b 8 2, dev := le b 10 2
                        peerPart := le b 12 1, size := le b 16 8 }
    (s.setXpt (fun y => { y with windows := y.windows.put w x })).winResult 0

/-- Close a window. -/
def Chip.windowClose (s : Chip) (w : Nat) : Chip := (s.setXpt (fun x => { x with windows := x.windows.del w })).winResult 0

/-! ## Forwarding (R364, R402) -/

/-- A data frame for another device goes on by the route of its PSN, or is dropped. -/
def Chip.forward (s : Chip) (l : Nat) (b : Bytes) : Chip :=
  let s := s.setXpt (fun x => { x with fwd := x.fwd.erase (l, b) })
  let k := packetOf b
  if !s.xptOn || s.flt.mute then s
  else match k.hops, s.route k.dstDev k.psn with
    | h + 1, some o =>
      let bytes := patch (patch (b.take (48 + le b 2 2)) 6 [0, 0]) 15 (toLE 1 h)
      if !s.shpOn o || (s.queueFull o (24 + k.tc) b.length).isSome then
        let s := (s.cnt (regAt (Pg.shp o) Reg.SHP_FWD_FULL)).raise (Pg.shp o) 1
        if s.queueFull o (24 + k.tc) b.length = some true then s.raise (Pg.shp o) 3 else s
      else (s.enqueue o (24 + k.tc) { bytes := bytes, since := s.alm.now / 10 }).cnt Reg.XPT_FWD_FRAMES
    | _, _ => (s.cnt Reg.XPT_FWD_DROP).raise Pg.XPT 7

end Sys2Proof.Machine
end

