-- ==== Sys2Proof/Machine/Fabric.lean ====
section
/-! DEFINITION. Meanings of the transport's commands (12). A packet command takes a packet that DATA_FRAME has opened. -/

namespace Sys2Proof.Machine

open Sys2Proof

/-! ## Packets -/

/-- MSG (R374–R377). An exchange message that is complete goes to its tile at once (R380). -/
def execMsg (pkt : Packet) (ecc : List WordErr) (s : State) : Host.Outcome State Fault Refusal :=
  s.run (fun c => (c.packetIn 1 pkt (fun c k => c.numberedIn k ecc)).exchanges)

/-- ACK (R369). -/
def execAck (pkt : Packet) (s : State) : Host.Outcome State Fault Refusal := s.run (fun c => c.packetIn 2 pkt Chip.ackIn)

/-- NAK (R372). -/
def execNak (pkt : Packet) (s : State) : Host.Outcome State Fault Refusal := s.run (fun c => c.packetIn 3 pkt Chip.nakIn)

/-- SYNC (R365). -/
def execSync (pkt : Packet) (s : State) : Host.Outcome State Fault Refusal := s.run (fun c => c.packetIn 4 pkt Chip.syncIn)

/-- SYNC_ACK (R365). -/
def execSyncAck (pkt : Packet) (s : State) : Host.Outcome State Fault Refusal := s.run (fun c => c.packetIn 5 pkt Chip.syncAckIn)

/-- LOAD (R386). -/
def execLoad (pkt : Packet) (ecc : List WordErr) (s : State) : Host.Outcome State Fault Refusal :=
  s.run (fun c => c.packetIn 6 pkt (fun c k => c.numberedIn k ecc))

/-- LOAD_RESP (R388). -/
def execLoadResp (pkt : Packet) (s : State) : Host.Outcome State Fault Refusal := s.run (fun c => c.packetIn 7 pkt Chip.loadData)

/-- STORE (R386). -/
def execStore (pkt : Packet) (ecc : List WordErr) (s : State) : Host.Outcome State Fault Refusal :=
  s.run (fun c => c.packetIn 8 pkt (fun c k => c.numberedIn k ecc))

/-- SKIP (R368). -/
def execSkip (pkt : Packet) (ecc : List WordErr) (s : State) : Host.Outcome State Fault Refusal :=
  s.run (fun c => c.packetIn 9 pkt (fun c k => c.numberedIn k ecc))

/-! ## Timers and contexts -/

/-- ACK_TIMER (R369). -/
def execAckTimer (peer tc : Nat) (s : State) : Host.Outcome State Fault Refusal :=
  s.run (fun c => if c.xptOn && (c.rx (ctxNo 1 peer tc)).owed != 0 then c.ackNow peer tc else c)

/-- RETRY_TIMEOUT (R371). [log 4, DESIGN CHOICE] -/
def execRetryTimeout (peer tc : Nat) (s : State) : Host.Outcome State Fault Refusal :=
  s.run (fun c => if c.xptOn then c.retryExpired peer tc else c)

/-- CONTEXT_FETCH_DONE (R366). -/
def execContextFetchDone (ctx : Nat) (s : State) : Host.Outcome State Fault Refusal := s.run (fun c => c.ctxArrived ctx)

/-- REASSEMBLY_TIMEOUT (R376). -/
def execReassemblyTimeout (peer tc base : Nat) (s : State) : Host.Outcome State Fault Refusal := s.run (fun c => c.reasmTimeout peer tc base)

/-- CONTEXT_FLUSH (R373). -/
def execContextFlush (acc : Access) (peer : Nat) (s : State) : Host.Outcome State Fault Refusal :=
  s.run (fun c => c.command acc Pg.XPT (Reg.XPT_CTX_CTRL % 0x1000) (peer + 65536) false [] id (fun c => c.flushCtxs peer))

/-! ## Maps -/

/-- MAP_PROPOSAL (R391): the image is what T3 holds where XPT_MAP_ADDR leads there. -/
def execMapProposal (acc : Access) (image : Bytes) (s : State) : Host.Outcome State Fault Refusal :=
  s.run (fun c => c.command acc Pg.XPT (Reg.XPT_MAP_CTRL % 0x1000) 1 false [] id (fun c => c.proposeAt image))

/-- VOTE (R392). -/
def execVote (src : MsgSrc) (bytes : Bytes) (s : State) : Host.Outcome State Fault Refusal := s.run (fun c => c.voteIn src bytes)

/-- VOTE_DEADLINE (R393), at offset S. -/
def execVoteDeadline (s : State) : Host.Outcome State Fault Refusal := s.run (fun c => c.atMoment c.plan.s Chip.voteDeadline)

/-! ## Exports and windows -/

/-- EXPORT_OPEN (R384). -/
def execExportOpen (acc : Access) (image : Bytes) (s : State) : Host.Outcome State Fault Refusal :=
  s.run (fun c =>
    let b := c.image (c.rd64 Reg.XPT_WIN_ADDR_LO) 64 image
    c.winCtrl acc 1 0 (le b 2 1) true (fun c => c.exportOpen b))

/-- EXPORT_REVOKE (R385). -/
def execExportRevoke (acc : Access) (id : Nat) (s : State) : Host.Outcome State Fault Refusal :=
  s.run (fun c =>
    let e := c.xpt.exports.find id
    c.winCtrl acc 2 id ((e.map (·.part)).getD 0) e.isSome (fun c => c.exportRevoke id))

/-- EXPORT_REVOKE_DONE (R385). -/
def execExportRevokeDone (s : State) : Host.Outcome State Fault Refusal := s.run Chip.revokeDone

/-- WINDOW_OPEN (R384). -/
def execWindowOpen (acc : Access) (image : Bytes) (s : State) : Host.Outcome State Fault Refusal :=
  s.run (fun c =>
    let b := c.image (c.rd64 Reg.XPT_WIN_ADDR_LO) 64 image
    c.winCtrl acc 3 0 (le b 2 1) true (fun c => c.windowOpen b))

/-- WINDOW_CLOSE (R384). -/
def execWindowClose (acc : Access) (window : Nat) (s : State) : Host.Outcome State Fault Refusal :=
  s.run (fun c =>
    let w := c.xpt.windows.find window
    c.winCtrl acc 4 window ((w.map (·.part)).getD 0) w.isSome (fun c => c.windowClose window))

/-! ## Forwarding -/

/-- FORWARDED_FRAME (R364): a frame and the link it came on. -/
def execForwardedFrame (link : Nat) (frame : Bytes) (s : State) : Host.Outcome State Fault Refusal := s.runOn (link < 48) (fun c => c.forward link frame)

end Sys2Proof.Machine
end

