-- ==== Sys2Proof/Machine/Training.lean ====
section
/-! DEFINITION. Training, negotiation and authentication of a link (R339–R343, R463–R465), its self-test and admission (R350, R351), lanes
and engines (R345, R346, R349, R358), and the ageing monitor (R534–R536). -/

namespace Sys2Proof.Machine

open Sys2Proof

/-! ## Training stages (R339) -/

/-- VER_MIN sent: 0 acts as 1, 3 as 2 (R354). -/
def Chip.verMin (s : Chip) (l : Nat) : Nat := min 2 (max 1 (s.lnkRf l F.LNK_CFG_VER_MIN))

/-- The capability message of this end (R341). -/
def Chip.capability (s : Chip) (l : Nat) : Bytes :=
  [1, 2] ++ toLE 1 (s.verMin l) ++ toLE 1 l ++ toLE 2 s.selfDev ++ zeros 2 ++ toLE 8 ownSerial ++ toLE 4 3 ++ toLE 1 (s.liveLanes l) ++ zeros 3
    ++ toLE 4 15 ++ toLE 4 4096 ++ zeros 32

/-- The capability messages of both ends, the lower SERIAL's first. -/
def Chip.caps (s : Chip) (l : Nat) : Bytes :=
  let k := s.link l
  if s.lowerEnd l then k.ownCap ++ k.peerCap else k.peerCap ++ k.ownCap

/-- A failure of link authentication (R465) is a training failure. -/
def Chip.authFail (s : Chip) (l : Nat) : Chip := ((s.cnt Reg.SEC_LINK_AUTH_FAIL).raise Pg.SEC 1).trainFail l

/-- Stage 6 begins (R464): LCK0, and the fragments of this device's credential. -/
def Chip.authStart (s : Chip) (l : Nat) : Chip :=
  let s := s.updLink l (fun k => { k with stage := 6, lck0 := kdf "LCK0" (s.caps l) 32 })
  let cred := s.credential
  s.each (List.range 16) (fun s i => s.sendCtl l 1 ([3] ++ toLE 1 i ++ zeros 2 ++ slice cred (3840 * i) 3840))

/-- What both capability messages agree on (R342): the training goes on to stage 6, after a retune where version 1 is agreed. [log 37, DEDUCED] -/
def Chip.agree (s : Chip) (l : Nat) : Chip :=
  let k := s.link l
  let c := k.peerCap
  let ver := min 2 (le c 1 1)
  let rates := le c 16 4 &&& 3
  let lanes := s.liveLanes l &&& le c 20 1
  if ver < s.verMin l || ver < le c 2 1 || ver = 0 || rates = 0 then (s.raise (Pg.lnk l) 4).trainFail l
  else if lanesIn (lanes &&& k.lanes) < s.minWidth l then s.trainFail l
  else
    let s := (s.lnkWf l F.LNK_STAT_VERSION ver).lnkWf l F.LNK_STAT_RATE (b2n (ver == 1 || !bit rates 1))
    let s := (s.wr (regAt (Pg.lnk l) Reg.LNK_CAPS) (le c 24 4 &&& 15)).wr64 (regAt (Pg.lnk l) Reg.LNK_PEER_SERIAL_LO) (capSerial c)
    let s := (s.lnkWf l F.LNK_PEER_DEVICE (le c 4 2)).lnkWf l F.LNK_PEER_LINK (le c 3 1)
    let s := s.each ((List.range 4).filter (fun w => k.lanes.testBit w && !lanes.testBit w)) (fun s w => s.setLane l w 0)
    let s := s.updLink l (fun k => { k with lanes := k.lanes &&& lanes, rxGood := k.rxGood &&& lanes })
    let s := s.lnkWf l F.LNK_STAT_TX_MASK (s.lnkRf l F.LNK_STAT_TX_MASK &&& lanes)
    if ver = 1 then s.updLink l (fun k => { k with stage := 2, retuned := true, nextCw := none, rx := [], hunt := true, stream := [], rxGood := 0 })
    else s.authStart l

/-- Stage 5 begins: LINK_SEQ starts at 0, and the capability message is sent. [log 37, DEDUCED] -/
def Chip.negotiate (s : Chip) (l : Nat) : Chip :=
  let cap := s.capability l
  let s := (s.updLink l (fun k => { k with stage := 5, ownCap := cap })).ctlNow l 1 cap
  if (s.link l).peerCap.isEmpty then s else s.agree l

/-- A training stage has finished, with the lanes that passed it. A lane that fails a stage after SIGNAL is left out; SIGNAL asks for light on
every lane. [log 37, DEDUCED] -/
def Chip.stageDone (s : Chip) (l passed : Nat) : Chip :=
  let k := s.link l
  let good := k.lanes &&& passed
  if s.lnkState l ≠ Ls.training || k.stage = 0 || 4 < k.stage || (k.stage = 1 && good ≠ k.lanes) then s
  else
    let s := s.each ((List.range 4).filter (fun w => k.lanes.testBit w && !good.testBit w)) (fun s w => s.setLane l w 3)
    let s := s.updLink l (fun k => { k with lanes := good })
    if lanesIn good < s.minWidth l then s.trainFail l
    else match k.stage with
      | 1 => s.updLink l (fun k => { k with stage := 2 })
      | 2 => s.updLink l (fun k => { k with stage := 3, rxDown := false })
      | 3 => (s.each ((List.range 4).filter good.testBit) (fun s w => s.setLane l w 2)).updLink l (fun k => { k with stage := 4, rxGood := good })
      | _ => if k.retuned then s.authStart l else s.negotiate l

/-- A stage overruns its limit (R340); in stage 6 that is a failure of link authentication (R465). -/
def Chip.stageTimeout (s : Chip) (l : Nat) : Chip :=
  if s.lnkState l ≠ Ls.training then s else if (s.link l).stage = 6 then s.authFail l else s.trainFail l

/-! ## Negotiation and authentication messages -/

/-- A capability message. It waits for this end's stage 5 where the peer is ahead. -/
def Chip.capabilityIn (s : Chip) (l : Nat) (b : Bytes) : Chip :=
  let s := s.takeCtl l 1 b
  let k := s.link l
  if b.length ≠ 64 || s.lnkState l ≠ Ls.training || k.stage < 4 || 5 < k.stage || k.retuned then s
  else
    let s := s.updLink l (fun k => { k with peerCap := b })
    if k.stage = 5 then s.agree l else s

/-- A credential fragment (R464). -/
def Chip.credFragment (s : Chip) (l : Nat) (b : Bytes) : Chip :=
  let s := s.takeCtl l 1 b
  if (s.link l).stage ≠ 6 || b.length ≠ 3844 || 16 ≤ le b 1 1 then s
  else s.updLink l (fun k => { k with frags := k.frags.put (le b 1 1) (b.drop 4) })

/-- Once both ciphertexts are known, LCK and this end's confirm (R464). -/
def Chip.deriveLck (s : Chip) (l : Nat) : Chip :=
  let k := s.link l
  if k.cred.isEmpty || k.ownCt.isEmpty || k.peerCt.isEmpty || !k.lck.isEmpty then s
  else
    let ss := s.decaps k.peerCt
    let own := s.credential
    let (creds, cts, sss) := if s.lowerEnd l then (own ++ k.cred, k.ownCt ++ k.peerCt, k.ownSs ++ ss)
      else (k.cred ++ own, k.peerCt ++ k.ownCt, ss ++ k.ownSs)
    let t := digest (s.caps l ++ creds ++ cts)
    let s := s.updLink l (fun k => { k with lck := kdf "LCK" (sss ++ t) 32 })
    s.sendCtl l 1 ([2] ++ zeros 7 ++ digest (s.caps l))

/-- Verification of the peer's credential ends (R462, R464). -/
def Chip.linkCredential (s : Chip) (l : Nat) : Chip :=
  let k := s.link l
  if k.stage ≠ 6 || k.frags.length < 16 || !k.cred.isEmpty then s
  else
    let c := k.frags.flatMap (·.2)
    if !s.credAccepts c (capSerial k.peerCap) then (s.cnt Reg.SEC_CRED_REFUSED).authFail l
    else
      let (s, ct, ss) := (s.keepCred c).encaps (credKem c)
      let s := s.updLink l (fun k => { k with cred := c, ownCt := ct, ownSs := ss })
      (s.sendCtl l 1 ([4] ++ zeros 3 ++ ct)).deriveLck l

/-- The peer's ciphertext. [log 37, DEDUCED] -/
def Chip.encapsulationIn (s : Chip) (l : Nat) (b : Bytes) : Chip :=
  let s := s.takeCtl l 1 b
  if (s.link l).stage ≠ 6 || b.length ≠ 1572 then s
  else (s.updLink l (fun k => { k with peerCt := b.drop 4 })).deriveLck l

/-- Does a link send Margin frames (R536)? -/
def Chip.marginAgreed (s : Chip) (l : Nat) : Bool := s.linkUp l && bit (s.rd (regAt (Pg.lnk l) Reg.LNK_CAPS)) 2

/-- A Margin frame's payload. -/
def Chip.marginPayload (s : Chip) (l : Nat) : Bytes :=
  [1] ++ toLE 1 (s.rf F.VGL_AGE_PLAN_PLAN) ++ toLE 1 l ++ zeros 5 ++ toLE 8 ownSerial ++ toLE 8 s.step
    ++ (List.range 4).flatMap (fun d => toLE 2 (s.rd (Reg.VGL_AGE_MARGIN + 4 * d) % 65536))
    ++ (List.range 4).flatMap (fun w => toLE 2 (s.lnkRf l (F.LNK_LANE_EYE.plus (4 * w)))) ++ zeros 24

/-- Margin frames on every link that agreed on them. -/
def Chip.marginSend (s : Chip) : Chip := s.each (below 48 s.marginAgreed) (fun s l => s.sendCtl l 7 (s.marginPayload l))

/-- The PLAN has changed: Margin frames go out, and are owed on the links that train (R536, R538). -/
def Chip.planChanged (s : Chip) : Chip :=
  s.marginSend.each (below 48 (fun l => s.lnkState l == Ls.training)) (fun s l => s.updLink l (fun k => { k with planDue := true }))

/-- Training is left: UP_CONTROL, and SELFTEST at once (R350). A Margin frame that is owed goes out where MARGIN is agreed (R538).
[log 37, DEDUCED] -/
def Chip.upControl (s : Chip) (l : Nat) : Chip :=
  let owed := (s.link l).planDue
  let s := (s.updLink l (fun k => { k with stage := 0, frags := [], alive := s.alm.now, tested := true, symbols := [], delays := 0, passed := false
                                           planDue := false })).lnkWf l F.LNK_STAT_STATE Ls.selftest
  if owed && s.marginAgreed l then s.sendCtl l 7 (s.marginPayload l) else s

/-- A confirm message, heard whole: its tag under LCK, then its digest (R342, R464). [log 37, DEDUCED] -/
def Chip.confirmIn (s : Chip) (l : Nat) (b : Bytes) : Chip :=
  let s := s.takeCtl l 1 b
  let k := s.link l
  let n := le b 2 2
  if k.stage ≠ 6 then s
  else if k.lck.isEmpty || n ≠ 72 || (gcmUnlock k.lck (ivControl (!s.lowerEnd l) (2 ^ 64 - 1)) (b.take (32 + n)) [] (slice b (32 + n) 16)).isNone then
    ((s.dropFrame l).raise (Pg.lnk l) 6).authFail l
  else if slice b 40 64 ≠ digest (s.caps l) then (s.raise (Pg.lnk l) 5).authFail l
  else s.upControl l

/-! ## Keepalives, self-test, admission -/

/-- A Keepalive frame: RX_GOOD of both directions as seen. [log 38, DEDUCED] -/
def Chip.keepaliveSend (s : Chip) (l : Nat) : Chip :=
  if s.linkUp l then s.sendCtl l 3 (toLE 1 (s.link l).rxGood ++ toLE 1 (s.link l).peerGood ++ zeros 14) else s

/-- A Keepalive is received. [log 38, DEDUCED] -/
def Chip.keepaliveIn (s : Chip) (l : Nat) (b : Bytes) : Chip := (s.takeCtl l 3 b).updLink l (fun k => { k with alive := s.alm.now })

/-- A Test frame of the peer's self-test, with its LINK_SEQ. -/
def Chip.testIn (s : Chip) (l seq : Nat) (b : Bytes) : Chip :=
  let s := s.takeCtl l 5 b
  if s.lnkState l = Ls.selftest && b ≠ testPayload seq then s.updLink l (fun k => { k with tested := false }) else s

/-- Has this end passed its self-test (R350)? -/
def Link.testPassed (k : Link) : Bool := k.tested && decide (8 ≤ k.delays) && k.symbols.all (fun n => decide (n.2.2 * 10000 ≤ n.2.1))

/-- The end of SELFTEST. -/
def Chip.selftestEnd (s : Chip) (l : Nat) : Chip :=
  if s.lnkState l ≠ Ls.selftest || (s.link l).passed then s
  else if (s.link l).testPassed then (s.updLink l (fun k => { k with passed := true })).proposeAdmit l
  else (s.raise (Pg.lnk l) 7).trainFail l

/-- A step of admission is agreed. -/
def Chip.fixAdmission (s : Chip) (l n : Nat) : Chip := (s.updLink l (fun k => { k with admitAt := some n })).lnkWf l F.LNK_STAT_ADMIT_PENDING 1

/-- A proposal from the end with the lower SERIAL. -/
def Chip.admitPropose (s : Chip) (l : Nat) (b : Bytes) : Chip :=
  let s := s.takeCtl l 4 b
  let n := le b 8 8
  if s.locked && !s.lowerEnd l && (s.link l).passed && s.lnkState l = Ls.selftest && s.step < n then
    (s.fixAdmission l n).sendCtl l 4 (admitPayload 2 n)
  else s

/-- The other end's confirm of this end's proposal, before its step begins. -/
def Chip.admitConfirm (s : Chip) (l : Nat) (b : Bytes) : Chip :=
  let s := s.takeCtl l 4 b
  let n := le b 8 8
  if (s.link l).proposed = some n && s.lnkState l = Ls.selftest && s.step < n then s.fixAdmission l n else s

/-- A withdraw. -/
def Chip.admitWithdraw (s : Chip) (l : Nat) (b : Bytes) : Chip :=
  let s := s.takeCtl l 4 b
  let n := le b 8 8
  let k := s.link l
  if k.admitAt = some n || k.proposed = some n then
    (s.updLink l (fun k => { k with admitAt := none, proposed := none })).lnkWf l F.LNK_STAT_ADMIT_PENDING 0
  else s

/-! ## Lanes -/

/-- A lane loses light or codeword lock for 1 µs (R345, R583). -/
def Chip.laneLoss (s : Chip) (l w : Nat) : Chip :=
  let k := s.link l
  if k.rxGood.testBit w then s.laneFailed l w
  else if s.lnkState l = Ls.training && k.lanes.testBit w then
    let s := (s.updLink l (fun k => { k with lanes := maskDel k.lanes w })).setLane l w 3
    if lanesIn (s.link l).lanes < s.minWidth l then s.trainFail l else s
  else s.updLink l (fun k => { k with goodRun := k.goodRun.del w })

/-- A lane that was asked for has not come back within 25 ms (R346). -/
def Chip.laneTimeout (s : Chip) (l w : Nat) : Chip :=
  if !s.linkUp l || s.laneState l w ≠ 4 then s
  else
    let s := s.updLink l (fun k => { k with reqOut := maskDel k.reqOut w, goodRun := k.goodRun.del w })
    let (s, perm) := s.retrainFailed (.lane l w)
    (s.setLane l w (if perm then 5 else 3)).lnkWf l (F.LNK_LANE_RETRAIN_FAILS.plus (4 * w)) (s.chan (.lane l w)).fails

/-- 100 ms after a failed retrain the lane is asked for again. -/
def Chip.laneRetry (s : Chip) (l w : Nat) : Chip :=
  if s.linkUp l && s.laneState l w = 3 then (s.setLane l w 4).updLink l (fun k => { k with reqOut := putBits k.reqOut w w 1 }) else s

/-! ## Orders and engines -/

/-- LNK_CTRL.RETRAIN (R347). -/
def Chip.retrainOrder (s : Chip) (l : Nat) : Chip :=
  if s.lnkState l = Ls.off || s.lnkState l = Ls.retired then s
  else
    let was := s.admitted l
    ((s.leave l Ls.down true).leftService l was).startTraining l

/-- LNK_CTRL.RETIRE (R348): the link is judged permanent by the order. [log 38, DEDUCED] -/
def Chip.retireOrder (s : Chip) (l : Nat) : Chip :=
  if s.lnkState l = Ls.retired then s else (s.judgePermanent (.link l) 3).retireLink l 2

/-- A Retire frame retires this end as well. [log 38, DEDUCED] -/
def Chip.retireIn (s : Chip) (l : Nat) (b : Bytes) : Chip :=
  let s := s.takeCtl l 6 b
  if s.lnkState l = Ls.retired then s else (s.judgePermanent (.link l) 3).retireEnd l 2

/-- LNK_CTRL.READMIT (R350): the records of the link and its lanes are cleared, its lasers may be on, and it trains. [log 37, DEDUCED] -/
def Chip.readmitOrder (s : Chip) (l : Nat) : Chip :=
  if s.lnkState l ≠ Ls.retired then s
  else
    let s := s.setChan (.link l) { attempt := (s.chan (.link l)).attempt }
    let s := s.each (List.range 4) (fun s w =>
      let s := (s.setChan (.lane l w) {}).lnkWf l (F.LNK_LANE_RETRAIN_FAILS.plus (4 * w)) 0
      if s.laneState l w = 5 then s.setLane l w 0 else s)
    let e := F.OPT_CFG_LASER_EN.on (Pg.opt (l / 4))
    let s := (s.wf e (putBits (s.rf e) (l % 4) (l % 4) 1)).lnkWf l F.LNK_STAT_STATE Ls.off
    (s.startReturn (.link l) .selfTest).startTraining l

/-- An optical engine fails (R349, R358). -/
def Chip.engineFail (s : Chip) (e : Nat) : Chip :=
  let s := if (s.chan (.engine e)).perm then s else s.judgePermanent (.engine e) 4
  (s.raise (Pg.opt e) 3).each (List.range 4) (fun s i => s.retireLink (4 * e + i) 3)

/-! ## The ageing monitor -/

/-- A Margin frame is received. -/
def Chip.marginIn (s : Chip) (l : Nat) (b : Bytes) : Chip :=
  let s := s.takeCtl l 7 b
  if !s.marginAgreed l || b.length ≠ 64 then s
  else
    let r := Reg.VGL_AGE_PEER + 4 * (l / 16)
    let i := 2 * (l % 16)
    (s.wr r (putBits (s.rd r) (i + 1) i (le b 1 1))).cnt Reg.VGL_AGE_RX

/-- The smallest of the readings of a die's replicas, within a signed 32-bit register. -/
def smallest (l : List Int) : Int := l.foldl min (2 ^ 31 - 1)

/-- The PLAN that margins ask for (R535). -/
def Chip.agePlan (s : Chip) (dies : List Int) : Nat :=
  let eyes := (below 192 (fun i => s.laneState (i / 4) (i % 4) == 2)).map (fun i => s.lnkRf (i / 4) (F.LNK_LANE_EYE.plus (4 * (i % 4))))
  let lost := (List.range 192).any (fun i => (s.chan (.lane (i / 4) (i % 4))).perm)
  if dies.any (fun m => decide (m < 15)) || lost then 3
  else if dies.any (fun m => decide (m < 40)) || eyes.any (fun e => decide (e < 20)) then 2
  else if dies.any (fun m => decide (m < 80)) || eyes.any (fun e => decide (e < 40)) then 1
  else 0

/-- The link with the smallest eye of a lane in use; 63 for none. -/
def Chip.worstLink (s : Chip) : Nat :=
  let all := (below 192 (fun i => s.laneState (i / 4) (i % 4) == 2)).map (fun i => (i / 4, s.lnkRf (i / 4) (F.LNK_LANE_EYE.plus (4 * (i % 4)))))
  match all with
  | [] => 63
  | x :: rest => (rest.foldl (fun (a b : Nat × Nat) => if b.2 < a.2 then b else a) x).1

/-- The measurement of every second (R534, R535): 16 replicas of each die, and the eyes of lanes (link, lane, mV). -/
def Chip.ageing (s : Chip) (replicas : List (List Int)) (eyes : List (Nat × Nat × Nat)) : Chip :=
  let s := s.each eyes (fun s e => s.lnkWf (e.1 % 48) (F.LNK_LANE_EYE.plus (4 * (e.2.1 % 4))) e.2.2)
  let dies := (List.range 4).map (fun d => smallest (replicas.getD d []))
  let s := s.each (List.range 4) (fun s d => s.wr (Reg.VGL_AGE_MARGIN + 4 * d) (ofSigned 32 (dies.getD d 0)))
  let least := smallest dies
  let s := (s.wf F.VGL_AGE_PLAN_WORST_DIE ((below 4 (fun d => dies.getD d 0 == least)).headD 0)).wf F.VGL_AGE_PLAN_WORST_LINK s.worstLink
  let plan := s.agePlan dies
  if plan = s.rf F.VGL_AGE_PLAN_PLAN then s else ((s.wf F.VGL_AGE_PLAN_PLAN plan).raise Pg.VGL 2).planChanged

end Sys2Proof.Machine
end

