-- ==== Sys2Proof/Machine/Links.lean ====
section
/-! DEFINITION. Meanings of the links' commands (11). -/

namespace Sys2Proof.Machine

open Sys2Proof

/-! ## Codewords, lanes, frames -/

/-- CODEWORD (R329–R332, R345, R346). -/
def execCodeword (link lane : Nat) (cw : CwIn) (s : State) : Host.Outcome State Fault Refusal := s.runOn (link < 48 && lane < 4) (fun c => c.codeword link lane cw)

/-- LANE_SIGNAL_LOSS (R345). -/
def execLaneSignalLoss (link lane : Nat) (s : State) : Host.Outcome State Fault Refusal := s.runOn (link < 48 && lane < 4) (fun c => c.laneLoss link lane)

/-- DATA_FRAME (R335). -/
def execDataFrame (link : Nat) (frame : Bytes) (s : State) : Host.Outcome State Fault Refusal := s.runOn (link < 48) (fun c => c.frameIn link frame)

/-- LANE_RETRAIN_TIMEOUT (R346). -/
def execLaneRetrainTimeout (link lane : Nat) (s : State) : Host.Outcome State Fault Refusal := s.runOn (link < 48 && lane < 4) (fun c => c.laneTimeout link lane)

/-- LANE_RETRAIN_RETRY (R346). -/
def execLaneRetrainRetry (link lane : Nat) (s : State) : Host.Outcome State Fault Refusal := s.runOn (link < 48 && lane < 4) (fun c => c.laneRetry link lane)

/-! ## Training -/

/-- TRAINING_STAGE_DONE (R339), with the lanes that passed the stage. -/
def execTrainingStageDone (link lanes : Nat) (s : State) : Host.Outcome State Fault Refusal := s.runOn (link < 48) (fun c => c.stageDone link lanes)

/-- TRAINING_STAGE_TIMEOUT (R340). [log 4, DESIGN CHOICE] -/
def execTrainingStageTimeout (link : Nat) (s : State) : Host.Outcome State Fault Refusal := s.runOn (link < 48) (fun c => c.stageTimeout link)

/-- TRAINING_RETRY (R340). -/
def execTrainingRetry (link : Nat) (s : State) : Host.Outcome State Fault Refusal :=
  s.runOn (link < 48) (fun c => if c.lnkState link = Ls.down then c.startTraining link else c)

/-- NEGOTIATE_CAPABILITY (R341, R342). -/
def execNegotiateCapability (link : Nat) (bytes : Bytes) (s : State) : Host.Outcome State Fault Refusal := s.runOn (link < 48) (fun c => c.capabilityIn link bytes)

/-- CREDENTIAL_FRAGMENT (R463, R464). -/
def execCredentialFragment (link : Nat) (bytes : Bytes) (s : State) : Host.Outcome State Fault Refusal := s.runOn (link < 48) (fun c => c.credFragment link bytes)

/-- ENCAPSULATION (R464). -/
def execEncapsulation (link : Nat) (bytes : Bytes) (s : State) : Host.Outcome State Fault Refusal := s.runOn (link < 48) (fun c => c.encapsulationIn link bytes)

/-- NEGOTIATE_CONFIRM (R342, R464, R465): the frame's header, payload and tag. -/
def execNegotiateConfirm (link : Nat) (bytes : Bytes) (s : State) : Host.Outcome State Fault Refusal := s.runOn (link < 48) (fun c => c.confirmIn link bytes)

/-! ## Control frames of a link that is up -/

/-- KEEPALIVE_SEND (R336). -/
def execKeepaliveSend (link : Nat) (s : State) : Host.Outcome State Fault Refusal := s.runOn (link < 48) (fun c => c.keepaliveSend link)

/-- KEEPALIVE (R336, R347). -/
def execKeepalive (link : Nat) (bytes : Bytes) (s : State) : Host.Outcome State Fault Refusal := s.runOn (link < 48) (fun c => c.keepaliveIn link bytes)

/-- KEEPALIVE_TIMEOUT (R347). [log 4, DESIGN CHOICE] -/
def execKeepaliveTimeout (link : Nat) (s : State) : Host.Outcome State Fault Refusal := s.runOn (link < 48) (fun c => if c.linkUp link then c.linkDown link else c)

/-- TEST (R336, R350): a Test frame's LINK_SEQ and payload. -/
def execTest (link seq : Nat) (bytes : Bytes) (s : State) : Host.Outcome State Fault Refusal := s.runOn (link < 48) (fun c => c.testIn link seq bytes)

/-- SELFTEST_END (R350). -/
def execSelftestEnd (link : Nat) (s : State) : Host.Outcome State Fault Refusal := s.runOn (link < 48) (fun c => c.selftestEnd link)

/-- ADMIT_PROPOSE (R351). -/
def execAdmitPropose (link : Nat) (bytes : Bytes) (s : State) : Host.Outcome State Fault Refusal := s.runOn (link < 48) (fun c => c.admitPropose link bytes)

/-- ADMIT_CONFIRM (R351). -/
def execAdmitConfirm (link : Nat) (bytes : Bytes) (s : State) : Host.Outcome State Fault Refusal := s.runOn (link < 48) (fun c => c.admitConfirm link bytes)

/-- ADMIT_WITHDRAW (R351). -/
def execAdmitWithdraw (link : Nat) (bytes : Bytes) (s : State) : Host.Outcome State Fault Refusal := s.runOn (link < 48) (fun c => c.admitWithdraw link bytes)

/-- RETIRE (R348). -/
def execRetire (link : Nat) (bytes : Bytes) (s : State) : Host.Outcome State Fault Refusal := s.runOn (link < 48) (fun c => c.retireIn link bytes)

/-- MARGIN (R536). -/
def execMargin (link : Nat) (bytes : Bytes) (s : State) : Host.Outcome State Fault Refusal := s.runOn (link < 48) (fun c => c.marginIn link bytes)

/-- MARGIN_SEND (R536). -/
def execMarginSend (s : State) : Host.Outcome State Fault Refusal := s.run Chip.marginSend

/-- AGEING_MEASUREMENT (R534, R535): what the replicas and the lane eyes read. -/
def execAgeingMeasurement (replicas : List (List Int)) (eyes : List (Nat × Nat × Nat)) (s : State) : Host.Outcome State Fault Refusal :=
  s.run (fun c => c.ageing replicas eyes)

/-! ## Orders through LNK_CTRL -/

/-- A command of LNK_CTRL. -/
def Chip.lnkCtrl (s : Chip) (a : Access) (l val : Nat) (run : Chip → Chip) : Chip :=
  s.command a (Pg.lnk l) Reg.LNK_CTRL val false [] id run

/-- LNK_RETRAIN (R347). -/
def execLnkRetrain (acc : Access) (link : Nat) (s : State) : Host.Outcome State Fault Refusal :=
  s.runOn (link < 48) (fun c => c.lnkCtrl acc link 1 (fun c => c.retrainOrder link))

/-- LNK_RETIRE (R348). -/
def execLnkRetire (acc : Access) (link : Nat) (s : State) : Host.Outcome State Fault Refusal :=
  s.runOn (link < 48) (fun c => c.lnkCtrl acc link 2 (fun c => c.retireOrder link))

/-- LNK_READMIT (R350). -/
def execLnkReadmit (acc : Access) (link : Nat) (s : State) : Host.Outcome State Fault Refusal :=
  s.runOn (link < 48) (fun c => c.lnkCtrl acc link 4 (fun c => c.readmitOrder link))

/-! ## Optical engines (R349, R358) -/

/-- ENGINE_FAILED: an engine loses READY. -/
def execEngineFailed (engine : Nat) (s : State) : Host.Outcome State Fault Refusal :=
  s.runOn (engine < 12) (fun c => (c.wf (F.OPT_STAT_READY.on (Pg.opt engine)) 0).engineFail engine)

/-- ENGINE_OVERTEMP: an engine has been over temperature for 1 ms; what its sensor reads. -/
def execEngineOvertemp (engine celsius : Nat) (s : State) : Host.Outcome State Fault Refusal :=
  s.runOn (engine < 12) (fun c => (((c.wf (F.OPT_STAT_OVERTEMP.on (Pg.opt engine)) 1).wf (F.OPT_STAT_TEMP.on (Pg.opt engine)) celsius).raise (Pg.opt engine) 2).engineFail
    engine)

/-- LASER_FAULT: a lane's laser, with the bias current and the launch power measured. -/
def execLaserFault (link lane bias power : Nat) (s : State) : Host.Outcome State Fault Refusal :=
  s.runOn (link < 48 && lane < 4) (fun c =>
    let pg := Pg.opt (link / 4)
    let i := 4 * (4 * (link % 4) + lane % 4)
    ((c.wr (regAt pg (Reg.OPT_BIAS + i)) bias).wr (regAt pg (Reg.OPT_TX_PWR + i)) power).raise pg 0)

/-- RECEIVED_POWER_LOW: on a lane in use, with the power measured. -/
def execReceivedPowerLow (link lane power : Nat) (s : State) : Host.Outcome State Fault Refusal :=
  s.runOn (link < 48 && lane < 4) (fun c =>
    let pg := Pg.opt (link / 4)
    let c := c.wr (regAt pg (Reg.OPT_RX_PWR + 4 * (4 * (link % 4) + lane % 4))) power
    if c.laneState link lane = 2 then c.raise pg 1 else c)

end Sys2Proof.Machine
end

