-- ==== Sys2Proof/Machine/MemoryTiers.lean ====
section
/-! DEFINITION. Memory tiers (09): placement descriptors (R284–R287), migration (R288–R290, R504), the stack interface (R291, R502, R503). -/

namespace Sys2Proof.Machine

open Sys2Proof

/-! ## Placement descriptors -/

/-- OBJECT and the descriptor of an image (R284). -/
def descOfBytes (b : Bytes) : Nat × Desc :=
  (le b 4 2, { kind := le b 0 1, tier := le b 1 1, partition := le b 2 1, host := le b 3 1, use := le b 6 1, id := le b 8 2,
               slotFirst := le b 10 2, slotLast := le b 12 2, size := le b 16 8, mask := le b 24 24 })

/-- Does a field break R284 (result 1)? -/
def Desc.broken (d : Desc) (o : Nat) : Bool :=
  !(decide (1 ≤ d.kind) && decide (d.kind ≤ 3)) || !(d.tier == 1 || d.tier == 2) || decide (7 < d.partition) || decide (2 < d.host)
    || decide (2 < d.use) || decide (4079 < o) || decide (d.slotLast < d.slotFirst) || decide ((if d.tier = 2 then 1190 else 32767) < d.slotLast)
    || (d.tier == 1 && decide (2 ^ 64 ≤ d.mask)) || (d.kind == 2 && d.size != 0) || (d.kind == 2 && (d.tier != 2 || d.host == 2))
    || (d.kind == 3 && d.host != 0) || (d.kind != 1 && d.use != 0) || (d.use == 0 && d.id != 0)

/-- Is a partition giving up a channel group (R281)? -/
def Chip.groupLeaving (s : Chip) (p st g : Nat) : Bool :=
  let a := regAt (Pg.mem st) (Reg.MEM_CG_PEND + 4 * g)
  s.glb.dirty.contains a && !(bit (s.rd a) 7 && bits (s.rd a) 2 0 == p)

/-- Does a descriptor's MASK name nothing, or a channel group its partition does not own or is giving up (result 3)? -/
def Chip.maskBad (s : Chip) (d : Desc) : Bool :=
  d.mask == 0 || (d.tier == 2 && d.groups.any (fun i => s.cgOwner (i / 8) (i % 8) != some d.partition || s.groupLeaving d.partition (i / 8) (i % 8)))

/-- Does SIZE break the unit or the slot range (result 4)? -/
def Desc.sizeBad (d : Desc) : Bool := d.size % d.unit != 0 || decide (d.capacity * d.unit < d.size)

/-- Do two descriptors overlap in a group both name (result 5)? -/
def Desc.overlaps (a b : Desc) : Bool :=
  a.tier == b.tier && (a.mask &&& b.mask) != 0 && decide (a.slotFirst ≤ b.slotLast) && decide (b.slotFirst ≤ a.slotLast)

/-- Every descriptor but object `o`'s own that holds slots: those placed, the one being installed, and the new placements of migrations. -/
def Chip.placed (s : Chip) (o : Nat) : List Desc :=
  ((s.memu.descs.filter (fun x => x.1 != o)).map (·.2)) ++ (s.memu.install.toList.map (·.2)) ++ ((s.memu.migs.filter (fun x => x.1 != o)).map (·.2.desc))

/-- Is an object in use (result 7)? -/
def Chip.objectBusy (s : Chip) (o : Nat) (d : Desc) : Bool :=
  (s.memu.migs.find o).isSome
    || (d.kind == 2 && s.memu.pages.any (fun x => d.mask.testBit (8 * stackOf x.1 + groupOf (halfBankOf x.1))
          && decide (d.slotFirst ≤ slotOf x.1) && decide (slotOf x.1 ≤ d.slotLast)))
    || (d.kind == 3 && s.memu.allocs.any (fun a => a.1 == o))
    || (d.kind == 1 && d.use != 0 && (s.residency d.partition (d.use == 2) d.id).isSome)

/-- The checks of R286 on an install, PARTITION's exclusion apart. -/
def Chip.installCheck (s : Chip) (o : Nat) (d : Desc) : Nat :=
  if d.broken o then 1
  else if (s.memu.descs.find o).isSome then 2
  else if s.maskBad d then 3
  else if d.sizeBad then 4
  else if (s.placed o).any d.overlaps then 5
  else 0

/-- The checks of R286 on a migrate. -/
def Chip.migrateCheck (s : Chip) (o : Nat) (d : Desc) : Nat :=
  if d.broken o then 1
  else match s.memu.descs.find o with
    | none => 2
    | some old =>
      if s.maskBad d then 3
      else if d.sizeBad then 4
      else if (s.placed o).any d.overlaps then 5
      else if old.kind ≠ 1 || d.size ≠ old.size || d.kind ≠ old.kind || d.partition ≠ old.partition || d.use ≠ old.use || d.id ≠ old.id then 6
      else if s.objectBusy o old then 7
      else 0

/-- The checks of R286 on a free. -/
def Chip.freeCheck (s : Chip) (o : Nat) : Nat :=
  if 4079 < o then 1
  else match s.memu.descs.find o with
    | none => 2
    | some d => if s.objectBusy o d then 7 else 0

/-- MEM_DESC_STAT after a command; a refusal sets ERR_STAT bit [4] of M00 (R298). -/
def Chip.descResult (s : Chip) (o r : Nat) : Chip :=
  let s := (s.wf (F.MEM_DESC_STAT_RESULT.on (Pg.mem 0)) r).wf (F.MEM_DESC_STAT_OBJECT.on (Pg.mem 0)) o
  if r = 0 || r = 15 then s else s.raise (Pg.mem 0) 4

/-- A descriptor command: ignored while one is busy (R297). A partition that the writer's rights exclude gives result 8 where no earlier check
fails. -/
def Chip.descCommand (s : Chip) (a : Access) (op o : Nat) (parts : List Nat) (check : Nat) (run : Chip → Chip) : Chip :=
  if s.rf (F.MEM_DESC_STAT_RESULT.on (Pg.mem 0)) = 15 then s
  else s.command a (Pg.mem 0) Reg.MEM_DESC_CTRL (op + o * 65536) false parts
    (fun s => s.descResult o (if check = 0 then 8 else check))
    (fun s => if check = 0 then run s else s.descResult o check)

/-- Image of a descriptor command. -/
def Chip.descImage (s : Chip) (brought : Bytes) : Nat × Desc :=
  descOfBytes (s.image (s.rd64 (regAt (Pg.mem 0) Reg.MEM_DESC_ADDR_LO)) 64 brought)

/-- Units of a descriptor, page pools included. -/
def Desc.units (d : Desc) : Nat := d.extent / d.unit

/-- An install ends: every unit is zero, and the object is placed. -/
def Chip.finishInstall (s : Chip) : Chip :=
  match s.memu.install with
  | none => s
  | some (o, d) =>
    let s := s.each (List.range d.units) (fun s u => s.writePhys false (s.remapped (d.unitAddr u)) (zeros d.unit))
    (s.setMemu (fun m => { m with install := none, descs := m.descs.put o d })).descResult o 0

/-! ## Migration (R288, R289) and copy-back (R504) -/

/-- A run of bytes is copied word by word; where a word cannot be delivered, the unit is damaged at its new place too (R290). [log 52, DEDUCED] -/
def Chip.copyWords (s : Chip) (src dst n : Nat) (ecc : List WordErr) : Chip :=
  let s := (s.access 5 src n ecc).1
  s.each (List.range (n / 64)) (fun s k =>
    if !s.memu.damaged.contains (src + 64 * k) then s.writePhys false (dst + 64 * k) (memRead s.mem (src + 64 * k) 64)
    else (s.damageUnit (dst + 64 * k)).setMemu (fun m => { m with damaged := insertNat (dst + 64 * k) m.damaged }))

/-- Copy unit u of a migrating object, units being those of its old placement. A stack in fault makes the copy wait (R502). -/
def Chip.copyUnit (s : Chip) (o u : Nat) (ecc : List WordErr) : Chip :=
  match s.memu.descs.find o, s.memu.migs.find o with
  | some old, some m =>
    let offs := (List.range (old.unit / 4096)).map (fun k => u * old.unit + 4096 * k)
    if old.units ≤ u || offs.any (fun x => s.stackDown (s.placeOf old x) || s.stackDown (s.placeOf m.desc x)) then s
    else
      let s := s.each offs (fun s x => s.copyWords (s.placeOf old x) (s.placeOf m.desc x) 4096 ecc)
      s.setMemu (fun x => { x with migs := x.migs.put o { m with copied := insertNat u m.copied, dirty := m.dirty.filter (· != u) } })
  | _, _ => s

/-- Copy the unit of a repaired half-bank back to its original slot. -/
def Chip.copyBack (s : Chip) (a : Nat) (ecc : List WordErr) : Chip :=
  match s.memu.remaps.find? (fun r => r.1 == a) with
  | some r =>
    if (s.memu.backs.find a).isNone || s.stackDown a then s
    else (s.copyWords r.2 a 16384 ecc).setMemu (fun m => { m with backs := m.backs.put a 1 })
  | none => s

/-- Remap entries whose old slot a condition picks are freed. -/
def Chip.freeRemaps (s : Chip) (p : Nat → Bool) : Chip :=
  let gone := s.memu.remaps.filter (fun r => p r.1)
  let s := s.setMemu (fun m => { m with remaps := m.remaps.filter (fun r => !p r.1), backs := m.backs.filter (fun b => !p b.1) })
  s.each gone (fun s r => s.sub (regAt (Pg.mem (stackOf r.1)) Reg.MEM_REMAP_USED) 1)

/-- The switch of an object to its new placement (R289), in the last 1,000 ticks of a Boundary window. -/
def Chip.switchObject (s : Chip) (o stall : Nat) (ecc : List WordErr) : Chip :=
  match s.memu.descs.find o, s.memu.migs.find o with
  | some old, some m =>
    if m.copied.length < old.units || s.rd (regAt (Pg.mem 0) Reg.MEM_MIG_DIRTY) < m.dirty.length
        || m.dirty.any (fun u => s.stackDown (s.placeOf old (u * old.unit)) || s.stackDown (s.placeOf m.desc (u * old.unit))) then s
    else
      let s := s.toOffset (s.plan.w - 1000)
      let s := s.each m.dirty (fun s u => s.copyUnit o u ecc)
      let s := s.freeRemaps (fun a => match old.unitOf a with
        | some u => decide (u < old.units)
        | none => false)
      (s.setMemu (fun x => { x with descs := x.descs.put o m.desc, migs := x.migs.del o })).cntBy (regAt (Pg.mem 0) Reg.MEM_MIG_STALL) stall
  | _, _ => s

/-- The switch of a copied-back unit to its original slot; the repair ends with the last of them (R504). -/
def Chip.switchSlot (s : Chip) (a stall : Nat) (ecc : List WordErr) : Chip :=
  match s.memu.backs.find a with
  | none => s
  | some n =>
    if n = 0 || (n = 2 && s.rd (regAt (Pg.mem 0) Reg.MEM_MIG_DIRTY) = 0) || s.stackDown a then s
    else
      let s := s.toOffset (s.plan.w - 1000)
      let s := if n = 2 then s.copyBack a ecc else s
      let s := (s.freeRemaps (· == a)).cntBy (regAt (Pg.mem 0) Reg.MEM_MIG_STALL) stall
      match s.flt.repair with
      | some (.halfBank st hb) =>
        if s.memu.backs.any (fun b => stackOf b.1 == st && halfBankOf b.1 == hb) || s.hbRetired st hb then s
        else ((s.wf F.FLT_REPAIR_STAT_RESULT 0).wf F.FLT_REPAIR_STAT_STAGE 0).setFlt (fun f => { f with repair := none })
      | _ => s

/-- A switch meets every line of an object that the snoop filter names (R431). -/
def Chip.touchObject (s : Chip) (o : Nat) : Chip :=
  match s.memu.descs.find o with
  | some d => s.each (List.range d.units) (fun s u => s.meetLines true (s.remapped (d.unitAddr u)) d.unit)
  | none => s

/-! ## The stack interface (R291, R503) -/

/-- STATE of a stack. -/
def Chip.stackState (s : Chip) (st : Nat) : Nat := s.rf (F.MEM_STAT_STATE.on (Pg.mem st))

/-- A stack channel is permanent: a fatal device error (R498, R510). -/
def Chip.stackJudged (s : Chip) (perm : Bool) : Chip := if perm then s.fatal 2 else s

/-- A stack fault (R291, R496, R502). -/
def Chip.stackFault (s : Chip) (st : Nat) : Chip :=
  let s := (s.wf (F.MEM_STAT_STATE.on (Pg.mem st)) 3).raise (Pg.mem st) 2
  let s := s.setMemu (fun m => { m with retrain := m.retrain.put st 0 })
  match s.countEvent (.stack st) 7 with
  | (s, perm) => if perm then s.stackJudged true else s.startReturn (.stack st) .selfTest

/-- A poll of a stack's base die, answered or not. -/
def Chip.pollStack (s : Chip) (st : Nat) (answered : Bool) : Chip :=
  if s.stackState st ≠ 2 then s
  else if answered then s.setMemu (fun m => { m with misses := m.misses.del st })
  else
    let n := s.memu.misses.getD st 0 + 1
    let s := s.cnt (regAt (Pg.mem st) Reg.MEM_HEARTBEAT_MISS)
    if n < 4 then s.setMemu (fun m => { m with misses := m.misses.put st n })
    else (s.setMemu (fun m => { m with misses := m.misses.del st })).stackFault st

/-- An attempt to retrain a stack in fault starts. -/
def Chip.retrainStack (s : Chip) (st : Nat) : Chip :=
  match s.memu.retrain.find st with
  | some n => if s.stackState st = 3 && s.returning (.stack st) = some .selfTest then s.setMemu (fun m => { m with retrain := m.retrain.put st (n + 1) }) else s
  | none => s

/-- A retrain attempt ends. It succeeds where training completes within its limit and no bank's credit passed the allowance. -/
def Chip.retrainEnds (s : Chip) (st : Nat) (trained creditKept : Bool) : Chip :=
  if s.stackState st ≠ 3 || s.returning (.stack st) ≠ some .selfTest then s
  else if trained && creditKept then
    ((s.setMemu (fun m => { m with retrain := m.retrain.del st })).retrainOk (.stack st)).setStage (.stack st) .awaiting
  else match s.attemptFailed (.stack st) with
    | (s, perm) => s.stackJudged perm

/-! ## Meanings -/

/-- DESCRIPTOR_INSTALL (R286). -/
def execDescriptorInstall (acc : Access) (image : Bytes) (s : State) : Host.Outcome State Fault Refusal :=
  s.run (fun c =>
    let x := c.descImage image
    c.descCommand acc 1 x.1 [x.2.partition] (c.installCheck x.1 x.2)
      (fun c => (c.setMemu (fun m => { m with install := some x })).descResult x.1 15))

/-- DESCRIPTOR_INSTALL_DONE (R286). -/
def execDescriptorInstallDone (s : State) : Host.Outcome State Fault Refusal := s.run Chip.finishInstall

/-- DESCRIPTOR_MIGRATE (R288). -/
def execDescriptorMigrate (acc : Access) (image : Bytes) (s : State) : Host.Outcome State Fault Refusal :=
  s.run (fun c =>
    let x := c.descImage image
    c.descCommand acc 2 x.1 [x.2.partition] (c.migrateCheck x.1 x.2)
      (fun c => (c.setMemu (fun m => { m with migs := m.migs.put x.1 { desc := x.2 } })).descResult x.1 0))

/-- DESCRIPTOR_FREE (R286). -/
def execDescriptorFree (acc : Access) (object : Nat) (s : State) : Host.Outcome State Fault Refusal :=
  s.run (fun c => c.descCommand acc 3 object ((c.memu.descs.find object).toList.map (·.partition)) (c.freeCheck object)
    (fun c => (c.setMemu (fun m => { m with descs := m.descs.del object })).descResult object 0))

/-- MIGRATION_COPY on the chip, once the host has given up the lines it meets (R431). -/
def Chip.doMigrationCopy (c : Chip) (what : Migrant) (ecc : List WordErr) : Chip :=
  c.devAccess (.migrationCopy what ecc) (fun c => match what with
    | .object o u => c.copyUnit o u ecc
    | .slot a => c.copyBack a ecc)

/-- MIGRATION_COPY (R288, R504): a unit of an object, or a slot of a repaired half-bank by its address. -/
def execMigrationCopy (what : Migrant) (ecc : List WordErr) (s : State) : Host.Outcome State Fault Refusal := s.run (fun c => c.doMigrationCopy what ecc)

/-- MIGRATION_SWITCH on the chip, once the host has given up every line of the object (R289, R431). -/
def Chip.doMigrationSwitch (c : Chip) (what : Migrant) (stall : Nat) (ecc : List WordErr) : Chip :=
  c.devAccess (.migrationSwitch what stall ecc) (fun c => if c.phase ≠ 0 then c else match what with
    | .object o _ => (c.touchObject o).switchObject o stall ecc
    | .slot a => (c.meetLines true a 16384).switchSlot a stall ecc)

/-- MIGRATION_SWITCH (R289): `stall` is how many ticks accesses were held. It can fall only in a Boundary window; the unit of an object is not
named. -/
def execMigrationSwitch (what : Migrant) (stall : Nat) (ecc : List WordErr) (s : State) : Host.Outcome State Fault Refusal :=
  s.run (fun c => c.doMigrationSwitch what stall ecc)

/-- STACK_POLL (R291). -/
def execStackPoll (stack : Nat) (answered : Bool) (s : State) : Host.Outcome State Fault Refusal :=
  s.onMgmt (fun c => if stack < 24 then (c.pollStack stack answered).settle else c)

/-- STACK_RETRAIN_ATTEMPT (R503). -/
def execStackRetrainAttempt (stack : Nat) (s : State) : Host.Outcome State Fault Refusal :=
  s.onMgmt (fun c => if stack < 24 then c.retrainStack stack else c)

/-- STACK_RETRAIN_DONE (R503): did training complete within 20 ms, and did the base die keep every bank's credit within the allowance? -/
def execStackRetrainDone (stack : Nat) (trained creditKept : Bool) (s : State) : Host.Outcome State Fault Refusal :=
  s.onMgmt (fun c => if stack < 24 then (c.retrainEnds stack trained creditKept).settle else c)

end Sys2Proof.Machine
end

