-- ==== Sys2Proof/Machine/SedgeOps.lean ====
section
/-! DEFINITION. Sedge groups (08): records and pages (R239–R241), the arithmetic of selection and attention (R261, R262), reads and writes
with check bits (R267, R268), segments and slices (R226–R228, R252, R265), and the commands of R251. -/

namespace Sys2Proof.Machine

open Sys2Proof

/-! ## Records (R240) -/

/-- Element type of keys in a format (R179). -/
def keyElem : Nat → Elem
  | 2 => .e4m3
  | 3 => .e2m1
  | _ => .bf16

/-- Element type of values in a format (R179). -/
def valElem : Nat → Elem
  | 2 => .e4m3
  | 3 => .e2m3
  | _ => .bf16

/-- A record of values: BF16 codes, or the elements of its blocks followed by their scales. -/
def toRecord (t : Elem) (vals : List Fp) : Bytes :=
  if t = .bf16 then vals.flatMap (fun v => toLE 2 (bf16.encode .rne v))
  else
    let bs := (chunksOf 32 vals).map (fun b => (toMx t (fun _ => .rne) b).block)
    bs.flatMap (fun b => packElems t.width b.elems) ++ bs.map (fun b => BitVec.ofNat 8 b.scale)

/-- Bytes of a record of d values. -/
def recordBytes (t : Elem) (d : Nat) : Nat := if t = .bf16 then 2 * d else d * t.width / 8 + d / 32

/-- The values of a record. -/
def ofRecord (t : Elem) (d : Nat) (b : Bytes) : List Fp :=
  if t = .bf16 then (List.range d).map (fun i => bf16.decode (le b (2 * i) 2))
  else
    let w := 4 * t.width
    (List.range (d / 32)).flatMap (fun k => (MxBlock.mk (le b (d * t.width / 8 + k) 1) (unpackElems t.width 32 (slice b (w * k) w))).values t)

/-- BF16 values of a run of bytes. -/
def bf16s (b : Bytes) : List Fp := (List.range (b.length / 2)).map (fun i => bf16.decode (le b (2 * i) 2))

/-- FP32 codes as bytes. -/
def fp32Bytes (l : List Nat) : Bytes := l.flatMap (toLE 4)

/-- Header fields of a page (R240). -/
structure PageHdr where
  fmt     : Nat
  dim     : Nat
  cap     : Nat
  written : Nat
  first   : Nat
  kf      : Nat
  vf      : Nat
  deriving DecidableEq, Repr

/-- A page's header from its first bytes. -/
def PageHdr.ofBytes (b : Bytes) : PageHdr := ⟨le b 0 1, le b 2 2, le b 4 2, le b 6 2, le b 8 4, le b 16 4, le b 20 4⟩

/-- Real values from stored ones: times the page factor, which is 1.0 outside KV8 (R180). -/
def withFactor (f : Nat) (l : List Fp) : List Fp := if f = 0x3F800000 then l else l.map (fun v => v.mul (of32 f))

/-- Stored values from real ones: the quotient by the page factor, which the conversion then rounds once (R174, R180). -/
def withoutFactor (f : Nat) (l : List Fp) : List Fp := if f = 0x3F800000 then l else l.map (fun v => v.div (of32 f))

/-- Records of a page whose positions are the last of a block, below record i: the summary slot of the block that ends at record i (R241). -/
def sumSlot (h : PageHdr) (i : Nat) : Nat := (below i (fun k => (h.first + k) % 64 == 63)).length

/-- The record whose position ends the block of summary slot j; none where the page has no such slot. -/
def slotRecord (h : PageHdr) (j : Nat) : Option Nat := (below h.cap (fun k => (h.first + k) % 64 == 63))[j]?

/-! ## Arithmetic (R177, R178, R261, R262) -/

/-- Dot product in FP32: BF16 products in groups of 16, MX products by block of 32. -/
def dot32 (bf : Bool) (a b : List Fp) : Nat :=
  if bf then accBf16 0 a b
  else (chunksOf 32 (List.zip a b)).foldl (fun acc g => to32 ((of32 acc).add (Fp.sum (g.map (fun p => p.1.mul p.2))))) 0

/-- Σ of max(q × M, q × m) in FP32 (R261). -/
def blockDot (q hi lo : List Fp) : Nat :=
  (chunksOf 32 (List.zip q (List.zip hi lo))).foldl
    (fun acc g => to32 ((of32 acc).add (Fp.sum (g.map (fun p => Fp.max (p.1.mul p.2.1) (p.1.mul p.2.2)))))) 0

/-- The largest of a list of FP32 numbers. -/
def maxOf32 : List Nat → Nat
  | [] => 0xFF800000
  | x :: l => l.foldl max32 x

/-- Element-wise maxima and minima of two lists of FP32 numbers. -/
def zip32 (f : Nat → Nat → Nat) (a b : List Nat) : List Nat := List.zipWith f a b

/-- Partial triple of one query head over positions: their scores and values (R262). -/
def tripleOf (d : Nat) (l : List (Nat × List Fp)) : Triple :=
  let m := maxOf32 (l.map (·.1))
  l.foldl (fun (t : Triple) x =>
    let e := exp32 (sub32 x.1 m)
    { t with l := add32 t.l e, o := List.zipWith (fun (a : Nat) (v : Fp) => to32 ((of32 a).add ((of32 e).mul v))) t.o x.2 })
    ⟨m, 0, List.replicate d 0⟩

/-- Two partials combined (R262). -/
def Triple.merge (a b : Triple) : Triple :=
  let m := max32 a.m b.m
  let ea := exp32 (sub32 a.m m)
  let eb := exp32 (sub32 b.m m)
  ⟨m, add32 (mul32 a.l ea) (mul32 b.l eb), zip32 (fun x y => add32 (mul32 x ea) (mul32 y eb)) a.o b.o⟩

/-- Output of a query head: o ÷ l, rounded once to BF16 (R262). -/
def Triple.output (t : Triple) : Bytes := t.o.flatMap (fun x => toLE 2 (bf16.encode .rne ((of32 x).div (of32 t.l))))

/-- A partial merged into what the merge unit holds under its TAG. -/
def Partial.merge : Option Partial → Partial → Partial
  | some (.minmax h l), .minmax h' l' => .minmax (zip32 max32 h h') (zip32 min32 l l')
  | some (.attn a), .attn b => .attn (List.zipWith Triple.merge a b)
  | some (.dots a), .dots b => .dots (List.zipWith (zip32 add32) a b)
  | _, x => x

/-! ## Memory accesses of Sedge units (R267, R268) -/

/-- A read meets `n` uncorrectable words. -/
def Chip.noteDamaged (s : Chip) (st n : Nat) : Chip :=
  if n = 0 then s else (s.cntBy (regAt (Pg.sdg st) Reg.SDG_DAMAGED) n).raise (Pg.sdg st) 1

/-- Uncorrectable words among those a run of bytes touches. -/
def Chip.damagedWords (s : Chip) (a n : Nat) : Nat := ((wordsOf a n).filter (fun w => s.memu.damaged.contains w)).length

/-- An access of a stack's units to `n` bytes: words that were uncorrectable before this command are met again; `ecc`, what the command itself
finds in error, has been met when it began. The answer is whether every word can be delivered. -/
def Chip.sedgeMeet (s : Chip) (reader a n : Nat) (ecc : List WordErr) : Chip × Bool :=
  let old := s.memu.damaged.filter (fun w => decide (wordOf a ≤ w) && decide (w < a + n))
  (s.each (old.filter (fun w => !ecc.any (fun e => wordOf e.addr == w))) (fun s w => s.meetWord reader ⟨w, true, 0xFF⟩), old.isEmpty && !s.unitDown a n)

/-- A Sedge unit reads `n` bytes; none where a word is uncorrectable. -/
def Chip.sedgeRead (s : Chip) (st a n : Nat) (ecc : List WordErr) : Chip × Option Bytes :=
  match s.sedgeMeet 1 a n ecc with
  | (s, true) => (s, some (memRead s.mem a n))
  | (s, false) => (s.noteDamaged st (s.damagedWords a n), none)

/-- Words of a run of bytes that a write covers only in part. -/
def partWords (a n : Nat) : List Nat := (wordsOf a n).filter (fun w => decide (w < a) || decide (a + n < w + 64))

/-- A write of a stack: words covered in part are read, corrected and merged; one that is uncorrectable stays unwritten, and the write fails.
`unit` says that a Sedge unit is the writer, else the host path or the State Mover (R267). -/
def Chip.sedgeWrite (s : Chip) (unit : Bool) (st a : Nat) (bs : Bytes) (ecc : List WordErr) : Chip × Bool :=
  let ws := partWords a bs.length
  let s := s.cntBy (regAt (Pg.sdg st) Reg.SDG_RMW) ws.length
  let s := s.each ws (fun s w => (s.sedgeMeet 1 w 64 ecc).1)
  let bad := ws.filter (fun w => s.memu.damaged.contains w)
  let s := (s.noteDamaged st bad.length).markDirty a bs.length
  let s := s.each (wordsOf a bs.length) (fun s w =>
    if bad.contains w then s
    else
      let lo := max w a
      let hi := min (w + 64) (a + bs.length)
      s.writePhys unit lo ((bs.drop (lo - a)).take (hi - lo)))
  (s, bad.isEmpty)

/-- The header of a page. -/
def Chip.pageHdr (s : Chip) (st a : Nat) (ecc : List WordErr) : Chip × Option PageHdr :=
  match s.sedgeRead st a 64 ecc with
  | (s, some b) => (s, some (PageHdr.ofBytes b))
  | (s, none) => (s, none)

/-! ## Work on pages -/

/-- Key and value records of consecutive positions are written from record i on, and WRITTEN covers them (R251). -/
def Chip.appendAt (s : Chip) (st a i : Nat) (ks vs : List (List Fp)) (ecc : List WordErr) : Chip × Bool :=
  match s.pageHdr st a ecc with
  | (s, none) => (s, false)
  | (s, some h) =>
    let kb := ks.flatMap (fun k => toRecord (keyElem h.fmt) (withoutFactor h.kf k))
    let vb := vs.flatMap (fun v => toRecord (valElem h.fmt) (withoutFactor h.vf v))
    match s.sedgeWrite true st (a + keyOff h.fmt h.dim i) kb ecc with
    | (s, ok1) =>
      match s.sedgeWrite true st (a + valOff h.fmt h.dim i) vb ecc with
      | (s, ok2) =>
        if !ok1 || !ok2 then (s, false)
        else if i + ks.length ≤ h.written then (s, true)
        else s.sedgeWrite true st (a + 6) (toLE 2 (i + ks.length)) ecc

/-- Keys of records i to i + n − 1 at their real values. -/
def Chip.keysAt (s : Chip) (st a i n : Nat) (ecc : List WordErr) : Chip × Option (PageHdr × List (List Fp)) :=
  match s.pageHdr st a ecc with
  | (s, none) => (s, none)
  | (s, some h) =>
    let w := keyBytes h.fmt h.dim
    match s.sedgeRead st (a + keyOff h.fmt h.dim i) (n * w) ecc with
    | (s, none) => (s, none)
    | (s, some b) => (s, some (h, (List.range n).map (fun k => withFactor h.kf (ofRecord (keyElem h.fmt) h.dim (slice b (k * w) w)))))

/-- Values of records i to i + n − 1 at their real values. -/
def Chip.valsAt (s : Chip) (st a i n : Nat) (h : PageHdr) (ecc : List WordErr) : Chip × Option (List (List Fp)) :=
  let w := valBytes h.fmt h.dim
  match s.sedgeRead st (a + valOff h.fmt h.dim i) (n * w) ecc with
  | (s, none) => (s, none)
  | (s, some b) => (s, some ((List.range n).map (fun k => withFactor h.vf (ofRecord (valElem h.fmt) h.dim (slice b (k * w) w)))))

/-- Element-wise maximum and minimum of keys (R251). -/
def minmaxOf (ks : List (List Fp)) : Partial :=
  match ks.map (fun k => k.map to32) with
  | [] => .minmax [] []
  | k :: l => .minmax (l.foldl (zip32 max32) k) (l.foldl (zip32 min32) k)

/-- A summary written to slot j of a page (R241). -/
def Chip.writeSummary (s : Chip) (st a j : Nat) (hi lo : List Nat) (ecc : List WordErr) : Chip × Bool :=
  let rec' := toRecord .e4m3 (hi.map of32) ++ toRecord .e4m3 (lo.map of32)
  s.sedgeWrite true st (a + 64 + j * rec'.length) rec' ecc

/-- The summary in slot j of a page: maximum and minimum; none where it is not valid or cannot be read. -/
def Chip.readSummary (s : Chip) (st a j : Nat) (h : PageHdr) (ecc : List WordErr) : Chip × Option (List Fp × List Fp) :=
  let u := sumBytes h.dim
  match s.sedgeRead st (a + 64 + j * u) u ecc with
  | (s, none) => (s, none)
  | (s, some b) => (s, some (ofRecord .e4m3 h.dim b, ofRecord .e4m3 h.dim (b.drop (u / 2))))

/-- Score of a block: the largest over the query heads (R261). -/
def scoreOf (qs : List (List Fp)) (hi lo : List Fp) : Nat := maxOf32 (qs.map (fun q => blockDot q hi lo))

/-- Partial attention of query heads over chosen records of a page, from its keys and values (R262). -/
def attnOf (h : PageHdr) (scale : Nat) (qs ks vs : List (List Fp)) : List Triple :=
  qs.map (fun q => tripleOf h.dim (List.zipWith (fun k v => (mul32 scale (dot32 (h.fmt == 1) q k), v)) ks vs))

/-! ## The operand store and the merge unit -/

/-- `n` bytes of a stack's operand store from a 32-byte unit. -/
def Chip.opnd (s : Chip) (st u n : Nat) : Bytes := memRead (s.sdgAt st).opnd (32 * u) n

/-- Write bytes to the operand store at a 32-byte unit; it is 2 MiB long. -/
def Chip.setOpnd (s : Chip) (st u : Nat) (bs : Bytes) : Chip :=
  s.setSdg st (fun g => { g with opnd := memWrite g.opnd (32 * u) (bs.take (2 * 2 ^ 20 - 32 * u)) })

/-- Merge a partial under a TAG, and what the merge unit then holds. -/
def Chip.mergeTag (s : Chip) (st tag : Nat) (x : Partial) : Chip × Partial :=
  let y := Partial.merge ((s.sdgAt st).merge.find tag) x
  (s.setSdg st (fun g => { g with merge := g.merge.put tag y }), y)

/-! ## Command words (R250) -/

/-- The fields of a command word. -/
structure SedgeCmd where
  opcode : Nat
  segEnd : Bool
  die    : Nat
  bank   : Nat
  half   : Nat
  slot   : Nat
  first  : Nat
  count  : Nat
  gm1    : Nat
  opnd   : Nat
  rslt   : Nat
  arg    : Nat
  tag    : Nat
  deriving DecidableEq, Repr

/-- A command from its 16 bytes. -/
def SedgeCmd.ofBytes (b : Bytes) : SedgeCmd :=
  let v := le b 0 16
  ⟨bits v 5 0, bit v 6, bits v 11 8, bits v 18 12, bits v 19 19, bits v 30 20, bits v 43 32, bits v 55 44, bits v 59 56,
    bits v 79 64, bits v 95 80, bits v 103 96, bits v 127 112⟩

/-- Half-bank a command names. -/
def SedgeCmd.hb (c : SedgeCmd) : Nat := hbNum c.die c.bank c.half

/-- First address of the slot a command names. -/
def SedgeCmd.addr (c : SedgeCmd) (st : Nat) : Nat := slotAddr st c.hb c.slot

/-- Key of a command's bank among running segments and credits. -/
def SedgeCmd.bankKey (c : SedgeCmd) : Nat := 128 * c.die + c.bank

/-! ## Segments, slices and overruns (R226–R228, R252, R265) -/

/-- The stack entry whose slice is the next of another partition at or after an offset. -/
def Chip.nextSlice (s : Chip) (st p ends : Nat) : Option Nat :=
  ((sortBy (fun (a b : Nat × Slice) => decide (a.2.start ≤ b.2.start))
    (s.sch.slices.filter (fun x => decide (8 * st ≤ x.1) && decide (x.1 < 8 * st + 8) && x.2.part != p && decide (ends ≤ x.2.start)))).head?).map (·.1)

/-- A partition's item on a stack completes at offset `done`, after its slice ended at `ends` (R228). -/
def Chip.overrun (s : Chip) (st p ends done : Nat) : Chip :=
  if ends = 0 || done ≤ ends then s
  else
    let past := done - ends
    let old := s.sch.debts.find (8 * st + p)
    let same : Option Debt := match old with
      | some d => if d.step = s.step && d.ends = ends then some d else none
      | none => none
    let before := (same.map (·.ticks)).getD 0
    let owed := match same with
      | some d => d.owed
      | none => s.owedAt st p ends
    if past ≤ before then s
    else
      let s := s.cntBy Reg.SCH_OVERRUN (past - before)
      let s := s.setSch (fun x => { x with debts := x.debts.put (8 * st + p) ⟨past, owed, s.step, ends⟩ })
      let guard := s.rd Reg.SCH_SLICE_GUARD
      if past ≤ guard then s
      else
        let s := if guard < before then s else (s.cnt Reg.SCH_GUARD_BREACH).raise Pg.SCH 7
        match s.nextSlice st p ends with
        | some k => s.setSch (fun x => { x with moved := x.moved.put k (s.step, past - guard) })
        | none => s

/-- Ticks of so many Sedge clocks of 2.128 ns (R237). -/
def sedgeTicks (clocks : Nat) : Nat := ceilDiv (clocks * 2128) 10000

/-- An item that is not a command runs on a stack for some ticks from now: whoever's slice is open owes what runs past its end (R227, R228). -/
def Chip.itemRuns (s : Chip) (st ticks : Nat) : Chip :=
  if !s.sliced st then s
  else s.each (List.range 8) (fun s p =>
    match (s.openSlices st p).find? (fun x => decide (x.1 ≤ s.offset) && decide (s.offset < x.2)) with
    | some x => s.overrun st p x.2 (s.offset + ticks)
    | none => s)

/-- A bank's segment has ended at SEG_END, its last command issued now and taking some clocks: its length and its slice are judged, and the bank
yields to refresh where that is due. -/
def Chip.segmentEnds (s : Chip) (st key : Nat) (g : Segment) (clocks : Nat) : Chip :=
  let pg := Pg.sdg st
  let s := s.setSdg st (fun x => { x with running := x.running.del key })
  let s := if s.rd (regAt pg Reg.SDG_SEG_LIMIT) < g.clocks then (s.cnt (regAt pg Reg.SDG_SEG_OVER)).raise pg 3 else s
  let s := s.overrun st g.partition g.ends (max (s.offset + sedgeTicks clocks) (g.began + sedgeTicks g.clocks))
  if 1 ≤ (s.sdgAt st).credit.getD key 0 then
    (s.cnt (regAt pg Reg.SDG_REF_YIELDS)).setSdg st (fun x => { x with credit := x.credit.del key })
  else s

/-- Bytes of one operand store that differ in another, as they are in the first. -/
def opndChanged (old new : List Host.Cell) : List Host.Cell :=
  (((old ++ new).map (·.1)).eraseDups.filter (fun a => memGet old a != memGet new a)).map (fun a => (a, memGet old a))

/-- A command has run in a bank for some clocks, `was` being the Sedge group before its work: it belongs to the bank's segment, which ends with
SEG_END and until then remembers what it has overwritten. -/
def Chip.noteCommand (s : Chip) (st p : Nat) (tile : Option Nat) (c : SedgeCmd) (clocks units ends : Nat) (was : Sdg) : Chip :=
  let s := s.add64 (regAt (Pg.sdg st) Reg.SDG_BUSY_LO) clocks
  let key := c.bankKey
  let old := (s.sdgAt st).running.getD key { partition := p, fromTile := tile, ends := ends, began := s.offset }
  let g := { old with
    clocks := old.clocks + clocks, units := old.units + units
    oldOpnd := old.oldOpnd ++ opndChanged was.opnd (s.sdgAt st).opnd
    oldTags := if (old.oldTags.find c.tag).isSome || was.merge.find c.tag = (s.sdgAt st).merge.find c.tag then old.oldTags
               else old.oldTags.put c.tag (was.merge.find c.tag) }
  if c.segEnd then s.segmentEnds st key g clocks else s.setSdg st (fun x => { x with running := x.running.put key g })

/-- Does the Sedge group of a stack run commands: enabled, and its stack not in fault (R274, R502, R545)? -/
def Chip.sedgeUp (s : Chip) (st : Nat) : Bool := s.enabled (Pg.sdg st) && s.rf (F.MEM_STAT_STATE.on (Pg.mem st)) != 3

/-- SDG_CFG.EN. -/
def Chip.sedgeEn (s : Chip) (st : Nat) : Bool := s.rf (F.SDG_CFG_EN.on (Pg.sdg st)) == 1

/-- A command that is refused (R251, R253): a sequencer fault of the tile that issued it, else ERR_STAT bit [4]. [log 51, DEDUCED] -/
def Chip.sedgeRefused (s : Chip) (st : Nat) (src : SedgeFrom) : Chip :=
  match src with
  | .tile t => s.seqFault t (((s.logicalOf t).bind s.ltOwner).getD (s.tile t).part) false
  | _ => s.raise (Pg.sdg st) 4

/-- Partition in whose name a command is issued; none for the host path. -/
def Chip.sedgeParty (s : Chip) : SedgeFrom → Option Nat
  | .tile t => (s.logicalOf t).bind s.ltOwner
  | .inlet p => some p
  | .mover p => some p
  | .host => none

/-- READER of the words a command reads (R294): the State Mover or the host path for its own reads, else the Sedge unit. -/
def sedgeReader : SedgeFrom → Nat
  | .mover _ => 2
  | .host => 3
  | _ => 1

/-- Is an issuer's command run at all at this moment (R24, R253, R274)? Opcodes 0x01–0x06 need the Compute phase, a partition of a role that the
unit serves, and its slice or a segment of its bank that is running already. Outside Compute only READ, WRITE and INIT run, for the State Mover
and the host. The answer is the end of the slice. -/
def Chip.sedgeMay (s : Chip) (st : Nat) (src : SedgeFrom) (c : SedgeCmd) : Option Nat :=
  let run := (s.sdgAt st).running.find c.bankKey
  let carries := match src with
    | .mover _ | .host => true
    | _ => false
  let serves := fun (p : Nat) => s.role p == .prompt || s.role p == .generation || (s.role p == .cache && c.opcode != 4 && c.opcode != 5)
  if c.opcode ≠ 7 && c.opcode ≠ 8 && !s.sedgeEn st then none
  else if s.phase != 1 then (if carries && (c.opcode == 7 || c.opcode == 8 || c.opcode == 9) then some 0 else none)
  else if 1 ≤ c.opcode && c.opcode ≤ 6 then
    match s.sedgeParty src with
    | some p => if !serves p then none else match run with
      | some g => some g.ends
      | none => s.inSlice st p
    | none => run.map (·.ends)
  else some 0

/-- The offset at which a tile's program starts a static sequence that holds a command word (R254); a tile issues commands to the stacks of its
own die alone (R164). -/
def Chip.staticStart (s : Chip) (st t : Nat) (word : Bytes) : Option Nat :=
  if st / 6 ≠ t / 17 then none
  else (s.prog ((s.tile t).prog - 1)).bind (fun g => ((g.seqs.getD st []).find? (fun q => q.words.contains (word.take 16))).map (·.start))

/-- Does an issuer issue a command word to a stack that runs commands: for a tile, one of a static sequence of its program? -/
def Chip.sedgeIssues (s : Chip) (st : Nat) (src : SedgeFrom) (word : Bytes) : Bool :=
  decide (st < 24) && s.sedgeUp st && (match src with
    | .tile t => s.tileRuns t && (s.staticStart st t word).isSome
    | _ => true)

/-- Position of an issuer among the requesters of a command inlet (R229). -/
def Chip.requester (s : Chip) : SedgeFrom → Nat
  | .tile t => (s.logicalOf t).getD 0 % 16
  | .inlet _ => 16
  | .mover _ => 17
  | .host => 18

/-- Clocks that requester `me` of `n` waits for those that wait with it: the ones before it in the order of precedence, which has rotated `rot`
positions (R229). -/
def arbWait (n rot me : Nat) (rivals : List Nat) : Nat :=
  let place := fun (r : Nat) => (r + n - rot % n) % n
  (below n (fun r => rivals.contains r && decide (place r < place me))).length

/-- A command comes to its turn: at its sequence's START where it is static, and after the requesters before it; the longest wait is kept. [log 51, DEDUCED] -/
def Chip.sedgeTurn (s : Chip) (st : Nat) (src : SedgeFrom) (word : Bytes) (turn : SedgeTurn) : Chip :=
  let s := match src with
    | .tile t => s.toOffset ((s.staticStart st t word).getD 0)
    | _ => s
  let w := arbWait 19 s.sch.rot (s.requester src) turn.rivals
  if w ≤ s.rd Reg.SCH_ARB_MAXWAIT then s else s.wr Reg.SCH_ARB_MAXWAIT w

/-- Is a command outside what its issuer's partition holds (R202, R253, R277): a half-bank of another, a slot that no page has, and for a tile or
inlet the device region or a slot of another partition's object? -/
def Chip.sedgeOutside (s : Chip) (st : Nat) (src : SedgeFrom) (c : SedgeCmd) : Bool :=
  let own := match src with
    | .tile _ | .inlet _ => true
    | _ => false
  decide (1192 ≤ c.slot) || (match s.sedgeParty src with
    | some p => s.cgOwner st (groupOf c.hb) != some p
        || (own && (c.slot == 1191 || s.memu.descs.any (fun x => x.2.tier == 2 && x.2.partition != p && (x.2.unitOf (s.unremapped (c.addr st))).isSome)))
    | none => false)

/-- A command of a stack: `op` is the opcode its row stands for, `data` the operands that its issuer places at OPND, `turn` its turn at the
inlet. A command whose word has another opcode, or that leaves what its partition holds, is refused. [log 51, DEDUCED] -/
def Chip.sedgeCommand (s : Chip) (st op : Nat) (src : SedgeFrom) (word data : Bytes) (turn : SedgeTurn) (ecc : List WordErr)
    (run : Chip → SedgeCmd → Chip) : Chip :=
  let c := SedgeCmd.ofBytes word
  if !s.sedgeIssues st src word then s
  else
    let s := s.sedgeTurn st src word turn
    if c.opcode ≠ op || s.sedgeOutside st src c then s.sedgeRefused st src
    else match s.sedgeMay st src c with
      | none => s
      | some ends =>
        let s := if data.isEmpty then s else s.setOpnd st c.opnd data
        let tile := match src with
          | .tile t => some t
          | _ => none
        let s := s.each ecc (fun s e => s.meetWord (sedgeReader src) e)
        (run s c).noteCommand st ((s.sedgeParty src).getD 0) tile c turn.clocks (ceilDiv data.length 32) ends (s.sdgAt st)

/-! ## The opcodes (R251) -/

/-- APPEND: keys first, then values, BF16, from OPND. [log 51, DEDUCED] -/
def Chip.runAppend (s : Chip) (st : Nat) (ecc : List WordErr) (c : SedgeCmd) : Chip :=
  let a := c.addr st
  match s.pageHdr st a ecc with
  | (s, none) => s
  | (s, some h) =>
    let w := 2 * h.dim
    let b := s.opnd st c.opnd (2 * w * c.count)
    let vec := fun k => bf16s (slice b (k * w) w)
    (s.appendAt st a c.first ((List.range c.count).map vec) ((List.range c.count).map (fun k => vec (c.count + k))) ecc).1

/-- SUMMARISE. -/
def Chip.runSummarise (s : Chip) (st : Nat) (ecc : List WordErr) (c : SedgeCmd) : Chip :=
  match s.keysAt st (c.addr st) c.first c.count ecc with
  | (s, some x) => (s.mergeTag st c.tag (minmaxOf x.2)).1
  | (s, none) => s

/-- SUMWRITE: the merged result leaves the merge unit. -/
def Chip.runSumwrite (s : Chip) (st : Nat) (ecc : List WordErr) (c : SedgeCmd) : Chip :=
  match (s.sdgAt st).merge.find c.tag with
  | some (.minmax hi lo) => ((s.setSdg st (fun g => { g with merge := g.merge.del c.tag })).writeSummary st (c.addr st) c.arg hi lo ecc).1
  | _ => s

/-- Query heads at OPND: BF16 vectors of d elements. -/
def Chip.queriesAt (s : Chip) (st u g d : Nat) : List (List Fp) :=
  let b := s.opnd st u (2 * d * g)
  (List.range g).map (fun k => bf16s (slice b (2 * d * k) (2 * d)))

/-- SCORE: the score of slot ARG + k goes to the FP32 number k at RSLT. -/
def Chip.runScore (s : Chip) (st : Nat) (ecc : List WordErr) (c : SedgeCmd) : Chip :=
  let a := c.addr st
  match s.pageHdr st a ecc with
  | (s, none) => s
  | (s, some h) =>
    let qs := s.queriesAt st c.opnd (c.gm1 + 1) h.dim
    s.each (List.range c.count) (fun s k =>
      match slotRecord h (c.arg + k) with
      | none => s
      | some i =>
        if h.written ≤ i then s
        else match s.readSummary st a (c.arg + k) h ecc with
          | (s, none) => s
          | (s, some m) =>
            (s.setSdg st (fun g => { g with opnd := memWrite g.opnd (32 * c.rslt + 4 * k) (toLE 4 (scoreOf qs m.1 m.2)) })).add64
              (regAt (Pg.sdg st) Reg.SDG_BLK_SCORED_LO) 1)

/-- Blocks that records i to i + n − 1 of a page touch. -/
def blocksIn (h : PageHdr) (i n : Nat) : Nat := if n = 0 then 0 else (h.first + i + n - 1) / 64 - (h.first + i) / 64 + 1

/-- ATTEND: SCALE follows the queries at OPND as an FP32 number; the output of what the TAG has merged so far goes to RSLT. [log 51, DEDUCED] -/
def Chip.runAttend (s : Chip) (st : Nat) (ecc : List WordErr) (c : SedgeCmd) : Chip :=
  let a := c.addr st
  match s.keysAt st a c.first c.count ecc with
  | (s, none) => s
  | (s, some x) =>
    match s.valsAt st a c.first c.count x.1 ecc with
    | (s, none) => s
    | (s, some vs) =>
      let h := x.1
      let g := c.gm1 + 1
      let qs := s.queriesAt st c.opnd g h.dim
      let scale := le (s.opnd st c.opnd (2 * h.dim * g + 4)) (2 * h.dim * g) 4
      let s := s.add64 (regAt (Pg.sdg st) Reg.SDG_BLK_ATTENDED_LO) (blocksIn h c.first c.count)
      match s.mergeTag st c.tag (.attn (attnOf h scale qs x.2 vs)) with
      | (s, .attn t) => s.setOpnd st c.rslt (t.flatMap Triple.output)
      | (s, _) => s

/-- MATVEC: rows of K = 32 × (ARG + 1) elements of a type from the slot's first word on, vectors at OPND; the merged sums go to RSLT, row by row
(R263). [log 51, DEDUCED] -/
def Chip.runMatvec (s : Chip) (st : Nat) (elem : Elem) (ecc : List WordErr) (c : SedgeCmd) : Chip :=
  let k := 32 * (c.arg + 1)
  let w := recordBytes elem k
  match s.sedgeRead st (c.addr st) (c.count * w) ecc with
  | (s, none) => s
  | (s, some b) =>
    let vt := if elem = .bf16 then Elem.bf16 else .e4m3
    let vw := recordBytes vt k
    let vb := s.opnd st c.opnd (vw * (c.gm1 + 1))
    let vecs := (List.range (c.gm1 + 1)).map (fun i => ofRecord vt k (slice vb (i * vw) vw))
    let rows := (List.range c.count).map (fun i => ofRecord elem k (slice b (i * w) w))
    match s.mergeTag st c.tag (.dots (rows.map (fun r => vecs.map (dot32 (elem == .bf16) r)))) with
    | (s, .dots d) => s.setOpnd st c.rslt (fp32Bytes d.flatten)
    | (s, _) => s

/-- READ: TOK_COUNT words of the slot from word TOK_FIRST on go to RSLT. A tile whose read fails stops (R293). [log 51, DEDUCED] -/
def Chip.runRead (s : Chip) (st : Nat) (src : SedgeFrom) (ecc : List WordErr) (c : SedgeCmd) : Chip :=
  match s.sedgeMeet (sedgeReader src) (c.addr st + 64 * c.first) (64 * c.count) ecc with
  | (s, true) => s.setOpnd st c.rslt (memRead s.mem (c.addr st + 64 * c.first) (64 * c.count))
  | (s, false) =>
    let s := s.noteDamaged st (s.damagedWords (c.addr st + 64 * c.first) (64 * c.count))
    match src with
    | .tile t => s.stopTile t
    | _ => s

/-- A tile's read of a stack in fault stops the tile for the step (R502). -/
def Chip.sedgeFor (s : Chip) (st : Nat) (src : SedgeFrom) (f : Chip → Chip) : Chip :=
  match src with
  | .tile t => if s.rf (F.MEM_STAT_STATE.on (Pg.mem st)) = 3 && s.tileRuns t then s.stopTile t else f s
  | _ => f s

/-- WRITE: bytes from word TOK_FIRST of the slot on. [log 51, DEDUCED] -/
def Chip.runWrite (s : Chip) (st : Nat) (unit : Bool) (data : Bytes) (ecc : List WordErr) (c : SedgeCmd) : Chip :=
  (s.sedgeWrite unit st (c.addr st + 64 * c.first) (data.take (64 * c.count)) ecc).1

/-- INIT: the page header at OPND is written with WRITTEN 0, so that no summary slot is valid; bytes that its layout leaves are zero (R240). -/
def Chip.runInit (s : Chip) (st : Nat) (ecc : List WordErr) (c : SedgeCmd) : Chip :=
  let h := s.opnd st c.opnd 64
  (s.sedgeWrite true st (c.addr st) (patch h 6 (zeros 2)) ecc).1.clearTail (c.addr st) (le h 0 1) (le h 2 2)

/-! ## Refresh and scrub (R264–R266, R292) -/

/-- Credit of a bank after an interval: an idle bank is refreshed at once, and ahead where REF_AHEAD is set. A running one is postponed until
8. -/
def creditAfter (ahead running : Bool) (c : Int) : Int :=
  if running && decide (c + 1 < 8) then c + 1
  else if ahead then min (c + 1) (-8) else min (c + 1) 0

/-- What a Sedge group holds without a segment's results: the operand store bytes it changed and the TAGs it merged into are as they were before
it (R266). -/
def Sdg.without (x : Sdg) (key : Nat) (g : Segment) : Sdg :=
  { x with
    running := x.running.del key
    opnd := g.oldOpnd.foldr (fun c m => memWrite m c.1 [c.2]) x.opnd
    merge := g.oldTags.foldl (fun m t => match t.2 with
      | some y => m.put t.1 y
      | none => m.del t.1) x.merge }

/-- The controller stops a segment at c = 8, and its results are discarded (R266). -/
def Chip.forceStop (s : Chip) (st key : Nat) (g : Segment) : Chip :=
  let pg := Pg.sdg st
  let s := ((s.setSdg st (fun x => x.without key g)).cnt (regAt pg Reg.SDG_REF_FORCED)).raise pg 2
  match g.fromTile with
  | some t => s.seqFault t g.partition true
  | none => s

/-- Refreshes scrub: 19,072 of them make a pass of a bank, a pass of every bank one pass of the stack (R292). -/
def Chip.scrubbed (s : Chip) (st : Nat) (done : List (Nat × Nat)) : Chip :=
  let g := s.sdgAt st
  let n := done.map (fun x => (x.1, g.scrub.getD x.1 0 + x.2))
  let full := (n.filter (fun x => decide (19072 ≤ x.2))).map (·.1)
  let s := s.setSdg st (fun y => { y with scrub := (n.map (fun x => (x.1, x.2 % 19072))).filter (fun x => x.2 != 0) })
  let all := full.foldl (fun l b => insertNat b l) ((s.memu.scrubbed.getD st []))
  if all.length < 2048 then s.setMemu (fun m => { m with scrubbed := m.scrubbed.putOr st [] all })
  else (s.setMemu (fun m => { m with scrubbed := m.scrubbed.del st })).cnt (regAt (Pg.mem st) Reg.MEM_SCRUB_PASS)

/-- One refresh interval of a stack; a refresh takes 200 ns (R264) and is non-preemptible (R227). `ecc` are the words that the scrub finds in error. [log 51, DEDUCED] -/
def Chip.refreshStack (s : Chip) (st : Nat) (ecc : List WordErr) : Chip :=
  let pg := Pg.sdg st
  let g := s.sdgAt st
  let ahead := s.rf (F.SDG_CFG_REF_AHEAD.on pg) = 1
  let s := s.itemRuns st 20
  let banks := (List.range 2048).map (fun b =>
    let c := g.credit.getD b 0
    let c' := creditAfter ahead ((g.running.find b).isSome) c
    (b, c + 1, c'))
  let top := (banks.map (fun x => x.2.1.toNat)).foldl max 0
  let s := s.wf (F.SDG_REF_STAT_MAXC.on pg) (max top (s.rf (F.SDG_REF_STAT_MAXC.on pg)))
  let s := s.setSdg st (fun y => { y with credit := (banks.filter (fun x => x.2.2 != 0)).map (fun x => (x.1, x.2.2)) })
  let s := s.each (g.running.filter (fun x => decide (8 ≤ g.credit.getD x.1 0 + 1))) (fun s x => s.forceStop st x.1 x.2)
  if s.rf (F.MEM_CFG_SCRUB_EN.on (Pg.mem st)) = 1 then
    (s.scrubbed st (banks.map (fun x => (x.1, (x.2.1 - x.2.2).toNat)))).each ecc (fun s e => s.meetWord 4 e)
  else s

end Sys2Proof.Machine
end

