-- ==== Sys2Proof/Machine/SedgeItems.lean ====
section
/-! DEFINITION. Attention at home (R255–R262): Attend and Result messages, the status of an item, and the work on its spans. -/

namespace Sys2Proof.Machine

open Sys2Proof

/-! ## Messages (R256) -/

/-- The header of an Attend or Result. -/
structure AttendHdr where
  type    : Nat
  g       : Nat
  layer   : Nat
  dim     : Nat
  heads   : Nat
  count   : Nat
  scale   : Nat
  step    : Nat
  srcDev  : Nat
  srcPart : Nat
  dstPart : Nat
  tag     : Nat
  deriving DecidableEq, Repr

/-- Header of a message. -/
def AttendHdr.ofBytes (b : Bytes) : AttendHdr :=
  ⟨le b 0 1, le b 1 1, le b 2 2, le b 4 2, le b 6 2, le b 8 4, le b 12 4, le b 16 8, le b 24 2, le b 26 1, le b 27 1, le b 28 4⟩

/-- Its 32 bytes. -/
def AttendHdr.toBytes (h : AttendHdr) : Bytes :=
  toLE 1 h.type ++ toLE 1 h.g ++ toLE 2 h.layer ++ toLE 2 h.dim ++ toLE 2 h.heads ++ toLE 4 h.count ++ toLE 4 h.scale ++ toLE 8 h.step
    ++ toLE 2 h.srcDev ++ toLE 1 h.srcPart ++ toLE 1 h.dstPart ++ toLE 4 h.tag

/-- Size of an Attend item. -/
def AttendHdr.itemSize (h : AttendHdr) : Nat := 16 + 2 * h.dim * h.heads * (h.g + 2)

/-- Size of a Result item. -/
def AttendHdr.resultSize (h : AttendHdr) : Nat := 16 + 2 * h.dim * h.heads * h.g

/-- A Result item. -/
def resultItem (h : AttendHdr) (rid pos status newPart newHome : Nat) (out : Bytes) : Bytes :=
  toLE 8 rid ++ toLE 4 pos ++ toLE 1 status ++ toLE 1 newPart ++ toLE 2 newHome ++ padTo (2 * h.dim * h.heads * h.g) out

/-! ## Who is concerned -/

/-- Stack of a span of a partition (R248). -/
def Chip.spanStack (s : Chip) (p σ : Nat) : Nat :=
  let l := s.stacksOf p
  l.getD (σ % max 1 l.length) 0

/-- Stacks that hold the spans of a layer. -/
def Chip.layerStacks (s : Chip) (p : Nat) (h : AttendHdr) : List Nat :=
  ((List.range h.heads).map (fun k => s.spanStack p (h.layer * h.heads + k))).eraseDups

/-- SDG page of the gathering inlet: the lowest stack of the lowest die that holds a span of the layer (R255, R273). -/
def Chip.gatherPage (s : Chip) (p : Nat) (h : AttendHdr) : Nat := Pg.sdg (6 * (((s.layerStacks p h).map (· / 6)).foldl min 3))

/-- Programs under which a partition's requests are bound: its own, and one that takes rows of it as its pair (R212, R213). -/
def Chip.progsFor (s : Chip) (p : Nat) : List Prog :=
  (s.sch.sels.filter (fun x => x.part == p || (x.ride ++ x.back).any (fun b => ((s.rte b.1).map (·.partition)) == some p))).filterMap (fun x => s.prog x.prog)

/-- Does a program match the header of an Attend (R257)? [log 12, DESIGN CHOICE] -/
def Chip.progMatches (s : Chip) (h : AttendHdr) (g : Prog) : Bool :=
  match (s.progModel g).bind s.model with
  | some m => decide (h.layer < m.layers) && m.headDim == h.dim && m.kvHeads == h.heads && Config.programHeads g.id == h.g
  | none => false

/-- Prompt tokens of a bound request in this step, 0 in a generation slot; none where it is not bound (R212–R214). -/
def Chip.boundAs (s : Chip) (i : Nat) : Option Nat :=
  (s.sch.sels.flatMap (fun x => if x.voided then [] else x.bound ++ x.ride ++ x.back)).findSome? (fun b => if b.1 = i then some b.2 else none)

/-- Is a position one that the request's binding reads (R257)? -/
def Chip.posBound (s : Chip) (r : Rte) (n pos : Nat) : Bool :=
  if n = 0 then decide (r.len - 1 ≤ pos) && decide (pos < r.len - 1 + s.uOf r)
  else decide (r.cursor ≤ pos) && decide (pos < r.cursor + n)

/-- Operand store units that an item's part of one span takes: queries, key, value and outputs. -/
def AttendHdr.spanUnits (h : AttendHdr) : Nat := ceilDiv (2 * h.dim * (2 * h.g + 2)) 32

/-- Does an operand store lack room for an item's span parts? -/
def Chip.storeFull (s : Chip) (p : Nat) (h : AttendHdr) : Bool :=
  (s.layerStacks p h).any (fun st =>
    let n := (below h.heads (fun k => s.spanStack p (h.layer * h.heads + k) == st)).length
    decide (65536 - (s.sdgAt st).unitsUsed < n * h.spanUnits))

/-- Is an Attend late now (R257)? -/
def Chip.attendLate (s : Chip) (p : Nat) (h : AttendHdr) : Bool :=
  let page := s.gatherPage p h
  let cut := s.plan.x - min (s.plan.x - s.plan.w) (s.rd (regAt page Reg.SDG_ATTEND_CUTOFF))
  decide (h.step < s.step) || (decide (h.step = s.step) && (decide (cut < s.offset) || decide (s.plan.x ≤ s.offset))) || (s.layerStacks p h).any (fun st => !s.sliceLeft st p)

/-- The first moment from now on at which the partition may use every stack of a layer, in the Compute phase and a slice of its own on each in
turn (R226, R253). [log 51, DEDUCED] -/
def Chip.serveMoment (s : Chip) (p : Nat) (h : AttendHdr) : Nat :=
  let from' := max s.offset s.plan.w
  (s.layerStacks p h).foldl (fun m st =>
    if !s.sliced st then m
    else match (s.openSlices st p).filter (fun x => decide (from' < x.2)) with
      | [] => m
      | l => max m (l.foldl (fun b x => min b (max from' x.1)) s.plan.x)) from'

/-- The checks of R257 before any work; 0 where the item is served. `late` says that the message arrived late. -/
def Chip.itemStatus (s : Chip) (p : Nat) (h : AttendHdr) (mism late : Bool) (rid pos : Nat) : Nat :=
  if mism then 9
  else match s.findRid rid with
    | none => 2
    | some (i, r) =>
      if r.state = .forward then 1
      else if r.partition ≠ p then 2
      else if r.state = .ending then 5
      else match s.boundAs i with
        | none => 3
        | some n =>
          if !s.posBound r n pos then 4
          else if late then 6
          else if s.storeFull p h then 7
          else 0

/-! ## Work on one span (R258, R260–R262) -/

/-- The page that holds a position of a span, and the record in it. -/
def Chip.pageAt (s : Chip) (r : Rte) (σ pos : Nat) : Option (Nat × Nat) :=
  let w := s.whereIs r pos
  let e := s.entry r σ w.1
  if entryValid e then some (entryAddr e, w.2) else none

/-- Pages of a run of positions, in ascending order, with the records of each. -/
def Chip.pagesOf (s : Chip) (r : Rte) (σ : Nat) (ps : List Nat) : List (Nat × List Nat) :=
  let l := ps.filterMap (s.pageAt r σ)
  ((l.map (·.1)).eraseDups).map (fun a => (a, (l.filter (fun x => x.1 == a)).map (·.2)))

/-- Consecutive runs of a rising list, as first number and length. -/
def runsIn : List Nat → List (Nat × Nat)
  | [] => []
  | x :: l =>
    match runsIn l with
    | (y, n) :: rest => if y = x + 1 then (x, n + 1) :: rest else (x, 1) :: (y, n) :: rest
    | [] => [(x, 1)]

/-- The summary of the block that ends at a position is written, from its keys in every page that holds them (R258). -/
def Chip.summariseAt (s : Chip) (st : Nat) (r : Rte) (σ pos : Nat) (ecc : List WordErr) : Chip × Bool :=
  let pages := s.pagesOf r σ ((List.range 64).map (fun k => pos - 63 + k))
  let got := pages.foldl (fun (x : Chip × Option (Option Partial)) pg =>
    match x with
    | (s, none) => (s, none)
    | (s, some acc) =>
      match s.keysAt st pg.1 (pg.2.headD 0) pg.2.length ecc with
      | (s, some y) => (s, some (some (Partial.merge acc (minmaxOf y.2))))
      | (s, none) => (s, none)) (s, some none)
  match got, s.pageAt r σ pos with
  | (s, some (some (.minmax hi lo))), some (a, i) =>
    match s.pageHdr st a ecc with
    | (s, some h) => s.writeSummary st a (sumSlot h i) hi lo ecc
    | (s, none) => (s, false)
  | (s, _), _ => (s, false)

/-- Fields of a selection table entry (R260). -/
structure SelEntry where
  topk   : Nat
  sink   : Nat
  recent : Nat
  dense  : Bool
  deriving DecidableEq, Repr

/-- An entry from its 64 bits. -/
def SelEntry.ofNat (v : Nat) : SelEntry := ⟨bits v 11 0, bits v 15 12, bits v 19 16, bit v 20⟩

/-- Scores of blocks, each from its summary; none where one cannot be read. -/
def Chip.scoreBlocks (st : Nat) (r : Rte) (σ : Nat) (qs : List (List Fp)) (ecc : List WordErr) : List Nat → Chip → Chip × Option (List (Nat × Nat))
  | [], s => (s, some [])
  | k :: rest, s =>
    match s.pageAt r σ (64 * k - 1) with
    | none => (s, none)
    | some (a, i) =>
      match s.pageHdr st a ecc with
      | (s, none) => (s, none)
      | (s, some h) =>
        match s.readSummary st a (sumSlot h i) h ecc with
        | (s, none) => (s, none)
        | (s, some m) =>
          match Chip.scoreBlocks st r σ qs ecc rest (s.add64 (regAt (Pg.sdg st) Reg.SDG_BLK_SCORED_LO) 1) with
          | (s, some l) => (s, some ((k, scoreOf qs m.1 m.2) :: l))
          | (s, none) => (s, none)

/-- Does block x rank before block y: by score, a NaN below every number, then by number (R261)? -/
def ranksBefore (x y : Nat × Nat) : Bool :=
  let a := of32 x.2
  let b := of32 y.2
  if a.isNan && b.isNan then decide (x.1 ≤ y.1)
  else if a.isNan then false
  else if b.isNan then true
  else b.lt a || (!a.lt b && decide (x.1 ≤ y.1))

/-- Blocks that an item at a position attends, in ascending order (R261); none where a summary cannot be read. -/
def Chip.selectBlocks (s : Chip) (st : Nat) (r : Rte) (σ pos : Nat) (e : SelEntry) (qs : List (List Fp)) (ecc : List WordErr) : Chip × Option (List Nat) :=
  let cur := pos / 64 + 1
  if e.dense || decide (cur - 1 ≤ e.sink + e.recent + e.topk) then (s, some ((List.range cur).map (· + 1)))
  else
    let others := (below (cur - e.recent) (fun k => decide (e.sink < k)))
    match Chip.scoreBlocks st r σ qs ecc others s with
    | (s, none) => (s, none)
    | (s, some l) =>
      let top := ((sortBy ranksBefore l).take e.topk).map (·.1)
      (s, some (below (cur + 1) (fun k => decide (1 ≤ k) && (decide (k ≤ e.sink) || decide (cur ≤ k + e.recent) || top.contains k))))

/-- Partial attention over chosen records of one page; none where a word cannot be delivered. -/
def Chip.attendPage (st : Nat) (scale : Nat) (qs : List (List Fp)) (ecc : List WordErr) (a : Nat) :
    List (Nat × Nat) → Chip → Chip × Option (PageHdr × List (List Fp) × List (List Fp))
  | [], s => match s.pageHdr st a ecc with
    | (s, some h) => (s, some (h, [], []))
    | (s, none) => (s, none)
  | run :: rest, s =>
    match Chip.attendPage st scale qs ecc a rest s with
    | (s, none) => (s, none)
    | (s, some (h, ks, vs)) =>
      match s.keysAt st a run.1 run.2 ecc with
      | (s, none) => (s, none)
      | (s, some k) =>
        match s.valsAt st a run.1 run.2 h ecc with
        | (s, none) => (s, none)
        | (s, some v) => (s, some (h, k.2 ++ ks, v ++ vs))

/-- Attention over pages in ascending order (R262): the partials merged. -/
def Chip.attendPages (st : Nat) (scale : Nat) (qs : List (List Fp)) (ecc : List WordErr) :
    List (Nat × List Nat) → Option Partial → Chip → Chip × Option (Option Partial)
  | [], acc, s => (s, some acc)
  | pg :: rest, acc, s =>
    match Chip.attendPage st scale qs ecc pg.1 (runsIn pg.2) s with
    | (s, none) => (s, none)
    | (s, some (h, ks, vs)) => Chip.attendPages st scale qs ecc rest (some (Partial.merge acc (.attn (attnOf h scale qs ks vs)))) s

/-- One span of an item, in the order of R258: the outputs of its query heads; none where a word is uncorrectable. -/
def Chip.serveSpan (s : Chip) (r : Rte) (σ pos : Nat) (e : SelEntry) (scale : Nat) (qs : List (List Fp)) (k v : List Fp) (ecc : List WordErr) :
    Chip × Option Bytes :=
  match s.pageAt r σ pos with
  | none => (s, none)
  | some (a, i) =>
    let st := stackOf a
    match s.appendAt st a i [k] [v] ecc with
    | (s, false) => (s, none)
    | (s, true) =>
      match (if pos % 64 = 63 then s.summariseAt st r σ pos ecc else (s, true)) with
      | (s, false) => (s, none)
      | (s, true) =>
        match s.selectBlocks st r σ pos e qs ecc with
        | (s, none) => (s, none)
        | (s, some bs) =>
          let s := s.add64 (regAt (Pg.sdg st) Reg.SDG_BLK_ATTENDED_LO) bs.length
          let ps := bs.flatMap (fun b => ((List.range 64).map (fun j => 64 * (b - 1) + j)).filter (fun t => decide (t ≤ pos)))
          match Chip.attendPages st scale qs ecc (s.pagesOf r σ ps) none s with
          | (s, some (some (.attn t))) => (s, some (t.flatMap Triple.output))
          | (s, _) => (s, none)

/-- Spans of an item in ascending order: outputs in query order. -/
def Chip.serveSpans (r : Rte) (h : AttendHdr) (sel : Nat → Option SelEntry) (item : Bytes) (ecc : List WordErr) : List Nat → Chip → Chip × Option Bytes
  | [], s => (s, some [])
  | k :: rest, s =>
    let w := 2 * h.dim
    let qs := (List.range h.g).map (fun j => bf16s (slice item (16 + (k * h.g + j) * w) w))
    let key := bf16s (slice item (16 + (h.heads * h.g + k) * w) w)
    let val := bf16s (slice item (16 + (h.heads * h.g + h.heads + k) * w) w)
    let σ := h.layer * h.heads + k
    let (s, e) : Chip × SelEntry := match sel (s.spanStack r.partition σ) with
      | some e => (s, e)
      | none =>
        let x := s.draw 64
        (x.1, SelEntry.ofNat x.2)
    match s.serveSpan r σ (le item 8 4) e h.scale qs key val ecc with
    | (s, none) => (s, none)
    | (s, some o) =>
      match Chip.serveSpans r h sel item ecc rest s with
      | (s, some l) => (s, some (o ++ l))
      | (s, none) => (s, none)

/-- One item: its status and outputs. `stopped` says that the refresh controller stopped a segment of it (R266);
a stack in fault aborts it too (R502), and so does one whose Sedge group is not enabled (R274). [log 51, DESIGN CHOICE] -/
def Chip.serveItem (s : Chip) (p : Nat) (h : AttendHdr) (g : Option Prog) (late : Bool) (item : Bytes) (stopped : Bool) (ecc : List WordErr) : Chip × Nat × Bytes :=
  let rid := le item 0 8
  let st0 := s.itemStatus p h g.isNone late rid (le item 8 4)
  match (if st0 = 0 then s.findRid rid else none), g with
  | some (_, r), some g =>
    if stopped || (s.layerStacks p h).any (fun st => !s.sedgeUp st || !s.sedgeEn st) then (s, 10, [])
    else
      let sel := fun st => (g.select.find st).map (fun l => SelEntry.ofNat (l.getD h.layer 0))
      match Chip.serveSpans r h sel item ecc (List.range h.heads) s with
      | (s, some o) => (s, 0, o)
      | (s, none) => (s, 8, [])
  | _, _ => (s, st0, [])

/-- Items in the order in which they are served: one request's in ascending POSITION (R258). The answers come with their place in the
message. -/
def Chip.serveItems (p : Nat) (h : AttendHdr) (g : Option Prog) (late : Bool) (stops : List Nat) (ecc : List WordErr) :
    List (Nat × Bytes) → Chip → Chip × List (Nat × Bytes)
  | [], s => (s, [])
  | x :: rest, s =>
    let (s, status, out) := s.serveItem p h g late x.2 (stops.contains x.1) ecc
    let s := s.cnt (regAt (s.gatherPage p h) (Reg.SDG_INLET_CNT + 4 * status))
    let rid := le x.2 0 8
    let home := match (if status = 1 then s.findRid rid else none) with
      | some (_, r) => (r.fwdHome, r.fwdPart)
      | none => (0, 0)
    let (s, l) := Chip.serveItems p h g late stops ecc rest s
    (s, (x.1, resultItem h rid (le x.2 8 4) status home.2 home.1 out) :: l)

/-- A stack whose refresh controller stops a segment of the inlet's work (R266). -/
def Chip.inletStopped (s : Chip) (st : Nat) : Chip := (s.cnt (regAt (Pg.sdg st) Reg.SDG_REF_FORCED)).raise (Pg.sdg st) 2

/-- Clocks that an Attend's work takes on stacks: they count as busy, and what runs past the slice is an overrun (R226–R228, R273). -/
def Chip.inletWork (s : Chip) (p : Nat) (work : List (Nat × Nat)) : Chip :=
  s.each (work.filter (fun x => decide (x.1 < 24))) (fun s x =>
    let s := s.add64 (regAt (Pg.sdg x.1) Reg.SDG_BUSY_LO) x.2
    match s.inSlice x.1 p with
    | some e => s.overrun x.1 p e (s.offset + sedgeTicks x.2)
    | none => s)

/-- An Attend at the home: its Result (R256–R258). One that arrives outside the partition's slices waits for them (R226). [log 51, DEDUCED] -/
def Chip.serveAttend (s : Chip) (src : MsgSrc) (b : Bytes) (turn : InletTurn) (ecc : List WordErr) : Chip :=
  let h := AttendHdr.ofBytes b
  let p := src.dstPart
  if h.type ≠ 1 || b.length ≠ 32 + h.count * h.itemSize then s.raise (s.gatherPage p h) 4
  else
    let late := s.attendLate p h
    let s := if late then s else s.toOffset (s.serveMoment p h)
    let s := s.each ecc (fun s e => s.meetWord 1 e)
    let s := s.each ((turn.stops.map (·.2)).filter (fun st => decide (st < 24))) Chip.inletStopped
    let g := (s.progsFor p).find? (s.progMatches h)
    let items := (List.range h.count).map (fun k => (k, slice b (32 + k * h.itemSize) h.itemSize))
    let order := sortBy (fun (x y : Nat × Bytes) => decide (le x.2 8 4 ≤ le y.2 8 4)) items
    let (s, l) := Chip.serveItems p h g late (turn.stops.map (·.1)) ecc order s
    let s := s.inletWork p turn.work
    let sorted := sortBy (fun (x y : Nat × Bytes) => decide (x.1 ≤ y.1)) l
    let head : AttendHdr := { h with type := 2, scale := 0, srcDev := s.selfDev, srcPart := p, dstPart := src.part }
    s.send 5 src.dev src.part p (head.toBytes ++ sorted.flatMap (·.2))

/-! ## The program's side (R255, R259) -/

/-- A tile program sends an Attend: the device completes its header. -/
def Chip.sendAttend (s : Chip) (t dev part : Nat) (b : Bytes) : Chip :=
  let p := (s.tile t).part
  let h : AttendHdr := { AttendHdr.ofBytes b with type := 1, step := s.step, srcDev := s.selfDev, srcPart := p, dstPart := part }
  let asked := (List.range h.count).map (fun k =>
    (le b (32 + k * h.itemSize) 8, h.layer, le b (40 + k * h.itemSize) 4))
  let s := s.updSel p (fun x => { x with asked := x.asked ++ asked })
  s.send 5 dev part p (h.toBytes ++ b.drop 32)

/-- One item of a Result, of which a program uses the first that it receives (R272): it is no longer awaited, and one not OK bars its request from
sampling (R259). The home of a request that it does not know is asked for at the origin (R102). -/
def Chip.takeResultItem (s : Chip) (p layer : Nat) (i : Bytes) : Chip :=
  let name := (le i 0 8, layer, le i 8 4)
  let status := le i 12 1
  if !((s.sel p).map (·.asked)).any (fun l => l.contains name) then s
  else
    let s := s.updSel p (fun x => { x with asked := x.asked.filter (fun a => a != name), barred := if status = 0 then x.barred else x.barred ++ [le i 0 8] })
    if status = 2 then s.askOrigin (le i 0 8) p else s

/-- A Result at the program (R259). One of another step has missed its time. -/
def Chip.takeResult (s : Chip) (src : MsgSrc) (b : Bytes) : Chip :=
  let h := AttendHdr.ofBytes b
  if h.type ≠ 2 || h.step ≠ s.step || b.length ≠ 32 + h.count * h.resultSize then s
  else s.each ((List.range h.count).map (fun k => slice b (32 + k * h.resultSize) 16)) (fun s i => s.takeResultItem src.dstPart h.layer i)

end Sys2Proof.Machine
end

