-- ==== Sys2Proof/Machine/Sedge.lean ====
section
/-! DEFINITION. Meanings of the Sedge rows (08): static commands, refresh, and attention at home. -/

namespace Sys2Proof.Machine

open Sys2Proof

/-- ATTEND_MESSAGE on the chip, once the host has given up the lines it meets (R431). -/
def Chip.doAttendMessage (c : Chip) (src : MsgSrc) (bytes : Bytes) (turn : InletTurn) (ecc : List WordErr) : Chip :=
  c.devAccess (.attendMessage src bytes turn ecc) (fun c => (c.take 5 src bytes).serveAttend src bytes turn ecc)

/-- ATTEND_MESSAGE (R257). -/
def execAttendMessage (src : MsgSrc) (bytes : Bytes) (turn : InletTurn) (ecc : List WordErr) (s : State) : Host.Outcome State Fault Refusal :=
  s.run (fun c => c.doAttendMessage src bytes turn ecc)

/-- RESULT (R259). -/
def execResult (src : MsgSrc) (bytes : Bytes) (s : State) : Host.Outcome State Fault Refusal :=
  s.run (fun c => (c.take 5 src bytes).takeResult src bytes)

/-- APPEND on the chip, once the host has given up the lines it meets (R431). -/
def Chip.doAppend (c : Chip) (stack : Nat) (frm : SedgeFrom) (word data : Bytes) (turn : SedgeTurn) (ecc : List WordErr) : Chip :=
  c.devAccess (.append stack frm word data turn ecc) (fun c => c.sedgeCommand stack 0x01 frm word data turn ecc (fun c w => c.runAppend stack ecc w))

/-- APPEND (R251). -/
def execAppend (stack : Nat) (frm : SedgeFrom) (word data : Bytes) (turn : SedgeTurn) (ecc : List WordErr) (s : State) : Host.Outcome State Fault Refusal :=
  s.runOn (stack < 24) (fun c => c.doAppend stack frm word data turn ecc)

/-- SUMMARISE on the chip, once the host has given up the lines it meets (R431). -/
def Chip.doSummarise (c : Chip) (stack : Nat) (frm : SedgeFrom) (word : Bytes) (turn : SedgeTurn) (ecc : List WordErr) : Chip :=
  c.devAccess (.summarise stack frm word turn ecc) (fun c => c.sedgeCommand stack 0x02 frm word [] turn ecc (fun c w => c.runSummarise stack ecc w))

/-- SUMMARISE (R251). -/
def execSummarise (stack : Nat) (frm : SedgeFrom) (word : Bytes) (turn : SedgeTurn) (ecc : List WordErr) (s : State) : Host.Outcome State Fault Refusal :=
  s.runOn (stack < 24) (fun c => c.doSummarise stack frm word turn ecc)

/-- SUMWRITE on the chip, once the host has given up the lines it meets (R431). -/
def Chip.doSumwrite (c : Chip) (stack : Nat) (frm : SedgeFrom) (word : Bytes) (turn : SedgeTurn) (ecc : List WordErr) : Chip :=
  c.devAccess (.sumwrite stack frm word turn ecc) (fun c => c.sedgeCommand stack 0x03 frm word [] turn ecc (fun c w => c.runSumwrite stack ecc w))

/-- SUMWRITE (R241). -/
def execSumwrite (stack : Nat) (frm : SedgeFrom) (word : Bytes) (turn : SedgeTurn) (ecc : List WordErr) (s : State) : Host.Outcome State Fault Refusal :=
  s.runOn (stack < 24) (fun c => c.doSumwrite stack frm word turn ecc)

/-- SCORE on the chip, once the host has given up the lines it meets (R431). -/
def Chip.doScore (c : Chip) (stack : Nat) (frm : SedgeFrom) (word data : Bytes) (turn : SedgeTurn) (ecc : List WordErr) : Chip :=
  c.devAccess (.score stack frm word data turn ecc) (fun c => c.sedgeCommand stack 0x04 frm word data turn ecc (fun c w => c.runScore stack ecc w))

/-- SCORE (R261). -/
def execScore (stack : Nat) (frm : SedgeFrom) (word data : Bytes) (turn : SedgeTurn) (ecc : List WordErr) (s : State) : Host.Outcome State Fault Refusal :=
  s.runOn (stack < 24) (fun c => c.doScore stack frm word data turn ecc)

/-- ATTEND on the chip, once the host has given up the lines it meets (R431). -/
def Chip.doAttend (c : Chip) (stack : Nat) (frm : SedgeFrom) (word data : Bytes) (turn : SedgeTurn) (ecc : List WordErr) : Chip :=
  c.devAccess (.attend stack frm word data turn ecc) (fun c => c.sedgeCommand stack 0x05 frm word data turn ecc (fun c w => c.runAttend stack ecc w))

/-- ATTEND (R262). -/
def execAttend (stack : Nat) (frm : SedgeFrom) (word data : Bytes) (turn : SedgeTurn) (ecc : List WordErr) (s : State) : Host.Outcome State Fault Refusal :=
  s.runOn (stack < 24) (fun c => c.doAttend stack frm word data turn ecc)

/-- MATVEC on the chip, once the host has given up the lines it meets (R431). -/
def Chip.doMatvec (c : Chip) (stack : Nat) (frm : SedgeFrom) (word data : Bytes) (elem : Elem) (turn : SedgeTurn) (ecc : List WordErr) : Chip :=
  c.devAccess (.matvec stack frm word data elem turn ecc) (fun c => c.sedgeCommand stack 0x06 frm word data turn ecc (fun c w => c.runMatvec stack elem ecc w))

/-- MATVEC (R263). `elem` is the weights' element type. -/
def execMatvec (stack : Nat) (frm : SedgeFrom) (word data : Bytes) (elem : Elem) (turn : SedgeTurn) (ecc : List WordErr) (s : State) : Host.Outcome State Fault Refusal :=
  s.runOn (stack < 24) (fun c => c.doMatvec stack frm word data elem turn ecc)

/-- SEDGE_READ on the chip, once the host has given up the lines it meets (R431). -/
def Chip.doSedgeRead (c : Chip) (stack : Nat) (frm : SedgeFrom) (word : Bytes) (turn : SedgeTurn) (ecc : List WordErr) : Chip :=
  c.devAccess (.sedgeRead stack frm word turn ecc) (fun c => c.sedgeFor stack frm (fun c => c.sedgeCommand stack 0x07 frm word [] turn ecc (fun c w => c.runRead stack frm ecc w)))

/-- SEDGE_READ (R251). -/
def execSedgeRead (stack : Nat) (frm : SedgeFrom) (word : Bytes) (turn : SedgeTurn) (ecc : List WordErr) (s : State) : Host.Outcome State Fault Refusal :=
  s.runOn (stack < 24) (fun c => c.doSedgeRead stack frm word turn ecc)

/-- SEDGE_WRITE on the chip, once the host has given up the lines it meets (R431). -/
def Chip.doSedgeWrite (c : Chip) (stack : Nat) (frm : SedgeFrom) (word data : Bytes) (turn : SedgeTurn) (ecc : List WordErr) : Chip :=
  c.devAccess (.sedgeWrite stack frm word data turn ecc) (fun c => c.sedgeCommand stack 0x08 frm word data turn ecc (fun c w => c.runWrite stack (sedgeReader frm == 1) data ecc w))

/-- SEDGE_WRITE (R268). -/
def execSedgeWrite (stack : Nat) (frm : SedgeFrom) (word data : Bytes) (turn : SedgeTurn) (ecc : List WordErr) (s : State) : Host.Outcome State Fault Refusal :=
  s.runOn (stack < 24) (fun c => c.doSedgeWrite stack frm word data turn ecc)

/-- INIT on the chip, once the host has given up the lines it meets (R431). -/
def Chip.doInit (c : Chip) (stack : Nat) (frm : SedgeFrom) (word data : Bytes) (turn : SedgeTurn) (ecc : List WordErr) : Chip :=
  c.devAccess (.init stack frm word data turn ecc) (fun c => c.sedgeCommand stack 0x09 frm word data turn ecc (fun c w => c.runInit stack ecc w))

/-- INIT (R251). -/
def execInit (stack : Nat) (frm : SedgeFrom) (word data : Bytes) (turn : SedgeTurn) (ecc : List WordErr) (s : State) : Host.Outcome State Fault Refusal :=
  s.runOn (stack < 24) (fun c => c.doInit stack frm word data turn ecc)

/-- NOP (R251). -/
def execNop (stack : Nat) (frm : SedgeFrom) (word : Bytes) (turn : SedgeTurn) (s : State) : Host.Outcome State Fault Refusal :=
  s.runOn (stack < 24) (fun c => c.sedgeCommand stack 0x3F frm word [] turn [] (fun c _ => c))

/-- REFRESH (R264). A base die refreshes while its interface is lost, too (R503). -/
def execRefresh (stack : Nat) (ecc : List WordErr) (s : State) : Host.Outcome State Fault Refusal :=
  s.onMgmt (fun c => if stack < 24 then (c.refreshStack stack ecc).settle else c)

/-- DIE_SENSOR_UPDATE (R264, R486): the hottest die sensor of each stack in °C. -/
def execDieSensorUpdate (temps : List Nat) (s : State) : Host.Outcome State Fault Refusal :=
  s.onMgmt (fun c => c.each (temps.zipIdx.filter (fun x => decide (x.2 < 24))) (fun c x =>
    (c.wf (F.SDG_REF_STAT_TEMP.on (Pg.sdg x.2)) x.1).wf (F.SDG_REF_STAT_SHORT.on (Pg.sdg x.2)) (b2n (decide (85 < x.1)))))

/-- ATTEND_SEND (R255): a query leaves a tile program for the request's home; at home it goes to the query inlet. -/
def execAttendSend (tile dev part : Nat) (bytes : Bytes) (s : State) : Host.Outcome State Fault Refusal :=
  s.run (fun c => if c.tileRuns tile then c.sendAttend tile dev part bytes else c)

end Sys2Proof.Machine
end

