-- ==== Sys2Proof/Machine/StateMover.lean ====
section
/-! DEFINITION. Meanings of the State Mover's messages and of runtime orders (05). -/

namespace Sys2Proof.Machine

open Sys2Proof

/-- A write of SMV_ORD_CTRL.ISSUE (R136, R162): a KIND 1 order for SMV_ORD_RID. An order for a request in ENDING is queued, and ends at the start of
Settle; one for a stub ends at once, because the home is elsewhere. The request's partition is the one the write names; one
that the writer may not name ends the order as for a request that is not here. -/
def Chip.issueOrder (s : Chip) (a : Access) : Chip :=
  let rid := s.rd64 Reg.SMV_ORD_RID_LO
  let r := s.findKnown rid
  let parts := match r with
    | some (_, x) => [x.partition]
    | none => []
  s.command a Pg.SMV (Reg.SMV_ORD_CTRL % 0x1000) 1 false parts (fun t => t.ordResult St.unknown) (fun t =>
    match r with
    | none => t.ordResult St.unknown
    | some (_, x) =>
      if x.state = .forward then t.ordResult St.unknown
      else if 64 ≤ t.runtimeQueued then t.ordResult 0xFF
      else (t.queueOrder { kind := 1, rid := rid, srcPart := x.partition, runtime := true
                           dst := (t.rf F.SMV_ORD_DST_DEVICE, t.rf F.SMV_ORD_DST_PARTITION) }).ordResult 0xFE)

/-- OPEN (R580). -/
def execOpen (src : MsgSrc) (bytes : Bytes) (s : State) : Host.Outcome State Fault Refusal :=
  s.run (fun c => (c.take 1 src bytes).takeOpen src bytes)

/-- DATA (R145). -/
def execData (src : MsgSrc) (bytes : Bytes) (s : State) : Host.Outcome State Fault Refusal :=
  s.run (fun c => (c.take 1 src bytes).takeData src bytes)

/-- SEAL (R145). -/
def execSeal (src : MsgSrc) (bytes : Bytes) (s : State) : Host.Outcome State Fault Refusal :=
  s.run (fun c => (c.take 1 src bytes).takeSeal src bytes)

/-- INTENT (R145). -/
def execIntent (src : MsgSrc) (bytes : Bytes) (s : State) : Host.Outcome State Fault Refusal :=
  s.run (fun c => (c.take 1 src bytes).takeIntent src bytes)

/-- COMMIT (R149). -/
def execCommit (src : MsgSrc) (bytes : Bytes) (s : State) : Host.Outcome State Fault Refusal :=
  s.run (fun c => (c.take 1 src bytes).takeCommit src bytes)

/-- ABORT (R145). -/
def execAbort (src : MsgSrc) (bytes : Bytes) (s : State) : Host.Outcome State Fault Refusal :=
  s.run (fun c => (c.take 1 src bytes).takeAbort src bytes)

/-- QUERY (R582). -/
def execQuery (src : MsgSrc) (bytes : Bytes) (s : State) : Host.Outcome State Fault Refusal :=
  s.run (fun c => (c.take 1 src bytes).takeQuery src bytes)

/-- REPLY on the chip, once the host has given up the lines it meets (R431). -/
def Chip.doReply (c : Chip) (src : MsgSrc) (bytes : Bytes) (ecc : List WordErr) : Chip :=
  c.devAccess (.reply src bytes ecc) (fun c => (c.take 1 src bytes).takeReply src bytes ecc)

/-- REPLY (R145). `ecc` are the words found in error where it starts the sending of pages. -/
def execReply (src : MsgSrc) (bytes : Bytes) (ecc : List WordErr) (s : State) : Host.Outcome State Fault Refusal :=
  s.run (fun c => c.doReply src bytes ecc)

/-- PULL (R153). -/
def execPull (src : MsgSrc) (bytes : Bytes) (s : State) : Host.Outcome State Fault Refusal :=
  s.run (fun c => (c.take 1 src bytes).takePull src bytes)

/-- LOST (R154). -/
def execLost (src : MsgSrc) (bytes : Bytes) (s : State) : Host.Outcome State Fault Refusal :=
  s.run (fun c => (c.take 1 src bytes).takeLost src bytes)

/-- LOCATE (R158). -/
def execLocate (src : MsgSrc) (bytes : Bytes) (s : State) : Host.Outcome State Fault Refusal :=
  s.run (fun c => (c.take 1 src bytes).takeLocate src bytes)

/-- DECIDE_WAIT_EXPIRY (R145). -/
def execDecideWaitExpiry (dev seq : Nat) (s : State) : Host.Outcome State Fault Refusal := s.run (fun c => c.decideExpired dev seq)

/-- SMV_ORD_ISSUE (R162). -/
def execSmvOrdIssue (acc : Access) (s : State) : Host.Outcome State Fault Refusal := s.run (fun c => c.issueOrder acc)

end Sys2Proof.Machine
end

