-- ==== Sys2Proof/Machine/HostMem.lean ====
section
/-! DEFINITION. Operations behind the host's commands (14): device memory seen by the host (R428–R431), queue pairs, rings and profiles
(R433, R434), descriptors (R435–R439), doorbells (R441), and the loss of the host (R447). -/

namespace Sys2Proof.Machine

open Sys2Proof

/-! ## CXL.mem (R428–R430) -/

/-- The device physical address of a host physical address, where a committed decoder maps it. [log 44, PRESUMED] -/
def Chip.hdmMap (s : Chip) (hpa : Nat) : Option Nat :=
  (s.cxl.hdm.vals.find? (fun d => decide (d.base ≤ hpa) && decide (hpa < d.base + d.size))).map (fun d => d.dpa + (hpa - d.base))

/-- Bytes of the DVSEC range: objects 0–4,079. -/
abbrev dvsecSize : Nat := 4080 * 2 ^ 36

/-- The physical address of a line that the host may read, or write; none where the access is unmapped (R429). -/
def Chip.hostLine (s : Chip) (hpa : Nat) (write : Bool) : Option Nat :=
  match s.hdmMap hpa with
  | none => none
  | some dpa =>
    let d := dpa / 64 * 64
    match s.desc (d / 2 ^ 36) with
    | none => none
    | some x =>
      if dvsecSize ≤ d || (if write then x.host != 2 else x.host != 1 && x.host != 2) then none
      else match s.resolve (objBase + d) with
        | .phys a => some a
        | _ => none

/-- What the host reads of the device in configuration space (R3, R426–R428): identity, the BARs with their sizes, the one DVSEC range and
what CDAT tells of it, and the AER status. -/
structure ConfigSpace where
  vendor    : Nat
  device    : Nat
  classCode : Nat
  revision  : Nat
  bars      : List (Nat × Nat)   -- number and bytes
  range     : Nat × Nat          -- first DPA and bytes of the DVSEC range, as CDAT reports it
  vectors   : Nat                -- MSI-X vectors
  aer       : Bool               -- uncorrectable non-fatal internal error
  deriving DecidableEq, Repr

/-- Configuration space as it reads. [log 44, PRESUMED] -/
def Chip.configSpace (s : Chip) : ConfigSpace :=
  { vendor := Config.vendorId.toNat, device := 0x0808, classCode := 0x120000, revision := s.rd Reg.GLB_REV % 256
    bars := [(0, 128 * 2 ^ 20), (2, 64 * 2 ^ 10), (4, 64 * 2 ^ 10)], range := (0, dvsecSize), vectors := 1024, aer := s.cxl.aer }

/-- An access of the host that is unmapped (R429). -/
def Chip.hostUnmapped (s : Chip) (hpa : Nat) : Chip := ((s.cnt Reg.CXL_UNMAPPED).wr64 Reg.CXL_ERR_HPA_LO hpa).raise Pg.CXL 0

/-- A host read of a damaged line (R430, R502). -/
def Chip.hostDamaged (s : Chip) (hpa : Nat) : Chip :=
  let s := ((s.cnt Reg.CXL_DAMAGED_RD).wr64 Reg.CXL_ERR_HPA_LO hpa).raise Pg.CXL 1
  ((s.setCxl (fun c => { c with aer := true })).emit .aer).emit (.memData (List.replicate 64 255))

/-- The host obtains a line: it is now the most recently granted of the filter. -/
def Chip.grant (s : Chip) (line : Nat) (modify : Bool) : Chip :=
  s.setCxl (fun c => { c with filter := c.filter.filter (fun x => x.1 != line) ++ [(line, modify)] })

/-- The data that a viral device answers a read with: CXL 3.1 says what it is, the spec does not. -/
def Chip.viralData (s : Chip) : Chip := let (s, v) := s.draw 512; s.emit (.memData (toLE 64 v))

/-- A host access to a stack is a non-preemptible item of it (R227). -/
def Chip.hostItem (s : Chip) (a : Nat) : Chip := if inT2 a then s.itemRuns (stackOf a) Config.hostAccessTicks else s

/-- The line is read, and granted where the host obtains it. [log 44, PRESUMED] -/
def Chip.serveLine (s : Chip) (hpa a : Nat) (obtains : Option Bool) (ecc : List WordErr) : Chip :=
  let (t, ok) := if s.stackDown a then (s, false) else (s.hostItem a).access 3 a 64 ecc
  let t := t.setCxl (fun c => { c with touched := [] })
  match (if ok then t.readPhys a 64 else none) with
  | none => t.hostDamaged hpa
  | some b =>
    let t := match obtains with
      | some m => t.grant a m
      | none => t
    t.emit (.memData b)

/-- A host read of a line. `obtains` says whether the host takes the line into its caches, and whether it may modify it there. A full filter
first takes its least recently granted line back (R431): the read waits for that. [log 45, DEDUCED] -/
def Chip.hostRead (s : Chip) (hpa : Nat) (obtains : Option Bool) (ecc : List WordErr) : Chip :=
  if s.d3hot then s
  else if s.rf F.CXL_STAT_VIRAL_OUT = 1 then s.viralData
  else match (if s.pwr.active then s.hostLine hpa false else none) with
    | none => (s.hostUnmapped hpa).emit (.memData (zeros 64))
    | some a =>
      let new := obtains.isSome && !s.cxl.filter.any (fun x => x.1 == a)
      match s.cxl.filter with
      | oldest :: _ =>
        if new && 1048576 ≤ s.cxl.filter.length then
          (s.backInvalidate oldest.1).setCxl (fun c => { c with heldCmds := c.heldCmds ++ [.hostMemRead hpa obtains ecc] })
        else s.serveLine hpa a obtains ecc
      | [] => s.serveLine hpa a obtains ecc
/-- Store a line as the host does: whole, or the bytes that `mask` names. [log 44, PRESUMED] -/
def Chip.storeLine (s : Chip) (a : Nat) (data : Bytes) (mask : Nat) : Chip :=
  let s := if mask = 2 ^ 64 - 1 then s.writePhys false a data
    else s.each (below 64 (fun i => mask.testBit i)) (fun s i => s.writePhys false (a + i) (slice data i 1))
  (s.markDirty a 64).setCxl (fun c => { c with touched := [] })

/-- A host write of a line. -/
def Chip.hostStore (s : Chip) (hpa : Nat) (data : Bytes) (mask : Nat) : Chip :=
  if s.d3hot || s.rf F.CXL_STAT_VIRAL_OUT = 1 then s
  else match (if s.pwr.active then s.hostLine hpa true else none) with
    | none => s.hostUnmapped hpa
    | some a => if s.stackDown a then s.hostUnmapped hpa else (s.hostItem a).storeLine a (padTo 64 data) mask

/-! ## Back-invalidation (R431) -/

/-- A command that waited for the host goes on. [log 44, PRESUMED] -/
def Chip.resume (s : Chip) (i : Instr) : Chip :=
  match i with
  | .attendMessage src b turn ecc => s.doAttendMessage src b turn ecc
  | .append st f w d n ecc => s.doAppend st f w d n ecc
  | .summarise st f w n ecc => s.doSummarise st f w n ecc
  | .sumwrite st f w n ecc => s.doSumwrite st f w n ecc
  | .score st f w d n ecc => s.doScore st f w d n ecc
  | .attend st f w d n ecc => s.doAttend st f w d n ecc
  | .matvec st f w d e n ecc => s.doMatvec st f w d e n ecc
  | .sedgeRead st f w n ecc => s.doSedgeRead st f w n ecc
  | .sedgeWrite st f w d n ecc => s.doSedgeWrite st f w d n ecc
  | .init st f w d n ecc => s.doInit st f w d n ecc
  | .reply src b ecc => s.doReply src b ecc
  | .migrationCopy w ecc => s.doMigrationCopy w ecc
  | .migrationSwitch w n ecc => s.doMigrationSwitch w n ecc
  | .hostMemRead hpa o ecc => s.hostRead hpa o ecc
  | _ => s

/-- The host gives a line up, with its contents where it had modified them. What waited goes on once every response is in. -/
def Chip.bisnpResponse (s : Chip) (line : Nat) (data : Option Bytes) : Chip :=
  let s := s.setCxl (fun c => { c with snooped := c.snooped.filter (· != line), filter := c.filter.filter (fun x => x.1 != line) })
  let s := match data with
    | some b => s.storeLine line (padTo 64 b) (2 ^ 64 - 1)
    | none => s
  if s.cxl.snooped.isEmpty then
    let held := s.cxl.heldCmds
    (s.setCxl (fun c => { c with heldCmds := [] })).each held Chip.resume
  else s

/-! ## Queue pairs, rings, profiles (R433, R434) -/

/-- Is a number a power of two between two bounds? -/
def powerIn (lo hi n : Nat) : Bool := decide (lo ≤ n) && decide (n ≤ hi) && n &&& (n - 1) == 0

/-- RESULT of a CXL_CFG_CTRL command. -/
def Chip.cfgResult (s : Chip) (r : Nat) : Chip := s.wf F.CXL_CFG_STAT_RESULT r

/-- A command of CXL_CFG_CTRL. -/
def Chip.cfgCtrl (s : Chip) (a : Access) (op index : Nat) (parts : List Nat) (run : Chip → Chip) : Chip :=
  s.command a Pg.CXL (Reg.CXL_CFG_CTRL % 0x1000) (op + 65536 * index) false parts (fun s => s.cfgResult 2)
    (fun s => if s.rf F.CXL_CFG_STAT_RESULT = 15 then s else run s)

/-- The image at CXL_CFG_ADDR; none where that is no T3 address. -/
def Chip.cfgImage (s : Chip) (brought : Bytes) : Option Bytes :=
  if inT3 (s.rd64 Reg.CXL_CFG_ADDR_LO) then some (padTo 32 brought) else none

/-- Does a queue pair image break R433? -/
def qpBad (b : Bytes) : Bool :=
  le b 0 1 != 1 || decide (7 < le b 1 1) || decide (63 < le b 2 2) || !powerIn 16 4096 (le b 4 2) || !powerIn 16 4096 (le b 6 2)
    || le b 8 8 % 4096 != 0 || le b 16 8 % 4096 != 0 || le b 24 2 == 0 || decide (1023 < le b 24 2)

/-- Create a queue pair. -/
def Chip.createQp (s : Chip) (b : Bytes) : Chip :=
  let q := le b 2 2
  if qpBad b then s.cfgResult 1
  else if (s.cxl.qps.find q).isSome then s.cfgResult 3
  else
    let x : QueuePair := { partition := le b 1 1, sqEntries := le b 4 2, cqEntries := le b 6 2, sqBase := le b 8 8, cqBase := le b 16 8
                           vector := le b 24 2, coalCount := le b 26 2, coalUsec := le b 28 2 }
    (s.setCxl (fun c => { c with qps := c.qps.put q x })).cfgResult 0

/-- Delete a queue pair, unless its SQ holds unread descriptors or its submissions wait. -/
def Chip.deleteQp (s : Chip) (q : Nat) : Chip :=
  match s.cxl.qps.find q with
  | none => s.cfgResult 4
  | some x =>
    if x.sqHead ≠ x.sqTail || s.cxl.subs.any (fun b => b.qid == q) || s.rtb.offers.any (fun o => o.sub.qid == q) then s.cfgResult 3
    else (s.setCxl (fun c => { c with qps := c.qps.del q })).cfgResult 0

/-- Does an emit ring image break R433? -/
def ringBad (b : Bytes) : Bool :=
  le b 0 1 != 2 || decide (7 < le b 1 1) || decide (511 < le b 2 2) || !powerIn 64 65536 (le b 4 4) || le b 8 8 % 4096 != 0
    || le b 16 2 == 0 || decide (1023 < le b 16 2)

/-- Create an emit ring. -/
def Chip.createRing (s : Chip) (b : Bytes) : Chip :=
  let r := le b 2 2
  if ringBad b then s.cfgResult 1
  else if (s.ring r).isSome then s.cfgResult 3
  else (s.setRing r { partition := le b 1 1, entries := le b 4 4, base := le b 8 8, vector := le b 16 2, coalCount := le b 18 2
                      coalUsec := le b 20 2 }).cfgResult 0

/-- Delete an emit ring, unless a live request of this origin names it. Requests that only wait to be reported end without a record. -/
def Chip.deleteRing (s : Chip) (r : Nat) : Chip :=
  if (s.ring r).isNone then s.cfgResult 4
  else if s.rtb.locators.vals.any (fun l => l.ring == r && l.state == 1) then s.cfgResult 3
  else
    let s := s.each (s.rtb.locators.vals.filter (fun l => l.ring == r && l.state == 2)) (fun s l => s.freeLocator l.rid)
    (s.setCxl (fun c => { c with rings := c.rings.del r, backlog := c.backlog.filter (fun h => h.ring != r) })).cfgResult 0

/-- Set a sampling profile. -/
def Chip.setProfile (s : Chip) (b : Bytes) : Chip :=
  if le b 0 1 ≠ 3 || 255 < le b 2 2 then s.cfgResult 1
  else
    let p : Profile := { temperature := le b 4 2, topP := le b 6 2, topK := le b 8 2, stops := (List.range 4).map (fun i => le b (16 + 4 * i) 4) }
    (s.setCxl (fun c => { c with profiles := c.profiles.put (le b 2 2) p })).cfgResult 0

/-! ## Descriptors (R435–R439) -/

/-- Bytes of the staging store in use. -/
def Chip.stageUsed (s : Chip) : Nat :=
  ((s.cxl.subs.filter (fun x => x.refusal.isNone)).map (fun x => 4 * x.promptLen)).foldl (· + ·) 0

/-- May the device read the next descriptor of a queue (R437)? -/
def Chip.mayRead (s : Chip) (q : Nat) : Bool :=
  s.cxlOn && s.cxl.reading && !s.quiet Pg.CXL && decide (s.cxl.subs.length < 8192) && (match s.cxl.qps.find q with
    | some x => decide (x.sqHead < x.sqTail) && decide (x.cqTail + x.reserved - x.cqHead < x.cqEntries)
    | none => false)

/-- A descriptor is read: the head moves on, and a CQ entry is reserved. -/
def Chip.descRead (s : Chip) (q : Nat) : Chip :=
  match s.cxl.qps.find q with
  | some x => (s.setCxl (fun c => { c with qps := c.qps.put q { x with sqHead := x.sqHead + 1, reserved := x.reserved + 1 } })).cnt Reg.CXL_SUBMITS
  | none => s

/-- A Submit is read, or a descriptor whose OPCODE is neither 1 nor 2, which is refused as one. A prompt that breaks R81 is not copied. -/
def Chip.submitRead (s : Chip) (q : Nat) (d : Bytes) : Chip :=
  let bad := le d 0 1 != 1 || badLengths (le d 16 4) (le d 20 4)
  if !s.mayRead q || le d 0 1 = 2 || (!bad && 2 ^ 29 < s.stageUsed + 4 * le d 16 4) then s
  else
    let b : Submission := { num := s.cxl.subNum, qid := q, dclass := le d 2 1 % 16, profile := le d 3 1, model := le d 4 2, adapter := le d 6 2
                            ring := le d 8 2, tenant := le d 12 4, promptLen := le d 16 4, maxNew := le d 20 4, addr := le d 24 8
                            deadline := le d 32 8, hostTag := le d 40 8, seed := le d 48 8, time := s.alm.now
                            refusal := if bad then some 6 else none }
    (s.descRead q).setCxl (fun c => { c with subs := c.subs ++ [b], subNum := c.subNum + 1 })

/-- A prompt is fully copied: the tokens found in host memory. -/
def Chip.promptCopied (s : Chip) (num : Nat) (tokens : List Nat) : Chip :=
  s.setCxl (fun c => { c with subs := c.subs.map (fun b =>
    if b.num = num && b.refusal.isNone then { b with tokens := (tokens ++ List.replicate b.promptLen 0).take b.promptLen } else b) })

/-- A Cancel is read and handled (R439). -/
def Chip.cancelRead (s : Chip) (q : Nat) (d : Bytes) : Chip :=
  if !s.mayRead q || le d 0 1 ≠ 2 then s
  else
    let s := s.descRead q
    let part := ((s.cxl.qps.find q).map (·.partition)).getD 0
    let tag := le d 40 8
    let rid := le d 48 8
    if bit (le d 1 1) 0 then
      match s.cxl.subs.find? (fun b => b.qid == q && b.hostTag == tag) with
      | some b =>
        let s := s.each (s.rtb.offers.filter (fun o => o.sub.num == b.num)) Chip.dropOffer
        ((s.dropSub b).cqWrite q 1 3 tag 0).cqWrite q 2 0 tag rid
      | none => s.cqWrite q 2 1 tag rid
    else
      match s.locator rid with
      | some l => if l.state = 1 then (s.sendCancel l part).cqWrite q 2 0 tag rid else s.cqWrite q 2 1 tag rid
      | none => s.cqWrite q 2 1 tag rid

/-! ## Doorbells (R441) -/

/-- A doorbell write that is ignored. -/
def Chip.doorbellBad (s : Chip) : Chip := s.raise Pg.CXL 2

/-- The count that a ring index stands for, at or after the previous count. -/
def ringCount (prev size index : Nat) : Nat := prev + (index + size - prev % max 1 size) % max 1 size

/-- A write of a doorbell register. [log 44, PRESUMED] -/
def Chip.doorbell (s : Chip) (a : Access) (off val : Nat) (run : Chip → Chip) : Chip := s.command a Pg.CXL off val false [] id run

/-- An SQ tail. -/
def Chip.sqTail (s : Chip) (q tail : Nat) : Chip :=
  match s.cxl.qps.find q with
  | none => s.doorbellBad
  | some x =>
    let n := ringCount x.sqTail x.sqEntries tail
    if x.sqEntries ≤ tail || x.sqEntries < n - x.sqHead then s.doorbellBad
    else s.setCxl (fun c => { c with qps := c.qps.put q { x with sqTail := n } })

/-- A CQ head. -/
def Chip.cqHead (s : Chip) (q head : Nat) : Chip :=
  match s.cxl.qps.find q with
  | none => s.doorbellBad
  | some x =>
    let n := ringCount x.cqHead x.cqEntries head
    if x.cqEntries ≤ head || x.cqTail < n then s.doorbellBad
    else s.setCxl (fun c => { c with qps := c.qps.put q { x with cqHead := n } })

/-- An emit ring's head: held records may be written now. -/
def Chip.emitHead (s : Chip) (r head : Nat) : Chip :=
  match s.ring r with
  | none => s.doorbellBad
  | some x =>
    let n := ringCount x.head x.entries head
    if x.entries ≤ head || x.tail < n then s.doorbellBad else (s.setRing r { x with head := n }).drain

/-! ## Vectors (R446) -/

/-- COAL_USEC expires for a CQ or a ring with records not yet signalled. -/
def Chip.coalesceExpired (s : Chip) (emit : Bool) (n : Nat) : Chip :=
  if emit then
    match s.ring n with
    | some x => if x.unsig ≠ 0 && x.coalUsec ≠ 0 then (s.setRing n { x with unsig := 0 }).msix x.vector else s
    | none => s
  else
    match s.cxl.qps.find n with
    | some x => if x.unsig ≠ 0 && x.coalUsec ≠ 0 then (s.setCxl (fun c => { c with qps := c.qps.put n { x with unsig := 0 } })).msix x.vector else s
    | none => s

/-- Pending vectors that nothing masks any longer are sent. -/
def Chip.sendPending (s : Chip) : Chip :=
  if s.d3hot || s.cxl.maskAll then s
  else
    let go := s.cxl.pba.filter (fun v => s.cxl.unmasked.contains v)
    (s.setCxl (fun c => { c with pba := c.pba.filter (fun v => !go.contains v) })).each go Chip.msix

/-- The host clears the mask of a vector, or of the function. [log 44, PRESUMED] -/
def Chip.unmask (s : Chip) (v : Option Nat) : Chip :=
  (s.setCxl (fun c => match v with
    | some v => { c with unmasked := insertNat v c.unmasked }
    | none => { c with maskAll := false })).sendPending

/-! ## The link to the host (R447) -/

/-- The host link is judged lost: requests that the device both originated and homes end with 0x09 (R103). [log 45, DEDUCED] -/
def Chip.hostLost (s : Chip) : Chip :=
  if s.rf F.CXL_STAT_HOST_LOST = 1 then s
  else
    let s := (s.wf F.CXL_STAT_HOST_LOST 1).each s.rtb.offers Chip.dropOffer
    let s := s.setCxl (fun c => { c with reading := false, qps := [], rings := [], subs := [], backlog := [], downTimer := false })
    let (s, v) := s.draw 8
    let s := (s.faultRecord 12 v 0xFFFF 0xFFFF 0xFFFF 0xFF 0 0).raise Pg.CXL 5
    let own := (s.rtb.rtes.filter (fun x => ridOrigin x.2.rid == s.selfDev && x.2.state.live)).map (·.1)
    let s := s.each own (fun s i => s.endNow i 0x09)
    if s.active Pg.XPT F.XPT_CFG_EN then s.fatal 3 else s

/-- The CXL link goes down. [log 45, DEDUCED] -/
def Chip.cxlDown (s : Chip) : Chip :=
  if s.rf F.CXL_STAT_LINK_UP = 0 then s
  else ((s.wf F.CXL_STAT_LINK_UP 0).wf F.CXL_STAT_WIDTH 0).setCxl (fun c => { c with downTimer := true })

/-- The CXL link trains up, on eight lanes or on sixteen (R426). [log 45, DEDUCED] -/
def Chip.cxlUp (s : Chip) (width : Nat) : Chip :=
  if width ≠ 1 && width ≠ 2 then s else ((s.wf F.CXL_STAT_LINK_UP 1).wf F.CXL_STAT_WIDTH width).setCxl (fun c => { c with downTimer := false })

/-- An HDM decoder is committed: within the DVSEC range and apart from the other, in multiples of 256 MiB as CXL 3.1 has them. [log 44, PRESUMED] -/
def Chip.hdmCommit (s : Chip) (i : Nat) (h : Hdm) : Chip :=
  let q := 2 ^ 28
  let apart := fun (x y a b : Nat) => decide (x + a ≤ y) || decide (y + b ≤ x)
  let clash := s.cxl.hdm.any (fun e => e.1 != i && !(apart e.2.base h.base e.2.size h.size && apart e.2.dpa h.dpa e.2.size h.size))
  if 2 ≤ i || h.size = 0 || h.base % q ≠ 0 || h.size % q ≠ 0 || h.dpa % q ≠ 0 || dvsecSize < h.dpa + h.size || clash then s
  else s.setCxl (fun c => { c with hdm := c.hdm.put i h })

end Sys2Proof.Machine
end

