-- ==== Sys2Proof/Machine/Resets.lean ====
section
/-! DEFINITION. Resets (R517–R519), start-up (R520, R521, R567), the firmware download (R457, R458, R461, R522), and what the pins show (R570). -/

namespace Sys2Proof.Machine

open Sys2Proof

/-! ## Pins -/

/-- FATAL_N is low from a fatal device error until cold reset (R570). -/
def Chip.fatalPin (s : Chip) : Bool := s.rf F.FLT_STAT_FATAL == 1

/-- MOD_READY is high from the end of stage 8 until the next reset or fatal device error (R570). -/
def Chip.readyPin (s : Chip) : Bool := s.pwr.done.contains 8 && !s.fatalPin && !s.pwr.off

/-! ## Resets -/

/-- The registers that report what the fuses hold (R477, R489, R490). -/
def Chip.showFuses (s : Chip) (f : Fuses) : Chip :=
  let s := ((s.wr Reg.SEC_MIN_SVN f.minSvn).wf F.SEC_STAT_OWNER_FUSED (b2n f.ownerKey.isSome)).wf F.SEC_STAT_MGMT_FUSED (b2n f.mgmtRoot.isSome)
  match f.mgmtRoot with
  | none => s
  | some d => (s.wf F.SEC_PRIN_CFG_ROLE 1).each (List.range 16) (fun s j => s.wr (Reg.SEC_PRIN_DIGEST + 4 * j) (le d (4 * j) 4))

/-- What outlives a cold reset beside the fuses: the level of PERST# and what follows from it, and the model's own records. [log 26, DEDUCED] -/
def Chip.blank (s : Chip) : Chip :=
  { pwr := { perst := s.pwr.perst, config := s.pwr.config }, out := s.out, free := s.free }

/-- A cold reset (R518): everything but the fuses is lost, and start-up begins at stage 1. [log 26, DEDUCED] -/
def State.cold (s : State) : State := { s with chip := s.chip.blank.showFuses s.fuses }

/-- The bits of a register that a warm reset keeps: RWS fields (R16, R518). [log 26, DEDUCED] -/
def stickyOf (a : Nat) : Nat :=
  match blkOf (a / 0x1000) with
  | some (b, i) => ((rowHere b i (a % 0x1000)).map (fun r => r.1.sticky)).getD 0
  | none => 0

/-- The registers after a warm reset: RWS fields as they were, everything else at its reset value. [log 26, DEDUCED] -/
def warmRegs (l : SMap Word) : SMap Word :=
  l.filterMap (fun (x : Nat × Word) =>
    let m : Word := BitVec.ofNat 32 (stickyOf x.1)
    let r := resetWord x.1
    let v := (x.2 &&& m) ||| (r &&& ~~~m)
    if v = r then none else some (x.1, v))

/-- What is judged permanent stays out of service until cold reset (R168, R497), and the stack interfaces keep their training (R518). [log 26, DEDUCED] -/
def Chip.keepUnits (s old : Chip) : Chip :=
  let s := s.each (List.range 24) (fun s st =>
    let pg := Pg.mem st
    let s := (s.wr (regAt pg Reg.MEM_STAT) (old.rd (regAt pg Reg.MEM_STAT))).wr (regAt pg Reg.MEM_RETIRED) (old.rd (regAt pg Reg.MEM_RETIRED))
    s.each (List.range 128) (fun s i => s.wr (regAt pg (Reg.MEM_HB_RETIRED + 4 * i)) (old.rd (regAt pg (Reg.MEM_HB_RETIRED + 4 * i)))))
  let s := s.each (below 68 (fun t => old.tileState t == 4)) (fun s t => s.setTileState t 4)
  let s := s.each (below 48 (fun l => old.lnkState l == Ls.retired)) (fun s l =>
    (s.lnkWf l F.LNK_STAT_STATE Ls.retired).lnkWf l F.LNK_STAT_RETIRE_REASON (old.lnkRf l F.LNK_STAT_RETIRE_REASON))
  s.each (below 192 (fun i => old.laneState (i / 4) (i % 4) == 5)) (fun s i => s.setLane (i / 4) (i % 4) 5)

/-- Stacks in fault train with the rest in stage 5 (R520). [log 26, DEDUCED] -/
def Chip.stacksTrain (s : Chip) : Chip :=
  s.each (below 24 (fun st => s.rf (F.MEM_STAT_STATE.on (Pg.mem st)) == 3)) (fun s st => s.wf (F.MEM_STAT_STATE.on (Pg.mem st)) 1)

/-- A warm reset (R518): start-up begins at stage 2. The almanac time runs on, unlocked. [log 26, DEDUCED] -/
def State.warm (s : State) : State :=
  let c := s.chip
  let n : Chip := { c.blank with
    regs := warmRegs c.regs
    alm := { now := c.alm.now }
    vgl := { snap := c.vgl.snap }
    flt := { chans := c.flt.chans }
    pwr := { c.blank.pwr with done := [1] } }
  { s with chip := ((n.keepUnits c).stacksTrain.showFuses s.fuses).wf F.GLB_STAGE_WARM 1 |>.wf F.GLB_STAGE_STAGE 1 }

/-- Does R518 allow a warm reset: no fatal device error is latched, and XPT_CFG.EN is 0? -/
def Chip.warmAllowed (s : Chip) : Bool := s.rf F.FLT_STAT_FATAL == 0 && s.rf F.XPT_CFG_EN == 0

/-- PERST# is asserted (R518, R519): a warm reset, or the loss of the host link. [log 27, DEDUCED] [log 29, DEDUCED] -/
def State.perstLow (s : State) : State :=
  if s.chip.pwr.perst then s
  else
    let s : State := { s with chip := { s.chip with pwr := { s.chip.pwr with perst := true, config := false } } }
    if s.chip.rf F.XPT_CFG_EN = 1 then { s with chip := s.chip.cxlDown.hostLost.settle }
    else if s.chip.warmAllowed then s.warm
    else { s with chip := s.chip.cxlDown }

/-! ## Start-up (R520) -/

/-- The stages on which a stage depends. [log 27, DEDUCED] -/
def stageNeeds : Nat → List Nat
  | 1 => [] | 2 => [1] | 3 => [2] | 4 => [3] | 5 => [3] | 6 => [5] | 7 => [4, 5, 6] | 8 => [7] | 9 => [8] | 10 => [8]
  | _ => [0]

/-- May a stage finish: what it depends on has finished, and it has not? [log 27, DEDUCED] -/
def Chip.stageOpen (s : Chip) (n : Nat) : Bool :=
  !s.pwr.done.contains n && (stageNeeds n).all s.pwr.done.contains && (n != 10 || s.locked)

/-- A stage has finished. -/
def Chip.noteStage (s : Chip) (n : Nat) : Chip := ({ s with pwr := { s.pwr with done := s.pwr.done ++ [n] } }).wf F.GLB_STAGE_STAGE n

/-- The self-test of a tile at power-up begins: TESTING. A tile retired before a warm reset stays so. [log 27, DEDUCED] -/
def Chip.bootTesting (s : Chip) : Chip :=
  s.each (below 68 (fun t => s.tileState t != 4)) (fun s t => (s.setTileState t 3).wf (F.TIL_SELFTEST_DONE.on (Pg.til t)) 0)

/-- A self-test of a tile has ended: 0, or the number of the first unit that failed (R193). -/
def Chip.noteTest (s : Chip) (t unit : Nat) (pass : Bool) : Chip :=
  let pg := Pg.til t
  (((s.wf (F.TIL_SELFTEST_DONE.on pg) 1).wf (F.TIL_SELFTEST_PASS.on pg) (b2n pass)).wf (F.TIL_SELFTEST_UNIT.on pg) unit).wf
    (F.TIL_SELFTEST_COUNT.on pg) (min 65535 (s.rf (F.TIL_SELFTEST_COUNT.on pg) + 1))

/-- The self-test of a tile at power-up has a result: none, or the first unit that failed. [log 27, DEDUCED] -/
def Chip.bootTest (s : Chip) (t : Nat) (bad : Option Nat) : Chip :=
  let s := s.noteTest t (bad.getD 0) bad.isNone
  if bad.isNone then s else ((s.setTileState t 4).raise (Pg.til t) 3).judgePermanent (.tile t) 9

/-- The tiles of a die that pass serve its logical tiles in ascending order; one left over is the spare. Where fewer than 16 pass, the
failed ones report it (R38, R169). [log 27, DEDUCED] -/
def Chip.bootDie (s : Chip) (d : Nat) (failed : List (Nat × Nat)) : Chip :=
  let all := (List.range 17).map (17 * d + ·)
  let s := s.each (all.filter (fun t => s.tileState t != 4)) (fun s t => s.bootTest t ((failed.find? (fun x => x.1 == t)).map (·.2)))
  let good := all.filter (fun t => s.tileState t != 4)
  let s := s.each good.zipIdx (fun s x =>
    if x.2 < 16 then (s.setTileState x.1 1).wf (F.TIL_MAP_LOGICAL.on (Pg.til x.1)) (16 * d + x.2) else s.setTileState x.1 2)
  if 16 ≤ good.length then s else s.each (all.filter (fun t => s.tileState t == 4)) (fun s t => s.raise (Pg.til t) 3)

/-! ## The firmware download (R522) -/

/-- Reading and verifying an image begins. [log 28, DEDUCED] -/
def Chip.downloadStart (s : Chip) : Chip := (s.wf F.GLB_FW_STAT_STATE 2).wf F.SEC_STAT_STATE 1

/-- Have stages 4 to 6 finished? [log 28, DEDUCED] -/
def Chip.downloadReady (s : Chip) : Bool := [4, 5, 6].all s.pwr.done.contains

/-- GLB_FW_CTRL.GO. [log 28, DEDUCED] -/
def Chip.firmwareGo (s : Chip) : Chip :=
  let st := s.rf F.GLB_FW_STAT_STATE
  if st = 1 || st = 2 || s.rf F.SEC_STAT_STATE = 2 then s
  else if 2 ^ 26 < s.rd Reg.GLB_FW_LEN then ((s.wf F.GLB_FW_STAT_STATE 3).wf F.GLB_FW_STAT_RESULT 15).raise Pg.GLB 5
  else if s.downloadReady then s.downloadStart
  else s.wf F.GLB_FW_STAT_STATE 1

/-- The first check of R458 that an image fails; 0 where it passes them all. -/
def firmwareResult (f : Fuses) (rev : Nat) (b : Bytes) : Nat :=
  let flags := le b 6 2
  let owner := bit flags 0
  let signed := slice b 0 256
  let body := 30048 + (if owner then 29792 else 0)
  if slice b 0 4 ≠ [0x49, 0x53, 0x46, 0x57] || le b 4 2 ≠ 1 || flags / 2 ≠ 0 || le b 11 1 ≠ 0 || !allZero (slice b 224 32) then 1
  else if le b 8 2 ≠ 0x0808 || rev < le b 10 1 then 2
  else if digest (slice b 96 64) ≠ Config.vendorDigest then 3
  else if !Config.slhVerify true (slice b 96 64) signed (slice b 256 29792) then 4
  else if (match f.ownerKey with
      | some d => !owner || digest (slice b 160 64) != d || !Config.slhVerify true (slice b 160 64) signed (slice b 30048 29792)
      | none => false) then 5
  else if le b 12 4 < f.minSvn then 6
  else if body + le b 24 8 ≠ b.length || digest (b.drop body) ≠ slice b 32 64 then 7
  else 0

/-- The identity certificate that the device keeps, or zero (R461). -/
def Chip.takeCert (s : Chip) (vrk cert : Bytes) : Chip :=
  let c := padTo 29792 cert
  if Config.slhVerify true vrk (toLE 8 ownSerial ++ dikPub) c then (s.setSec (fun x => { x with cert := c })).wf F.SEC_STAT_CERT 1
  else (s.setSec (fun x => { x with cert := zeros 29792 })).wf F.SEC_STAT_CERT 0

/-- The check of an image ends, with what the device read: the image, and the certificate at SEC_CERT_ADDR. -/
def Chip.firmwareChecked (s : Chip) (f : Fuses) (image cert : Bytes) : Chip :=
  if s.rf F.GLB_FW_STAT_STATE ≠ 2 then s
  else
    let b := padTo (s.rd Reg.GLB_FW_LEN) image
    let r := firmwareResult f (s.rd Reg.GLB_REV % 256) b
    let s := ((s.wf F.GLB_FW_STAT_STATE 3).wf F.GLB_FW_STAT_RESULT r).wr Reg.SEC_FW_STAT r
    if r ≠ 0 then ((s.wf F.SEC_STAT_STATE 3).raise Pg.SEC 0).raise Pg.GLB 5
    else
      let s := ((s.wf F.SEC_STAT_STATE 2).wr Reg.SEC_SVN (le b 12 4)).setSec (fun x => { x with running := slice b 0 256 })
      (s.takeCert (slice b 96 64) cert).noteStage 7

/-- Firmware starts: BOOT_SIG is signed (R460), the device region is formed of zeros (R282), and memory serves the host (R521). -/
def Chip.firmwareStart (s : Chip) : Chip :=
  let s := s.setSec (fun x => { x with bootSig := padTo 29792 (Config.slhSign true dik.2 s.credBody) })
  { s with pwr := { s.pwr with active := true } }

/-- A start-up stage finishes: `failed` are the tiles that fail their self-test, `pins` the pins replaced on each stack. Stage 7 ends with the
acceptance of an image. [log 27, DEDUCED] -/
def Chip.stageDoneAt (s : Chip) (n : Nat) (failed : List (Nat × Nat)) (pins : List Nat) : Chip :=
  if n = 7 || !s.stageOpen n then s
  else
    let s : Chip := match n with
      | 3 => s.each (below 24 (fun st => s.rf (F.MEM_STAT_STATE.on (Pg.mem st)) == 0)) (fun s st => s.wf (F.MEM_STAT_STATE.on (Pg.mem st)) 1)
      | 5 => Chip.bootTesting <| s.each (below 24 (fun st => s.rf (F.MEM_STAT_STATE.on (Pg.mem st)) != 3)) (fun s st =>
          (s.wf (F.MEM_STAT_STATE.on (Pg.mem st)) 2).wf (F.MEM_STAT_PINS_REPAIRED.on (Pg.mem st))
            (if s.rf F.GLB_STAGE_WARM = 1 then s.rf (F.MEM_STAT_PINS_REPAIRED.on (Pg.mem st)) else min 32 (pins.getD st 0)))
      | 6 => s.each (List.range 4) (fun s d => s.bootDie d failed)
      | 8 => s.firmwareStart
      | _ => s
    let s := s.noteStage n
    if s.rf F.GLB_FW_STAT_STATE = 1 && s.downloadReady then s.downloadStart else s

end Sys2Proof.Machine
end

