-- ==== Sys2Proof/Machine/Faults.lean ====
section
/-! DEFINITION. Meanings of the commands of fault handling (16): the watchdog (R499), presence and loss of peers (R493–R495), repair and return
to service (R504–R506, R514), and the links of a device with a fatal error (R510). -/

namespace Sys2Proof.Machine

open Sys2Proof

/-! ## The watchdog (R499) -/

/-- Offset W + 100: tiles that have not reported are probed; a program that names such a tile's logical tile does not run, and its step is
voided. Every other ACTIVE tile has reported. [log 55, DEDUCED] -/
def Chip.watchdogProbe (s : Chip) (silent : List Nat) : Chip :=
  let s := s.toOffset (s.plan.w + 100)
  s.each (below 68 (fun t => s.tileState t == 1)) (fun s t =>
    if silent.contains t then
      let s := s.setTile t (fun x => { x with reported := false, probed := true })
      if (s.tile t).prog = 0 then s else s.stopTile t
    else if s.tiles.find t = none then s
    else s.setTile t (fun x => { x with reported := true, probed := false }))

/-- A probed tile has not answered within 5 ms: judged failed. [log 55, DEDUCED] -/
def Chip.watchdogExpiry (s : Chip) (t : Nat) : Chip :=
  if s.tileState t = 1 && (s.tile t).probed && !(s.tile t).reported then s.tileFailed t 9 else s

/-- WATCHDOG_PROBE: the tiles that are silent. -/
def execWatchdogProbe (silent : List Nat) (s : State) : Host.Outcome State Fault Refusal := s.run (fun c => c.watchdogProbe silent)

/-- WATCHDOG_EXPIRY. -/
def execWatchdogExpiry (tile : Nat) (s : State) : Host.Outcome State Fault Refusal := s.runOn (tile < 68) (fun c => c.watchdogExpiry tile)

/-! ## Peers (R493–R495) -/

/-- Is a peer watched and not declared lost? -/
def Chip.peerKept (s : Chip) (dev : Nat) : Bool := s.watched.contains dev && !s.flt.gone.contains dev

/-- A Presence goes to a watched peer. -/
def Chip.presenceSend (s : Chip) (dev : Nat) : Chip :=
  if s.peerKept dev then s.send 8 dev 0 0 (presenceMsg 0x20 0 s.selfDev s.step ownSerial) else s

/-- A Presence counts the peer present. -/
def Chip.presenceIn (s : Chip) (src : MsgSrc) (b : Bytes) : Chip :=
  if b.length = 32 && s.peerKept src.dev then s.setFlt (fun f => { f with seen := f.seen.put src.dev s.alm.now }) else s

/-- A Departure declares a watched peer lost. -/
def Chip.departureIn (s : Chip) (src : MsgSrc) (b : Bytes) : Chip := if b.length = 32 && s.peerKept src.dev then s.declareLost src.dev else s

/-- PRESENCE_SEND (R493). -/
def execPresenceSend (dev : Nat) (s : State) : Host.Outcome State Fault Refusal := s.run (fun c => c.presenceSend dev)

/-- PRESENCE (R493, R494). -/
def execPresence (src : MsgSrc) (bytes : Bytes) (s : State) : Host.Outcome State Fault Refusal :=
  s.run (fun c => (c.take 8 src bytes).presenceIn src bytes)

/-- DEPARTURE (R495). -/
def execDeparture (src : MsgSrc) (bytes : Bytes) (s : State) : Host.Outcome State Fault Refusal :=
  s.run (fun c => (c.take 8 src bytes).departureIn src bytes)

/-- PEER_TIMEOUT (R495). [log 4, DESIGN CHOICE] -/
def execPeerTimeout (dev : Nat) (s : State) : Host.Outcome State Fault Refusal :=
  s.run (fun c => if c.peerKept dev then c.declareLost dev else c)

/-! ## Repair (R504, R514) -/

/-- RESULT and STAGE of FLT_REPAIR_STAT. [log 56, DEDUCED] -/
def Chip.repairStat (s : Chip) (result stage : Nat) : Chip := (s.wf F.FLT_REPAIR_STAT_RESULT result).wf F.FLT_REPAIR_STAT_STAGE stage

/-- A repair begins. [log 56, DEDUCED] -/
def Chip.repairStart (s : Chip) (c : Chan) : Chip := (s.repairStat 15 2).setFlt (fun f => { f with repair := some c })

/-- A repair has ended. [log 56, DEDUCED] -/
def Chip.repairEnd (s : Chip) (result : Nat) : Chip := (s.repairStat result 0).setFlt (fun f => { f with repair := none })

/-- A write of FLT_REPAIR_CTRL: ignored while a repair is busy; a partition that the writer may not name gives result 4. [log 56, DEDUCED] -/
def Chip.repairCtrl (s : Chip) (a : Access) (val : Nat) (parts : List Nat) (run : Chip → Chip) : Chip :=
  s.command a Pg.FLT (Reg.FLT_REPAIR_CTRL % 0x1000) val false parts
    (fun s => if s.rf F.FLT_REPAIR_STAT_RESULT = 15 then s else s.wf F.FLT_REPAIR_STAT_RESULT 4)
    (fun s => if s.rf F.FLT_REPAIR_STAT_RESULT = 15 then s else run s)

/-- Repair of a retired half-bank: its failing rows are replaced where the bank has spare rows enough, and its self-test begins. [log 56, DEDUCED] -/
def Chip.repairHalfBank (s : Chip) (st hb : Nat) (spares : Bool) : Chip :=
  if 24 ≤ st || 4096 ≤ hb || !s.hbRetired st hb then s.repairStat 1 0
  else if !spares then (s.repairStat 2 0).raise Pg.FLT 4
  else (s.startReturn (.halfBank st hb) .selfTest).repairStart (.halfBank st hb)

/-- Retest of a RETIRED tile whose last self-test failed. It takes no logical tile: a RETIRED tile is not used again until cold reset
(R168, R497). [log 55, DEDUCED] -/
def Chip.retestTile (s : Chip) (t : Nat) : Chip :=
  if 68 ≤ t || s.tileState t ≠ 4 || s.rf (F.TIL_SELFTEST_DONE.on (Pg.til t)) = 0 || s.rf (F.TIL_SELFTEST_PASS.on (Pg.til t)) = 1 then s.repairStat 1 0
  else (s.testTile t 127).repairStart (.tile t)

/-- REPAIR_HALF_BANK: `spares` says whether the bank has spare rows enough. -/
def execRepairHalfBank (acc : Access) (stack number : Nat) (spares : Bool) (s : State) : Host.Outcome State Fault Refusal :=
  s.run (fun c => c.repairCtrl acc (1 + stack % 32 * 4 + number % 4096 * 128) (if stack < 24 then (c.cgOwner stack (groupOf number)).toList else []) (fun c => c.repairHalfBank stack number spares))

/-- RETEST_TILE. -/
def execRetestTile (acc : Access) (tile : Nat) (s : State) : Host.Outcome State Fault Refusal :=
  s.run (fun c => c.repairCtrl acc (2 + tile % 128 * 128) [] (fun c => c.retestTile tile))

/-! ## Return to service (R505, R506) -/

/-- A returning unit's channel. -/
def returnChan : RetUnit → Chan
  | .tile t => .tile t
  | .halfBank st hb => .halfBank st hb

/-- A stage of a tile's return is cut short: the next attempt, or retirement where its channel is now permanent. -/
def Chip.tileRestart (s : Chip) (t : Nat) : Chip :=
  match s.attemptFailed (.tile t) with
  | (s, true) => s.retireTile t (s.tile t).takes
  | (s, false) => s.setTileState t 3

/-- A tile's self-test ends. One that passes goes on to its load; with no logical tile to take it is the die's SPARE, and after a retest it is
RETIRED as before. [log 55, DEDUCED] -/
def Chip.tileTested (s : Chip) (t : Nat) (r : TestResult) : Chip :=
  let retest := s.flt.repair == some (.tile t)
  match r with
  | .pass =>
    let s := s.noteTest t 0 true
    if retest then
      ((s.setTileState t 4).setFlt (fun f => { f with returns := f.returns.filter (fun x => x.chan != .tile t) })).repairEnd 0
    else if 64 ≤ (s.tile t).takes then
      (s.setTileState t 2).setFlt (fun f => { f with returns := f.returns.filter (fun x => x.chan != .tile t) })
    else s.setStage (.tile t) .load
  | .fail unit =>
    let s := (s.noteTest t unit false).tileSelfTestFailed t
    if retest then s.repairEnd 3 else s
  | .fault => s.tileRestart t

/-- A half-bank's self-test ends. One that passes has written every word of the half-bank, so that none is damaged; one that fails leaves it
retired. [log 56, DEDUCED] -/
def Chip.halfBankTested (s : Chip) (st hb : Nat) (r : TestResult) : Chip :=
  let c := Chan.halfBank st hb
  match r with
  | .pass =>
    let own := fun (w : Nat) => inT2 w && stackOf w == st && halfBankOf w == hb
    let s := s.setMemu (fun m => { m with damaged := m.damaged.filter (fun w => !own w), units := m.units.filter (fun x => !own x.1) })
    (s.setStage c .awaiting).wf F.FLT_REPAIR_STAT_STAGE 4
  | .fail _ => ((s.setFlt (fun f => { f with returns := f.returns.filter (fun x => x.chan != c) })).repairEnd 3).raise Pg.FLT 4
  | .fault => (s.attemptFailed c).1

/-- A returning unit's self-test ends; repeated under the same attempt it has no further effect. -/
def Chip.selftested (s : Chip) (u : RetUnit) (r : TestResult) : Chip :=
  if s.returning (returnChan u) ≠ some .selfTest then s
  else match u with
    | .tile t => s.tileTested t r
    | .halfBank st hb => s.halfBankTested st hb r

/-- Loading of a returning tile ends. -/
def Chip.unitLoaded (s : Chip) (t : Nat) (ok : Bool) : Chip :=
  if s.returning (.tile t) ≠ some .load then s
  else if ok then (s.setTileState t 5).setStage (.tile t) .awaiting
  else s.tileRestart t

/-- SELFTEST_DONE (R505, R506). -/
def execSelftestDone (unit : RetUnit) (result : TestResult) (s : State) : Host.Outcome State Fault Refusal := 
  s.runOn (match unit with
    | .tile t => t < 68
    | .halfBank st n => st < 24 && n < 4096) (fun c => c.selftested unit result)

/-- UNIT_LOAD_DONE (R505, R506): `ok` is false where a fault cuts the load short. -/
def execUnitLoadDone (tile : Nat) (ok : Bool) (s : State) : Host.Outcome State Fault Refusal := s.runOn (tile < 68) (fun c => c.unitLoaded tile ok)

/-! ## Fatal device errors (R510) -/

/-- Every link goes to OFF. -/
def Chip.linksOff (s : Chip) : Chip :=
  if s.rf F.FLT_STAT_FATAL = 0 then s
  else s.each (below 48 (fun l => s.lnkState l != Ls.off && s.lnkState l != Ls.retired)) (fun s l => (s.leave l Ls.off false).emit (.linkOff l))

/-- FATAL_LINKS_OFF: 100 µs after the Departures. -/
def execFatalLinksOff (s : State) : Host.Outcome State Fault Refusal := s.run Chip.linksOff

end Sys2Proof.Machine
end

