-- ==== Sys2Proof/Machine/Host.lean ====
section
/-! DEFINITION. Meanings of the host's commands (14). -/

namespace Sys2Proof.Machine

open Sys2Proof

/-! ## Memory -/

/-- HOST_MEM_READ (R429, R430): `obtains` says whether the host takes the line into its caches, and whether it may modify it there. -/
def execHostMemRead (hpa : Nat) (obtains : Option Bool) (ecc : List WordErr) (s : State) : Host.Outcome State Fault Refusal :=
  s.run (fun c => c.hostRead hpa obtains ecc)

/-- HOST_MEM_WRITE (R429): `mask` names the bytes written. -/
def execHostMemWrite (hpa : Nat) (data : Bytes) (mask : Nat) (s : State) : Host.Outcome State Fault Refusal :=
  s.run (fun c => c.hostStore hpa data mask)

/-- BISNP_RESPONSE (R431): with the line's contents where the host had modified them. -/
def execBisnpResponse (line : Nat) (data : Option Bytes) (s : State) : Host.Outcome State Fault Refusal := s.run (fun c => c.bisnpResponse line data)

/-- H2D_SNOOP (R426): the device holds no host line. -/
def execH2dSnoop (addr : Nat) (s : State) : Host.Outcome State Fault Refusal := s.run (fun c => if c.d3hot then c else c.emit (.rspI addr))

/-- HDM_DECODER_COMMIT (R428). -/
def execHdmDecoderCommit (decoder base size dpa : Nat) (s : State) : Host.Outcome State Fault Refusal :=
  s.run (fun c => c.hdmCommit decoder ⟨base, size, dpa⟩)

/-! ## Descriptors -/

/-- SUBMIT_READ (R437): the descriptor as host memory holds it. -/
def execSubmitRead (queue : Nat) (desc : Bytes) (s : State) : Host.Outcome State Fault Refusal := s.run (fun c => c.submitRead queue desc)

/-- CANCEL_READ (R439). -/
def execCancelRead (queue : Nat) (desc : Bytes) (s : State) : Host.Outcome State Fault Refusal := s.run (fun c => c.cancelRead queue desc)

/-- PROMPT_COPIED (R437): the submission's number in the order of reading, and its prompt. -/
def execPromptCopied (num : Nat) (tokens : List Nat) (s : State) : Host.Outcome State Fault Refusal := s.run (fun c => c.promptCopied num tokens)

/-! ## Queue pairs, rings, profiles -/

/-- CREATE_QUEUE_PAIR (R434). -/
def execCreateQueuePair (acc : Access) (image : Bytes) (s : State) : Host.Outcome State Fault Refusal :=
  s.run (fun c => c.cfgCtrl acc 1 0 [le image 1 1] (fun c => match c.cfgImage image with
    | some b => c.createQp b
    | none => c.cfgResult 1))

/-- DELETE_QUEUE_PAIR (R434). -/
def execDeleteQueuePair (acc : Access) (queue : Nat) (s : State) : Host.Outcome State Fault Refusal :=
  s.run (fun c => c.cfgCtrl acc 2 queue ((c.cxl.qps.find queue).toList.map (·.partition)) (fun c => c.deleteQp queue))

/-- CREATE_EMIT_RING (R434). -/
def execCreateEmitRing (acc : Access) (image : Bytes) (s : State) : Host.Outcome State Fault Refusal :=
  s.run (fun c => c.cfgCtrl acc 3 0 [le image 1 1] (fun c => match c.cfgImage image with
    | some b => c.createRing b
    | none => c.cfgResult 1))

/-- DELETE_EMIT_RING (R434). -/
def execDeleteEmitRing (acc : Access) (ring : Nat) (s : State) : Host.Outcome State Fault Refusal :=
  s.run (fun c => c.cfgCtrl acc 4 ring ((c.ring ring).toList.map (·.partition)) (fun c => c.deleteRing ring))

/-- SET_PROFILE (R434). -/
def execSetProfile (acc : Access) (image : Bytes) (s : State) : Host.Outcome State Fault Refusal :=
  s.run (fun c => c.cfgCtrl acc 5 0 [] (fun c => match c.cfgImage image with
    | some b => c.setProfile b
    | none => c.cfgResult 1))

/-! ## Doorbells and vectors -/

/-- SQ_TAIL_DOORBELL (R441). -/
def execSqTailDoorbell (acc : Access) (queue tail : Nat) (s : State) : Host.Outcome State Fault Refusal :=
  s.run (fun c => c.doorbell acc (Reg.CXL_SQ_TAIL % 0x1000 + 8 * queue) tail (fun c => c.sqTail queue tail))

/-- CQ_HEAD_DOORBELL (R441). -/
def execCqHeadDoorbell (acc : Access) (queue head : Nat) (s : State) : Host.Outcome State Fault Refusal :=
  s.run (fun c => c.doorbell acc (Reg.CXL_CQ_HEAD % 0x1000 + 8 * queue) head (fun c => c.cqHead queue head))

/-- EMIT_HEAD_DOORBELL (R441). -/
def execEmitHeadDoorbell (acc : Access) (ring head : Nat) (s : State) : Host.Outcome State Fault Refusal :=
  s.run (fun c => c.doorbell acc (Reg.CXL_EMIT_HEAD % 0x1000 + 4 * ring) head (fun c => c.emitHead ring head))

/-- COALESCE_TIMEOUT (R446), of a CQ or of an emit ring. -/
def execCoalesceTimeout (emit : Bool) (number : Nat) (s : State) : Host.Outcome State Fault Refusal := s.run (fun c => c.coalesceExpired emit number)

/-- VECTOR_UNMASK (R446): of a vector, or of the function. -/
def execVectorUnmask (vector : Option Nat) (s : State) : Host.Outcome State Fault Refusal := s.run (fun c => c.unmask vector)

/-- EMIT_STALL (R445): a record has waited while the ring's head has not moved for CXL_EMIT_STALL ms. -/
def execEmitStall (ring : Nat) (s : State) : Host.Outcome State Fault Refusal :=
  s.run (fun c => if c.rd Reg.CXL_EMIT_STALL ≠ 0 && c.backlogOf ring ≠ 0 then c.abandonRing ring else c)

/-! ## The link to the host -/

/-- CXL_LINK_UP (R447): `width` is 1 for eight lanes and 2 for sixteen. -/
def execCxlLinkUp (width : Nat) (s : State) : Host.Outcome State Fault Refusal := s.run (fun c => c.cxlUp width)

/-- CXL_LINK_DOWN (R447). -/
def execCxlLinkDown (s : State) : Host.Outcome State Fault Refusal := s.run Chip.cxlDown

/-- HOST_LINK_LOST (R447): the link has stayed down for 100 ms. -/
def execHostLinkLost (s : State) : Host.Outcome State Fault Refusal := s.run (fun c => if c.cxl.downTimer then c.hostLost else c)

/-- SURPRISE_REMOVAL (R447): of the module, or a secondary bus reset. -/
def execSurpriseRemoval (s : State) : Host.Outcome State Fault Refusal := s.run (fun c => c.cxlDown.hostLost)

/-- VIRAL_IN (R447). -/
def execViralIn (s : State) : Host.Outcome State Fault Refusal := s.run (fun c => (c.wf F.CXL_STAT_VIRAL_IN 1).hostLost)

end Sys2Proof.Machine
end

