-- ==== Sys2Proof/Machine/Power.lean ====
section
/-! DEFINITION. Meanings of the commands of start-up, resets and power (17, 19): R518–R529, R563, R570, R571. -/

namespace Sys2Proof.Machine

open Sys2Proof

/-! ## Resets and start-up -/

/-- VIN_RISE (R518, R567): a cold reset, and start-up begins. -/
def execVinRise (s : State) : Host.Outcome State Fault Refusal :=
  let t := s.cold
  .next { t with chip := t.chip.emit (.rails true) }

/-- MOD_RST_N (R570): held low for so many nanoseconds; less than 5 µs is debounced. [log 29, DEDUCED] -/
def execModRstN (lowNs : Nat) (s : State) : Host.Outcome State Fault Refusal := .next (if 5000 ≤ lowNs then s.cold else s)

/-- PERST_ASSERT (R518, R519). -/
def execPerstAssert (s : State) : Host.Outcome State Fault Refusal := .next (if s.chip.pwr.off then s else s.perstLow)

/-- PERST_DEASSERT (R521): configuration requests are answered 100 ms later. -/
def execPerstDeassert (s : State) : Host.Outcome State Fault Refusal :=
  s.onMgmt (fun c => { c with pwr := { c.pwr with perst := false, config := true } })

/-- STARTUP_STAGE_DONE (R520): the tiles that fail their self-test, each with its first failing unit, and the pins replaced on each stack. -/
def execStartupStageDone (stage : Nat) (failed : List (Nat × Nat)) (pins : List Nat) (s : State) : Host.Outcome State Fault Refusal :=
  s.onMgmt (fun c => c.stageDoneAt stage failed pins)

/-- REFCLK_LOSS (R571, R578). [log 29, DEDUCED] -/
def execRefclkLoss (s : State) : Host.Outcome State Fault Refusal := s.run (fun c => if c.pwr.perst then c else c.cxlDown)

/-! ## Excursions -/

/-- Does an excursion shut the module down (R529)? [log 29, DEDUCED] -/
def shutsDown : Excursion → Bool
  | .inputMv mv us => (decide (mv < 48500) || decide (60500 < mv)) && decide (50 ≤ us)
  | .inputW w us => decide (3300 < w) && decide (1000 ≤ us)
  | .mean100W w => decide (3000 < w)
  | .tile _ c us => decide (110 ≤ c) && decide (1000 ≤ us)
  | .stack _ c us => decide (100 ≤ c) && decide (1000 ≤ us)

/-- SHUTDOWN (R529). [log 29, DEDUCED] -/
def execShutdown (what : Excursion) (s : State) : Host.Outcome State Fault Refusal :=
  s.onMgmt (fun c => if shutsDown what then (c.fatal 5).settle else c)

/-- The module without its rails: all state but the fuses is lost (R517, R529). [log 29, DEDUCED] -/
def Chip.railsOff (s : Chip) : Chip :=
  if s.rf F.FLT_STAT_FATAL = 1 && s.rf F.FLT_STAT_CAUSE = 5 then
    let b := s.blank
    ({ b with pwr := { b.pwr with off := true } } : Chip).emit (.rails false)
  else s

/-- RAILS_OFF (R529): 20 ms after the Departures of a shutdown. -/
def execRailsOff (s : State) : Host.Outcome State Fault Refusal := s.onMgmt Chip.railsOff

/-- A tile junction trips its die (R527). [log 62, DEDUCED] -/
def Chip.junctionTrip (s : Chip) (d : Nat) : Chip :=
  ((((s.wf (dieFld d F.PWR_DIE_TRIPPED) 1).setDieLevel d 15)).cnt Reg.PWR_JUNCTION_TRIPS).raise Pg.PWR 0

/-- JUNCTION_TRIP (R527): a tile junction of a die at a temperature. -/
def execJunctionTrip (die celsius : Nat) (s : State) : Host.Outcome State Fault Refusal :=
  s.onMgmt (fun c => if die < 4 && 105 ≤ celsius then c.junctionTrip die else c)

/-- INPUT_VOLTAGE_EXCURSION (R563). -/
def execInputVoltageExcursion (mv us : Nat) (s : State) : Host.Outcome State Fault Refusal :=
  s.onMgmt (fun c => if (mv < 50000 || 59500 < mv) && 1000 ≤ us then c.raise Pg.PWR 3 else c)

/-- INPUT_POWER_EXCURSION (R561, R563). -/
def execInputPowerExcursion (watts us : Nat) (s : State) : Host.Outcome State Fault Refusal :=
  s.onMgmt (fun c => if 2800 < watts && 10 ≤ us then (c.cnt Reg.PWR_OVER_TDP).raise Pg.PWR 4 else c)

/-! ## Power states (R524) -/

/-- The host interface goes to D3hot: only configuration space is served. [log 29, DEDUCED] -/
def Chip.toD3hot (s : Chip) : Chip := if s.pwr.config && s.pwr.done.contains 3 then s.wf F.PWR_STATE_POWER 2 else s

/-- The host interface is back in D0: records that waited are written, and vectors that were kept are sent. [log 29, DEDUCED] -/
def Chip.toD0 (s : Chip) : Chip := if s.d3hot then (s.wf F.PWR_STATE_POWER 0).cqFlush.drain.sendPending else s

/-- D3HOT_REQUEST. -/
def execD3hotRequest (s : State) : Host.Outcome State Fault Refusal := s.run Chip.toD3hot

/-- D0_RETURN. -/
def execD0Return (s : State) : Host.Outcome State Fault Refusal := s.run Chip.toD0

end Sys2Proof.Machine
end

