-- ==== Sys2Proof/Machine/Prefix.lean ====
section
/-! DEFINITION. Meanings of the prefix-index commands (04): lookups at the shard and at the home (R118–R121), and pins (R128). -/

namespace Sys2Proof.Machine

open Sys2Proof

/-- A malformed prefix message is discarded (R118). -/
def Chip.badPrefix (s : Chip) : Chip := s.raise Pg.PFX 3

/-- Is a partition a shard: its switch, the cache role, and lookup service enabled (R116, R132)? With the service disabled the partition answers
as one that is not a shard. [log 48, DEDUCED] -/
def Chip.isShard (s : Chip) (p : Nat) : Bool :=
  s.pfxOn && s.pfxPart p F.PFX_PART_CFG_SHARD == 1 && s.role p == .cache

/-- Take a lease on matched entries (R119): LEASE_STEP is the lookup's step plus 2. -/
def Chip.takeLease (s : Chip) (src : MsgSrc) (rid shard : Nat) (got : List Nat) : Chip × Nat :=
  let id := s.pfx.nextLease
  let s := s.each got Chip.useEntry
  let l : Lease := { id := id, rid := rid, device := src.dev, part := src.part, shardPart := shard, step := src.step + 2, entries := got }
  (s.setPfx (fun x => { x with leases := x.leases ++ [l], nextLease := max 1 ((id + 1) % 2 ^ 32) }), id)

/-- A Lookup at the shard (R118, R119, R129). R118 discards a COUNT above 1,024 only: one of 0 is answered with MATCHED 0. [log 48, DEDUCED] -/
def Chip.lookupIn (s : Chip) (src : MsgSrc) (b : Bytes) : Chip :=
  let n := le b 2 2
  if le b 0 1 ≠ 1 || 1024 < n || b.length < 32 + 32 * n then s.badPrefix
  else
    let part := le b 16 1
    let answer := fun (s : Chip) (st m lease spans pps : Nat) =>
      s.send 3 src.dev src.part part (lookupReply st m (le b 4 4) (le b 8 8) (src.step + 2) lease spans pps)
    if !s.isShard part then answer s 1 0 0 0 0
    else if !s.hasTable then answer s 2 0 0 0 0
    else
      let hs := (List.range n).map (fun k => slice b (32 + 32 * k) 32)
      let (s, got) := Chip.matchRun part (le b 1 1) hs s []
      match got with
      | [] => answer s 0 0 0 0 0
      | i :: _ =>
        let sp := ((s.pfx.table.find i).map (fun e => (e.spans, e.pps))).getD (0, 0)
        let (s, id) := s.takeLease src (le b 8 8) part got
        answer s 0 got.length id sp.1 sp.2

/-- The Pull that asks for a delivery (R121, R140). It comes before the transfer, so it belongs to none (R138). -/
def Chip.sendPull (s : Chip) (r : Rte) (lease matched : Nat) : Chip :=
  let h : SHdr :=
    { type := 9, kind := 0, srcPart := r.partition, dstPart := r.shard.2, srcDev := s.selfDev, dstDev := r.shard.1, rid := r.rid,
      epoch := s.epochOf (ridComp r.rid), step := s.step }
  s.send 1 r.shard.1 r.shard.2 r.partition (h.toBytes ++ pullBody lease (r.localMatch + 1) matched)

/-- The reply to the lookup a request waits for (R120, R121). -/
def Chip.lookupAnswered (s : Chip) (i : Nat) (r : Rte) (status matched lease : Nat) : Chip :=
  if status ≠ 0 then s.lookupFail i
  else
    let r := { r with lookup := 2, matched := matched, lease := lease }
    let s := (s.putRte i r).cntBy Reg.PFX_BLOCKS_MATCHED matched
    let s := s.cntBy Reg.PFX_BLOCKS_MISSED (r.promptBlocks - r.localMatch - matched)
    if matched = 0 then s else s.sendPull r lease matched

/-- A reply at the home; one that comes too late, or for a request that is not waiting, is answered with a Release (R120, R130). -/
def Chip.lookupReplyIn (s : Chip) (src : MsgSrc) (b : Bytes) : Chip :=
  if le b 0 1 ≠ 2 || b.length < 48 then s.badPrefix
  else
    let rid := le b 8 8
    let late := fun (s : Chip) => s.releaseLease (src.dev, src.part) src.dstPart (le b 24 4) rid
    match s.findKnown rid with
    | some (i, r) =>
      if r.lookup = 1 && r.shard.1 = src.dev && r.state.live then s.lookupAnswered i r (le b 1 1) (le b 2 2) (le b 24 4) else late s
    | none => late s

/-- A Release at the shard (R119). -/
def Chip.releaseIn (s : Chip) (b : Bytes) : Chip :=
  if le b 0 1 ≠ 3 || b.length < 16 then s.badPrefix else s.endLease (le b 4 4)

/-! ## Pins (R128) -/

/-- The hash in PFX_PIN_HASH. -/
def Chip.pinHash (s : Chip) : Bytes := (List.range 8).flatMap (fun i => toLE 4 (s.rd (Reg.PFX_PIN_HASH + 4 * i)))

/-- Pin or unpin the ready entries with the hash in PFX_PIN_HASH; RESULT says what came of it. -/
def Chip.pinEntries (s : Chip) (part : Nat) (on : Bool) : Chip :=
  let h := s.pinHash
  let hit := fun (e : PEntry) => e.hash == h && e.state == 2 && e.partition == part
  if s.pfx.table.vals.any hit then
    (s.setPfx (fun x => { x with table := x.table.map (fun (k, e) => (k, if hit e then { e with pinned := on } else e)) })).wf
      F.PFX_PIN_STAT_RESULT 0
  else s.wf F.PFX_PIN_STAT_RESULT 1

/-- A write of PFX_PIN_CTRL. -/
def Chip.pinCommand (s : Chip) (a : Access) (part : Nat) (on : Bool) : Chip :=
  s.command a Pg.PFX (Reg.PFX_PIN_CTRL % 0x1000) ((if on then 1 else 2) + part % 8 * 2 ^ 4) false [part % 8]
    (fun s => s.wf F.PFX_PIN_STAT_RESULT 2) (fun s => s.pinEntries (part % 8) on)

/-! ## Meanings -/

/-- LOOKUP (R119). -/
def execLookup (src : MsgSrc) (bytes : Bytes) (s : State) : Host.Outcome State Fault Refusal :=
  s.run (fun c => (c.take 3 src bytes).lookupIn src bytes)

/-- LOOKUP_REPLY (R121). -/
def execLookupReply (src : MsgSrc) (bytes : Bytes) (s : State) : Host.Outcome State Fault Refusal :=
  s.run (fun c => (c.take 3 src bytes).lookupReplyIn src bytes)

/-- LOOKUP_RELEASE (R119). -/
def execLookupRelease (src : MsgSrc) (bytes : Bytes) (s : State) : Host.Outcome State Fault Refusal :=
  s.run (fun c => (c.take 3 src bytes).releaseIn bytes)

/-- PFX_PIN (R128). -/
def execPfxPin (acc : Access) (part : Nat) (s : State) : Host.Outcome State Fault Refusal := s.run (fun c => c.pinCommand acc part true)

/-- PFX_UNPIN (R128). -/
def execPfxUnpin (acc : Access) (part : Nat) (s : State) : Host.Outcome State Fault Refusal := s.run (fun c => c.pinCommand acc part false)

end Sys2Proof.Machine
end

