-- ==== Sys2Proof/Machine/RequestTable.lean ====
section
/-! DEFINITION. Meanings of the request-state commands (03): journal records at the partner, the home and the origin (R90–R99, R439,
R443), and the two registers of the RTB page that act when written (R72, R106). -/

namespace Sys2Proof.Machine

open Sys2Proof

/-- Does a record fail the checks of R91: another TYPE, or it runs past what arrived? -/
def badRecord (b : Bytes) (type : Nat) : Bool := le b 0 1 != type || decide (b.length < recordSize b)

/-- A journal record that cannot be read is discarded (R91). -/
def Chip.badJournal (s : Chip) : Chip := s.raise Pg.RTB 2

/-! ## At the partner -/

/-- An anchor (R93). -/
def Chip.anchorRecord (s : Chip) (src : MsgSrc) (b : Bytes) : Chip :=
  if badRecord b 1 then s.badJournal
  else
    let rid := le b 8 8
    if !s.isPartner then s.ackJournal src 3 0xFFFFFFFF rid
    else match s.journal rid with
      | some j => s.ackJournal src 0 j.position rid
      | none =>
        match s.reserveJournal b with
        | some t => t.ackJournal src 0 0xFFFFFFFF rid
        | none => s.ackJournal src 1 0xFFFFFFFF rid

/-- A token run (R93). -/
def Chip.tokenRunRecord (s : Chip) (src : MsgSrc) (b : Bytes) : Chip :=
  if badRecord b 2 then s.badJournal
  else
    let rid := le b 8 8
    if !s.isPartner then s.ackJournal src 3 0xFFFFFFFF rid
    else match s.journal rid with
      | none => s.ackJournal src 2 0xFFFFFFFF rid
      | some j =>
        if j.beyond b then s.ackJournal src 1 j.position rid
        else (s.updJournal rid (fun x => x.store b)).ackJournal src 0 (j.store b).position rid

/-- The anchor of a journal with the fields of a Home record (R98). -/
def anchorHomed (a b : Bytes) : Bytes :=
  patch (patch (patch (patch a 88 (slice b 2 2)) 90 (slice b 1 1)) 92 (slice b 4 4)) 71 (slice b 24 1)

/-- The partner takes a Home record: its anchor, and the Intent from the new home (R98, R145). -/
def Chip.homeAtPartner (s : Chip) (b : Bytes) : Chip :=
  let rid := le b 8 8
  let s := s.updJournal rid (fun j => { j with anchor := anchorHomed j.anchor b, homeLost := false })
  let s := s.setSmv (fun m => { m with intents := m.intents.filter (fun i =>
    !(i.hdr.rid == rid && i.newDev == le b 2 2 && i.newPart == le b 1 1)) })
  if s.smv.intents.any (fun i => i.hdr.rid == rid) then s else s.checkHome rid

/-- The origin takes a Home record: its locator entry, and a cancellation that stays pending (R103, R439). -/
def Chip.homeAtOrigin (s : Chip) (src : MsgSrc) (b : Bytes) : Chip :=
  let rid := le b 8 8
  let s := s.updLocator rid (fun l => { l with device := le b 2 2, part := le b 1 1 })
  match s.locator rid with
  | some l => if l.cancel then s.sendCancel l src.dstPart else s
  | none => s

/-- A Home record, at whichever of partner and origin the device is; a device that is neither answers as R93 says. -/
def Chip.homeRecordIn (s : Chip) (src : MsgSrc) (b : Bytes) : Chip :=
  if badRecord b 3 then s.badJournal
  else
    let rid := le b 8 8
    let held := (s.journal rid).isSome
    let s := if held then s.homeAtPartner b else s
    if ridOrigin rid = s.selfDev then s.homeAtOrigin src b
    else if held then s
    else s.ackJournal src (if s.isPartner then 2 else 3) 0xFFFFFFFF rid

/-- An End record: the journal is discarded in the next row 7 (R98). -/
def Chip.endRecordIn (s : Chip) (src : MsgSrc) (b : Bytes) : Chip :=
  if badRecord b 4 then s.badJournal
  else
    let rid := le b 8 8
    if !s.isPartner then s.ackJournal src 3 0xFFFFFFFF rid
    else match s.journal rid with
      | none => s.ackJournal src 2 0xFFFFFFFF rid
      | some j => (s.updJournal rid (fun x => { x with ended := true, endedStep := s.step })).ackJournal src 0 j.position rid

/-! ## At the home -/

/-- A candidate's answer to an anchor still on offer (R90). -/
def Chip.offerAnswered (s : Chip) (o : Offer) (status : Nat) : Chip :=
  if status = 0 then
    { s with rtb := { s.rtb with offers := s.rtb.offers.map (fun x => if x.rid = o.rid then { x with accepted := true } else x) } }
  else s.candidateRefuses o false

/-- A candidate that has counted as refusing accepts after all: it is sent an End record (R90). -/
def Chip.lateAccept (s : Chip) (src : MsgSrc) (rid : Nat) : Chip :=
  let s := { s with rtb := { s.rtb with lateAcks := s.rtb.lateAcks.filter (fun x => x != (rid, src.dev)) } }
  s.send 2 src.dev src.part src.dstPart (endRecord 5 0xFFFFFFFF rid)

/-- An Acknowledgement from the partner of a request (R94–R96): a stored POSITION releases held records and lowers JRN_HELD, any other
status counts the partner as lost. -/
def Chip.partnerAnswered (s : Chip) (i : Nat) (r : Rte) (status pos : Nat) : Chip :=
  if status = 0 then
    let best := if pos = 0xFFFFFFFF then r.jrnAckPos else if r.jrnAckPos = 0xFFFFFFFF then pos else max pos r.jrnAckPos
    (s.putRte i { r with jrnAckPos := best }.rehold).emitReady i
  else s.partnerLost i

/-- An Acknowledgement (R90, R94, R96). -/
def Chip.ackRecordIn (s : Chip) (src : MsgSrc) (b : Bytes) : Chip :=
  if badRecord b 5 then s.badJournal
  else
    let rid := le b 8 8
    let status := le b 1 1
    match s.rtb.offers.find? (fun o => o.rid == rid && o.candidate == src.dev && !o.accepted && !o.carried) with
    | some o => s.offerAnswered o status
    | none =>
      if s.rtb.lateAcks.contains (rid, src.dev) then
        if status = 0 then s.lateAccept src rid
        else { s with rtb := { s.rtb with lateAcks := s.rtb.lateAcks.filter (fun x => x != (rid, src.dev)) } }
      else match s.findRid rid with
        | some (i, r) => if r.jrnPartner = src.dev && r.state ≠ RState.forward then s.partnerAnswered i r status (le b 4 4) else s
        | none => s

/-- 50 µs have passed since a candidate was sent an anchor (R90). -/
def Chip.anchorTimeout (s : Chip) (rid cand : Nat) : Chip :=
  match s.rtb.offers.find? (fun o => o.rid == rid && o.candidate == cand && !o.accepted && !o.carried) with
  | some o => s.candidateRefuses o true
  | none => s

/-- A Cancel record (R87, R99, R101, R102). -/
def Chip.cancelRecordIn (s : Chip) (src : MsgSrc) (b : Bytes) : Chip :=
  if badRecord b 8 then s.badJournal
  else
    let rid := le b 8 8
    match s.findKnown rid with
    | none => s.replyCommand rid 8 src none
    | some (i, r) =>
      if r.state = .forward then s.replyCommand rid 8 src (some r)
      else if r.state.live then (s.putRte i { r with flags := { r.flags with cancelReq := true } }).endNow i 3
      else s

/-! ## At the origin -/

/-- An Emit (R443). -/
def Chip.emitRecordIn (s : Chip) (b : Bytes) : Chip :=
  if badRecord b 6 then s.badJournal
  else s.takeEmit { finish := false, ring := le b 2 2, flags := le b 1 1, token := le b 4 4, hostTag := le b 8 8, rid := le b 16 8,
                    position := le b 24 4, stepLo := le b 28 4 }

/-- A Finish (R443). -/
def Chip.finishRecordIn (s : Chip) (b : Bytes) : Chip :=
  if badRecord b 7 then s.badJournal
  else s.takeFinish { finish := true, ring := le b 2 2, flags := le b 1 1, token := 0, hostTag := le b 8 8, rid := le b 16 8,
                      position := le b 4 4, stepLo := le b 24 4 }

/-! ## Registers that act when written -/

/-- The partition whose range in force holds an index (R28, R77). -/
def Chip.rangeOwner (s : Chip) (i : Nat) : Option Nat :=
  (List.range 8).find? (fun p =>
    let v := s.rd (Reg.RTB_RANGE_CUR + 4 * p)
    decide (bits v 7 0 * 1024 ≤ i) && decide (i < (bits v 7 0 + bits v 16 8) * 1024))

/-- A write of RTB_PEEK_IDX reads the entry, or sets DENIED (R85, R106). The spec does not say what the bytes of a FREE entry are: they read zero.
[log 47, DEDUCED] -/
def Chip.peekIdxWrite (s : Chip) (a : Access) (v : Nat) : Chip :=
  s.write a Pg.RTB (Reg.RTB_PEEK_IDX % 0x1000) v false [] (fun s =>
    let i := bits v 17 0
    let denied := match s.rangeOwner i with
      | some p => !s.mayName a.writer p
      | none => false
    let image := if denied then [] else ((s.rte i).map Rte.toBytes).getD []
    ({ s with rtb := { s.rtb with peek := image } } : Chip).wr Reg.RTB_PEEK_IDX (i + b2n denied * 2 ^ 31))

/-- A write of RTB_SERIAL (R72). -/
def Chip.serialWrite (s : Chip) (a : Access) (v : Nat) : Chip :=
  s.write a Pg.RTB (Reg.RTB_SERIAL % 0x1000) v false [] (fun s => (s.wr Reg.RTB_SERIAL (v % 2 ^ 32)).wf F.RTB_CFG_SERIAL_VALID 1)

/-! ## Meanings -/

/-- ANCHOR_RECORD (R93). -/
def execAnchorRecord (src : MsgSrc) (bytes : Bytes) (s : State) : Host.Outcome State Fault Refusal :=
  s.run (fun c => (c.take 2 src bytes).anchorRecord src bytes)

/-- ANCHOR_TIMEOUT (R90). -/
def execAnchorTimeout (rid cand : Nat) (s : State) : Host.Outcome State Fault Refusal := s.run (fun c => c.anchorTimeout rid cand)

/-- TOKEN_RUN_RECORD (R93). -/
def execTokenRunRecord (src : MsgSrc) (bytes : Bytes) (s : State) : Host.Outcome State Fault Refusal :=
  s.run (fun c => (c.take 2 src bytes).tokenRunRecord src bytes)

/-- HOME_RECORD (R98, R103, R439). -/
def execHomeRecord (src : MsgSrc) (bytes : Bytes) (s : State) : Host.Outcome State Fault Refusal :=
  s.run (fun c => (c.take 2 src bytes).homeRecordIn src bytes)

/-- END_RECORD (R98). -/
def execEndRecord (src : MsgSrc) (bytes : Bytes) (s : State) : Host.Outcome State Fault Refusal :=
  s.run (fun c => (c.take 2 src bytes).endRecordIn src bytes)

/-- ACKNOWLEDGEMENT_RECORD (R94). -/
def execAcknowledgementRecord (src : MsgSrc) (bytes : Bytes) (s : State) : Host.Outcome State Fault Refusal :=
  s.run (fun c => (c.take 2 src bytes).ackRecordIn src bytes)

/-- CANCEL_RECORD (R99). -/
def execCancelRecord (src : MsgSrc) (bytes : Bytes) (s : State) : Host.Outcome State Fault Refusal :=
  s.run (fun c => (c.take 2 src bytes).cancelRecordIn src bytes)

/-- EMIT_RECORD (R443). -/
def execEmitRecord (src : MsgSrc) (bytes : Bytes) (s : State) : Host.Outcome State Fault Refusal :=
  s.run (fun c => (c.take 2 src bytes).emitRecordIn bytes)

/-- FINISH_RECORD (R443). -/
def execFinishRecord (src : MsgSrc) (bytes : Bytes) (s : State) : Host.Outcome State Fault Refusal :=
  s.run (fun c => (c.take 2 src bytes).finishRecordIn bytes)

/-- RTB_PEEK_IDX_WRITE (R106). -/
def execRtbPeekIdxWrite (acc : Access) (value : Nat) (s : State) : Host.Outcome State Fault Refusal :=
  s.run (fun c => c.peekIdxWrite acc value)

/-- RTB_SERIAL_WRITE (R72). -/
def execRtbSerialWrite (acc : Access) (value : Nat) (s : State) : Host.Outcome State Fault Refusal :=
  s.run (fun c => c.serialWrite acc value)

end Sys2Proof.Machine
end

