-- ==== Sys2Proof/Machine/Scheduler.lean ====
section
/-! DEFINITION. The commands of the scheduler (07): programs, the registry, residency, accounting, slices, scheduler messages and the
gang barrier. -/

namespace Sys2Proof.Machine

open Sys2Proof

/-! ## Step programs (R198–R200) -/

/-- A section table entry: type, index, length, offset. -/
def sectionAt (b : Bytes) (i : Nat) : Nat × Nat × Nat × Nat :=
  let o := 256 + 16 * i
  (le b o 1, le b (o + 2) 2, le b (o + 4) 4, le b (o + 8) 8)

/-- The section table of a container. -/
def sectionsOf (b : Bytes) : List (Nat × Nat × Nat × Nat) := (List.range (le b 22 2)).map (sectionAt b)

/-- The container's digest matches: SHAKE256 over the whole with the field zero. -/
def digestMatches (b : Bytes) : Bool := shake256 64 (patch b 128 (zeros 64)) == slice b 128 64

/-- The selection tables of a container, by stack (R254). -/
def selectTables (b : Bytes) : SMap (List Nat) :=
  ((sectionsOf b).filter (fun x => x.1 == 2)).foldl (fun (m : SMap (List Nat)) x =>
    m.put x.2.1 ((List.range (le b x.2.2.2 2)).map (fun i => le b (x.2.2.2 + 64 + 8 * i) 8))) []

/-- The static sequences of a Sedge command list section at an offset of the container (R254). -/
def sequencesAt (b : Bytes) (o : Nat) : List SedgeSeq :=
  (List.range (le b (o + 2) 2)).map (fun i =>
    let e := o + le b (o + 8) 4 + 16 * i
    { start := le b e 4, words := (List.range (le b (e + 8) 4)).map (fun k => slice b (o + le b (o + 12) 4 + 16 * (le b (e + 4) 4 + k)) 16) })

/-- The static sequences of a container, by stack. -/
def sequenceTables (b : Bytes) : SMap (List SedgeSeq) :=
  ((sectionsOf b).filter (fun x => x.1 == 2)).foldl (fun (m : SMap (List SedgeSeq)) x => m.put x.2.1 (sequencesAt b x.2.2.2)) []

/-- The program a container holds. -/
def progOfBytes (b : Bytes) : Prog :=
  { id := le b 8 8, kind := le b 19 1, kvFormat := le b 20 1, u := le b 21 1, dieTiles := (List.range 4).map (fun d => le b (24 + d) 1)
    members := le b 28 2, tag := slice b 32 16, slots := le b 48 4, ctxMax := le b 52 4, chunk := le b 56 4, ride := le b 60 4
    backfill := le b 64 4, compute := le b 68 4, exch := le b 72 4, sedge := le b 76 4
    stackSet := ((sectionsOf b).filter (fun x => x.1 == 2)).map (fun x => x.2.1), select := selectTables b, seqs := sequenceTables b, digest := slice b 128 64 }

/-- The first check of R200 that a container fails; 0 where it passes all. -/
def Chip.loadCheck (s : Chip) (b : Bytes) : Nat :=
  let g := progOfBytes b
  if le b 0 4 ≠ 0x5053474C || le b 5 1 ≠ 1 || le b 6 2 ≠ 256 then 1
  else if !digestMatches b then 2
  else if le b 16 2 ≠ 0x0808 || s.rd Reg.GLB_REV % 256 < le b 18 1 then 3
  else if !s.sch.models.vals.any (fun m => m.tag == g.tag && (g.kvFormat == 0 || g.kvFormat == m.kvFormat)) then 4
  else if !(sectionsOf b).all (fun x => decide (1 ≤ x.1) && decide (x.1 ≤ 6) && decide (x.2.2.2 + x.2.2.1 ≤ le b 80 8)) then 5
  else if 512 ≤ s.sch.progs.length then 6
  else 0

/-- Load the container in SCH_LOAD_ADDR. `image` is what host memory holds there, where it lies in T3. -/
def Chip.loadProgram (s : Chip) (image : Bytes) : Chip :=
  if s.rf F.SCH_LOAD_STAT_RESULT = 15 then s
  else
    let a := s.rd64 Reg.SCH_LOAD_ADDR_LO
    let b := s.image a (max 256 (le (s.image a 256 image) 80 8)) image
    match s.loadCheck b with
    | 0 =>
      let i := firstFree 512 0 s.sch.progs.keys
      let s := s.setSch (fun x => { x with progs := x.progs.put i (progOfBytes b) })
      ((s.wr Reg.SCH_PROGS s.sch.progs.length).wf F.SCH_LOAD_STAT_RESULT 0).wf F.SCH_LOAD_STAT_INDEX i
    | k => s.wf F.SCH_LOAD_STAT_RESULT k

/-- Unload a program in the next row 12, unless a partition forces it or the index holds none. -/
def Chip.unloadProgram (s : Chip) (i : Nat) : Chip :=
  let forced := (List.range 8).any (fun p => s.schPart p F.SCH_PART_CFG_FORCE_EN == 1 && s.schPart p F.SCH_PART_CFG_FORCE == i)
  if s.rf F.SCH_LOAD_STAT_RESULT = 15 then s
  else if forced || (s.prog i).isNone then s.wf F.SCH_LOAD_STAT_RESULT 7
  else (s.updProg i (fun g => { g with unload := true })).wf F.SCH_LOAD_STAT_RESULT 0

/-! ## The registry (R195, R196) -/

/-- The model entry of an image. -/
def modelOfBytes (b : Bytes) : ModelEnt :=
  { kvFormat := le b 1 1, fallbackId := le b 4 2, u := le b 6 1, fbReady := bit (le b 7 1) 0, layers := le b 8 2, kvHeads := le b 10 2
    headDim := le b 12 2, tag := slice b 16 16, prefillRate := le b 32 4, weightBytes := le b 40 8 }

/-- Entries of the registry. -/
def Chip.registered (s : Chip) : Nat := s.sch.models.length + s.sch.adapters.length

/-- Is an ID no ID of a new entry: 0, 0xFFFF or already registered? -/
def badId {α : Type} (m : SMap α) (id : Nat) : Bool := id == 0 || id == 0xFFFF || (m.find id).isSome

/-- Register the image (R196): the entry, or the result of the first check it fails. -/
def Chip.registerImage (s : Chip) (b : Bytes) : Chip :=
  let id := le b 2 2
  let res := fun (s : Chip) (k : Nat) => s.wf F.SCH_REG_STAT_RESULT k
  match le b 0 1 with
  | 1 =>
    let m := modelOfBytes b
    if badId s.sch.models id then res s 1
    else if m.kvFormat = 0 || 3 < m.kvFormat || m.headDim % 32 ≠ 0 || m.headDim < 32 || 256 < m.headDim then res s 2
    else if m.u = 0 || 8 < m.u then res s 3
    else if m.fallbackId ≠ 0xFFFF && (s.model m.fallbackId).isNone then res s 4
    else if 256 ≤ s.registered then res s 5
    else res (s.setSch (fun x => { x with models := x.models.put id m })) 0
  | 2 =>
    let a : AdapterEnt := { model := le b 4 2, tag := slice b 16 16, weightBytes := le b 32 8 }
    if badId s.sch.adapters id then res s 1
    else if (s.model a.model).isNone then res s 4
    else if 256 ≤ s.registered then res s 5
    else res (s.setSch (fun x => { x with adapters := x.adapters.put id a })) 0
  | _ => res s 7

/-- Is a registered model or adapter in use (R196)? -/
def Chip.regInUse (s : Chip) (adapter : Bool) (id : Nat) : Bool :=
  let live := fun (f : Rte → Bool) => s.rtb.rtes.vals.any (fun r => r.state.live && f r)
  let tagged := fun (tag : Option Bytes) => s.sch.progs.vals.any (fun g => some g.tag == tag)
  if adapter then live (fun r => r.adapter == id) || tagged ((s.sch.adapters.find id).map (·.tag))
  else live (fun r => r.model == id || r.fallbackId == id) || tagged ((s.model id).map (·.tag))
    || s.sch.models.any (fun m => m.1 != id && m.2.fallbackId == id)

/-- Deregister an ID. -/
def Chip.deregister (s : Chip) (adapter : Bool) (id : Nat) : Chip :=
  let known := if adapter then (s.sch.adapters.find id).isSome else (s.model id).isSome
  if !known then s.wf F.SCH_REG_STAT_RESULT 1
  else if s.regInUse adapter id then s.wf F.SCH_REG_STAT_RESULT 6
  else
    (s.setSch (fun x => if adapter then { x with adapters := x.adapters.del id } else { x with models := x.models.del id })).wf F.SCH_REG_STAT_RESULT 0

/-! ## Residency (R223–R225) -/

/-- Victims that make room for a load: RESIDENT entries that may be evicted, least recently selected first, as few as suffice; none
where all of them do not. -/
def Chip.victimsFor (s : Chip) (p need : Nat) : Option (List Residency) :=
  let l := sortBy (fun (a b : Residency) => lexLe [a.lastSel, b2n a.adapter, a.id] [b.lastSel, b2n b.adapter, b.id])
    (s.sch.res.filter (fun r => r.part == p && s.evictableRes r))
  ((List.range (l.length + 1)).map (fun n => l.take n)).find? (fun v => decide (need ≤ (v.map (·.size)).foldl (· + ·) 0))

/-- A load (R223, R224). -/
def Chip.resLoad (s : Chip) (p : Nat) (adapter : Bool) (id : Nat) : Chip :=
  match s.weightOf adapter id, s.residency p adapter id with
  | none, _ => s.resResult p adapter id 1
  | some _, some r => s.resResult p adapter id (if r.resident then 0 else 4)
  | some size, none =>
    let room := s.rd (Reg.SCH_RES_QUOTA + 4 * p) * 2 ^ 20
    let used := s.resUsed p
    if used + size ≤ room then s.startLoad p adapter id
    else match s.victimsFor p (used + size - room) with
      | some v =>
        let c : EvictCmd := { part := p, victims := v.map (fun r => (r.adapter, r.id)), load := some (adapter, id) }
        (s.setSch (fun x => { x with evicts := x.evicts ++ [c] })).resResult p adapter id 15
      | none => s.resResult p adapter id 3

/-- An explicit evict (R224). -/
def Chip.resEvict (s : Chip) (p : Nat) (adapter : Bool) (id : Nat) : Chip :=
  match s.weightOf adapter id, s.residency p adapter id with
  | none, none => s.resResult p adapter id 1
  | _, some r =>
    if !r.resident then s.resResult p adapter id 2
    else if s.evictableRes r then
      (s.setSch (fun x => { x with evicts := x.evicts ++ [{ part := p, victims := [(adapter, id)] }] })).resResult p adapter id 15
    else s.resResult p adapter id 4
  | some _, none => s.resResult p adapter id 2

/-- Pin or unpin (R225). -/
def Chip.resPin (s : Chip) (on : Bool) (p : Nat) (adapter : Bool) (id : Nat) : Chip :=
  match s.weightOf adapter id, s.residency p adapter id with
  | none, none => s.resResult p adapter id 1
  | _, some r =>
    if r.resident then (s.updRes p adapter id (fun r => { r with pinned := on })).resResult p adapter id 0 else s.resResult p adapter id 2
  | some _, none => s.resResult p adapter id 2

/-- A write of SCH_RES_CTRL (R223): ignored while the result is busy; a partition that does not exist ends it with 7, one the writer may
not name with 6. -/
def Chip.resCommand (s : Chip) (a : Access) (op p : Nat) (adapter : Bool) (id : Nat) (run : Chip → Chip) : Chip :=
  s.command a Pg.SCH (Reg.SCH_RES_CTRL % 0x1000) (op + p * 2 ^ 4 + b2n adapter * 2 ^ 8 + id * 2 ^ 16) false [p]
    (fun s => if s.rf F.SCH_RES_STAT_RESULT = 15 then s else s.resResult p adapter id 6)
    (fun s =>
      if s.rf F.SCH_RES_STAT_RESULT = 15 then s
      else if !s.partExists p then s.resResult p adapter id 7
      else run s)

/-! ## Accounting (R230) -/

/-- A write of SCH_ACCT_CTRL. -/
def Chip.acctCommand (s : Chip) (a : Access) (op : Nat) (ride : Bool) (run : Nat → Chip → Chip) : Chip :=
  s.command a Pg.SCH (Reg.SCH_ACCT_CTRL % 0x1000) (op + b2n ride * 4) false [] id (fun s => run (s.rd Reg.SCH_ACCT_TENANT) s)

/-- Register a tenant, or set its flag. -/
def Chip.acctRegister (ride : Bool) (t : Nat) (s : Chip) : Chip :=
  match s.acctOf t with
  | some _ => s.acct t (fun e => { e with ride := ride })
  | none => s.setSch (fun x => { x with acct := x.acct.put (t % 4096) { tenant := t, ride := ride } })

/-- Remove a tenant's entry. -/
def Chip.acctRemove (t : Nat) (s : Chip) : Chip :=
  match s.acctOf t with
  | some _ => s.setSch (fun x => { x with acct := x.acct.del (t % 4096) })
  | none => s

/-- Clear a tenant's counters. -/
def Chip.acctClear (t : Nat) (s : Chip) : Chip :=
  s.acct t (fun e => { e with admitted := 0, completed := 0, cancelled := 0, failedOver := 0 })

/-! ## Scheduler messages (R203, R206, R218) -/

/-- Is a message whole: its type and its 32 bytes? -/
def badSched (b : Bytes) (type : Nat) : Bool := le b 0 1 != type || b.length != 32

/-- A Bid. -/
def Chip.bidIn (s : Chip) (src : MsgSrc) (b : Bytes) : Chip :=
  if badSched b 1 then s.raise Pg.SCH 4
  else
    let r : BidRec := { step := le b 8 8, dev := le b 2 2, part := le b 1 1, dst := src.dstPart, count := le b 4 4, ctx := le b 16 4, model := le b 20 2 }
    s.setSch (fun x => { x with bids := x.bids ++ [r] })

/-- An Offer. -/
def Chip.offerIn (s : Chip) (src : MsgSrc) (b : Bytes) : Chip :=
  if badSched b 2 then s.raise Pg.SCH 4
  else
    let r : OfferRec := { step := le b 8 8, dev := le b 2 2, part := le b 1 1, dst := src.dstPart, room := le b 4 4, model := le b 16 2 }
    s.setSch (fun x => { x with offers := x.offers ++ [r] })

/-- A Void: the step it names is void for the partition it is sent to. -/
def Chip.voidIn (s : Chip) (src : MsgSrc) (b : Bytes) : Chip :=
  if badSched b 3 then s.raise Pg.SCH 4
  else
    let s := s.setSch (fun x => { x with voids := x.voids ++ [(le b 8 8, src.dstPart, le b 2 2)] })
    if le b 8 8 = s.step then s.voidStep src.dstPart else s

/-! ## Meanings -/

/-- PROGRAM_LOAD (R200). -/
def execProgramLoad (acc : Access) (image : Bytes) (s : State) : Host.Outcome State Fault Refusal :=
  s.run (fun c => c.command acc Pg.SCH (Reg.SCH_LOAD_CTRL % 0x1000) 1 false [] id (fun c => c.loadProgram image))

/-- PROGRAM_UNLOAD (R200). -/
def execProgramUnload (acc : Access) (index : Nat) (s : State) : Host.Outcome State Fault Refusal :=
  s.run (fun c => c.command acc Pg.SCH (Reg.SCH_LOAD_CTRL % 0x1000) (2 + index % 512 * 2 ^ 10) false [] id (fun c => c.unloadProgram (index % 512)))

/-- REGISTER_ENTRY (R196). -/
def execRegisterEntry (acc : Access) (image : Bytes) (s : State) : Host.Outcome State Fault Refusal :=
  s.run (fun c => c.command acc Pg.SCH (Reg.SCH_REG_CTRL % 0x1000) 1 false [] id
    (fun c => c.registerImage (c.image (c.rd64 Reg.SCH_REG_ADDR_LO) 64 image)))

/-- DEREGISTER (R196). -/
def execDeregister (acc : Access) (adapter : Bool) (id' : Nat) (s : State) : Host.Outcome State Fault Refusal :=
  s.run (fun c => c.command acc Pg.SCH (Reg.SCH_REG_CTRL % 0x1000) (2 + b2n adapter * 4 + id' % 65536 * 2 ^ 16) false [] id
    (fun c => c.deregister adapter (id' % 65536)))

/-- RESIDENCY_LOAD (R223). -/
def execResidencyLoad (acc : Access) (part : Nat) (adapter : Bool) (id' : Nat) (s : State) : Host.Outcome State Fault Refusal :=
  s.run (fun c => c.resCommand acc 1 (part % 8) adapter (id' % 65536) (fun c => c.resLoad (part % 8) adapter (id' % 65536)))

/-- RESIDENCY_EVICT (R224). -/
def execResidencyEvict (acc : Access) (part : Nat) (adapter : Bool) (id' : Nat) (s : State) : Host.Outcome State Fault Refusal :=
  s.run (fun c => c.resCommand acc 2 (part % 8) adapter (id' % 65536) (fun c => c.resEvict (part % 8) adapter (id' % 65536)))

/-- RESIDENCY_PIN (R225). -/
def execResidencyPin (acc : Access) (part : Nat) (adapter : Bool) (id' : Nat) (s : State) : Host.Outcome State Fault Refusal :=
  s.run (fun c => c.resCommand acc 3 (part % 8) adapter (id' % 65536) (fun c => c.resPin true (part % 8) adapter (id' % 65536)))

/-- RESIDENCY_UNPIN (R225). -/
def execResidencyUnpin (acc : Access) (part : Nat) (adapter : Bool) (id' : Nat) (s : State) : Host.Outcome State Fault Refusal :=
  s.run (fun c => c.resCommand acc 4 (part % 8) adapter (id' % 65536) (fun c => c.resPin false (part % 8) adapter (id' % 65536)))

/-- ACCT_REGISTER (R230). -/
def execAcctRegister (acc : Access) (ride : Bool) (s : State) : Host.Outcome State Fault Refusal :=
  s.run (fun c => c.acctCommand acc 1 ride (Chip.acctRegister ride))

/-- ACCT_REMOVE (R230). -/
def execAcctRemove (acc : Access) (s : State) : Host.Outcome State Fault Refusal :=
  s.run (fun c => c.acctCommand acc 2 false Chip.acctRemove)

/-- ACCT_CLEAR (R230). -/
def execAcctClear (acc : Access) (s : State) : Host.Outcome State Fault Refusal :=
  s.run (fun c => c.acctCommand acc 3 false Chip.acctClear)

/-- SLICE_COMMIT (R226). -/
def execSliceCommit (acc : Access) (s : State) : Host.Outcome State Fault Refusal :=
  s.run (fun c => c.command acc Pg.SCH (Reg.SCH_SLICE_CTRL % 0x1000) 1 false [] id (fun c => c.wr Reg.SCH_SLICE_STAT (c.rd Reg.SCH_SLICE_STAT ||| 1)))

/-- BID (R207). -/
def execBid (src : MsgSrc) (bytes : Bytes) (s : State) : Host.Outcome State Fault Refusal :=
  s.run (fun c => (c.take 4 src bytes).bidIn src bytes)

/-- OFFER (R218). -/
def execOffer (src : MsgSrc) (bytes : Bytes) (s : State) : Host.Outcome State Fault Refusal :=
  s.run (fun c => (c.take 4 src bytes).offerIn src bytes)

/-- VOID (R203). -/
def execVoid (src : MsgSrc) (bytes : Bytes) (s : State) : Host.Outcome State Fault Refusal :=
  s.run (fun c => (c.take 4 src bytes).voidIn src bytes)

/-- GANG_BARRIER (R203). -/
def execGangBarrier (part : Nat) (samples : List (Nat × List (List (Nat × Nat)))) (missing : Bool) (s : State) : Host.Outcome State Fault Refusal :=
  s.run (fun c => c.barrier (part % 8) samples missing)

end Sys2Proof.Machine
end

