-- ==== Sys2Proof/Machine/SecureOps.lean ====
section
/-! DEFINITION. Shared operations of the security engine (15): fuses (R459), bundles and seals (R472–R474), attestation reports (R475, R476),
management sessions (R478, R479), IDE key sessions (R480–R482) and pair handshakes (R466, R467). -/

namespace Sys2Proof.Machine

open Sys2Proof

/-! ## Fuses (R459) -/

/-- The result of a fuse operation; a refusal sets ERR_STAT bit [7]. -/
def Chip.fuseResult (s : Chip) (r : Nat) : Chip :=
  let s := s.wr Reg.SEC_FUSE_STAT r
  if r = 0 then s else s.raise Pg.SEC 7

/-- What a fuse operation does, and its result: 1 already fused, 2 not permitted. -/
def fuseOp (f : Fuses) (op : Nat) (admin : Bool) (digest : Bytes) (svn : Nat) : Fuses × Nat :=
  if !admin then (f, 2)
  else match op with
    | 1 => if f.ownerKey.isSome then (f, 1) else ({ f with ownerKey := some digest }, 0)
    | 2 => if f.mgmtRoot.isSome then (f, 1) else ({ f with mgmtRoot := some digest }, 0)
    | _ => ({ f with minSvn := max f.minSvn svn }, 0)

/-- A write of SEC_FUSE_CTRL with a fuse operation. `brought` are the bytes at SEC_FUSE_ADDR. The host ranks as admin while no management root
is fused (R549), which is when R459 lets it fuse one. -/
def State.fuseWrite (s : State) (a : Access) (op : Nat) (brought : Bytes) : State :=
  let c := s.chip
  if c.pwr.off || c.pwr.purged || !c.reaches a.writer Pg.SEC then s
  else match c.judge a Pg.SEC false [] with
    | some o => { s with chip := c.logWrite a.writer Reg.SEC_FUSE_CTRL op o }
    | none =>
      if c.draining Pg.SEC then s
      else
        let (f, r) := fuseOp s.fuses op (c.rank a.writer == .admin) (c.image (c.rd64 Reg.SEC_FUSE_ADDR_LO) 64 brought) (c.rd Reg.SEC_SVN)
        { s with fuses := f, chip := (c.showFuses f).fuseResult r }

/-! ## Weight bundles (R472, R473) -/

/-- KIND 1 objects of a partition that hold a model's or an adapter's weights, in ascending order. [log 31, DEDUCED] -/
def Chip.weightObjects (s : Chip) (p : Nat) (adapter : Bool) (id : Nat) : List (Nat × Desc) :=
  s.memu.descs.filter (fun d => d.2.kind == 1 && d.2.partition == p && d.2.use == (if adapter then 2 else 1) && d.2.id == id)

/-- The units of objects in the order of an image: physical address and bytes. -/
def Chip.imageUnits (s : Chip) (l : List (Nat × Desc)) : List (Nat × Nat) :=
  l.flatMap (fun x => (List.range (ceilDiv x.2.size x.2.unit)).map (fun u => (s.remapped (x.2.unitAddr u), x.2.unit)))

/-- Write an image over units. [log 31, DEDUCED] -/
def Chip.writeImage : List (Nat × Nat) → Bytes → Chip → Chip
  | [],           _, s => s
  | (a, n) :: us, b, s => if b.isEmpty then s else Chip.writeImage us (b.drop n) ((s.writePhys false a (b.take n)).markDirty a (b.take n).length)

/-- Read an image from units; none where a word of it is uncorrectable. [log 31, DEDUCED] -/
def Chip.readImage (s : Chip) : List (Nat × Nat) → Option Bytes
  | [] => some []
  | (a, n) :: us =>
    match s.readPhys a n, s.readImage us with
    | some b, some l => some (b ++ l)
    | _, _ => none

/-- Bytes of a chunk. -/
def chunkLen : Nat := 4 * 2 ^ 20

/-- TAG of a registered model or adapter. -/
def Chip.tagOf (s : Chip) (adapter : Bool) (id : Nat) : Bytes :=
  padTo 16 (if adapter then ((s.sch.adapters.find id).map (·.tag)).getD [] else ((s.model id).map (·.tag)).getD [])

/-- Recipient entry i of a bundle. -/
def recipientOf (b : Bytes) (i : Nat) : Bytes := slice b (256 + 1696 * i) 1696

/-- Where the chunks of a bundle begin. -/
def chunksAt (b : Bytes) : Nat := 256 + 1696 * le b 32 2

/-- Where the signature of a bundle begins. -/
def signatureAt (b : Bytes) : Nat := chunksAt b + le b 24 8 + 16 * le b 36 4

/-- IV of chunk i. -/
def chunkIv (bundleId : Bytes) (i : Nat) : Bytes := padTo 8 bundleId ++ toLE 4 i

/-- The recipient entry for this device. -/
def Chip.ownEntry (s : Chip) (b : Bytes) : Option Bytes :=
  ((List.range (le b 32 2)).map (recipientOf b)).find? (fun e => le e 0 8 == ownSerial && slice e 8 64 == digest s.kemPub)

/-- The public key that must have signed a bundle; none where its issuer is not acceptable (check 4). -/
def Chip.issuerKey (s : Chip) (p : Nat) (b : Bytes) : Option Bytes :=
  let d := slice b 64 64
  if le b 34 1 = 1 then
    let i := le b 35 1
    let held := (List.range 16).flatMap (fun j => toLE 4 (s.rd (Reg.SEC_SIGNER + 64 * i + 4 * j)))
    if i < 8 && bit (s.rd Reg.SEC_SIGNER_VALID) i && held == d then some (Config.signerKey d) else none
  else if le b 34 1 = 2 then
    let n := le b 48 8
    let member := match s.compOf p with
      | some c => (s.members c).any (fun m => m.serial == n)
      | none => false
    match s.sec.creds.find? (fun c => credSerial c == n && digest (credAk c) == d) with
    | some c => if member then some (credAk c) else none
    | none => none
  else none

/-- WSK of a bundle for this device; none where the WRAP_TAG fails (check 6). [log 31, DEDUCED] -/
def Chip.unwrap (s : Chip) (b : Bytes) : Option Bytes :=
  match s.ownEntry b with
  | none => none
  | some e =>
    gcmUnlock (kdf "WRAP" (s.decaps (slice e 72 1568) ++ slice b 40 8 ++ slice e 0 8) 32) (zeros 12) (slice b 0 256) (slice e 1640 32) (slice e 1672 16)

/-- The plaintext of chunk i; none where its tag fails (check 7). -/
def chunkPlain (b wsk : Bytes) (i : Nat) : Option Bytes :=
  let len := min chunkLen (le b 24 8 - chunkLen * i)
  let off := chunksAt b + (chunkLen + 16) * i
  gcmUnlock wsk (chunkIv (slice b 40 8) i) (slice b 0 256) (slice b off len) (slice b (off + len) 16)

/-- The chunks of n, chunk i first, up to the first whose tag fails, in order. -/
def goodChunks (b wsk : Bytes) : (n i : Nat) → List Bytes
  | 0,     _ => []
  | n + 1, i =>
    match chunkPlain b wsk i with
    | some x => x :: goodChunks b wsk n (i + 1)
    | none   => []

/-- Checks 1 to 6 of R473; 0 where all pass. [log 31, DEDUCED] -/
def Chip.bundleReason (s : Chip) (p : Nat) (adapter : Bool) (id : Nat) (b : Bytes) : Nat :=
  let n := le b 32 2
  let size := le b 24 8
  let kind := le b 34 1
  if slice b 0 4 ≠ [0x49, 0x53, 0x57, 0x42] || le b 4 1 ≠ 1 || n = 0 || 4096 < n || le b 36 4 ≠ ceilDiv size chunkLen
      || !allZero (slice b 128 128) || (List.range n).any (fun i => !allZero (slice (recipientOf b i) 1688 8)) then 1
  else if le b 5 1 ≠ (if adapter then 2 else 1) || le b 6 2 ≠ id || slice b 8 16 ≠ s.tagOf adapter id || some size ≠ s.weightOf adapter id then 2
  else if (s.ownEntry b).isNone then 3
  else match s.issuerKey p b with
    | none => 4
    | some key =>
      if !Config.slhVerify (kind == 1) key (digest (b.take (signatureAt b))) (b.drop (signatureAt b)) then 5
      else if (s.unwrap b).isNone then 6 else 0

/-- A load ends refused (R473): the entry is ABSENT. -/
def Chip.bundleRefused (s : Chip) (p : Nat) (adapter : Bool) (id reason : Nat) : Chip :=
  let s := (s.wf F.SEC_BUNDLE_STAT_REASON reason).wf F.SEC_BUNDLE_STAT_PARTITION p
  ((((s.dropRes p adapter id).cnt Reg.SEC_BUNDLE_REFUSED).raise Pg.SEC 4).resResult p adapter id 5)

/-- A load that ran ends, with the bundle that the device read at SCH_RES_ADDR (R473).
After a failure of check 7 zeros stand over the bytes written, those of the chunks before the one that failed. [log 31, DEDUCED] -/
def Chip.loadFinished (s : Chip) (p : Nat) (adapter : Bool) (id : Nat) (b : Bytes) : Chip :=
  if !s.sch.loads.contains (p, adapter, id) then s
  else
    let s := s.setSch (fun x => { x with loads := x.loads.erase (p, adapter, id) })
    let units := s.imageUnits (s.weightObjects p adapter id)
    match s.bundleReason p adapter id b, s.unwrap b with
    | 0, some wsk =>
      let good := goodChunks b wsk (le b 36 4) 0
      if good.length = le b 36 4 then
        let s := (s.wf F.SEC_BUNDLE_STAT_REASON 0).wf F.SEC_BUNDLE_STAT_PARTITION p
        ((Chip.writeImage units good.flatten s).updRes p adapter id (fun r => { r with loaded := true })).resResult p adapter id 0
      else (Chip.writeImage units (zeros good.flatten.length) s).bundleRefused p adapter id 7
    | r, _ => s.bundleRefused p adapter id r

/-! ## Seals (R474) -/

/-- The serials of a recipient list. -/
def rcptSerials (b : Bytes) : List Nat := (List.range (min 4097 (le b 0 4))).map (fun i => le b (4 + 8 * i) 8)

/-- A refused seal. -/
def Chip.sealRefused (s : Chip) : Chip := (s.wr Reg.SEC_SEAL_STAT 2).raise Pg.SEC 6

/-- SEC_SEAL_CTRL.GO, with the recipient list found at SEC_SEAL_RCPT. [log 31, DEDUCED] -/
def Chip.sealGo (s : Chip) (p obj : Nat) (rcpt : Bytes) : Chip :=
  if s.rf F.SEC_SEAL_STAT_RESULT = 15 then s
  else
    let l := rcptSerials rcpt
    match s.memu.descs.find obj with
    | some d =>
      if s.role p ≠ .prompt || !s.partExists p then s.sealRefused
      else if d.kind ≠ 1 || d.use = 0 || d.partition ≠ p || (s.weightOf (d.use == 2) d.id).isNone then s.wr Reg.SEC_SEAL_STAT 1
      else if l.isEmpty || 4096 < l.length || l.any (fun n => (s.credOf n).isNone) then s.sealRefused
      else (s.wr Reg.SEC_SEAL_STAT 15).setSec (fun x => { x with sealing := some { part := p, obj := obj, rcpt := l, addr := s.rd64 Reg.SEC_SEAL_ADDR_LO } })
    | none => if s.role p ≠ .prompt || !s.partExists p then s.sealRefused else s.wr Reg.SEC_SEAL_STAT 1

/-- Wrap WSK for recipients. -/
def Chip.wrapAll (wsk header : Bytes) : List Nat → Chip → Chip × Bytes
  | [],     s => (s, [])
  | n :: l, s =>
    let pub := credKem ((s.credOf n).getD [])
    let (s, ct, ss) := s.encaps pub
    let entry := toLE 8 n ++ digest pub ++ ct ++ gcmLock (kdf "WRAP" (ss ++ slice header 40 8 ++ toLE 8 n) 32) (zeros 12) header wsk ++ zeros 8
    let (s, rest) := Chip.wrapAll wsk header l s
    (s, entry ++ rest)

/-- The chunks of a plaintext. -/
def sealChunks (wsk header plain : Bytes) : (n i : Nat) → Bytes
  | 0,     _ => []
  | n + 1, i =>
    gcmLock wsk (chunkIv (slice header 40 8) i) header ((plain.drop (chunkLen * i)).take chunkLen) ++ sealChunks wsk header plain n (i + 1)

/-- A seal finishes: the bundle, issued by this device, is written to host memory. [log 31, DEDUCED] -/
def Chip.sealDone (s : Chip) : Chip :=
  match s.sec.sealing with
  | none => s
  | some x =>
    let s := s.setSec (fun y => { y with sealing := none })
    match s.memu.descs.find x.obj with
    | none => s.wr Reg.SEC_SEAL_STAT 1
    | some d =>
      let adapter := d.use == 2
      let size := (s.weightOf adapter d.id).getD 0
      match s.readImage (s.imageUnits (s.weightObjects x.part adapter d.id)) with
      | none => s.wr Reg.SEC_SEAL_STAT 1
      | some image =>
        let plain := padTo size image
        let (s, wsk) := s.random 32
        let (s, bid) := s.random 8
        let header := [0x49, 0x53, 0x57, 0x42, 1] ++ toLE 1 (if adapter then 2 else 1) ++ toLE 2 d.id ++ s.tagOf adapter d.id ++ toLE 8 size
          ++ toLE 2 x.rcpt.length ++ [2, 0] ++ toLE 4 (ceilDiv size chunkLen) ++ bid ++ toLE 8 ownSerial ++ toLE 8 s.step ++ digest s.akPub ++ zeros 128
        let (s, entries) := Chip.wrapAll wsk header x.rcpt s
        let b := header ++ entries ++ sealChunks wsk header plain (ceilDiv size chunkLen) 0
        let sig := padTo 35664 (Config.slhSign false s.ak.2 (digest b))
        (s.hostWrite (x.addr - t3Base) (b ++ sig)).wr Reg.SEC_SEAL_STAT 0

/-! ## Attestation reports (R475, R476) -/

/-- The partition entry of a report. -/
def Chip.partEntry (s : Chip) (p : Nat) : Bytes :=
  let tiles := (below 64 (fun lt => s.ltOwner lt == some p)).length
  let groups := (below 192 (fun k => s.cgOwner (k / 8) (k % 8) == some p)).length
  let comp := s.compOf p
  let inForce := comp.bind s.map
  toLE 1 p ++ toLE 1 (s.role p).code ++ toLE 1 (s.smv.buckets.getD p 0) ++ toLE 1 tiles ++ toLE 2 (comp.getD 0xFFFF) ++ toLE 1 groups ++ zeros 1
    ++ toLE 4 ((inForce.map (·.epoch)).getD 0) ++ zeros 4
    ++ (if inForce.isSome then padTo 64 (s.xpt.digests.getD (comp.getD 0) []) else zeros 64) ++ zeros 48

/-- A signed report for a requester and its nonce. -/
def Chip.report (s : Chip) (f : Fuses) (who : Writer) (nonce : Bytes) : Bytes :=
  let shown := fun (p : Nat) => s.partExists p && s.mayName who p
  let whole := s.rd Reg.SEC_MOD_POLICY % 2
  let body := [0x49, 0x53, 0x41, 0x52] ++ toLE 2 1 ++ toLE 2 0x0808 ++ toLE 1 (s.rd Reg.GLB_REV)
    ++ toLE 1 (b2n f.ownerKey.isSome + 2 * b2n f.mgmtRoot.isSome + 4 * whole + 8 * s.rf F.SEC_STAT_CERT) ++ zeros 2
    ++ toLE 4 (s.rd Reg.SEC_SVN) ++ toLE 4 f.minSvn ++ toLE 4 37200 ++ toLE 8 ownSerial ++ toLE 8 (if s.alm.valid then s.alm.now else 0) ++ toLE 8 s.step
    ++ padTo 32 nonce ++ s.fwDigest ++ padTo 64 (f.ownerKey.getD []) ++ padTo 64 (f.mgmtRoot.getD []) ++ dikPub ++ s.akPub ++ digest s.kemPub
    ++ toLE 4 (((below 8 shown).map (2 ^ ·)).foldl (· + ·) 0) ++ toLE 4 (if whole = 1 then s.rd Reg.SEC_MOD_TENANT else 0) ++ zeros 56
    ++ (List.range 8).flatMap (fun p => if shown p then s.partEntry p else zeros 128)
  body ++ padTo 35664 (Config.slhSign false s.ak.2 body)

/-- Can the engine sign: firmware runs, and no other report is being signed? [log 32, DEDUCED] -/
def Chip.signFree (s : Chip) : Bool := s.pwr.done.contains 8 && s.sec.signing.isNone

/-- A report is to be signed. [log 32, DEDUCED] -/
def Chip.startSigning (s : Chip) (who : ReportFor) (nonce : Bytes) : Chip := s.setSec (fun x => { x with signing := some (who, nonce) })

/-- SEC_ATT_CTRL.GO. A request that meets the signing of another report reads busy until that ends. [log 32, DEDUCED] -/
def Chip.attGo (s : Chip) (w : Writer) : Chip :=
  let addr := s.rd64 Reg.SEC_ATT_ADDR_LO
  if s.rf F.SEC_ATT_STAT_RESULT = 15 || !s.pwr.done.contains 8 then s
  else if !inT3 addr then s.wr Reg.SEC_ATT_STAT 1
  else
    let t := s.wr Reg.SEC_ATT_STAT 15
    if s.sec.signing.isSome then t
    else t.startSigning (.host addr w) ((List.range 8).flatMap (fun i => toLE 4 (s.rd (Reg.SEC_ATT_NONCE + 4 * i))))

/-! ## Management sessions (R478, R479, R553) -/

/-- The sessions' list changed. -/
def Chip.setSessions (s : Chip) (f : List Session → List Session) : Chip := s.setSec (fun x => { x with sessions := f x.sessions })

/-- A session. -/
def Chip.session (s : Chip) (id : Nat) : Option Session := s.sec.sessions.find? (fun x => x.id == id)

/-- An Accept that refuses a Hello. -/
def Chip.refuseHello (s : Chip) (r : Nat) : Chip :=
  ((s.emit (.datagram ([2] ++ toLE 1 r ++ zeros 38774))).cnt Reg.SEC_NMP_REFUSED).raise Pg.SEC 5

/-- A Hello (R478). One of another size, or while no report can be signed, is not answered. [log 32, DEDUCED] -/
def Chip.hello (s : Chip) (b : Bytes) : Chip :=
  let slot := le b 1 1
  let key := slice b 36 48
  let held := (List.range 16).flatMap (fun j => toLE 4 (s.rd (Reg.SEC_PRIN_DIGEST + 64 * slot + 4 * j)))
  if b.length ≠ 37328 || le b 0 1 ≠ 1 || !s.signFree then s
  else if 8 ≤ slot || s.rank (.slot slot) = .none then s.refuseHello 1
  else if digest key ≠ held then s.refuseHello 2
  else if !Config.slhVerify false key (slice b 0 1664) (slice b 1664 35664) then s.refuseHello 3
  else if 8 ≤ s.sec.sessions.length then s.refuseHello 4
  else s.startSigning (.hello slot b) ((digest b).take 32)

/-- The Accept of a Hello whose report has been signed, and the session it opens. -/
def Chip.acceptHello (s : Chip) (f : Fuses) (slot : Nat) (b nonce : Bytes) : Chip :=
  let (s, r) := s.draw 32
  let id := firstFree 9 r (s.sec.sessions.map (·.id)) % 2 ^ 32
  let (s, ct, ss) := s.encaps (slice b 84 1568)
  let head := [2, 0, 0, 0] ++ toLE 4 id ++ ct
  let h := digest (b ++ head)
  let s := s.setSessions (fun l => l ++ [{ id := id, slot := slot, up := kdf "NMP-UP" (ss ++ h) 32, dn := kdf "NMP-DN" (ss ++ h) 32, last := s.alm.now }])
  s.emit (.datagram (head ++ s.report f (.slot slot) nonce))

/-- The answer to a management command: its header, with STATUS, and what follows. -/
def Chip.answer (s : Chip) (id : Nat) (head : Bytes) (status : Nat) (rest : Bytes) : Chip :=
  s.sendRecord id (toLE 1 (le head 0 1 % 128 + 128) ++ toLE 1 status ++ zeros 2 ++ slice head 4 10 ++ zeros 2 ++ rest)

/-- The header of a management command (R553). -/
def nmpHead (op flags tag offset count : Nat) : Bytes :=
  toLE 1 op ++ toLE 1 flags ++ zeros 2 ++ toLE 4 tag ++ toLE 4 offset ++ toLE 2 count ++ zeros 2

/-- The rank of a session's principal; none without such a session. -/
def Chip.sessionRank (s : Chip) (id : Nat) : Rank := ((s.session id).map (fun x => s.rank (.slot x.slot))).getD .none

/-- The Report command. [log 34, DEDUCED] -/
def Chip.nmpReport (s : Chip) (id : Nat) (head nonce : Bytes) : Chip :=
  if s.sessionRank id = .none then s.answer id head 1 []
  else if s.sec.signing.isSome then s.answer id head 3 []
  else s.startSigning (.nmp id head (bit (le head 1 1) 0)) nonce

/-- The Purge command: T0, T1 and T2 are zeroed (R554). -/
def Chip.nmpPurge (s : Chip) (id : Nat) (head : Bytes) : Chip :=
  if s.sessionRank id ≠ .admin then s.answer id head 1 []
  else if s.inComposition || s.pwr.purging.isSome then s.answer id head 5 []
  else { s with mem := [], memu := { s.memu with damaged := [], units := [], sedgeW := [] }, pwr := { s.pwr with purging := some (id, le head 4 4) } }

/-- A purge completes. -/
def Chip.purgeDone (s : Chip) : Chip :=
  match s.pwr.purging with
  | none => s
  | some (id, tag) => ({ s with mem := [], pwr := { s.pwr with purging := none, purged := true } }).answer id (nmpHead 5 0 tag 0 0) 0 []

/-! ## IDE key sessions (R480–R482) -/

/-- Does the DOE mailbox answer (R521)? -/
def Chip.doeUp (s : Chip) : Bool := s.pwr.config && s.pwr.done.contains 3

/-- A vendor-defined response: OP, RESULT and what follows. [log 33, PRESUMED] -/
def Chip.spdmAnswer (s : Chip) (op result : Nat) (rest : Bytes) : Chip := s.emit (.spdm (toLE 1 op ++ toLE 1 result ++ zeros 2 ++ rest))

/-- The Report request. [log 33, PRESUMED] -/
def Chip.spdmReport (s : Chip) (b : Bytes) : Chip :=
  if b.length ≠ 36 then s.spdmAnswer 1 1 []
  else if !s.signFree then s.spdmAnswer 1 2 []
  else s.startSigning .spdm (slice b 4 32)

/-- Key open. -/
def Chip.keyOpen (s : Chip) (b : Bytes) : Chip :=
  if b.length ≠ 1604 then s.spdmAnswer 2 1 []
  else if !s.signFree then s.spdmAnswer 2 2 []
  else s.startSigning (.keyOpen b) []

/-- The response to Key open once its report is signed. The ciphertext is drawn with it, as its nonce covers it. -/
def Chip.keyOpened (s : Chip) (f : Fuses) (b : Bytes) : Chip :=
  let (s, id) := s.draw 32
  let (s, ct, ss) := s.encaps (slice b 36 1568)
  let head := [2, 0, 0, 0] ++ toLE 4 id ++ ct
  let h := digest (b ++ head)
  let s := s.setSec (fun x => { x with keySess := some { id := id, up := kdf "IDE-UP" (ss ++ h) 32, dn := kdf "IDE-DN" (ss ++ h) 32, last := s.alm.now } })
  s.emit (.spdm (head ++ s.report f .host ((digest (b ++ ct)).take 32)))

/-- Is a key set active in a direction? -/
def Sec.ideActive (x : Sec) (dir : Nat) : Bool := x.ide.any (fun k => k.2.1 == dir && k.2.2.1)

/-- CXL_STAT.IDE: a key set is active in both directions (R482). -/
def Chip.noteIde (s : Chip) : Chip := s.wf F.CXL_STAT_IDE (b2n (s.sec.ideActive 0 && s.sec.ideActive 1))

/-- An IDE_KM message takes effect (R482): byte 1 is its object, bits [1:0] of byte 6 its direction and key set. -/
def Chip.ideMessage (s : Chip) (m : Bytes) : Chip :=
  let set := le m 6 1 % 2
  let dir := le m 6 1 / 2 % 2
  let mine := fun (k : Nat × Nat × Bool × Bytes) => k.1 == set && k.2.1 == dir
  match le m 1 1 with
  | 2 => (s.setSec (fun x => { x with ide := x.ide.filter (fun k => !mine k) ++ [(set, dir, false, m.drop 8)] })).noteIde
  | 4 => if s.sec.ide.any mine then
      (s.setSec (fun x => { x with ide := x.ide.map (fun k => if k.2.1 = dir then (k.1, k.2.1, k.1 == set, k.2.2.2) else k) })).noteIde
    else s
  | 5 => (s.setSec (fun x => { x with ide := x.ide.map (fun k => if mine k then (k.1, k.2.1, false, k.2.2.2) else k) })).noteIde
  | _ => s

/-- A Key message. [log 33, PRESUMED] -/
def Chip.keyMessage (s : Chip) (b : Bytes) : Chip :=
  match s.sec.keySess with
  | none => s.spdmAnswer 3 3 []
  | some k =>
    let seq := le b 12 8
    if b.length < 36 || le b 8 1 ≠ 0 then s.spdmAnswer 3 1 []
    else if le b 4 4 ≠ k.id then s.spdmAnswer 3 3 []
    else
      let n := b.length - 36
      match gcmUnlock k.up ([0, 0, 0, 0] ++ toLE 8 seq) (b.take 20) (slice b 20 n) (slice b (20 + n) 16) with
      | none => s.spdmAnswer 3 4 []
      | some m =>
        if replayed 64 k.high k.seen seq then s.spdmAnswer 3 4 []
        else
          let (high, seen) := noteSeen 64 k.high k.seen seq
          let s := (s.setSec (fun x => { x with keySess := some { k with high := high, seen := seen, last := s.alm.now } })).ideMessage m
          let head := [3, 0, 0, 0] ++ toLE 4 k.id ++ [1, 0, 0, 0] ++ toLE 8 seq
          s.emit (.spdm (head ++ gcmLock k.dn ([1, 0, 0, 0] ++ toLE 8 seq) head (Config.ideAnswer m)))

/-- The key session ends. -/
def Chip.keyEnd (s : Chip) : Chip := s.setSec (fun x => { x with keySess := none })

/-- Key close. -/
def Chip.keyClose (s : Chip) (b : Bytes) : Chip :=
  if b.length ≠ 8 then s.spdmAnswer 4 1 []
  else match s.sec.keySess with
    | some k => if le b 4 4 = k.id then s.keyEnd.spdmAnswer 4 0 [] else s.spdmAnswer 4 3 []
    | none => s.spdmAnswer 4 3 []

/-! ## A report is signed (R476) -/

/-- A report finishes signing and is delivered to who asked for it. [log 32, DEDUCED] -/
def Chip.reportSigned (s : Chip) (f : Fuses) : Chip :=
  match s.sec.signing with
  | none => s
  | some (who, nonce) =>
    let s := s.setSec (fun x => { x with signing := none })
    let s := if s.rf F.SEC_ATT_STAT_RESULT = 15 then s.wr Reg.SEC_ATT_STAT 0 else s
    match who with
    | .host addr w => s.hostWrite (addr - t3Base) (s.report f w nonce ++ s.credential)
    | .nmp id head cred =>
      match s.session id with
      | none => s
      | some x =>
        let t := s.answer id head 0 (s.report f (.slot x.slot) nonce)
        if cred then t.emit (.datagram ([3, 0, 0, 0] ++ toLE 4 id ++ s.credential)) else t
    | .hello slot b => s.acceptHello f slot b nonce
    | .spdm => s.spdmAnswer 1 0 (s.report f .host nonce ++ s.credential)
    | .keyOpen b => s.keyOpened f b

/-! ## Pair handshakes (R466, R467) -/

/-- The handshake with a device. -/
def Chip.shake (s : Chip) (dev : Nat) : Option Shake := s.sec.shakes.find? (fun x => x.dev == dev)

/-- Change the handshake with a device. -/
def Chip.updShake (s : Chip) (dev : Nat) (f : Shake → Shake) : Chip :=
  s.setSec (fun x => { x with shakes := x.shakes.map (fun k => if k.dev = dev then f k else k) })

/-- End the handshake with a device. -/
def Chip.dropShake (s : Chip) (dev : Nat) : Chip := s.setSec (fun x => { x with shakes := x.shakes.filter (fun k => k.dev != dev) })

/-- Take part in a handshake that a peer has started: this device's credential goes out. [log 35, DEDUCED] -/
def Chip.joinShake (s : Chip) (dev hid : Nat) (cred : Bytes) : Chip :=
  let s := (s.dropShake dev).setSec (fun x => { x with shakes := x.shakes ++ [{ dev := dev, hid := hid, own := false, start := s.alm.now, cred := cred }] })
  s.sendShake dev 0x10 hid s.credential

/-- A Pair credential. Where both ends have started, the HID of the lower SERIAL continues. [log 35, DEDUCED] -/
def Chip.pairCredential (s : Chip) (src : MsgSrc) (b : Bytes) : Chip :=
  let hid := le b 8 8
  let cred := b.drop 16
  if b.length ≠ 61456 || s.sec.running.isEmpty || src.dev = s.selfDev then s
  else match s.shake src.dev with
    | none => s.joinShake src.dev hid cred
    | some k =>
      if k.hid = hid then (if k.cred.isEmpty then s.updShake src.dev (fun x => { x with cred := cred }) else s)
      else if k.own && ownSerial < credSerial cred then s
      else s.joinShake src.dev hid cred

/-- The serial that a handshake names: a member's, where the peer is one; else the credential's own. [log 35, DEDUCED] -/
def Chip.namedSerial (s : Chip) (dev : Nat) (cred : Bytes) : Nat :=
  let ms := s.xpt.maps.flatMap (fun m => m.2.members.filter (fun x => x.dev == dev))
  match ms with
  | [] => credSerial cred
  | m :: _ => m.serial

/-- Once both ciphertexts are known, the PMK and this end's Pair confirm. -/
def Chip.derivePair (s : Chip) (dev : Nat) : Chip :=
  match s.shake dev with
  | none => s
  | some k =>
    if !k.accepted || k.peerCt.isEmpty || !k.pmk.isEmpty then s
    else
      let ss := s.decaps k.peerCt
      let own := s.credential
      let (creds, cts, sss) := if ownSerial < credSerial k.cred then (own ++ k.cred, k.ownCt ++ k.peerCt, k.ownSs ++ ss)
        else (k.cred ++ own, k.peerCt ++ k.ownCt, ss ++ k.ownSs)
      let t := digest (toLE 8 k.hid ++ creds ++ cts)
      let pmk := kdf "PAIR" (sss ++ t) 64
      let s := s.updShake dev (fun x => { x with pmk := pmk })
      s.sendShake dev 0x12 k.hid (kdf "PCONF" (pmk ++ toLE 8 ownSerial) 64)

/-- Verification of a peer's credential in a handshake ends. -/
def Chip.pairVerified (s : Chip) (dev : Nat) : Chip :=
  match s.shake dev with
  | none => s
  | some k =>
    if k.cred.isEmpty || k.accepted then s
    else if !s.credAccepts k.cred (s.namedSerial dev k.cred) then (s.cnt Reg.SEC_CRED_REFUSED).updShake dev (fun x => { x with cred := [] })
    else
      let (s, ct, ss) := (s.keepCred k.cred).encaps (credKem k.cred)
      let s := s.updShake dev (fun x => { x with accepted := true, ownCt := ct, ownSs := ss })
      (s.sendShake dev 0x11 k.hid ct).derivePair dev

/-- A Pair encapsulation. [log 35, DEDUCED] -/
def Chip.pairEncapsulation (s : Chip) (src : MsgSrc) (b : Bytes) : Chip :=
  match s.shake src.dev with
  | none => s
  | some k =>
    if b.length ≠ 1584 || le b 8 8 ≠ k.hid || !k.peerCt.isEmpty then s
    else (s.updShake src.dev (fun x => { x with peerCt := b.drop 16 })).derivePair src.dev

/-- A Pair confirm: a verified PROOF puts the keys into force, and what they replace is accepted through the overlap of R471. [log 35, DEDUCED] -/
def Chip.pairConfirm (s : Chip) (src : MsgSrc) (b : Bytes) : Chip :=
  match s.shake src.dev with
  | none => s
  | some k =>
    let serial := credSerial k.cred
    if b.length ≠ 80 || le b 8 8 ≠ k.hid || k.pmk.isEmpty || b.drop 16 ≠ kdf "PCONF" (k.pmk ++ toLE 8 serial) 64 then s
    else
      let s := s.dropShake src.dev
      let old := match s.pair src.dev with
        | some p => [(p, s.step + 1)]
        | none => []
      (s.setSec (fun x => { x with
        pairs := x.pairs.filter (fun p => p.dev != src.dev) ++ [{ dev := src.dev, serial := serial, pmk := k.pmk, made := s.step }]
        old := x.old.filter (fun p => p.1.dev != src.dev) ++ old })).pumpAll

/-- A handshake that has not completed is abandoned. [log 35, DEDUCED] -/
def Chip.shakeTimeout (s : Chip) (dev : Nat) : Chip :=
  match s.shake dev with
  | none => s
  | some _ => (((s.dropShake dev).cnt Reg.SEC_PAIR_FAIL).raise Pg.SEC 2).pumpAll

end Sys2Proof.Machine
end

