-- ==== Sys2Proof/Machine/Vigil.lean ====
section
/-! DEFINITION. Meanings of the commands of the vigil (R530–R533, R538–R541). -/

namespace Sys2Proof.Machine

open Sys2Proof

/-- ARM: the timed trigger at VGL_TIME, and with SPREAD a Vigil message to every watched peer. -/
def Chip.vigilArm (s : Chip) : Chip :=
  let t := s.rd64 Reg.VGL_TIME_LO
  let s := s.setArmed (some (t, 1))
  if s.rf F.VGL_CFG_SPREAD = 1 then s.each s.watched (fun s d => s.send 8 d 0 0 (presenceMsg 0x30 0 s.selfDev t ownSerial)) else s

/-- NOW: the next tick latches. -/
def Chip.vigilNow (s : Chip) : Chip := { s with vgl := { s.vgl with now := true } }

/-- RELEASE. -/
def Chip.vigilRelease (s : Chip) : Chip := s.wf F.VGL_STAT_HELD 0

/-- A write of VGL_CTRL. -/
def Chip.vigilCtrl (s : Chip) (a : Access) (val : Nat) (run : Chip → Chip) : Chip :=
  s.command a Pg.VGL (Reg.VGL_CTRL % 0x1000) val false [] id run

/-- VIGIL_ARM (R531, R532). -/
def execVigilArm (acc : Access) (s : State) : Host.Outcome State Fault Refusal := s.run (fun c => c.vigilCtrl acc 1 Chip.vigilArm)

/-- VIGIL_NOW (R531). -/
def execVigilNow (acc : Access) (s : State) : Host.Outcome State Fault Refusal := s.run (fun c => c.vigilCtrl acc 2 Chip.vigilNow)

/-- VIGIL_RELEASE (R533). -/
def execVigilRelease (acc : Access) (s : State) : Host.Outcome State Fault Refusal := s.run (fun c => c.vigilCtrl acc 4 Chip.vigilRelease)

/-- VIGIL_DISARM (R540). -/
def execVigilDisarm (acc : Access) (s : State) : Host.Outcome State Fault Refusal := s.run (fun c => c.vigilCtrl acc 8 (fun c => c.setArmed none))

/-- A Vigil message: it arms the trigger, or is ignored. It is not forwarded. [log 24, PRESUMED] -/
def Chip.vigilIn (s : Chip) (b : Bytes) : Chip :=
  if s.rf F.VGL_CFG_PEER_EN = 1 && b.length = 32 then s.setArmed (some (le b 8 8, 3)) else s.raise Pg.VGL 3

/-- VIGIL_MESSAGE (R531, R532). -/
def execVigilMessage (src : MsgSrc) (bytes : Bytes) (s : State) : Host.Outcome State Fault Refusal :=
  s.run (fun c => (c.take 8 src bytes).vigilIn bytes)

/-- The almanac time of the tick at which a trigger that waits latches: the next tick, or the first at or after the armed time. [log 24, PRESUMED] -/
def Chip.latchTick (s : Chip) : Option Nat :=
  if s.vgl.now || s.vgl.fault then some (s.alm.now + 10)
  else match s.vgl.armed with
    | some (t, _) => if s.alm.valid then some (max (s.alm.now + 10) (10 * ceilDiv t 10)) else none
    | none => none

/-- The tick of a trigger comes, where it falls in the current step; one on the next step's first tick latches in row 1 of its window. [log 24, PRESUMED] -/
def Chip.vigilLatch (s : Chip) : Chip :=
  match s.latchTick with
  | some t => if t < s.nextStart then (s.advance t).latchDue else s
  | none => s

/-- VIGIL_LATCH (R530, R531). -/
def execVigilLatch (s : State) : Host.Outcome State Fault Refusal := s.run Chip.vigilLatch

end Sys2Proof.Machine
end

