-- ==== Sys2Proof/Machine/Security.lean ====
section
/-! DEFINITION. Meanings of the commands of security (15) that reach no register page through a session: firmware, fuses, bundles, credentials,
pair handshakes, reports, and the DOE mailbox. -/

namespace Sys2Proof.Machine

open Sys2Proof

/-- What a command does to the chip, given the fuses. -/
def State.runF (s : State) (f : Fuses → Chip → Chip) : Host.Outcome State Fault Refusal := s.run (f s.fuses)

/-! ## Firmware and fuses -/

/-- FIRMWARE_GO (R522). -/
def execFirmwareGo (acc : Access) (s : State) : Host.Outcome State Fault Refusal :=
  s.run (fun c => c.command acc Pg.GLB (Reg.GLB_FW_CTRL % 0x1000) 1 true [] id Chip.firmwareGo)

/-- FIRMWARE_CHECKED (R458, R461): the image as the device read it, and the bytes at SEC_CERT_ADDR. -/
def execFirmwareChecked (image cert : Bytes) (s : State) : Host.Outcome State Fault Refusal := s.runF (fun f c => c.firmwareChecked f image cert)

/-- FUSE_OWNER_KEY (R459): the bytes at SEC_FUSE_ADDR. -/
def execFuseOwnerKey (acc : Access) (digest : Bytes) (s : State) : Host.Outcome State Fault Refusal := .next (s.fuseWrite acc 1 digest)

/-- FUSE_MANAGEMENT_ROOT (R459): the bytes at SEC_FUSE_ADDR. -/
def execFuseManagementRoot (acc : Access) (digest : Bytes) (s : State) : Host.Outcome State Fault Refusal := .next (s.fuseWrite acc 2 digest)

/-- RAISE_MIN_SVN (R459). -/
def execRaiseMinSvn (acc : Access) (s : State) : Host.Outcome State Fault Refusal := .next (s.fuseWrite acc 3 [])

/-! ## Bundles -/

/-- LOAD_FINISHED (R473): the bundle at SCH_RES_ADDR. -/
def execLoadFinished (part : Nat) (adapter : Bool) (id' : Nat) (bundle : Bytes) (s : State) : Host.Outcome State Fault Refusal :=
  s.run (fun c => c.loadFinished part adapter id' bundle)

/-- SEC_SEAL_DONE (R474). -/
def execSecSealDone (s : State) : Host.Outcome State Fault Refusal := s.run Chip.sealDone

/-! ## Credentials and pair handshakes -/

/-- CREDENTIAL_VERIFIED (R462, R464, R467). -/
def execCredentialVerified (whose : CredFor) (s : State) : Host.Outcome State Fault Refusal :=
  s.run (fun c => match whose with
    | .link l => c.linkCredential l
    | .pair dev => c.pairVerified dev)

/-- PAIR_CREDENTIAL (R466, R467). -/
def execPairCredential (src : MsgSrc) (bytes : Bytes) (s : State) : Host.Outcome State Fault Refusal :=
  s.run (fun c => (c.take 8 src bytes).pairCredential src bytes)

/-- PAIR_ENCAPSULATION (R466, R467). -/
def execPairEncapsulation (src : MsgSrc) (bytes : Bytes) (s : State) : Host.Outcome State Fault Refusal :=
  s.run (fun c => (c.take 8 src bytes).pairEncapsulation src bytes)

/-- PAIR_CONFIRM (R466, R467). -/
def execPairConfirm (src : MsgSrc) (bytes : Bytes) (s : State) : Host.Outcome State Fault Refusal :=
  s.run (fun c => (c.take 8 src bytes).pairConfirm src bytes)

/-- HANDSHAKE_TIMEOUT (R467). [log 4, DESIGN CHOICE] -/
def execHandshakeTimeout (dev : Nat) (s : State) : Host.Outcome State Fault Refusal := s.run (fun c => c.shakeTimeout dev)

/-! ## Reports -/

/-- ATTESTATION_REQUEST (R476). -/
def execAttestationRequest (acc : Access) (s : State) : Host.Outcome State Fault Refusal :=
  s.run (fun c => c.command acc Pg.SEC (Reg.SEC_ATT_CTRL % 0x1000) 1 true [] id (fun c => c.attGo acc.writer))

/-- REPORT_SIGNED (R476). -/
def execReportSigned (s : State) : Host.Outcome State Fault Refusal := s.onMgmt (fun c => (c.reportSigned s.fuses).settle)

/-- HELLO (R478). -/
def execHello (datagram : Bytes) (s : State) : Host.Outcome State Fault Refusal := s.onMgmt (fun c => c.hello datagram)

/-- SESSION_TIMEOUT (R479). -/
def execSessionTimeout (session : Nat) (s : State) : Host.Outcome State Fault Refusal :=
  s.onMgmt (fun c => c.setSessions (fun l => l.filter (fun x => x.id != session)))

/-! ## The DOE mailbox (R480–R482) -/

/-- A request on the DOE mailbox. -/
def State.doe (s : State) (f : Chip → Chip) : Host.Outcome State Fault Refusal := s.run (fun c => if c.doeUp then f c else c)

/-- GET_VERSION (R480). -/
def execGetVersion (s : State) : Host.Outcome State Fault Refusal := s.doe (fun c => c.emit (.spdm (Config.spdmAnswer 0x84)))

/-- GET_CAPABILITIES (R480). -/
def execGetCapabilities (s : State) : Host.Outcome State Fault Refusal := s.doe (fun c => c.emit (.spdm (Config.spdmAnswer 0xE1)))

/-- UNSUPPORTED_SPDM_REQUEST (R480): answered with ERROR (0x7F), UnsupportedRequest (0x07) and the request's code, as SPDM numbers them. -/
def execUnsupportedSpdmRequest (code : Nat) (s : State) : Host.Outcome State Fault Refusal :=
  s.doe (fun c => c.emit (.spdm ([0x7F, 0x07] ++ toLE 1 code)))

/-- SPDM_REPORT (R480): the request's payload. -/
def execSpdmReport (payload : Bytes) (s : State) : Host.Outcome State Fault Refusal := s.doe (fun c => c.spdmReport payload)

/-- KEY_OPEN (R480, R481). -/
def execKeyOpen (payload : Bytes) (s : State) : Host.Outcome State Fault Refusal := s.doe (fun c => c.keyOpen payload)

/-- KEY_MESSAGE (R481, R482). -/
def execKeyMessage (payload : Bytes) (s : State) : Host.Outcome State Fault Refusal := s.doe (fun c => c.keyMessage payload)

/-- KEY_CLOSE (R480, R481). -/
def execKeyClose (payload : Bytes) (s : State) : Host.Outcome State Fault Refusal := s.doe (fun c => c.keyClose payload)

/-- KEY_SESSION_TIMEOUT (R481). -/
def execKeySessionTimeout (s : State) : Host.Outcome State Fault Refusal := s.run Chip.keyEnd

end Sys2Proof.Machine
end

