-- ==== Sys2Proof/Machine/GateOps.lean ====
section
/-! DEFINITION. The egress side of a link at work (13): gates (R405–R408), the policer (R413, R414), fair queueing (R415, R416), sampling
(R417, R418). -/

namespace Sys2Proof.Machine

open Sys2Proof

/-! ## Gates -/

/-- Is a calendar entry one that can be active: its owner a partition, forwarding or shared, the entry neither truncated nor of a deleted
partition? -/
def Chip.calLive (s : Chip) (l i : Nat) : Bool :=
  decide ((s.calCur l i).owner ≤ 9) && !(s.shp l).trunc.contains i && !(s.shp l).dead.contains i

/-- Is an entry active at a step offset (R405)? -/
def CalEntry.activeAt (e : CalEntry) (p : Plan) (cyc off : Nat) : Bool :=
  let r := off % max 1 cyc
  decide (e.start ≤ r) && decide (r < e.start + e.len) && bit e.phases (p.phase off)

/-- The phases of a plan as intervals of offsets, with their numbers (R44). -/
def Plan.intervals (p : Plan) : List (Nat × Nat × Nat) := [(0, p.w, 0), (p.w, p.x, 1), (p.x, p.s, 2), (p.s, p.c, 3)]

/-- The offset at which an entry active at `off` ends: its own end, the end of the step, or the first phase that it does not name. [log 40, DEDUCED] -/
def CalEntry.endAfter (e : CalEntry) (p : Plan) (cyc off : Nat) : Nat :=
  let own := off + (e.start + e.len - off % max 1 cyc)
  let stops := (p.intervals.filter (fun x => decide (off < x.1) && decide (x.1 < x.2.1) && !bit e.phases x.2.2)).map (·.1)
  stops.foldl min (min own p.c)

/-- The first offset at or after `off` at which an entry is active in this step. -/
def CalEntry.nextStart (e : CalEntry) (p : Plan) (cyc off : Nat) : Option Nat :=
  let cyc := max 1 cyc
  let first := fun (x : Nat × Nat × Nat) =>
    let lo := max x.1 off
    let r := lo % cyc
    let t := if r < e.start then lo - r + e.start else if r < e.start + e.len then lo else lo - r + cyc + e.start
    if bit e.phases x.2.2 && 0 < e.len && e.start < cyc && t < x.2.1 then some t else none
  (p.intervals.filterMap first).foldl (fun b t => some (match b with | some u => min u t | none => t)) none

/-- What may send at an offset: the queues, the traffic classes, and the offset by whose start a frame must end; none where every queue may
send at every moment. The first component says whether an entry is active. -/
structure Gate where
  entry  : Bool
  queues : List Nat
  tcs    : Nat
  ends   : Option Nat
  deriving DecidableEq, Repr

/-- The queues of an owner (R406). -/
def ownerQueues (o : Nat) : List Nat :=
  if o < 8 then [3 * o, 3 * o + 1, 3 * o + 2] else if o = 8 then (List.range 8).map (· + 24) else List.range 32

/-- The gate of a link now (R406). [log 40, DEDUCED] -/
def Chip.gate (s : Chip) (l : Nat) : Gate :=
  let pg := Pg.cal l
  if !s.active pg (F.CAL_CFG_EN.on pg) then ⟨false, List.range 32, 255, none⟩
  else
    let p := s.plan
    let cyc := s.calCycle l
    let off := s.offset
    let live := (below 64 (s.calLive l)).map (s.calCur l)
    match live.find? (fun e => e.activeAt p cyc off) with
    | some e => ⟨true, ownerQueues e.owner, e.tcs, some (e.endAfter p cyc off)⟩
    | none =>
      let next := fun (o : Nat) => (live.filterMap (fun e => e.nextStart p cyc o)).foldl (fun (b : Option Nat) t => some (match b with | some u => min u t | none => t)) none
      let ends := match next off with
        | some t => some t
        | none => (next 0).map (· + p.c)
      ⟨false, if s.rf (F.CAL_CFG_OPEN_GAPS.on pg) = 1 then List.range 32 else [], 255, ends⟩

/-- Ticks that `n` bytes take on a link: 156.25 bytes a tick and lane at version 2, 125 at version 1 (R330, R407). [log 40, DEDUCED] -/
def Chip.frameTicks (s : Chip) (l n : Nat) : Nat :=
  let w := max 1 (s.width l)
  if s.linkVer l = 1 then ceilDiv n (125 * w) else ceilDiv (n * 100) (15625 * w)

/-! ## The policer -/

/-- A parameter of a queue. -/
def Chip.queueParam (s : Chip) (l q : Nat) (f : Fld) : Nat := s.rf ((f.plus (16 * q)).on (Pg.shp l))

/-- Depth of the committed bucket in bytes. -/
def Chip.committedDepth (s : Chip) (l q : Nat) : Nat := 1024 * max 5 (s.queueParam l q F.SHP_BURST_CBS)

/-- Depth of the peak bucket in bytes. -/
def Chip.peakDepth (s : Chip) (l q : Nat) : Nat := 1024 * max 5 (s.queueParam l q F.SHP_BURST_PBS)

/-- The committed bucket. -/
def Chip.committedBucket (s : Chip) (l q : Nat) : Nat := (s.shp l).cbucket.getD q (s.committedDepth l q)

/-- The peak bucket. -/
def Chip.peakBucket (s : Chip) (l q : Nat) : Nat := (s.shp l).pbucket.getD q (s.peakDepth l q)

/-- Store a bucket; a full one is not listed. -/
def Chip.setBuckets (s : Chip) (l q c p : Nat) : Chip :=
  let dc := s.committedDepth l q
  let dp := s.peakDepth l q
  s.updShp l (fun x => { x with cbucket := if dc ≤ c then x.cbucket.del q else x.cbucket.put q c
                                pbucket := if dp ≤ p then x.pbucket.del q else x.pbucket.put q p })

/-- The class of a head frame (R414). -/
inductive FrameClass where
  | committed | excess | held
  deriving DecidableEq, Repr

/-- Class of a head frame of `n` bytes. -/
def Chip.classify (s : Chip) (l q n : Nat) : FrameClass :=
  let peakOk := s.queueParam l q F.SHP_RATE_PIR == 0 || decide (n ≤ s.peakBucket l q)
  if s.queueParam l q F.SHP_RATE_CIR != 0 && decide (n ≤ s.committedBucket l q) && peakOk then .committed
  else if peakOk then .excess
  else .held

/-- What a started frame takes from the buckets. -/
def Chip.takeTokens (s : Chip) (l q n : Nat) : Chip :=
  let c := s.committedBucket l q
  let p := s.peakBucket l q
  s.setBuckets l q (if s.classify l q n = .committed then c - n else c) (if s.queueParam l q F.SHP_RATE_PIR = 0 then p else p - n)

/-- Every 100 ticks each bucket gains its rate, up to its depth (R413). [log 40, DEDUCED] -/
def Chip.refill (s : Chip) : Chip :=
  s.each s.shps.keys (fun s l =>
    let x := s.shp l
    s.each (below 32 (fun q => (x.cbucket.find q).isSome || (x.pbucket.find q).isSome)) (fun s q =>
      s.setBuckets l q (s.committedBucket l q + s.queueParam l q F.SHP_RATE_CIR) (s.peakBucket l q + s.queueParam l q F.SHP_RATE_PIR)))

/-! ## The choice of a frame (R416) -/

/-- The better of two candidates (tag, queue): the smaller tag, then the lower queue. -/
def betterTag (a b : Nat × Nat) : Nat × Nat := if tagBefore b.1 a.1 then b else a

/-- The smallest tag of a list of candidates in rising order of queues. -/
def bestTag : List (Nat × Nat) → Option (Nat × Nat)
  | [] => none
  | x :: rest => some (rest.foldl betterTag x)

/-- Does the head frame of a queue pass the gate (R406) and fit (R407)? -/
def Chip.passes (s : Chip) (l : Nat) (g : Gate) (q : Nat) : Bool :=
  match (s.shp l).frames q with
  | [] => false
  | f :: _ => g.queues.contains q && (!g.entry || bit g.tcs f.tc) && (match g.ends with
    | some e => decide (s.offset + s.frameTicks l f.size ≤ e)
    | none => true)

/-- Heads that pass the gate, of one class, as (tag, queue). -/
def Chip.headsOf (s : Chip) (l : Nat) (g : Gate) (c : FrameClass) : List (Nat × Nat) :=
  (below 32 (fun q => s.passes l g q && (match (s.shp l).frames q with
    | f :: _ => s.classify l q f.size == c
    | [] => false))).map (fun q => ((s.shp l).tags.getD q 0, q))

/-- The queue whose head frame starts. -/
def Chip.choose (s : Chip) (l : Nat) (g : Gate) : Option Nat :=
  match bestTag (s.headsOf l g .committed) with
  | some x => some x.2
  | none => (bestTag (s.headsOf l g .excess)).map (·.2)

/-- Heads that are turned away note why, for the sampler (R418). -/
def Chip.noteWaits (s : Chip) (l : Nat) (g : Gate) : Chip :=
  s.each (below 32 (fun q => !((s.shp l).frames q).isEmpty)) (fun s q =>
    s.updShp l (fun x => { x with queues := x.queues.upd q [] (fun fs => match fs with
      | f :: rest =>
        if !s.passes l g q then { f with gate := true } :: rest
        else if s.classify l q f.size = .held then { f with held := true } :: rest else f :: rest
      | [] => []) }))

/-! ## A frame boundary -/

/-- The frame that has just ended ran past the end of its entry (R419)? -/
def Chip.noteCross (s : Chip) (l : Nat) : Chip :=
  match (s.link l).busy with
  | none => s
  | some (start, bytes, ends) =>
    let past := decide (ends < max (s.alm.now / 10) (start + s.frameTicks l bytes))
    let s := s.updLink l (fun k => { k with busy := none })
    if past then (s.cnt (regAt (Pg.cal l) Reg.CAL_CROSS)).raise (Pg.cal l) 2 else s

/-- A frame of `n` bytes starts while an entry is active: its end is watched. -/
def Chip.watchEnd (s : Chip) (l : Nat) (g : Gate) (n : Nat) : Chip :=
  match g.entry, g.ends with
  | true, some e =>
    let now := s.alm.now / 10
    s.updLink l (fun k => { k with busy := some (now, n, now + (e - s.offset)) })
  | _, _ => s

/-- A data frame starts (R414, R415): it leaves its queue with LINK_SEQ and CRC. -/
def Chip.startFrame (s : Chip) (l : Nat) (g : Gate) (q : Nat) (f : QFrame) : Chip :=
  let s := s.takeTokens l q f.size
  let now := s.alm.now / 10
  let s := s.updShp l (fun x => { x with vtime := x.tags.getD q 0, queues := x.queues.upd q [] (·.drop 1) })
  let s := s.updSample l q (fun y => { y with sent := min 65535 (y.sent + 1), maxAge := max y.maxAge (now - f.since) })
  let s := (s.tagHead l q).watchEnd l g f.size
  let s := if le f.bytes 10 2 = s.selfDev then s.setFlt (fun x => { x with sentTo := x.sentTo.put (le f.bytes 12 2) s.alm.now }) else s
  s.frameOut l (withCrc (patch f.bytes 6 (toLE 2 (s.link l).txSeq)))

/-- A frame boundary on a link: a control frame that is ready (R337), a Test frame in SELFTEST (R350), or the data frame of R416. -/
def Chip.frameBoundary (s : Chip) (l : Nat) : Chip :=
  let s := s.noteCross l
  let g := s.gate l
  let up := s.linkUp l || (s.lnkState l == Ls.training && decide (5 ≤ (s.link l).stage))
  if !up then s
  else match (s.link l).ctl with
    | (type, payload) :: rest =>
      ((s.updLink l (fun k => { k with ctl := rest })).watchEnd l g (payload.length + 52)).ctlNow l type payload
    | [] =>
      if s.lnkState l = Ls.selftest then s.ctlNow l 5 (testPayload ((s.link l).txSeq % 65536))
      else if !s.admitted l || !s.locked then s
      else
        let choice := s.choose l g
        let s := s.noteWaits l g
        match choice with
        | none => s
        | some q =>
          match (s.shp l).frames q with
          | f :: _ => s.startFrame l g q f
          | [] => s

/-! ## The sampler (R417, R418) -/

/-- A record of a queue. -/
def Chip.sampleRecord (s : Chip) (l q : Nat) : Bytes :=
  let x := s.shp l
  let c := x.samples.getD q {}
  let head := (x.frames q).head?
  let age := match head with
    | some f => s.alm.now / 10 - f.since
    | none => 0
  let flags := match head with
    | some f => b2n f.gate + 2 * b2n f.held
    | none => 0
  toLE 8 s.step ++ toLE 4 s.offset ++ toLE 1 l ++ toLE 1 q ++ toLE 2 c.sent ++ toLE 4 (x.queued q) ++ toLE 4 age ++ toLE 4 c.maxAge
    ++ toLE 1 (flags + 4 * b2n c.full) ++ zeros 3

/-- Write a record where the ring lies: host memory, or a runtime data object (R277); false where there is nothing. [log 40, DEDUCED] -/
def Chip.sampleWrite (s : Chip) (a : Nat) (b : Bytes) : Chip × Bool :=
  let data := match s.desc ((a - objBase) / 2 ^ 36) with
    | some d => d.kind == 1 && d.use == 0
    | none => false
  match s.resolve a with
  | .host hpa => (s.hostWrite hpa b, true)
  | .phys p => if objBase ≤ a && data then ((s.writePhys false p b).markDirty p b.length, true) else (s, false)
  | _ => (s, false)

/-- Is a ring size one that R417 allows? -/
def ringSizeOk (n : Nat) : Bool := decide (16 ≤ n) && decide (n ≤ 65536) && n &&& (n - 1) == 0

/-- One interval of a link's sampler. -/
def Chip.sample (s : Chip) (l : Nat) : Chip :=
  let pg := Pg.shp l
  let size := s.rd (regAt pg Reg.SHP_SMP_SIZE)
  if s.rd (regAt pg Reg.SHP_SMP_INT) = 0 || !ringSizeOk size then s
  else
    s.each (below 32 (fun q => bit (s.rd (regAt pg Reg.SHP_SMP_MASK)) q)) (fun s q =>
      if (s.shp l).stopped then s
      else
        let n := s.rd (regAt pg Reg.SHP_SMP_WIDX)
        let base := s.rd64 (regAt pg Reg.SHP_SMP_BASE_LO) / 32 * 32
        match s.sampleWrite (base + 32 * (n % size)) (s.sampleRecord l q) with
        | (s, true) => (s.wr (regAt pg Reg.SHP_SMP_WIDX) ((n + 1) % 2 ^ 32)).updShp l (fun x => { x with samples := x.samples.del q })
        | (s, false) => (s.updShp l (fun x => { x with stopped := true })).raise pg 2)

end Sys2Proof.Machine
end

