-- ==== Sys2Proof/Machine/Shaping.lean ====
section
/-! DEFINITION. Meanings of the commands of the queues, calendars and policers (13). -/

namespace Sys2Proof.Machine

open Sys2Proof

/-- FRAME_BOUNDARY (R337, R406, R416). -/
def execFrameBoundary (link : Nat) (s : State) : Host.Outcome State Fault Refusal := s.runOn (link < 48) (fun c => c.frameBoundary link)

/-- BUCKET_REFILL (R413). -/
def execBucketRefill (s : State) : Host.Outcome State Fault Refusal := s.run Chip.refill

/-- CALENDAR_COMMIT (R409): the check is made in row 9. -/
def execCalendarCommit (acc : Access) (link : Nat) (s : State) : Host.Outcome State Fault Refusal :=
  s.runOn (link < 48) (fun c => c.command acc (Pg.cal link) Reg.CAL_CTRL 1 false [] id (fun c =>
    (c.wf (F.CAL_STAT_PENDING.on (Pg.cal link)) 1).updShp link (fun x => { x with writer := some acc.writer })))

/-- POLICER_WRITE (R413): SHP_RATE_q, or SHP_BURST_q, and both buckets full. -/
def execPolicerWrite (acc : Access) (link queue : Nat) (burst : Bool) (value : Nat) (s : State) : Host.Outcome State Fault Refusal :=
  s.runOn (link < 48 && queue < 32) (fun c =>
    let off := (if burst then Reg.SHP_BURST else Reg.SHP_RATE) + 16 * queue
    c.write acc (Pg.shp link) off value false [] (fun c =>
      (c.wr (regAt (Pg.shp link) off) value).updShp link (fun x => { x with cbucket := x.cbucket.del queue, pbucket := x.pbucket.del queue })))

/-- SAMPLER (R417). -/
def execSampler (link : Nat) (s : State) : Host.Outcome State Fault Refusal := s.runOn (link < 48) (fun c => c.sample link)

end Sys2Proof.Machine
end

