-- ==== Sys2Proof/Machine/RegOps.lean ====
section
/-! DEFINITION. Shared operations of the register pages (18): reads with their side effects (R68, R274, R561), and what an accepted write of a
register stores and sets off (R542–R548 and the register tables of the chapters). -/

namespace Sys2Proof.Machine

open Sys2Proof

/-! ## Reads -/

/-- The ALM _LO registers, whose read latches the _HI register after them (R68). [log 18, DEDUCED] -/
def almLo : List Nat :=
  [Reg.ALM_NOW_LO, Reg.ALM_STEP_LO, Reg.ALM_PLAN_STEP_LO, Reg.ALM_BASE_TIME_LO, Reg.ALM_BASE_STEP_LO, Reg.ALM_MASTER_SERIAL_LO, Reg.ALM_SYNC_TOD_LO]

/-- What a read of the register at a BAR0 address returns. Until stage 8 every page but GLB and SEC reads as zero (R521). -/
def Chip.readValue (s : Chip) (a : Nat) : Nat :=
  if !s.pageUp (a / 0x1000) then 0
  else match s.alm.loLatch.find a with
    | some v => v
    | none => s.view a

/-- What a read leaves: a latched _HI register, or a cleared report. [log 18, DEDUCED] -/
def Chip.afterRead (s : Chip) (a : Nat) : Chip :=
  if !s.pageUp (a / 0x1000) then s
  else if almLo.contains a then s.setAlm (fun x => { x with loLatch := x.loLatch.put (a + 4) (s.view (a + 4)) })
  else if a = Reg.PWR_PEAK_W then s.wr a 0
  else if a % 0x1000 = Reg.SDG_REF_STAT && Pg.sdg 0 ≤ a / 0x1000 && a / 0x1000 < Pg.sdg 24 then s.wf (F.SDG_REF_STAT_MAXC.on (a / 0x1000)) 0
  else s

/-- A 4-byte read. -/
def Chip.readReg (s : Chip) (a : Nat) : Chip × Nat := (s.afterRead a, s.readValue a)

/-- A read of `n` words in ascending offset, each a single 4-byte read. -/
def Chip.readRegs : (n a : Nat) → Chip → Chip × List Nat
  | 0,     _, s => (s, [])
  | n + 1, a, s =>
    let (s, v) := s.readReg a
    let (s, l) := Chip.readRegs n (a + 4) s
    (s, v :: l)

/-- Is an access one that BAR0 serves (R546)? [log 16, DEDUCED] -/
def served (addr size : Nat) : Bool := (size == 4 && addr % 4 == 0) || (size == 8 && addr % 8 == 0)

/-- A read by the host: answered with zero and recorded where its size or alignment is not served (R546); no answer in D3hot (R524). [log 16, DEDUCED] [log 17, DEDUCED] -/
def Chip.hostRegRead (s : Chip) (addr size : Nat) : Chip :=
  if s.d3hot then s
  else if served addr size then
    let (s, l) := Chip.readRegs (size / 4) addr s
    s.emit (.regData (l.getD 0 0 + l.getD 1 0 * 2 ^ 32))
  else (s.logWrite .host addr 0 5).emit (.regData 0)

/-! ## Who may write a register (R547–R549, R477) -/

/-- What a write of a register needs beside the rights to its page: it is shared by design, only an admin principal makes it, and the
partitions it names. -/
structure Rule where
  shared : Bool := false
  admin  : Bool := false
  parts  : List Nat := []
  deriving DecidableEq, Repr

/-- Partitions that the bytes of an ownership register name (R557, R281). -/
def ownedBytes (v : Nat) : List Nat := ((List.range 4).filter (fun j => bit v (8 * j + 7))).map (fun j => bits v (8 * j + 2) (8 * j))

/-- Index of an address in an array of registers. -/
def inArray (a base count stride : Nat) : Bool := decide (base ≤ a) && decide (a < base + count * stride) && (a - base) % stride == 0

/-- Arrays of eight per-partition registers, by their first address and stride. -/
def partArrays : List (Nat × Nat) :=
  [(Reg.SEC_PART_POLICY, 4), (Reg.RTB_RANGE_PEND, 4), (Reg.RTB_JRN_CAND_LO, 8), (Reg.RTB_JRN_CAND_LO + 4, 8), (Reg.PFX_PART_CFG, 4), (Reg.PFX_QUOTA, 4)
   , (Reg.PFX_LOW_WATER, 4), (Reg.SCH_PART_CFG, 4), (Reg.SCH_RES_QUOTA, 4), (Reg.SCH_GANG_MODEL, 4)]

/-- The partition whose register lies at an address of a single-instance page. [log 20, DEDUCED] -/
def partOf (a : Nat) : List Nat := partArrays.filterMap (fun x => if inArray a x.1 8 x.2 then some ((a - x.1) / x.2) else none)

/-- Registers shared by design (R547): GLB_PART_PEND, GLB_LT_OWN_PEND, GLB_FW_*, PWR_LIMIT, XPT_WIN_ADDR, XPT_WIN_CTRL, SEC_CERT_ADDR, SEC_ATT_*,
SEC_SEAL_*, SEC_FUSE_ADDR, SEC_PART_POLICY.BUCKET. -/
def sharedReg (a : Nat) : Bool :=
  a == Reg.GLB_PART_PEND || inArray a Reg.GLB_LT_OWN_PEND 16 4 || inArray a Reg.GLB_FW_ADDR_LO 5 4 || a == Reg.PWR_LIMIT || inArray a Reg.XPT_WIN_ADDR_LO 3 4
    || inArray a Reg.SEC_CERT_ADDR_LO 5 4 || inArray a Reg.SEC_FUSE_ADDR_LO 2 4 || inArray a Reg.SEC_ATT_NONCE 8 4 || inArray a Reg.SEC_SEAL_ADDR_LO 5 4
    || inArray a Reg.SEC_PART_POLICY 8 4

/-- Registers that only an admin principal writes (R477): OWNER of every page, principal and signer slots, SEC_MOD_POLICY. -/
def adminReg (a : Nat) : Bool :=
  a % 0x1000 == Reg.OWNER || a == Reg.SEC_MOD_POLICY || inArray a Reg.SEC_PRIN_CFG 8 4 || inArray a Reg.SEC_PRIN_DIGEST 128 4
    || inArray a Reg.SEC_SIGNER 128 4 || a == Reg.SEC_SIGNER_VALID

/-- The rule for a write of `val` to an address. [log 20, DEDUCED] -/
def Chip.ruleOf (s : Chip) (a val : Nat) : Rule :=
  let off := a % 0x1000
  let parts :=
    match blkOf (a / 0x1000) with
    | some (.mem, _) => if inArray off Reg.MEM_CG_PEND 8 4 && bit val 7 then [bits val 2 0] else []
    | some (.shp, _) => if inArray off Reg.SHP_QMAP 8 4 then [(off - Reg.SHP_QMAP) / 4] else []
    | _ =>
      if a = Reg.GLB_PART_PEND then below 8 (fun p => bit val p != bit (s.rd a) p)
      else if inArray a Reg.GLB_LT_OWN_PEND 16 4 then ownedBytes val
      else if inArray a Reg.SCH_SLICE_HI 192 8 then (if bit val 31 then [bits val 26 24] else [])
      else partOf a
  { shared := sharedReg a, admin := adminReg a, parts := parts }

/-- A write of `val` to a register that is written and read back, under its rule. [log 20, DEDUCED] -/
def Chip.ruled (s : Chip) (acc : Access) (a val : Nat) (run : Chip → Chip) : Chip :=
  let r := s.ruleOf a val
  let pg := a / 0x1000
  let rank := s.rank acc.writer
  if r.admin && (rank == .operator || rank == .host) then
    if s.reaches acc.writer pg then s.logWrite acc.writer a val 1 else s
  else s.write acc pg (a % 0x1000) val (r.shared || r.admin) r.parts run

/-! ## What a write stores and sets off -/

/-- The bits of a register that a write stores, with the rest as they are. -/
def Chip.storeBits (s : Chip) (a mask val : Nat) : Chip :=
  let v := s.rd a
  s.wr a (v - (v &&& mask) + (val &&& mask))

/-- Bits written 1 clear (R16). -/
def Chip.clearBits (s : Chip) (a val : Nat) : Chip := let v := s.rd a; s.wr a (v - (v &&& val))

/-- BLK_CTRL.ENABLE (R545). [log 61, DEDUCED] -/
def Chip.setEnable (s : Chip) (pg : Nat) (on : Bool) : Chip :=
  let s := s.wf (F.BLK_CTRL_ENABLE.on pg) (b2n on)
  if on then { s with glb := { s.glb with stopped := s.glb.stopped.filter (· != pg) } } else s

/-- BLK_CTRL.DRAIN (R545). -/
def Chip.setDrain (s : Chip) (pg : Nat) (on : Bool) : Chip := s.wf (F.BLK_CTRL_DRAIN.on pg) (b2n on)

/-- BLK_CTRL.QUIESCE (R545): 1 is accepted only while no partition belongs to a composition. [log 23, DEDUCED] -/
def Chip.setQuiesce (s : Chip) (pg : Nat) (on : Bool) : Chip :=
  if on then (if s.inComposition then s.raise Pg.GLB 6 else s.wf (F.BLK_CTRL_QUIESCE.on pg) 1)
  else
    let s := (s.wf (F.BLK_CTRL_QUIESCE.on pg) 0).wf (F.BLK_STAT_QUIESCED.on pg) 0
    { s with glb := { s.glb with held := s.glb.held.filter (· != pg) } }

/-- A link whose page turns its training off goes OFF (R338, R350). -/
def Chip.linkOff (s : Chip) (l : Nat) : Chip :=
  (s.leave l Ls.off false).setFlt (fun f => { f with returns := f.returns.filter (fun r => r.chan != .link l) })

/-- What turning a block on or off sets off: the CXL page writes what was held (R438, R445), a link trains or goes OFF (R339). -/
def Chip.switched (s old : Chip) (b : Blk) (pg inst : Nat) : Chip :=
  match b with
  | .cxl => if !old.cxlOn && s.cxlOn then s.cqFlush.drain else s
  | .lnk =>
    let was := old.active pg (F.LNK_CFG_EN.on pg)
    let on := s.active pg (F.LNK_CFG_EN.on pg)
    if !was && on && s.lnkState inst = Ls.off then s.startTraining inst
    else if !on && s.lnkState inst ≠ Ls.off && s.lnkState inst ≠ Ls.retired then s.linkOff inst
    else s
  | _ => s

/-- What reads as part of a page's registers and is held beside them returns to its reset state with them. [log 25, DEDUCED] -/
def Chip.resetShown (s : Chip) (b : Blk) (inst : Nat) : Chip :=
  match b with
  | .glb => { s with glb := { s.glb with ownLog := [], logged := 0, dirty := [] } }
  | .alm => s.setAlm (fun x => { x with loLatch := [] })
  | .xpt => s.setXpt (fun x => { x with routes := [] })
  | .rtb => { s with rtb := { s.rtb with peek := [] } }
  | .flt => s.setFlt (fun f => { f with log := [] })
  | .mem => s.setMemu (fun m => { m with errRing := m.errRing.filter (fun x => x.1 / 16 != inst) })
  | .sch => s.setSch (fun x => { x with resNamed := none })
  | .shp => s.updShp inst (fun x => { x with cbucket := [], pbucket := [] })
  | _ => s

/-- BLK_CTRL.RESET (R545): block-specific registers return to their reset values, RWS fields apart. What a register reports of a unit that is
retired, and of the fuses, it goes on reporting. [log 25, DEDUCED] -/
def Chip.resetPage (s : Chip) (f : Fuses) (b : Blk) (pg inst : Nat) : Chip :=
  if s.rf (F.BLK_STAT_QUIESCED.on pg) = 0 then s.raise Pg.GLB 6
  else
    let s := if b = .lnk && s.lnkState inst ≠ Ls.off && s.lnkState inst ≠ Ls.retired then s.linkOff inst else s
    let kept := fun (a : Nat) => a / 0x1000 != pg || [Reg.BLK_CTRL, Reg.BLK_STAT, Reg.ERR_MASK, Reg.INT_EN, Reg.WIN_CFG, Reg.OWNER].contains (a % 0x1000)
    let mine := warmRegs (s.regs.filter (fun x => x.1 / 0x1000 == pg && decide (0x100 ≤ x.1 % 0x1000)))
    let regs := s.regs.filter (fun x => kept x.1)
    let t : Chip := { s with regs := mine.foldl (fun m (x : Nat × Word) => SMap.put m x.1 x.2) regs }
    (((t.resetShown b inst).keepUnits s).showFuses f).switched s b pg inst

/-- A write of the whole of BLK_CTRL. -/
def Chip.blkCtrl (s : Chip) (f : Fuses) (b : Blk) (pg inst val : Nat) : Chip :=
  let t := if bit val 3 then s.resetPage f b pg inst else s
  (((t.setEnable pg (bit val 0)).setDrain pg (bit val 1)).setQuiesce pg (bit val 2)).switched t b pg inst

/-- A write to ERR_STAT or INT_STAT: bits written 1 clear (R16), but for those in `keep`. [log 19, DESIGN CHOICE] [log 58, DEDUCED] -/
def Chip.writeOneClear (s : Chip) (pg : Nat) (int : Bool) (val keep : Nat) : Chip :=
  s.clearBits (regAt pg (if int then Reg.INT_STAT else Reg.ERR_STAT)) (val - (val &&& keep))

/-- The bits of ERR_STAT, or of INT_STAT, that the error events of a cycle set (R544). [log 58, DEDUCED] -/
def Chip.eventBits (s : Chip) (pg : Nat) (int : Bool) (hw : Nat) : Nat := if int then hw - (hw &&& s.rd (regAt pg Reg.ERR_MASK)) else hw

/-- A write to a header register (R542, R543). -/
def Chip.storeHeader (s : Chip) (f : Fuses) (b : Blk) (pg inst off val : Nat) : Chip :=
  let a := regAt pg off
  if off = Reg.BLK_CTRL then s.blkCtrl f b pg inst val
  else if off = Reg.ERR_STAT then s.writeOneClear pg false val 0
  else if off = Reg.INT_STAT then s.writeOneClear pg true val 0
  else if off = Reg.ERR_MASK then s.storeBits a 0xFFFFFFFF val
  else if off = Reg.INT_EN then Chip.signalIfNew (s.pagePending pg) (s.storeBits a 0xFFFFFFFF val) pg
  else if off = Reg.WIN_CFG then (if b.counted then s.storeBits a 0x0FFFFFFF val else s)
  else if off = Reg.OWNER then s.storeBits a 0x73 val
  else s

/-- Note that a pending resource register has been written (R104, R281, R559). -/
def Chip.noteDirty (s : Chip) (a : Nat) : Chip :=
  { s with glb := { s.glb with dirty := if s.glb.dirty.contains a then s.glb.dirty else s.glb.dirty ++ [a] } }

/-- Is a principal slot's register write accepted: slot 0 holds the fused root, and slots 1 to 7 are filled only once it is fused (R477)? [log 20, DEDUCED] -/
def Chip.slotOpen (s : Chip) (n : Nat) : Bool := n != 0 && s.rf F.SEC_STAT_MGMT_FUSED == 1

/-- The mask bits of SHP_SMP_MASK that a writer may set (R417): bits of partitions it may name, and 24 to 31 for the management network. -/
def Chip.sampleMask (s : Chip) (w : Writer) : Nat :=
  ((below 32 (fun q => if q < 24 then s.mayName w (q / 3) else w != .host)).map (2 ^ ·)).foldl (· + ·) 0

/-- A write to a block's own register that is stored: which bits, and what it sets off. -/
def Chip.storeOwn (s : Chip) (w : Writer) (b : Blk) (pg inst off soft val : Nat) : Chip :=
  let a := regAt pg off
  let plain := s.storeBits a soft val
  match b with
  | .alm => if a = Reg.ALM_ELECT then plain.reviewOwn else if inArray a Reg.ALM_CADENCE 6 4 && (s.rf F.ALM_PLAN_CTRL_ARM == 1 || s.inComposition) then s else plain
  | .rtb =>
    if a = Reg.RTB_JRN_SIZE && !s.rtb.journals.isEmpty then s
    else if inArray a Reg.RTB_RANGE_PEND 8 4 then plain.noteDirty a
    else plain
  | .pfx => if inArray a Reg.PFX_TBL_BASE_LO 3 4 && !s.pfx.table.isEmpty then s.raise Pg.PFX 4 else plain
  | .glb => if a = Reg.GLB_PART_PEND || inArray a Reg.GLB_LT_OWN_PEND 16 4 then plain.noteDirty a else plain
  | .mem => if inArray off Reg.MEM_CG_PEND 8 4 then plain.noteDirty a else plain
  | .xpt => if a = Reg.XPT_ROUTE_DATA then
      s.setXpt (fun x => { x with routes := x.routes.putOr (s.rd Reg.XPT_ROUTE_IDX % 65536) 0 (BitVec.ofNat 32 (val &&& soft)) })
    else plain
  | .sec =>
    if inArray a Reg.SEC_PART_POLICY 8 4 then
      if s.rank w = .admin then plain
      else
        let t := s.storeBits a 0x3 val
        if bits val 5 4 = bits (s.rd a) 5 4 then t else t.logWrite w a val 1
    else if a = Reg.SEC_MOD_POLICY then (if s.rtb.rtes.vals.any (fun r => r.state.live) then s else plain)
    else if inArray a Reg.SEC_PRIN_CFG 8 4 then (if s.slotOpen ((a - Reg.SEC_PRIN_CFG) / 4) then plain else s)
    else if inArray a Reg.SEC_PRIN_DIGEST 128 4 then (if s.slotOpen ((a - Reg.SEC_PRIN_DIGEST) / 64) then plain else s)
    else plain
  | .shp =>
    if off = Reg.SHP_SMP_MASK then s.storeBits a (s.sampleMask w) val
    else if off = Reg.SHP_SMP_INT then plain.updShp inst (fun x => { x with stopped := false })
    else plain
  | .cxl | .lnk => plain.switched s b pg inst
  | _ => plain

/-- A write to a register that is written and read back, or that is read only, by BAR0 address (R16, R546). [log 20, DEDUCED] -/
def Chip.storeReg (s : Chip) (f : Fuses) (acc : Access) (a val : Nat) : Chip :=
  let pg := a / 0x1000
  let off := a % 0x1000
  match blkOf pg with
  | none => s
  | some (b, inst) =>
    if off < 0x100 then s.ruled acc a val (fun s => s.storeHeader f b pg inst off val)
    else match rowHere b inst off with
      | some (r, _) => s.ruled acc a val (fun s => s.storeOwn acc.writer b pg inst off r.soft val)
      | none => s

end Sys2Proof.Machine
end

