-- ==== Sys2Proof/Machine/Registers.lean ====
section
/-! DEFINITION. Meanings of the register rows (18): reads with side effects, BLK_CTRL, RW1C registers, and a write to any register, which runs
the command of the register it reaches. -/

namespace Sys2Proof.Machine

open Sys2Proof

/-- The next state of an outcome; the state itself where there is none. -/
def nextOf (s : State) : Host.Outcome State Fault Refusal → State
  | .next t => t
  | _ => s

/-- What a write finds at the device address in an address register: the bytes that host memory holds there. -/
def State.found (s : State) (t3 : List (Nat × Bytes)) (lo : Nat) : Bytes :=
  let a := s.chip.rd64 lo
  ((t3.find? (fun x => x.1 == a)).map (·.2)).getD []

/-! ## Command registers that take several orders in one write -/

/-- Orders of LNK_CTRL, by bit. -/
def Chip.lnkOrders (s : Chip) (l val : Nat) : Chip :=
  let s := if bit val 0 then s.retrainOrder l else s
  let s := if bit val 1 then s.retireOrder l else s
  if bit val 2 then s.readmitOrder l else s

/-- Orders of VGL_CTRL, by bit. -/
def Chip.vigilOrders (s : Chip) (val : Nat) : Chip :=
  let s := if bit val 0 then s.vigilArm else s
  let s := if bit val 1 then s.vigilNow else s
  let s := if bit val 2 then s.vigilRelease else s
  if bit val 3 then s.setArmed none else s

/-- A write of SEC_SEAL_CTRL (R474): the recipient list is what SEC_SEAL_RCPT leads to. -/
def Chip.sealWrite (s : Chip) (acc : Access) (val : Nat) (rcpt : Bytes) : Chip :=
  let p := bits val 6 4
  s.command acc Pg.SEC (Reg.SEC_SEAL_CTRL % 0x1000) val true [p] (fun s => if s.rf F.SEC_SEAL_STAT_RESULT = 15 then s else s.sealRefused)
    (fun s => s.sealGo p (bits val 27 16) (s.image (s.rd64 Reg.SEC_SEAL_RCPT_LO) (8 * 4096 + 8) rcpt))

/-! ## Command registers, by page -/

/-- A write to a command register of the SCH page. -/
def State.schWrite (s : State) (acc : Access) (a val : Nat) (t3 : List (Nat × Bytes)) : Option (Host.Outcome State Fault Refusal) :=
  let part := bits val 6 4
  let id := bits val 31 16
  if a = Reg.SCH_LOAD_CTRL then match bits val 1 0 with
    | 1 => some (execProgramLoad acc (s.found t3 Reg.SCH_LOAD_ADDR_LO) s)
    | 2 => some (execProgramUnload acc (bits val 18 10) s)
    | _ => none
  else if a = Reg.SCH_REG_CTRL then match bits val 1 0 with
    | 1 => some (execRegisterEntry acc (s.found t3 Reg.SCH_REG_ADDR_LO) s)
    | 2 => some (execDeregister acc (bit val 2) id s)
    | _ => none
  else if a = Reg.SCH_RES_CTRL then match bits val 2 0 with
    | 1 => some (execResidencyLoad acc part (bit val 8) id s)
    | 2 => some (execResidencyEvict acc part (bit val 8) id s)
    | 3 => some (execResidencyPin acc part (bit val 8) id s)
    | 4 => some (execResidencyUnpin acc part (bit val 8) id s)
    | _ => none
  else if a = Reg.SCH_ACCT_CTRL then match bits val 1 0 with
    | 1 => some (execAcctRegister acc (bit val 2) s)
    | 2 => some (execAcctRemove acc s)
    | 3 => some (execAcctClear acc s)
    | _ => none
  else if a = Reg.SCH_SLICE_CTRL && bit val 0 then some (execSliceCommit acc s)
  else none

/-- A write to a command register of the CXL page. -/
def State.cxlWrite (s : State) (acc : Access) (a val : Nat) (t3 : List (Nat × Bytes)) : Option (Host.Outcome State Fault Refusal) :=
  let image := s.found t3 Reg.CXL_CFG_ADDR_LO
  if a = Reg.CXL_CFG_CTRL then match bits val 2 0 with
    | 1 => some (execCreateQueuePair acc image s)
    | 2 => some (execDeleteQueuePair acc (bits val 24 16) s)
    | 3 => some (execCreateEmitRing acc image s)
    | 4 => some (execDeleteEmitRing acc (bits val 24 16) s)
    | 5 => some (execSetProfile acc image s)
    | _ => none
  else if inArray a Reg.CXL_SQ_TAIL 64 8 then some (execSqTailDoorbell acc ((a - Reg.CXL_SQ_TAIL) / 8) (bits val 11 0) s)
  else if inArray a Reg.CXL_CQ_HEAD 64 8 then some (execCqHeadDoorbell acc ((a - Reg.CXL_CQ_HEAD) / 8) (bits val 11 0) s)
  else if inArray a Reg.CXL_EMIT_HEAD 512 4 then some (execEmitHeadDoorbell acc ((a - Reg.CXL_EMIT_HEAD) / 4) (bits val 15 0) s)
  else none

/-- A write to a command register of the XPT page. -/
def State.xptWrite (s : State) (acc : Access) (a val : Nat) (t3 : List (Nat × Bytes)) : Option (Host.Outcome State Fault Refusal) :=
  if a = Reg.XPT_MAP_CTRL && bits val 1 0 = 1 then some (execMapProposal acc (s.found t3 Reg.XPT_MAP_ADDR_LO) s)
  else if a = Reg.XPT_WIN_CTRL then match bits val 2 0 with
    | 1 => some (execExportOpen acc (s.found t3 Reg.XPT_WIN_ADDR_LO) s)
    | 2 => some (execExportRevoke acc (bits val 31 16) s)
    | 3 => some (execWindowOpen acc (s.found t3 Reg.XPT_WIN_ADDR_LO) s)
    | 4 => some (execWindowClose acc (bits val 31 16) s)
    | _ => none
  else if a = Reg.XPT_CTX_CTRL && bit val 16 then some (execContextFlush acc (bits val 15 0) s)
  else none

/-- A write to a command register of the SEC page. -/
def State.secWrite (s : State) (acc : Access) (a val : Nat) (t3 : List (Nat × Bytes)) : Option (Host.Outcome State Fault Refusal) :=
  if a = Reg.SEC_ATT_CTRL && bit val 0 then some (execAttestationRequest acc s)
  else if a = Reg.SEC_FUSE_CTRL then match bits val 2 0 with
    | 1 => some (execFuseOwnerKey acc (s.found t3 Reg.SEC_FUSE_ADDR_LO) s)
    | 2 => some (execFuseManagementRoot acc (s.found t3 Reg.SEC_FUSE_ADDR_LO) s)
    | 3 => some (execRaiseMinSvn acc s)
    | _ => none
  else if a = Reg.SEC_SEAL_CTRL && bit val 0 then some (s.run (fun c => c.sealWrite acc val (s.found t3 Reg.SEC_SEAL_RCPT_LO)))
  else none

/-- A write to a command register of the FLT page. Whether a bank has spare rows enough is the device's to know: a free value. -/
def State.fltWrite (s : State) (acc : Access) (a val : Nat) : Option (Host.Outcome State Fault Refusal) :=
  if a = Reg.FLT_REPAIR_CTRL then match bits val 1 0 with
    | 1 =>
      let (c, v) := s.chip.draw 1
      some (execRepairHalfBank acc (bits val 6 2) (bits val 18 7) (v == 1) { s with chip := c })
    | 2 => some (execRetestTile acc (bits val 18 7) s)
    | _ => none
  else none

/-- A write to a command register of the pages of stacks, links, calendars and queues. [log 15, DEDUCED] -/
def State.unitWrite (s : State) (acc : Access) (b : Blk) (inst off val : Nat) (t3 : List (Nat × Bytes)) : Option (Host.Outcome State Fault Refusal) :=
  match b with
  | .mem =>
    let image := s.found t3 (regAt (Pg.mem 0) Reg.MEM_DESC_ADDR_LO)
    if inst = 0 && off = Reg.MEM_DESC_CTRL then match bits val 1 0 with
      | 1 => some (execDescriptorInstall acc image s)
      | 2 => some (execDescriptorMigrate acc image s)
      | 3 => some (execDescriptorFree acc (bits val 27 16) s)
      | _ => none
    else none
  | .lnk => if off = Reg.LNK_CTRL && val % 8 ≠ 0 then some (s.run (fun c => c.lnkCtrl acc inst val (fun c => c.lnkOrders inst val))) else none
  | .cal => if off = Reg.CAL_CTRL && bit val 0 then some (execCalendarCommit acc inst s) else none
  | .shp =>
    if inArray off Reg.SHP_RATE 32 16 then some (execPolicerWrite acc inst ((off - Reg.SHP_RATE) / 16) false val s)
    else if inArray off Reg.SHP_BURST 32 16 then some (execPolicerWrite acc inst ((off - Reg.SHP_BURST) / 16) true val s)
    else none
  | _ => none

/-- The command that a write of `val` to a BAR0 address gives; none where the register takes no command, or the value names none. [log 15, DEDUCED] -/
def State.commandWrite (s : State) (acc : Access) (a val : Nat) (t3 : List (Nat × Bytes)) : Option (Host.Outcome State Fault Refusal) :=
  match blkOf (a / 0x1000) with
  | some (.alm, _) =>
    if a = Reg.ALM_PLAN_CTRL then some (if bit val 0 then execPlanArm acc s else execPlanWithdraw acc s)
    else if a = Reg.ALM_SYNC_TOD_HI then some (execAlmSyncTod acc val s)
    else none
  | some (.rtb, _) =>
    if a = Reg.RTB_PEEK_IDX then some (execRtbPeekIdxWrite acc val s)
    else if a = Reg.RTB_SERIAL then some (execRtbSerialWrite acc val s)
    else none
  | some (.pfx, _) =>
    if a = Reg.PFX_PIN_CTRL then match bits val 1 0 with
      | 1 => some (execPfxPin acc (bits val 6 4) s)
      | 2 => some (execPfxUnpin acc (bits val 6 4) s)
      | _ => none
    else none
  | some (.smv, _) => if a = Reg.SMV_ORD_CTRL && bit val 0 then some (execSmvOrdIssue acc s) else none
  | some (.vgl, _) => if a = Reg.VGL_CTRL && val % 16 ≠ 0 then some (s.run (fun c => c.vigilCtrl acc val (fun c => c.vigilOrders val))) else none
  | some (.glb, _) => if a = Reg.GLB_FW_CTRL && bit val 0 then some (execFirmwareGo acc s) else none
  | some (.sch, _) => s.schWrite acc a val t3
  | some (.cxl, _) => s.cxlWrite acc a val t3
  | some (.xpt, _) => s.xptWrite acc a val t3
  | some (.sec, _) => s.secWrite acc a val t3
  | some (.flt, _) => s.fltWrite acc a val
  | some (b, inst) => s.unitWrite acc b inst (a % 0x1000) val t3
  | none => none

/-- A record of GLB_OWN_LOG shows the whole value that was written. -/
def Chip.showWritten (s : Chip) (logged val : Nat) : Chip :=
  if s.glb.logged ≤ logged then s
  else
    let e := (s.glb.logged + 15) % 16
    { s with glb := { s.glb with ownLog := s.glb.ownLog.put e (patch (s.glb.ownLog.getD e []) 8 (toLE 4 val)) } }

/-- A 4-byte write of `val` to a BAR0 address, with what the device finds in host memory where the write makes it read there. -/
def State.writeWord (s : State) (acc : Access) (a val : Nat) (t3 : List (Nat × Bytes)) : State :=
  let v := val % 2 ^ 32
  let t := match s.commandWrite acc a v t3 with
    | some o => nextOf s o
    | none => nextOf s (s.run (fun c => c.storeReg s.fuses acc a v))
  { t with chip := t.chip.showWritten s.chip.glb.logged v }

/-- A write of 4 or 8 bytes; one that BAR0 does not serve is recorded and does nothing else (R546). [log 17, DEDUCED] -/
def State.regWrite (s : State) (acc : Access) (addr size val : Nat) (t3 : List (Nat × Bytes)) : State :=
  if !served addr size then nextOf s (s.onChip (fun c => if acc.writer = .host && c.d3hot then c else c.logWrite acc.writer addr (val % 2 ^ 32) 5))
  else if size = 4 then s.writeWord acc addr val t3
  else (s.writeWord acc addr val t3).writeWord acc (addr + 4) (val / 2 ^ 32) t3

/-! ## Meanings -/

/-- LO_REGISTER_READ (R68): a read of `size` bytes by the host. [log 18, DEDUCED] -/
def execLoRegisterRead (addr size : Nat) (s : State) : Host.Outcome State Fault Refusal := s.onChip (fun c => c.hostRegRead addr size)

/-- CLEARED_BY_READ (R274, R561): a read by the host. -/
def execClearedByRead (addr size : Nat) (s : State) : Host.Outcome State Fault Refusal := s.onChip (fun c => c.hostRegRead addr size)

/-- A write of one field of a page's BLK_CTRL; the other fields keep their values. -/
def State.blkWrite (s : State) (acc : Access) (page bits' : Nat) (run : Chip → Blk → Nat → Chip) : Host.Outcome State Fault Refusal :=
  s.run (fun c => match blkOf page with
    | some (b, inst) => c.write acc page Reg.BLK_CTRL bits' false [] (fun c => run c b inst)
    | none => c)

/-- BLK_ENABLE (R545). [log 23, DEDUCED] -/
def execBlkEnable (acc : Access) (page : Nat) (on : Bool) (s : State) : Host.Outcome State Fault Refusal :=
  s.blkWrite acc page (b2n on) (fun c b inst => (c.setEnable page on).switched c b page inst)

/-- BLK_DRAIN (R545). [log 23, DEDUCED] -/
def execBlkDrain (acc : Access) (page : Nat) (on : Bool) (s : State) : Host.Outcome State Fault Refusal :=
  s.blkWrite acc page (2 * b2n on) (fun c _ _ => c.setDrain page on)

/-- BLK_QUIESCE (R545). [log 23, DEDUCED] -/
def execBlkQuiesce (acc : Access) (page : Nat) (on : Bool) (s : State) : Host.Outcome State Fault Refusal :=
  s.blkWrite acc page (4 * b2n on) (fun c _ _ => c.setQuiesce page on)

/-- BLK_RESET (R545). [log 23, DEDUCED] -/
def execBlkReset (acc : Access) (page : Nat) (s : State) : Host.Outcome State Fault Refusal :=
  s.blkWrite acc page 8 (fun c b inst => c.resetPage s.fuses b page inst)

/-- RW1C_WRITE (R544, R18): to ERR_STAT or to INT_STAT; `hw` are the error events that fall in the same cycle, whose bits remain set. [log 19, DESIGN CHOICE] [log 58, DEDUCED] -/
def execRw1cWrite (acc : Access) (page : Nat) (int : Bool) (value hw : Nat) (s : State) : Host.Outcome State Fault Refusal :=
  s.run (fun c => match blkOf page with
    | some _ =>
      let c := c.each (below 32 (fun i => bit hw i)) (fun c i => c.raise page i)
      c.write acc page (if int then Reg.INT_STAT else Reg.ERR_STAT) value false [] (fun c => c.writeOneClear page int value (c.eventBits page int hw))
    | none => c)

/-- REGISTER_WRITE (R547, R548, R546): of `size` bytes. `t3` is what the device finds in host memory at the addresses that the write makes it
read, by device address. [log 19, DESIGN CHOICE] -/
def execRegisterWrite (acc : Access) (addr size value : Nat) (t3 : List (Nat × Bytes)) (s : State) : Host.Outcome State Fault Refusal :=
  .next (if s.chip.pwr.off || s.chip.pwr.purged then s else s.regWrite acc addr size value t3)

end Sys2Proof.Machine
end

