-- ==== Sys2Proof/Machine/Nmp.lean ====
section
/-! DEFINITION. Meanings of the management commands (R553, R554): each has arrived in a Record of an open session. -/

namespace Sys2Proof.Machine

open Sys2Proof

/-- End of BAR0: 128 MiB (R15). -/
def bar0End : Nat := 0x8000000

/-- Is a COUNT of words one that Read and Write take (R554)? [log 34, DEDUCED] -/
def countOk (n : Nat) : Bool := decide (1 ≤ n) && decide (n ≤ 1024)

/-- Does a run of words lie in BAR0, aligned (R553)? [log 34, DEDUCED] -/
def runOk (offset n : Nat) : Bool := offset % 4 == 0 && decide (offset + 4 * n ≤ bar0End)

/-- Read: COUNT words. -/
def Chip.nmpRead (s : Chip) (id : Nat) (head : Bytes) : Chip :=
  let off := le head 8 4
  let n := le head 12 2
  if !countOk n then s.answer id head 4 []
  else if s.sessionRank id = .none then s.answer id head 1 []
  else if !runOk off n then s.answer id head 2 []
  else
    let (s, l) := Chip.readRegs n off s
    s.answer id head 0 (l.flatMap (toLE 4))

/-- The words of a Write in ascending offset, up to the first that is ignored under R548 or R546; its offset where there is one. A purged
device serves the write as a management command (R554). -/
def State.writeRun (acc : Access) (t3 : List (Nat × Bytes)) : (words : List Nat) → (a : Nat) → State → State × Option Nat
  | [],     _, s => (s, none)
  | w :: l, a, s =>
    let p := s.chip.pwr.purged
    let t := { s with chip := { s.chip with pwr := { s.chip.pwr with purged := false } } }.writeWord acc a w t3
    let t := { t with chip := { t.chip with pwr := { t.chip.pwr with purged := p } } }
    if t.chip.glb.logged ≤ s.chip.glb.logged then State.writeRun acc t3 l (a + 4) t else (t, some a)

/-- Write: COUNT words, with what the device finds in host memory where a word makes it read there. -/
def State.nmpWrite (s : State) (id : Nat) (head : Bytes) (words : List Nat) (t3 : List (Nat × Bytes)) : State :=
  let off := le head 8 4
  let c := s.chip
  let answer := fun (s : State) (h : Bytes) (st : Nat) => { s with chip := s.chip.answer id h st [] }
  if !countOk words.length then answer s head 4
  else match c.session id with
    | none => s
    | some x =>
      let rank := c.rank (.slot x.slot)
      if rank ≠ .admin && rank ≠ .operator then answer s head 1
      else if !runOk off words.length then answer s head 2
      else
        match State.writeRun ⟨.slot x.slot, false⟩ t3 words off s with
        | (t, none) => answer t head 0
        | (t, some a) => answer t (patch head 8 (toLE 4 a)) 1

/-- Cold reset: answered first. [log 34, DEDUCED] -/
def State.nmpCold (s : State) (id : Nat) (head : Bytes) : State :=
  if s.chip.sessionRank id = .admin then { s with chip := s.chip.answer id head 0 [] }.cold
  else { s with chip := s.chip.answer id head 1 [] }

/-- Warm reset: answered first; refused where R518 does not allow it. [log 34, DEDUCED] -/
def State.nmpWarm (s : State) (id : Nat) (head : Bytes) : State :=
  let rank := s.chip.sessionRank id
  if rank ≠ .admin && rank ≠ .operator then { s with chip := s.chip.answer id head 1 [] }
  else if !s.chip.warmAllowed then { s with chip := s.chip.answer id head 5 [] }
  else { s with chip := s.chip.answer id head 0 [] }.warm

/-- A command on the chip, as a state. -/
def State.onBody (s : State) (f : Chip → Chip) : State := { s with chip := f s.chip }

/-- Words of a command body. -/
def wordsIn (b : Bytes) : List Nat := (List.range (b.length / 4)).map (fun i => le b (4 * i) 4)

/-- The command in a body. An unknown OP, a wrong COUNT or length is answered with STATUS 4 (R554). [log 34, DEDUCED] -/
def State.nmpBody (s : State) (id : Nat) (b : Bytes) (t3 : List (Nat × Bytes)) : State :=
  let head := slice b 0 16
  let bad := s.onBody (fun c => c.answer id head 4 [])
  let n := le head 12 2
  match le head 0 1 with
  | 1 => if b.length = 16 then s.onBody (fun c => c.nmpRead id head) else bad
  | 2 => if b.length = 16 + 4 * n then s.nmpWrite id head (wordsIn (b.drop 16)) t3 else bad
  | 3 => if b.length = 16 then s.nmpCold id head else bad
  | 4 => if b.length = 16 then s.nmpWarm id head else bad
  | 5 => if b.length = 16 then s.onBody (fun c => c.nmpPurge id head) else bad
  | 6 => if b.length = 48 then s.onBody (fun c => c.nmpReport id head (slice b 16 32)) else bad
  | _ => bad

/-- A Record (R478, R479): opened under the session's key, dropped where it was accepted before, and its command executed. A session whose SEQ
reaches 2^48 ends. -/
def State.nmpRecord (s : State) (d : Bytes) (t3 : List (Nat × Bytes)) : State :=
  let id := le d 4 4
  let seq := le d 8 8
  let n := d.length - 32
  match s.chip.session id with
  | none => s
  | some x =>
    if d.length < 32 || le d 0 1 ≠ 4 || le d 1 1 ≠ 0 then s
    else match gcmUnlock x.up ([0, 0, 0, 0] ++ toLE 8 seq) (d.take 16) (slice d 16 n) (slice d (16 + n) 16) with
      | none => s
      | some body =>
        if replayed 64 x.high x.seen seq then s
        else if 2 ^ 48 ≤ seq then s.onBody (fun c => c.setSessions (fun l => l.filter (fun y => y.id != id)))
        else
          let (high, seen) := noteSeen 64 x.high x.seen seq
          let mine := fun (c : Chip) (y : Session) => if y.id = id then { y with high := high, seen := seen, last := c.alm.now } else y
          (s.onBody (fun c => c.setSessions (fun l => l.map (mine c)))).nmpBody id body t3

/-- What a management command does to the module, as an answer of the step: without rails nothing. -/
def State.manage (s : State) (f : State → State) : Host.Outcome State Fault Refusal := .next (if s.chip.pwr.off then s else f s)

/-! ## Meanings -/

/-- NMP_RECORD (R479, R553): a datagram of TYPE 4, with what the device finds in host memory where a command makes it read there. -/
def execNmpRecord (datagram : Bytes) (t3 : List (Nat × Bytes)) (s : State) : Host.Outcome State Fault Refusal :=
  s.manage (fun s => s.nmpRecord datagram t3)

/-- NMP_READ (R554). -/
def execNmpRead (session tag offset count : Nat) (s : State) : Host.Outcome State Fault Refusal :=
  s.manage (fun s => s.onBody (fun c => c.nmpRead session (nmpHead 1 0 tag offset count)))

/-- NMP_WRITE (R554). -/
def execNmpWrite (session tag offset : Nat) (words : List Nat) (t3 : List (Nat × Bytes)) (s : State) : Host.Outcome State Fault Refusal :=
  s.manage (fun s => s.nmpWrite session (nmpHead 2 0 tag offset words.length) words t3)

/-- NMP_COLD_RESET (R554). -/
def execNmpColdReset (session tag : Nat) (s : State) : Host.Outcome State Fault Refusal := s.manage (fun s => s.nmpCold session (nmpHead 3 0 tag 0 0))

/-- NMP_WARM_RESET (R554). -/
def execNmpWarmReset (session tag : Nat) (s : State) : Host.Outcome State Fault Refusal := s.manage (fun s => s.nmpWarm session (nmpHead 4 0 tag 0 0))

/-- NMP_PURGE (R554). -/
def execNmpPurge (session tag : Nat) (s : State) : Host.Outcome State Fault Refusal :=
  s.onMgmt (fun c => c.nmpPurge session (nmpHead 5 0 tag 0 0))

/-- PURGE_DONE (R554). -/
def execPurgeDone (s : State) : Host.Outcome State Fault Refusal := s.onMgmt Chip.purgeDone

/-- NMP_REPORT (R554): `cred` asks for the credential as well. -/
def execNmpReport (session tag : Nat) (cred : Bool) (nonce : Bytes) (s : State) : Host.Outcome State Fault Refusal :=
  s.onMgmt (fun c => c.nmpReport session (nmpHead 6 (b2n cred) tag 0 0) (padTo 32 nonce))

end Sys2Proof.Machine
end

