-- ==== Sys2Proof/Machine/Tiles.lean ====
section
/-! DEFINITION. Meanings of the tiles' instructions (06, 12). -/

namespace Sys2Proof.Machine

open Sys2Proof

/-- An instruction of a tile that executes, its scratch words read first (R167). -/
def Chip.onTile (s : Chip) (t : Nat) (ecc : List WordErr) (f : Chip → Chip) : Chip :=
  if !s.tileRuns t then s
  else match s.scratchErrs t ecc with
    | (s, true) => f s
    | (s, false) => s

/-- A pass with what it draws and reads first; one that is stopped there does not run. [log 50, DEDUCED] [log 64, DESIGN CHOICE] -/
def Chip.drawPass (s : Chip) (t : Nat) (a : PassMat) (b : PassB) (run : PassRun) : Chip :=
  if !s.arrived t run.awaits then s.stopTile t
  else
    let s := s.each run.draws (fun s r => s.expandSlot t r)
    if s.tileRuns t then s.runPass t a b run.clear run.stall else s

/-- PASS (R165). It draws its blocks of packed regions through the Expander first (R310, R313); where an exchange message it reads is not
complete, the member voids the step (R381). [log 64, DESIGN CHOICE] -/
def execPass (tile : Nat) (a : PassMat) (b : PassB) (run : PassRun) (ecc : List WordErr) (s : State) : Host.Outcome State Fault Refusal :=
  s.run (fun c => c.onTile tile ecc (fun c => c.drawPass tile a b run))

/-- CONVERSION (R174). The Packer then packs the blocks the program names into regions (R300, R312). [log 64, DESIGN CHOICE] -/
def execConversion (tile : Nat) (op : ConvOp) (ecc : List WordErr) (s : State) : Host.Outcome State Fault Refusal :=
  s.run (fun c => c.onTile tile ecc (fun c => (c.runConversion tile op).each op.packs (fun c r => c.packSlot tile r)))

/-- ROUTER_RUN (R186). -/
def execRouterRun (tile : Nat) (op : RouterOp) (ecc : List WordErr) (s : State) : Host.Outcome State Fault Refusal :=
  s.run (fun c => c.onTile tile ecc (fun c => c.runRouter tile op))

/-- FENCE (R378). `tc` none names every traffic class. -/
def execFence (tile num dev : Nat) (tc : Option Nat) (s : State) : Host.Outcome State Fault Refusal :=
  s.run (fun c => if c.tileRuns tile then c.issueFence tile num dev tc else c)

/-- TILE_LOAD (R386). `dst` is the scratch address that takes the data. -/
def execTileLoad (tile addr dst : Nat) (s : State) : Host.Outcome State Fault Refusal := s.run (fun c => c.tileOp tile addr none dst)

/-- TILE_STORE (R386). -/
def execTileStore (tile addr : Nat) (data : Bytes) (s : State) : Host.Outcome State Fault Refusal := s.run (fun c => c.tileOp tile addr (some data) 0)

/-- EXCHANGE_ENTRY (R379). -/
def execExchangeEntry (op : ExchOp) (ecc : List WordErr) (s : State) : Host.Outcome State Fault Refusal :=
  s.run (fun c => c.atMoment (le op.bytes 20 4) (fun c => (c.sendExchange op ecc).exchanges))

end Sys2Proof.Machine
end

