-- ==== Sys2Proof/Machine/Dispatch.lean ====
section
/-! DEFINITION. One arm for each command: a direct call of its meaning. -/

namespace Sys2Proof.Machine

open Sys2Proof

def exec (i : Instr) (s : State) : Host.Outcome State Fault Refusal :=
  match i with
  | .almanacTick x => Sys2Proof.Machine.execAlmanacTick x s
  | .boundaryWindow x => Sys2Proof.Machine.execBoundaryWindow x s
  | .computeStart seeds => Sys2Proof.Machine.execComputeStart seeds s
  | .exchangeStart unfinished => Sys2Proof.Machine.execExchangeStart unfinished s
  | .settleStart => Sys2Proof.Machine.execSettleStart s
  | .smvCutoff => Sys2Proof.Machine.execSmvCutoff s
  | .planSwitch => Sys2Proof.Machine.execPlanSwitch s
  | .planArm acc => Sys2Proof.Machine.execPlanArm acc s
  | .planWithdraw acc => Sys2Proof.Machine.execPlanWithdraw acc s
  | .almSyncTod acc value => Sys2Proof.Machine.execAlmSyncTod acc value s
  | .almSyncEdge own => Sys2Proof.Machine.execAlmSyncEdge own s
  | .almSyncEdgeMissed => Sys2Proof.Machine.execAlmSyncEdgeMissed s
  | .holdoverTimeout => Sys2Proof.Machine.execHoldoverTimeout s
  | .announceSend => Sys2Proof.Machine.execAnnounceSend s
  | .almanacSyncSend at' => Sys2Proof.Machine.execAlmanacSyncSend at' s
  | .delayRequestSend at' => Sys2Proof.Machine.execDelayRequestSend at' s
  | .announce link bytes => Sys2Proof.Machine.execAnnounce link bytes s
  | .almanacSync link bytes rx => Sys2Proof.Machine.execAlmanacSync link bytes rx s
  | .delayRequest link bytes rx tx => Sys2Proof.Machine.execDelayRequest link bytes rx tx s
  | .delayReply link bytes rx => Sys2Proof.Machine.execDelayReply link bytes rx s
  | .masterLost => Sys2Proof.Machine.execMasterLost s
  | .loRegisterRead addr size => Sys2Proof.Machine.execLoRegisterRead addr size s
  | .submitRead queue desc => Sys2Proof.Machine.execSubmitRead queue desc s
  | .cancelRead queue desc => Sys2Proof.Machine.execCancelRead queue desc s
  | .promptCopied num tokens => Sys2Proof.Machine.execPromptCopied num tokens s
  | .anchorRecord src bytes => Sys2Proof.Machine.execAnchorRecord src bytes s
  | .anchorTimeout rid cand => Sys2Proof.Machine.execAnchorTimeout rid cand s
  | .tokenRunRecord src bytes => Sys2Proof.Machine.execTokenRunRecord src bytes s
  | .homeRecord src bytes => Sys2Proof.Machine.execHomeRecord src bytes s
  | .endRecord src bytes => Sys2Proof.Machine.execEndRecord src bytes s
  | .acknowledgementRecord src bytes => Sys2Proof.Machine.execAcknowledgementRecord src bytes s
  | .gangBarrier part samples missing => Sys2Proof.Machine.execGangBarrier part samples missing s
  | .cancelRecord src bytes => Sys2Proof.Machine.execCancelRecord src bytes s
  | .emitRecord src bytes => Sys2Proof.Machine.execEmitRecord src bytes s
  | .finishRecord src bytes => Sys2Proof.Machine.execFinishRecord src bytes s
  | .rtbPeekIdxWrite acc value => Sys2Proof.Machine.execRtbPeekIdxWrite acc value s
  | .rtbSerialWrite acc value => Sys2Proof.Machine.execRtbSerialWrite acc value s
  | .lookup src bytes => Sys2Proof.Machine.execLookup src bytes s
  | .lookupReply src bytes => Sys2Proof.Machine.execLookupReply src bytes s
  | .lookupRelease src bytes => Sys2Proof.Machine.execLookupRelease src bytes s
  | .pfxPin acc part => Sys2Proof.Machine.execPfxPin acc part s
  | .pfxUnpin acc part => Sys2Proof.Machine.execPfxUnpin acc part s
  | .open src bytes => Sys2Proof.Machine.execOpen src bytes s
  | .data src bytes => Sys2Proof.Machine.execData src bytes s
  | .seal src bytes => Sys2Proof.Machine.execSeal src bytes s
  | .intent src bytes => Sys2Proof.Machine.execIntent src bytes s
  | .commit src bytes => Sys2Proof.Machine.execCommit src bytes s
  | .abort src bytes => Sys2Proof.Machine.execAbort src bytes s
  | .query src bytes => Sys2Proof.Machine.execQuery src bytes s
  | .reply src bytes ecc => Sys2Proof.Machine.execReply src bytes ecc s
  | .pull src bytes => Sys2Proof.Machine.execPull src bytes s
  | .lost src bytes => Sys2Proof.Machine.execLost src bytes s
  | .locate src bytes => Sys2Proof.Machine.execLocate src bytes s
  | .decideWaitExpiry dev seq => Sys2Proof.Machine.execDecideWaitExpiry dev seq s
  | .smvOrdIssue acc => Sys2Proof.Machine.execSmvOrdIssue acc s
  | .pass tile a b run ecc => Sys2Proof.Machine.execPass tile a b run ecc s
  | .conversion tile op ecc => Sys2Proof.Machine.execConversion tile op ecc s
  | .routerRun tile op ecc => Sys2Proof.Machine.execRouterRun tile op ecc s
  | .fence tile num dev tc => Sys2Proof.Machine.execFence tile num dev tc s
  | .tileLoad tile addr dst => Sys2Proof.Machine.execTileLoad tile addr dst s
  | .tileStore tile addr data => Sys2Proof.Machine.execTileStore tile addr data s
  | .exchangeEntry op ecc => Sys2Proof.Machine.execExchangeEntry op ecc s
  | .programLoad acc image => Sys2Proof.Machine.execProgramLoad acc image s
  | .programUnload acc index => Sys2Proof.Machine.execProgramUnload acc index s
  | .registerEntry acc image => Sys2Proof.Machine.execRegisterEntry acc image s
  | .deregister acc adapter id' => Sys2Proof.Machine.execDeregister acc adapter id' s
  | .residencyLoad acc part adapter id' => Sys2Proof.Machine.execResidencyLoad acc part adapter id' s
  | .residencyEvict acc part adapter id' => Sys2Proof.Machine.execResidencyEvict acc part adapter id' s
  | .residencyPin acc part adapter id' => Sys2Proof.Machine.execResidencyPin acc part adapter id' s
  | .residencyUnpin acc part adapter id' => Sys2Proof.Machine.execResidencyUnpin acc part adapter id' s
  | .loadFinished part adapter id' bundle => Sys2Proof.Machine.execLoadFinished part adapter id' bundle s
  | .acctRegister acc ride => Sys2Proof.Machine.execAcctRegister acc ride s
  | .acctRemove acc => Sys2Proof.Machine.execAcctRemove acc s
  | .acctClear acc => Sys2Proof.Machine.execAcctClear acc s
  | .sliceCommit acc => Sys2Proof.Machine.execSliceCommit acc s
  | .bid src bytes => Sys2Proof.Machine.execBid src bytes s
  | .offer src bytes => Sys2Proof.Machine.execOffer src bytes s
  | .void src bytes => Sys2Proof.Machine.execVoid src bytes s
  | .watchdogProbe silent => Sys2Proof.Machine.execWatchdogProbe silent s
  | .watchdogExpiry tile => Sys2Proof.Machine.execWatchdogExpiry tile s
  | .attendMessage src bytes turn ecc => Sys2Proof.Machine.execAttendMessage src bytes turn ecc s
  | .result src bytes => Sys2Proof.Machine.execResult src bytes s
  | .append stack frm word data turn ecc => Sys2Proof.Machine.execAppend stack frm word data turn ecc s
  | .summarise stack frm word turn ecc => Sys2Proof.Machine.execSummarise stack frm word turn ecc s
  | .sumwrite stack frm word turn ecc => Sys2Proof.Machine.execSumwrite stack frm word turn ecc s
  | .score stack frm word data turn ecc => Sys2Proof.Machine.execScore stack frm word data turn ecc s
  | .attend stack frm word data turn ecc => Sys2Proof.Machine.execAttend stack frm word data turn ecc s
  | .matvec stack frm word data elem turn ecc => Sys2Proof.Machine.execMatvec stack frm word data elem turn ecc s
  | .sedgeRead stack frm word turn ecc => Sys2Proof.Machine.execSedgeRead stack frm word turn ecc s
  | .sedgeWrite stack frm word data turn ecc => Sys2Proof.Machine.execSedgeWrite stack frm word data turn ecc s
  | .init stack frm word data turn ecc => Sys2Proof.Machine.execInit stack frm word data turn ecc s
  | .nop stack frm word turn => Sys2Proof.Machine.execNop stack frm word turn s
  | .refresh stack ecc => Sys2Proof.Machine.execRefresh stack ecc s
  | .dieSensorUpdate temps => Sys2Proof.Machine.execDieSensorUpdate temps s
  | .descriptorInstall acc image => Sys2Proof.Machine.execDescriptorInstall acc image s
  | .descriptorMigrate acc image => Sys2Proof.Machine.execDescriptorMigrate acc image s
  | .descriptorFree acc object => Sys2Proof.Machine.execDescriptorFree acc object s
  | .migrationCopy what ecc => Sys2Proof.Machine.execMigrationCopy what ecc s
  | .migrationSwitch what stall ecc => Sys2Proof.Machine.execMigrationSwitch what stall ecc s
  | .stackPoll stack answered => Sys2Proof.Machine.execStackPoll stack answered s
  | .stackRetrainAttempt stack => Sys2Proof.Machine.execStackRetrainAttempt stack s
  | .stackRetrainDone stack trained creditKept => Sys2Proof.Machine.execStackRetrainDone stack trained creditKept s
  | .hostMemRead hpa obtains ecc => Sys2Proof.Machine.execHostMemRead hpa obtains ecc s
  | .hostMemWrite hpa data mask => Sys2Proof.Machine.execHostMemWrite hpa data mask s
  | .bisnpResponse line data => Sys2Proof.Machine.execBisnpResponse line data s
  | .h2dSnoop addr => Sys2Proof.Machine.execH2dSnoop addr s
  | .createQueuePair acc image => Sys2Proof.Machine.execCreateQueuePair acc image s
  | .deleteQueuePair acc queue => Sys2Proof.Machine.execDeleteQueuePair acc queue s
  | .createEmitRing acc image => Sys2Proof.Machine.execCreateEmitRing acc image s
  | .deleteEmitRing acc ring => Sys2Proof.Machine.execDeleteEmitRing acc ring s
  | .setProfile acc image => Sys2Proof.Machine.execSetProfile acc image s
  | .sqTailDoorbell acc queue tail => Sys2Proof.Machine.execSqTailDoorbell acc queue tail s
  | .cqHeadDoorbell acc queue head => Sys2Proof.Machine.execCqHeadDoorbell acc queue head s
  | .emitHeadDoorbell acc ring head => Sys2Proof.Machine.execEmitHeadDoorbell acc ring head s
  | .coalesceTimeout emit number => Sys2Proof.Machine.execCoalesceTimeout emit number s
  | .emitStall ring => Sys2Proof.Machine.execEmitStall ring s
  | .cxlLinkDown => Sys2Proof.Machine.execCxlLinkDown s
  | .hostLinkLost => Sys2Proof.Machine.execHostLinkLost s
  | .fatalLinksOff => Sys2Proof.Machine.execFatalLinksOff s
  | .surpriseRemoval => Sys2Proof.Machine.execSurpriseRemoval s
  | .viralIn => Sys2Proof.Machine.execViralIn s
  | .codeword link lane cw => Sys2Proof.Machine.execCodeword link lane cw s
  | .laneSignalLoss link lane => Sys2Proof.Machine.execLaneSignalLoss link lane s
  | .dataFrame link frame => Sys2Proof.Machine.execDataFrame link frame s
  | .forwardedFrame link frame => Sys2Proof.Machine.execForwardedFrame link frame s
  | .negotiateCapability link bytes => Sys2Proof.Machine.execNegotiateCapability link bytes s
  | .negotiateConfirm link bytes => Sys2Proof.Machine.execNegotiateConfirm link bytes s
  | .credentialFragment link bytes => Sys2Proof.Machine.execCredentialFragment link bytes s
  | .credentialVerified whose => Sys2Proof.Machine.execCredentialVerified whose s
  | .encapsulation link bytes => Sys2Proof.Machine.execEncapsulation link bytes s
  | .keepaliveSend link => Sys2Proof.Machine.execKeepaliveSend link s
  | .keepalive link bytes => Sys2Proof.Machine.execKeepalive link bytes s
  | .keepaliveTimeout link => Sys2Proof.Machine.execKeepaliveTimeout link s
  | .admitPropose link bytes => Sys2Proof.Machine.execAdmitPropose link bytes s
  | .admitConfirm link bytes => Sys2Proof.Machine.execAdmitConfirm link bytes s
  | .admitWithdraw link bytes => Sys2Proof.Machine.execAdmitWithdraw link bytes s
  | .test link seq bytes => Sys2Proof.Machine.execTest link seq bytes s
  | .retire link bytes => Sys2Proof.Machine.execRetire link bytes s
  | .margin link bytes => Sys2Proof.Machine.execMargin link bytes s
  | .marginSend => Sys2Proof.Machine.execMarginSend s
  | .ageingMeasurement replicas eyes => Sys2Proof.Machine.execAgeingMeasurement replicas eyes s
  | .trainingStageDone link lanes => Sys2Proof.Machine.execTrainingStageDone link lanes s
  | .trainingStageTimeout link => Sys2Proof.Machine.execTrainingStageTimeout link s
  | .trainingRetry link => Sys2Proof.Machine.execTrainingRetry link s
  | .selftestEnd link => Sys2Proof.Machine.execSelftestEnd link s
  | .laneRetrainTimeout link lane => Sys2Proof.Machine.execLaneRetrainTimeout link lane s
  | .laneRetrainRetry link lane => Sys2Proof.Machine.execLaneRetrainRetry link lane s
  | .lnkRetrain acc link => Sys2Proof.Machine.execLnkRetrain acc link s
  | .lnkRetire acc link => Sys2Proof.Machine.execLnkRetire acc link s
  | .lnkReadmit acc link => Sys2Proof.Machine.execLnkReadmit acc link s
  | .engineFailed engine => Sys2Proof.Machine.execEngineFailed engine s
  | .engineOvertemp engine celsius => Sys2Proof.Machine.execEngineOvertemp engine celsius s
  | .msg pkt ecc => Sys2Proof.Machine.execMsg pkt ecc s
  | .ack pkt => Sys2Proof.Machine.execAck pkt s
  | .nak pkt => Sys2Proof.Machine.execNak pkt s
  | .sync pkt => Sys2Proof.Machine.execSync pkt s
  | .syncAck pkt => Sys2Proof.Machine.execSyncAck pkt s
  | .load pkt ecc => Sys2Proof.Machine.execLoad pkt ecc s
  | .loadResp pkt => Sys2Proof.Machine.execLoadResp pkt s
  | .store pkt ecc => Sys2Proof.Machine.execStore pkt ecc s
  | .skip pkt ecc => Sys2Proof.Machine.execSkip pkt ecc s
  | .ackTimer peer tc => Sys2Proof.Machine.execAckTimer peer tc s
  | .retryTimeout peer tc => Sys2Proof.Machine.execRetryTimeout peer tc s
  | .contextFetchDone ctx => Sys2Proof.Machine.execContextFetchDone ctx s
  | .reassemblyTimeout peer tc base => Sys2Proof.Machine.execReassemblyTimeout peer tc base s
  | .mapProposal acc image => Sys2Proof.Machine.execMapProposal acc image s
  | .vote src bytes => Sys2Proof.Machine.execVote src bytes s
  | .voteDeadline => Sys2Proof.Machine.execVoteDeadline s
  | .exportOpen acc image => Sys2Proof.Machine.execExportOpen acc image s
  | .exportRevoke acc id => Sys2Proof.Machine.execExportRevoke acc id s
  | .exportRevokeDone => Sys2Proof.Machine.execExportRevokeDone s
  | .windowOpen acc image => Sys2Proof.Machine.execWindowOpen acc image s
  | .windowClose acc window => Sys2Proof.Machine.execWindowClose acc window s
  | .contextFlush acc peer => Sys2Proof.Machine.execContextFlush acc peer s
  | .frameBoundary link => Sys2Proof.Machine.execFrameBoundary link s
  | .bucketRefill => Sys2Proof.Machine.execBucketRefill s
  | .calendarCommit acc link => Sys2Proof.Machine.execCalendarCommit acc link s
  | .policerWrite acc link queue burst value => Sys2Proof.Machine.execPolicerWrite acc link queue burst value s
  | .sampler link => Sys2Proof.Machine.execSampler link s
  | .firmwareGo acc => Sys2Proof.Machine.execFirmwareGo acc s
  | .firmwareChecked image cert => Sys2Proof.Machine.execFirmwareChecked image cert s
  | .fuseOwnerKey acc digest => Sys2Proof.Machine.execFuseOwnerKey acc digest s
  | .fuseManagementRoot acc digest => Sys2Proof.Machine.execFuseManagementRoot acc digest s
  | .raiseMinSvn acc => Sys2Proof.Machine.execRaiseMinSvn acc s
  | .pairCredential src bytes => Sys2Proof.Machine.execPairCredential src bytes s
  | .pairEncapsulation src bytes => Sys2Proof.Machine.execPairEncapsulation src bytes s
  | .pairConfirm src bytes => Sys2Proof.Machine.execPairConfirm src bytes s
  | .handshakeTimeout dev => Sys2Proof.Machine.execHandshakeTimeout dev s
  | .attestationRequest acc => Sys2Proof.Machine.execAttestationRequest acc s
  | .reportSigned => Sys2Proof.Machine.execReportSigned s
  | .hello datagram => Sys2Proof.Machine.execHello datagram s
  | .nmpRecord datagram t3 => Sys2Proof.Machine.execNmpRecord datagram t3 s
  | .sessionTimeout session => Sys2Proof.Machine.execSessionTimeout session s
  | .nmpRead session tag offset count => Sys2Proof.Machine.execNmpRead session tag offset count s
  | .nmpWrite session tag offset words t3 => Sys2Proof.Machine.execNmpWrite session tag offset words t3 s
  | .nmpColdReset session tag => Sys2Proof.Machine.execNmpColdReset session tag s
  | .nmpWarmReset session tag => Sys2Proof.Machine.execNmpWarmReset session tag s
  | .nmpPurge session tag => Sys2Proof.Machine.execNmpPurge session tag s
  | .purgeDone => Sys2Proof.Machine.execPurgeDone s
  | .nmpReport session tag cred nonce => Sys2Proof.Machine.execNmpReport session tag cred nonce s
  | .getVersion => Sys2Proof.Machine.execGetVersion s
  | .getCapabilities => Sys2Proof.Machine.execGetCapabilities s
  | .unsupportedSpdmRequest code => Sys2Proof.Machine.execUnsupportedSpdmRequest code s
  | .spdmReport payload => Sys2Proof.Machine.execSpdmReport payload s
  | .keyOpen payload => Sys2Proof.Machine.execKeyOpen payload s
  | .keyMessage payload => Sys2Proof.Machine.execKeyMessage payload s
  | .keyClose payload => Sys2Proof.Machine.execKeyClose payload s
  | .keySessionTimeout => Sys2Proof.Machine.execKeySessionTimeout s
  | .presenceSend dev => Sys2Proof.Machine.execPresenceSend dev s
  | .presence src bytes => Sys2Proof.Machine.execPresence src bytes s
  | .departure src bytes => Sys2Proof.Machine.execDeparture src bytes s
  | .peerTimeout dev => Sys2Proof.Machine.execPeerTimeout dev s
  | .repairHalfBank acc stack number spares => Sys2Proof.Machine.execRepairHalfBank acc stack number spares s
  | .retestTile acc tile => Sys2Proof.Machine.execRetestTile acc tile s
  | .selftestDone unit result => Sys2Proof.Machine.execSelftestDone unit result s
  | .unitLoadDone tile ok => Sys2Proof.Machine.execUnitLoadDone tile ok s
  | .vinRise => Sys2Proof.Machine.execVinRise s
  | .modRstN lowNs => Sys2Proof.Machine.execModRstN lowNs s
  | .perstAssert => Sys2Proof.Machine.execPerstAssert s
  | .perstDeassert => Sys2Proof.Machine.execPerstDeassert s
  | .startupStageDone stage failed pins => Sys2Proof.Machine.execStartupStageDone stage failed pins s
  | .refclkLoss => Sys2Proof.Machine.execRefclkLoss s
  | .junctionTrip die celsius => Sys2Proof.Machine.execJunctionTrip die celsius s
  | .shutdown what => Sys2Proof.Machine.execShutdown what s
  | .railsOff => Sys2Proof.Machine.execRailsOff s
  | .d3hotRequest => Sys2Proof.Machine.execD3hotRequest s
  | .d0Return => Sys2Proof.Machine.execD0Return s
  | .vigilArm acc => Sys2Proof.Machine.execVigilArm acc s
  | .vigilNow acc => Sys2Proof.Machine.execVigilNow acc s
  | .vigilRelease acc => Sys2Proof.Machine.execVigilRelease acc s
  | .vigilDisarm acc => Sys2Proof.Machine.execVigilDisarm acc s
  | .vigilMessage src bytes => Sys2Proof.Machine.execVigilMessage src bytes s
  | .vigilLatch => Sys2Proof.Machine.execVigilLatch s
  | .blkEnable acc page on => Sys2Proof.Machine.execBlkEnable acc page on s
  | .blkDrain acc page on => Sys2Proof.Machine.execBlkDrain acc page on s
  | .blkQuiesce acc page on => Sys2Proof.Machine.execBlkQuiesce acc page on s
  | .blkReset acc page => Sys2Proof.Machine.execBlkReset acc page s
  | .rw1cWrite acc page int value hw => Sys2Proof.Machine.execRw1cWrite acc page int value hw s
  | .registerWrite acc addr size value t3 => Sys2Proof.Machine.execRegisterWrite acc addr size value t3 s
  | .cxlLinkUp width => Sys2Proof.Machine.execCxlLinkUp width s
  | .hdmDecoderCommit decoder base size dpa => Sys2Proof.Machine.execHdmDecoderCommit decoder base size dpa s
  | .vectorUnmask vector => Sys2Proof.Machine.execVectorUnmask vector s
  | .attendSend tile dev part bytes => Sys2Proof.Machine.execAttendSend tile dev part bytes s
  | .inputVoltageExcursion mv us => Sys2Proof.Machine.execInputVoltageExcursion mv us s
  | .inputPowerExcursion watts us => Sys2Proof.Machine.execInputPowerExcursion watts us s
  | .laserFault link lane bias power => Sys2Proof.Machine.execLaserFault link lane bias power s
  | .receivedPowerLow link lane power => Sys2Proof.Machine.execReceivedPowerLow link lane power s
  | .secSealDone => Sys2Proof.Machine.execSecSealDone s
  | .descriptorInstallDone => Sys2Proof.Machine.execDescriptorInstallDone s
  | .clearedByRead addr size => Sys2Proof.Machine.execClearedByRead addr size s

end Sys2Proof.Machine
end

