-- ==== Sys2Proof/Safety.lean ====
section
/-! DEFINITION. What the statements call safe: fuses only rise (R459), memory and the register file keep their canonical forms, and the terms in
which a command's completion is stated. -/

namespace Sys2Proof.Machine

open Sys2Proof

/-- What `f` holds fused, `g` holds fused as well, with the same digests and no lower security version (R459). -/
def Fuses.kept (f g : Fuses) : Prop :=
  (∀ d, f.ownerKey = some d → g.ownerKey = some d) ∧ (∀ d, f.mgmtRoot = some d → g.mgmtRoot = some d) ∧ f.minSvn ≤ g.minSvn

/-- The register file's canonical form: addresses rise, and no register at its reset value is listed. -/
def Chip.regsOk (s : Chip) : Bool := SMap.rising s.regs && s.regs.all (fun x => x.2 != resetWord x.1)

/-- Memory's canonical form. -/
def Chip.memOk (s : Chip) : Bool := Memory.wf s.mem

/-- The module runs: its rails are on, and it has not been purged (R529, R554). -/
def State.runs (s : State) : Bool := !s.chip.pwr.off && !s.chip.pwr.purged

/-- Nothing waits for a command to end: no report of the transport, no window whose rows are still running, no line that the host has still to give
up, and no context with frames to send. -/
def Chip.calm (s : Chip) : Bool := s.xpt.ended.isEmpty && s.alm.row == 13 && s.cxl.touched.isEmpty && s.busyCtxs.isEmpty

/-- The module runs, and nothing waits in it. -/
def State.ready (s : State) : Bool := s.runs && s.chip.calm

/-- A write of `val` at page offset `off` reaches its page and is accepted under R547 and R550. -/
def Chip.accepts (s : Chip) (a : Access) (pg : Nat) (shared : Bool) (parts : List Nat) : Bool :=
  s.reaches a.writer pg && (s.judge a pg shared parts).isNone

/-- A command register takes the write: it is accepted, and its page does not drain (R545). -/
def Chip.takes (s : Chip) (a : Access) (pg : Nat) (shared : Bool) (parts : List Nat) : Bool := s.accepts a pg shared parts && !s.draining pg

/-- The access of a command that writes a register for the host or a principal; none for every other command. -/
def accessOf : Instr → Option Access
  | .planArm acc => some acc
  | .planWithdraw acc => some acc
  | .almSyncTod acc _ => some acc
  | .rtbPeekIdxWrite acc _ => some acc
  | .rtbSerialWrite acc _ => some acc
  | .pfxPin acc _ => some acc
  | .pfxUnpin acc _ => some acc
  | .smvOrdIssue acc => some acc
  | .programLoad acc _ => some acc
  | .programUnload acc _ => some acc
  | .registerEntry acc _ => some acc
  | .deregister acc _ _ => some acc
  | .residencyLoad acc _ _ _ => some acc
  | .residencyEvict acc _ _ _ => some acc
  | .residencyPin acc _ _ _ => some acc
  | .residencyUnpin acc _ _ _ => some acc
  | .acctRegister acc _ => some acc
  | .acctRemove acc => some acc
  | .acctClear acc => some acc
  | .sliceCommit acc => some acc
  | .descriptorInstall acc _ => some acc
  | .descriptorMigrate acc _ => some acc
  | .descriptorFree acc _ => some acc
  | .createQueuePair acc _ => some acc
  | .deleteQueuePair acc _ => some acc
  | .createEmitRing acc _ => some acc
  | .deleteEmitRing acc _ => some acc
  | .setProfile acc _ => some acc
  | .sqTailDoorbell acc _ _ => some acc
  | .cqHeadDoorbell acc _ _ => some acc
  | .emitHeadDoorbell acc _ _ => some acc
  | .lnkRetrain acc _ => some acc
  | .lnkRetire acc _ => some acc
  | .lnkReadmit acc _ => some acc
  | .mapProposal acc _ => some acc
  | .exportOpen acc _ => some acc
  | .exportRevoke acc _ => some acc
  | .windowOpen acc _ => some acc
  | .windowClose acc _ => some acc
  | .contextFlush acc _ => some acc
  | .calendarCommit acc _ => some acc
  | .policerWrite acc _ _ _ _ => some acc
  | .firmwareGo acc => some acc
  | .fuseOwnerKey acc _ => some acc
  | .fuseManagementRoot acc _ => some acc
  | .raiseMinSvn acc => some acc
  | .attestationRequest acc => some acc
  | .repairHalfBank acc _ _ _ => some acc
  | .retestTile acc _ => some acc
  | .vigilArm acc => some acc
  | .vigilNow acc => some acc
  | .vigilRelease acc => some acc
  | .vigilDisarm acc => some acc
  | .blkEnable acc _ _ => some acc
  | .blkDrain acc _ _ => some acc
  | .blkQuiesce acc _ _ => some acc
  | .blkReset acc _ => some acc
  | .rw1cWrite acc _ _ _ _ => some acc
  | .registerWrite acc _ _ _ _ => some acc
  | _ => none

/-- Nothing of the chip has changed but what the record of a write that was not accepted changes (R548, R558): GLB_OWN_LOG and its count, the GLB
page's error and interrupt bits, and what raising them sends. -/
def Chip.onlyLogged (s t : Chip) : Prop :=
  (t.mem, t.alm, t.parts, t.rtb, t.pfx, t.smv, t.tiles, t.sch, t.sdgs, t.memu) = (s.mem, s.alm, s.parts, s.rtb, s.pfx, s.smv, s.tiles, s.sch, s.sdgs, s.memu)
    ∧ (t.links, t.xpt, t.shps, t.flt, t.pwr, t.vgl, t.t3seen) = (s.links, s.xpt, s.shps, s.flt, s.pwr, s.vgl, s.t3seen)
    ∧ t.cxl = { s.cxl with pba := t.cxl.pba } ∧ t.sec = { s.sec with sessions := t.sec.sessions }
    ∧ t.glb = { s.glb with ownLog := t.glb.ownLog, logged := t.glb.logged }
    ∧ ∀ a, a ≠ Reg.GLB_OWN_COUNT → a ≠ regAt Pg.GLB Reg.ERR_STAT → a ≠ regAt Pg.GLB Reg.INT_STAT → t.rd a = s.rd a

end Sys2Proof.Machine
end

