-- ==== Sys2Proof/Certificates/Slice0/Obligations.lean ====
section
/-! DEFINITION. The statements for the provers. Each says what commands do, by the rules of the spec; a statement that rests on a choice of the
model says so and names the entry of the assumption log. -/

open Sys2Proof Sys2Proof.Machine

/-- O1. For every state, command and rest of the queue: the step of a state whose queue is the command followed by the rest is exec of that
command on the state with the rest queued. On an empty queue a step leaves the state as it is (the model's choice, log entry 1). (00
Conventions, 02 Almanac Time and Steps) -/
def Obligations.StepRunsFrontCommand : Prop :=
  (∀ (s : State) (c : Instr) (rest : List Instr), s.pending = c :: rest → step s = exec c { s with pending := rest })
    ∧ ∀ s : State, s.pending = [] → step s = .next s

/-- O2. For every command and every state there is a next state that exec answers, with the same queue: no command of the module faults or is
refused (log entry 2). (00 Conventions, 18 Register Pages) -/
def Obligations.EveryCommandCompletes : Prop :=
  ∀ (c : Instr) (s : State), ∃ t, exec c s = .next t ∧ t.pending = s.pending

/-- O3. For every state, if a step answers a next state then every digest that was fused is still fused with the same value, and MIN_SVN is at
least what it was. This holds for every command, resets and purges among them. It is the one-way clause of R459; the operations themselves
are stated elsewhere. (R459) -/
def Obligations.FusesOnlyRise : Prop :=
  ∀ s t : State, step s = .next t → s.fuses.kept t.fuses

/-- O4. For every command other than FUSE_OWNER_KEY, FUSE_MANAGEMENT_ROOT, RAISE_MIN_SVN, REGISTER_WRITE, NMP_WRITE and NMP_RECORD (the three
ways in which a write reaches SEC_FUSE_CTRL), and for every state, the next state holds the same fuses. (R459, R554, R547) -/
def Obligations.FusesChangeOnlyByFuseCommands : Prop :=
  ∀ (c : Instr) (s t : State),
    (match c with
      | .fuseOwnerKey .. => false
      | .fuseManagementRoot .. => false
      | .raiseMinSvn .. => false
      | .registerWrite .. => false
      | .nmpWrite .. => false
      | .nmpRecord .. => false
      | _ => true) = true →
    exec c s = .next t → t.fuses = s.fuses

/-- O5. For every command that writes a register for the host or a principal, from every state in which the module runs and nothing waits: where
the writer ranks as an observer or its slot is empty, the next state has the same fuses and the same queue, and differs from the old one in
nothing but GLB_OWN_LOG and its count, the GLB page's ERR_STAT and INT_STAT, and what raising those bits sends (vectors, management Events).
An RW1C write is taken without error events of its own cycle. (R547, R548, R558) -/
def Obligations.ObserversChangeNothing : Prop :=
  ∀ (c : Instr) (s : State) (a : Access),
    accessOf c = some a → s.ready = true → s.chip.rank a.writer = .observer ∨ s.chip.rank a.writer = .none →
    (match c with
      | .rw1cWrite _ _ _ _ hw => hw == 0
      | _ => true) = true →
    ∃ t, exec c s = .next t ∧ t.fuses = s.fuses ∧ t.pending = s.pending ∧ s.chip.onlyLogged t.chip

/-- O6. For every state in which the rails are off and every command other than VIN_RISE and MOD_RST_N, the next state is the state itself.
(R517, R529) -/
def Obligations.RailsOffModuleDoesNothing : Prop :=
  ∀ (c : Instr) (s : State), s.chip.pwr.off = true →
    (match c with
      | .vinRise => false
      | .modRstN _ => false
      | _ => true) = true →
    exec c s = .next s

/-- O7. In State.reset the queue is empty, no fuse is blown, no memory byte and no register is listed (each reads as its reset value; memory's 0
is the model's choice, log entry 3), and these registers among others read: ALM_CUR_CADENCE 2,000,000, ALM_CUR_BW_LEN 20,000,
ALM_STATE.UPSTREAM 63, XPT_SELF.DEVICE 0xFFFF, every page's BLK_CTRL 1, OWNER 1 on the ALM page and 0 on the RTB page, WIN_CFG 0x0303E808 on
a link's page, and PWR_LIMIT 2,800. (R17, R518, R543, R557, R562, R69) -/
def Obligations.ResetLeavesReadableValues : Prop :=
  State.reset.pending = [] ∧ State.reset.fuses = { ownerKey := none, mgmtRoot := none, minSvn := 0 } ∧ State.reset.chip.mem = []
    ∧ State.reset.chip.regs = []
    ∧ State.reset.chip.rd Reg.ALM_CUR_CADENCE = 2000000 ∧ State.reset.chip.rd Reg.ALM_CUR_BW_LEN = 20000
    ∧ State.reset.chip.rf F.ALM_STATE_UPSTREAM = 63 ∧ State.reset.chip.rf F.XPT_SELF_DEVICE = 0xFFFF
    ∧ State.reset.chip.rd (regAt Pg.RTB Reg.BLK_CTRL) = 1 ∧ State.reset.chip.rd (regAt Pg.ALM Reg.OWNER) = 1
    ∧ State.reset.chip.rd (regAt Pg.RTB Reg.OWNER) = 0 ∧ State.reset.chip.rd (regAt (Pg.lnk 47) Reg.WIN_CFG) = 0x0303E808
    ∧ State.reset.chip.rd Reg.PWR_LIMIT = 2800

/-- O8. With the rails on and nothing waiting: where at the new time no step begins, no vigil trigger is due, no plan waits, and the offset is
not that of Compute, Exchange, Settle or the State Mover's cutoff, the tick adds 10 to the almanac time, takes at most 100 fs off what is
left of an offset that the tick rate corrects (10 ns in a ms), and changes nothing else. At any other tick of a device with its rails on,
the command is Chip.tick with the tick's input, and what follows every command. (R41, R42, R43) -/
def Obligations.QuietTickAddsTen : Prop :=
  (∀ (s : State) (x : StepInput) (t : Chip), s.ready = true →
      t = s.chip.setAlm (fun a => { a with now := a.now + 10, slew := if a.slew < 0 then min 0 (a.slew + 100) else max 0 (a.slew - 100) }) →
      t.alm.late = none → t.atStart = false → t.latchSources = [] →
      t.offset ≠ t.plan.w → t.offset ≠ t.plan.x → t.offset ≠ t.plan.s → t.offset ≠ t.cutoffAt →
      exec (.almanacTick x) s = .next { s with chip := t })
    ∧ ∀ (s : State) (x : StepInput), s.chip.pwr.off = false → exec (.almanacTick x) s = .next { s with chip := (s.chip.tick x).settle }

/-- O9. For every chip with no plan waiting under R579 and a cadence C above 0: at any almanac time t at or after the base time, written base
time + 10 × (n × C + k) + r with k below C and r below 10 (so n is the floor of (t − base time) ÷ (10 × C), and k the whole ticks of (t −
base time) ÷ 10 mod C), the step number is base step + n and the offset is k. The phase is Boundary window, Compute, Exchange or Settle
according to the first of W, X and S that the offset lies below. (R45) -/
def Obligations.StepNumberAndOffset : Prop :=
  ∀ (s : Chip) (n k r : Nat), s.alm.late = none → 0 < s.plan.c → k < s.plan.c → r < 10 →
    s.alm.now = s.rd64 Reg.ALM_BASE_TIME_LO + 10 * (n * s.plan.c + k) + r →
    s.step = s.rd64 Reg.ALM_BASE_STEP_LO + n ∧ s.offset = k
      ∧ s.phase = (if k < s.plan.w then 0 else if k < s.plan.x then 1 else if k < s.plan.s then 2 else 3)

/-- O10. On a module that runs. BOUNDARY_WINDOW, no plan adopted late: the time comes to the next step's first tick (step one more, offset 0),
the old window's rest is carried, calendars, power cap, buckets, bindings and tiles start the step, and on a locked device rows 1 to 5 and
the start of row 6 run, then the rows that follow. COMPUTE_START at W: rows left are carried, each selection that is not voided starts its
tiles, a tile that has not answered the probe is stopped, the seeds are taken, due hashes are computed with PFX_CFG.EN 1 and dropped with 0.
EXCHANGE_START at X: a tile with its Compute part unfinished has a sequencer fault, every tile is done, each lookup still open fails.
SETTLE_START at S: stale orders end; those queued, journal moves and rebuilds are tried in turn, or held while the mover is off or quiet.
SMV_CUTOFF at C less the cutoff: transfers that are not prepared end LATE, and a generation partition of a whole gang sends its Bid and
Offer. VOTE_DEADLINE at S: each proposal for the next step without all votes lapses. An event at or after a late plan's moment is skipped; a
skipped EXCHANGE_START still has a sequencer fault for each tile that is unfinished. That a command brings the time to its own moment is the
model's choice (log entry 5). (R42, R45, R62, R65, R120, R136, R148, R202, R206, R218, R393, R579) -/
def Obligations.PhaseCommandsActAtTheirMoment : Prop :=
  ∀ s : State, s.runs = true →
    (∀ (x : StepInput) (c o a n t : Chip), s.chip.alm.late = none → c = s.chip.advance s.chip.nextStart →
      o = ({ c.advance c.nextStart with t3seen := x.t3.foldl (fun m (y : Nat × Bytes) => SMap.put m y.1 y.2) c.t3seen } : Chip).closeWindow →
      a = o.setAlm (fun y => { y with stepTaken := some o.step }) →
      n = ((a.each a.shps.keys Chip.switchCal).capping x.reading).takeBuckets.clearBinding.clearMerges.setXpt (fun y => { y with exchanged := [] }) →
      t = n.each n.tiles.keys (fun d i => d.setTile i (fun y => { y with stopped := false, reported := false, done := true, prog := 0 })) →
      exec (.boundaryWindow x) s = .next { s with chip := (if t.locked then
        (let v := t.lapseDue
         (((v.setAlm (fun a => { a with winStep := v.step, cost := 0, fixed11 := false, carried := [], queue := a.carrying, carrying := [] })).noteHeld.latchDue.row2.row3.row4.row5).setAlm
          (fun a => { a with row := 6, cost := 300 })).row6Source.row6DstStart.windowGo)
        else t).settle })
    ∧ (s.chip.alm.late = none → 0 < s.chip.plan.c → s.chip.rd64 Reg.ALM_BASE_TIME_LO ≤ s.chip.alm.now → s.chip.atStart = false →
        (s.chip.advance s.chip.nextStart).step = s.chip.step + 1 ∧ (s.chip.advance s.chip.nextStart).offset = 0)
    ∧ (∀ (seeds : List (Nat × Nat)) (a b d e : Chip), s.chip.skipped s.chip.plan.w = false → a = (s.chip.toOffset s.chip.plan.w).closeWindow →
        b = a.each (a.sch.sels.filter (fun x => !x.voided)) (fun c x => c.each (c.tilesUsed x) (fun c t =>
          c.setTile t (fun y => { y with prog := x.prog + 1, part := x.part, done := false, stopped := false }))) →
        d = b.each (below 68 (fun t => (b.tile t).probed && (b.tile t).prog != 0)) Chip.stopTile →
        e = d.each seeds (fun c x => if x.1 < 68 then (c.wr64 (regAt (Pg.til x.1) Reg.TIL_SR_SEED_LO) x.2).setTile x.1 (fun y => { y with srCount := 0 }) else c) →
        exec (.computeStart seeds) s = .next { s with chip :=
          (e.each ((e.rtb.rtes.filter (fun x => x.2.hashDue && x.2.state.live)).map (·.1))
            (fun c i => if e.pfxOn then c.hashAndLook i else c.updRte i (fun r => { r with hashDue := false }))).settle })
    ∧ (∀ (l : List Nat) (a b d : Chip), s.chip.skipped s.chip.plan.x = false → a = s.chip.toOffset s.chip.plan.x →
        b = a.each (l.filter (fun t => (a.tile t).prog != 0 && !(a.tile t).done && !(a.tile t).stopped)) (fun c t => c.seqFault t (c.tile t).part true) →
        d = b.each b.tiles.keys (fun c t => c.setTile t (fun y => { y with done := true })) →
        exec (.exchangeStart l) s = .next { s with chip := (d.each ((d.rtb.rtes.filter (fun x => x.2.lookup == 1)).map (·.1)) (fun c i =>
          ((((c.updRte i (fun r => { r with lookup := 3 })).cnt Reg.PFX_LOOKUP_FAIL).cntBy Reg.PFX_BLOCKS_MISSED
            (match c.rte i with
              | some r => r.promptBlocks - r.localMatch
              | none => 0)).raise Pg.PFX 0))).settle })
    ∧ (∀ a b : Chip, s.chip.skipped s.chip.plan.s = false → a = (s.chip.toOffset s.chip.plan.s).endStaleOrders →
        b = a.each a.rebuildOrders (fun c _ => (c.cnt Reg.SMV_REBUILDS).raise Pg.SMV 4) →
        exec .settleStart s = .next { s with chip :=
          ((b.setSmv (fun m => { m with orders := [] })).each (b.smv.orders ++ b.journalOrders ++ a.rebuildOrders)
            (if b.smvOn && !b.quiet Pg.SMV then Chip.tryOrder else Chip.holdOrder)).settle })
    ∧ (∀ c : Chip, s.chip.skipped s.chip.plan.s = false → c = s.chip.toOffset s.chip.plan.s →
        exec .voteDeadline s = .next { s with chip :=
          (c.each (c.xpt.proposals.filter (fun p => !p.lapsed && !p.complete && decide (p.map.step ≤ c.step + 1))) Chip.lapse).settle })
    ∧ (∀ a b : Chip, s.chip.skipped s.chip.cutoffAt = false → a = s.chip.toOffset s.chip.cutoffAt →
        b = a.each (a.smv.srcs.filter (fun x => x.state.unprepared)) (fun c x => c.abortSrc x St.late true) →
        exec .smvCutoff s = .next { s with chip := (if b.schOn = false then b
          else b.each (below 8 b.inGang) (fun c p => if c.gangWhole p = false then c
            else
              let n := (c.bidCount p).1
              let ctx := (c.bidCount p).2
              let m := c.gangModel p
              let d := c.setSch (fun x => { x with bids := x.bids ++ [{ step := c.step + 1, dev := c.selfDev, part := p, dst := p, count := n, ctx := ctx, model := m }] })
              (d.each (d.gangPeers p) (fun f q => f.send 4 q.1 q.2 p
                (bidMsg p f.selfDev n (f.step + 1) ctx (f.gangModel p) ((c.gang p).findIdx (fun y => y == (c.selfDev, p)))))).sendOffer p n)).settle })
    ∧ (∀ seeds, s.chip.skipped s.chip.plan.w = true → exec (.computeStart seeds) s = .next { s with chip := s.chip.settle })
    ∧ (∀ l, s.chip.skipped s.chip.plan.x = true → exec (.exchangeStart l) s = .next { s with chip :=
        (s.chip.each (l.filter (fun t => (s.chip.tile t).prog != 0 && !(s.chip.tile t).done && !(s.chip.tile t).stopped)) (fun c t => c.seqFault t (c.tile t).part true)).settle })
    ∧ (s.chip.skipped s.chip.plan.s = true → exec .settleStart s = .next { s with chip := s.chip.settle } ∧ exec .voteDeadline s = .next { s with chip := s.chip.settle })
    ∧ (s.chip.skipped s.chip.cutoffAt = true → exec .smvCutoff s = .next { s with chip := s.chip.settle })

/-- O11. With nothing waiting and the write accepted. PLAN_ARM outside every composition and with ARM 0: a plan within the limits whose step is
still to come sets ARM 1, BAD 0 and SOURCE 0; any other sets BAD 1 and ERR_STAT bit [0], and ARM stays. In a composition, or with ARM 1,
nothing changes. PLAN_WITHDRAW outside every composition clears ARM of a register plan; a map's plan (SOURCE 1) stays. PLAN_SWITCH with a
plan adopted late whose moment comes after offset X of the old step: it advances the time to the moment, puts the plan's cadence and offsets
into the CUR registers and its base into the base registers, and cuts the calendars of all 48 links to the new cadence; where the moment
comes at or before X, what X would have ended ends first. Without a late plan it does nothing. Nothing else changes. (R46, R48, R579) -/
def Obligations.PlansAreArmedWithdrawnAndSwitched : Prop :=
  (∀ (s : State) (acc : Access), s.ready = true → s.chip.accepts acc Pg.ALM false [] = true →
    exec (.planArm acc) s = .next { s with chip :=
      (if s.chip.inComposition || s.chip.rf F.ALM_PLAN_CTRL_ARM = 1 then s.chip
      else if s.chip.pendPlan.legal && s.chip.step < s.chip.rd64 Reg.ALM_PLAN_STEP_LO then
        ((s.chip.wf F.ALM_PLAN_CTRL_ARM 1).wf F.ALM_PLAN_CTRL_BAD 0).wf F.ALM_PLAN_CTRL_SOURCE 0
      else (s.chip.wf F.ALM_PLAN_CTRL_BAD 1).raise Pg.ALM 0) }
    ∧ exec (.planWithdraw acc) s = .next { s with chip :=
        (if s.chip.inComposition || s.chip.rf F.ALM_PLAN_CTRL_SOURCE = 1 then s.chip else s.chip.wf F.ALM_PLAN_CTRL_ARM 0) })
  ∧ ∀ (s : State), s.runs = true →
      (s.chip.alm.late = none → exec .planSwitch s = .next { s with chip := s.chip.settle })
      ∧ ∀ (l : LatePlan) (c d : Chip), s.chip.alm.late = some l →
          c = (if l.moment ≤ s.chip.atOffset s.chip.plan.x then s.chip.exchangeStart [] else s.chip) → c.alm.late = some l →
          d = (c.advance l.moment).setAlm (fun a => { a with late := none }) →
          exec .planSwitch s = .next { s with chip :=
            (((((((d.wr Reg.ALM_CUR_CADENCE l.plan.c).wr Reg.ALM_CUR_BW_LEN l.plan.w).wr Reg.ALM_CUR_EXCH l.plan.x).wr Reg.ALM_CUR_SETTLE l.plan.s).wr64
              Reg.ALM_BASE_TIME_LO l.baseTime).wr64 Reg.ALM_BASE_STEP_LO l.baseStep).each (List.range 48) Chip.truncCal).settle }

/-- O12. With nothing waiting. An accepted write of ALM_SYNC_TOD stores the HI word and sets TOD_PENDING. An edge sets PRESENT and, with EN 0,
does no more. With EN 1 and no TOD written it counts as bad. With a TOD it clears TOD_PENDING and reports in DIFF, limited to 16 bits, the
edge's time TOD × 10^9 + DELAY less the almanac's own time; the edge is bad where that exceeds 1,000 ns, and good otherwise, for a device
whose time is already valid. A missing edge clears PRESENT and, with EN 1, counts as bad. A timeout of holdover takes a device in class 1
without three good edges to class 2. Nothing else changes. What a device that has never locked does with its first edge is stated in log
entry 21. (R59, R60, R61, R69) -/
def Obligations.SyncInputEdges : Prop :=
  ∀ s : State, s.ready = true →
    (∀ acc value, s.chip.accepts acc Pg.ALM false [] = true →
      exec (.almSyncTod acc value) s = .next { s with chip := (s.chip.wr Reg.ALM_SYNC_TOD_HI value).wf F.ALM_SYNC_STAT_TOD_PENDING 1 })
    ∧ (∀ own, s.chip.rf F.ALM_SYNC_CFG_EN = 0 → exec (.almSyncEdge own) s = .next { s with chip := (s.chip.wf F.ALM_SYNC_STAT_PRESENT 1).settle })
    ∧ (∀ (own : Nat) (c : Chip) (diff : Int), c = s.chip.wf F.ALM_SYNC_STAT_PRESENT 1 → c.rf F.ALM_SYNC_CFG_EN = 1 → c.alm.valid = true →
        diff = (c.rd64 Reg.ALM_SYNC_TOD_LO * 1000000000 + c.rf F.ALM_SYNC_CFG_DELAY : Nat) - (own : Int) →
        exec (.almSyncEdge own) s = .next { s with chip :=
          (if c.rf F.ALM_SYNC_STAT_TOD_PENDING ≠ 1 then (c.wf F.ALM_SYNC_STAT_TOD_PENDING 0).badEdge
          else
            let d := (c.wf F.ALM_SYNC_STAT_TOD_PENDING 0).wf F.ALM_SYNC_STAT_DIFF (ofSigned 16 (max (-32767) (min 32767 diff)))
            if 1000 < diff.natAbs then d.badEdge else d.goodEdge diff).settle })
    ∧ exec .almSyncEdgeMissed s = .next { s with chip :=
        (if s.chip.rf F.ALM_SYNC_CFG_EN = 1 then (s.chip.wf F.ALM_SYNC_STAT_PRESENT 0).badEdge else s.chip.wf F.ALM_SYNC_STAT_PRESENT 0).settle }
    ∧ exec .holdoverTimeout s = .next { s with chip :=
        (if s.chip.rf F.ALM_STATE_CLASS = 1 ∧ s.chip.alm.goodEdges < 3 then s.chip.setClass 2 else s.chip).settle }

/-- O13. On a module that runs. ANNOUNCE_SEND of a device that has a master below 32 hops sends a record of type 1 about that master, with the
link's next sequence number, on every link that is up; a device without one elects first. ALMANAC_SYNC_SEND sends one of type 2 with the
time of sending to every link that is up whose peer has sent a Delay request within 3 ms. DELAY_REQUEST_SEND sends one of type 3 to the
upstream and on links in SELFTEST, and keeps its sequence number and time. MASTER_LOST with an upstream forgets the candidate of that link,
sets ERR_STAT bit [2] and elects anew among those heard within 3 ms; without one it changes nothing. What follows every command follows.
(R51, R52, R53, R49) -/
def Obligations.AlmanacRecordsSent : Prop :=
  ∀ s : State, s.runs = true →
    (∀ c : Chip, c = (if s.chip.hasMaster then s.chip else s.chip.elect) → c.hasMaster = true → c.rf F.ALM_STATE_HOPS < 32 →
      exec .announceSend s = .next { s with chip := (c.each c.linksUp (fun c l => (c.nextSeq l 1).1.sendAlm l ((c.nextSeq l 1).1.masterRec 1 (c.nextSeq l 1).2))).settle })
    ∧ (∀ t : Stamp, s.chip.locked = true →
      exec (.almanacSyncSend t) s = .next { s with chip :=
        (let d := s.chip.each ((s.chip.alm.downs.filter (fun x => s.chip.linkUp x.1 && decide (s.chip.alm.now < x.2 + 3000000))).map (·.1))
           (fun c l => (c.nextSeq l 2).1.sendAlm l { (c.nextSeq l 2).1.masterRec 2 (c.nextSeq l 2).2 with time := t })
         if d.isMaster && !d.locked then d.goodSync else d).settle })
    ∧ (∀ t : Stamp, exec (.delayRequestSend t) s = .next { s with chip :=
        (s.chip.each (s.chip.linksUp.filter (fun l => l == s.chip.upstream || s.chip.lnkState l == Ls.selftest)) (fun c l =>
          ((c.nextSeq l 3).1.setAlm (fun a => { a with delayReq := a.delayReq.put l ((c.nextSeq l 3).2, t.total) })).sendAlm l
            { (c.nextSeq l 3).1.masterRec 3 (c.nextSeq l 3).2 with time := t })).settle })
    ∧ exec .masterLost s = .next { s with chip := (if s.chip.upstream = 63 then s.chip
        else ((s.chip.setAlm (fun a => { a with heard := a.heard.filter (fun x => x.1 != s.chip.upstream) })).raise Pg.ALM 2).elect).settle }

/-- O14. On a module that runs, for each of the 48 links: a record that is not 48 bytes of its type in the link's version, or whose link is not
up, is taken from the link and changes nothing else; what follows every command follows. (R49, R51) -/
def Obligations.BadAlmanacRecordsAreDropped : Prop :=
  ∀ (s : State) (l : Nat) (b : Bytes) (rx tx : Stamp), s.runs = true → l < 48 →
    ((s.chip.takeCtl l 2 b).almOk l 1 b = false → exec (.announce l b) s = .next { s with chip := (s.chip.takeCtl l 2 b).settle })
    ∧ ((s.chip.takeCtl l 2 b).almOk l 2 b = false → exec (.almanacSync l b rx) s = .next { s with chip := (s.chip.takeCtl l 2 b).settle })
    ∧ ((s.chip.takeCtl l 2 b).almOk l 3 b = false → exec (.delayRequest l b rx tx) s = .next { s with chip := (s.chip.takeCtl l 2 b).settle })
    ∧ ((s.chip.takeCtl l 2 b).almOk l 4 b = false → exec (.delayReply l b rx) s = .next { s with chip := (s.chip.takeCtl l 2 b).settle })

/-- O15. On a module that runs, for each of the 48 links, for a record of the right type and version on a link that is up. An Announce of the
device's own serial changes nothing; another is kept as the link's candidate, and of a device without a master elects, of its master on its
upstream is followed, of its master on a better link changes the upstream, of a better master is counted towards three; the master's, below
32 hops, goes on to every other link. A Sync from the upstream gives the offset t − T − (d + a ÷ 2), which the device takes; from another
link it does nothing. A Delay request is answered with a record of type 4 with the request's sequence number and the times of receipt and of
answer; outside SELFTEST its sender counts as downstream from now. A Delay reply to the request still open sets ALM_LNK_DELAY of the link to
((t4 − t1) − (t3 − t2)) ÷ 2 and closes the request. What follows every command follows. (R51, R52, R54) -/
def Obligations.AlmanacRecordsTaken : Prop :=
  ∀ (s : State) (l : Nat) (b : Bytes) (c : Chip), s.runs = true → l < 48 → c = s.chip.takeCtl l 2 b →
    (∀ (r : AlmRec) (k : Cand) (d e : Chip), r = AlmRec.ofBytes b → c.almOk l 1 b = true → r.serial ≠ ownSerial →
        k = ⟨r.cls, r.prio, r.serial, r.device, r.hops, c.alm.now⟩ → d = c.setAlm (fun a => { a with heard := a.heard.put l k }) →
        e = (if d.hasMaster = false then d.elect
          else if d.upstream = l ∧ k.serial = d.curMaster.serial then (d.follow k (some l)).reviewOwn
          else if k.serial = d.curMaster.serial then
            (if d.isMaster = false ∧ (k.hops + 1 < d.rf F.ALM_STATE_HOPS ∨ (k.hops + 1 = d.rf F.ALM_STATE_HOPS ∧ l < d.upstream)) then d.follow k (some l) else d)
          else if k.before d.curMaster then d.countBetter k else d) →
        exec (.announce l b) s = .next { s with chip := (if e.upstream = l ∧ k.serial = e.curMaster.serial ∧ k.hops + 1 < 32 then
          e.each (e.linksUp.filter (· != l)) (fun f o => (f.nextSeq o 1).1.sendAlm o { r with hops := k.hops + 1, seq := (f.nextSeq o 1).2 }) else e).settle })
    ∧ ((AlmRec.ofBytes b).serial = ownSerial → exec (.announce l b) s = .next { s with chip := c.settle })
    ∧ (∀ rx : Stamp, c.almOk l 2 b = true →
        exec (.almanacSync l b rx) s = .next { s with chip := (if c.upstream = l then
          c.takeOffset ((rx.total : Int) - (AlmRec.ofBytes b).time.total
            - (toSigned 32 (c.rd (Reg.ALM_LNK_DELAY + 4 * l)) + toSigned 32 (c.rd (Reg.ALM_LNK_ASYM + 4 * l)) / 2)) else c).settle })
    ∧ (∀ rx tx : Stamp, c.almOk l 3 b = true →
        exec (.delayRequest l b rx tx) s = .next { s with chip :=
          (let d := if c.lnkState l = Ls.selftest then c else c.setAlm (fun a => { a with downs := a.downs.put l a.now })
           d.sendAlm l { d.masterRec 4 (le b 16 4) with time := rx, echo := tx }).settle })
    ∧ (∀ (rx : Stamp) (t1 : Nat), c.almOk l 4 b = true → c.alm.delayReq.find l = some ((AlmRec.ofBytes b).seq, t1) → c.lnkState l ≠ Ls.selftest →
        exec (.delayReply l b rx) s = .next { s with chip :=
          ((c.setAlm (fun a => { a with delayReq := a.delayReq.del l })).wr (Reg.ALM_LNK_DELAY + 4 * l)
            (ofSigned 32 ((((rx.total : Int) - t1) - (((AlmRec.ofBytes b).echo.total : Int) - (AlmRec.ofBytes b).time.total)) / 2))).settle })

/-- O16. On a module that runs. A host read in D3hot has no answer. Else a read whose size or alignment is not served answers 0 and is recorded
with OUTCOME 5. A served 4-byte read answers the register's value; of an ALM LO register once the page is up it also latches the HI register
after it, so that the next read of that HI register answers its value at this moment; of PWR_PEAK_W it also clears the register, and of
SDG_REF_STAT it clears MAXC; any other changes nothing. A served 8-byte read is the read of the low word and then of the high word, answered
together. (R68, R274, R546, R561, R521, R524) -/
def Obligations.RegisterReadsAnswerLatchAndClear : Prop :=
  ∀ (s : State) (a size : Nat), s.runs = true →
    (s.chip.d3hot = true → exec (.loRegisterRead a size) s = .next s ∧ exec (.clearedByRead a size) s = .next s)
    ∧ (s.chip.d3hot = false → served a size = false →
        exec (.loRegisterRead a size) s = .next { s with chip := (s.chip.logWrite .host a 0 5).emit (.regData 0) }
        ∧ exec (.clearedByRead a size) s = .next { s with chip := (s.chip.logWrite .host a 0 5).emit (.regData 0) })
    ∧ (s.chip.d3hot = false → served a 4 = true → s.chip.pageUp (a / 0x1000) = true →
        ∀ t : Chip, t = (if a ∈ almLo then s.chip.setAlm (fun x => { x with loLatch := x.loLatch.put (a + 4) (s.chip.view (a + 4)) })
            else if a = Reg.PWR_PEAK_W then s.chip.wr a 0
            else if a % 0x1000 = Reg.SDG_REF_STAT ∧ 104 ≤ a / 0x1000 ∧ a / 0x1000 < 128 then s.chip.wf (F.SDG_REF_STAT_MAXC.on (a / 0x1000)) 0
            else s.chip) →
        exec (.loRegisterRead a 4) s = .next { s with chip := t.emit (.regData (s.chip.readValue a)) }
        ∧ exec (.clearedByRead a 4) s = .next { s with chip := t.emit (.regData (s.chip.readValue a)) }
        ∧ (a ∈ almLo → t.readValue (a + 4) = s.chip.view (a + 4)))
    ∧ (s.chip.d3hot = false → served a 8 = true →
        exec (.loRegisterRead a 8) s = .next { s with chip :=
          (((s.chip.afterRead a).afterRead (a + 4)).emit (.regData (s.chip.readValue a + (s.chip.afterRead a).readValue (a + 4) * 2 ^ 32))) })

/-- O17. With nothing waiting, for every page of the directory whose BLK_CTRL takes the write. BLK_DRAIN sets or clears DRAIN. BLK_QUIESCE 1
sets QUIESCE while no partition is in a composition and else sets GLB ERR_STAT bit [6]; BLK_QUIESCE 0 clears QUIESCE and QUIESCED, and the
page is no longer held. BLK_ENABLE on a page other than CXL and a link's sets or clears ENABLE, and enabling ends the page's stop. BLK_RESET
of a page that is not quiesced sets GLB ERR_STAT bit [6] and does nothing else; of one that is, it resets the page. Nothing else changes; on
a CXL or link page what turning it on or off sets off follows ENABLE. (R545, R543) -/
def Obligations.BlockControlWrites : Prop :=
  ∀ (s : State) (acc : Access) (page inst : Nat) (b : Blk) (on : Bool), s.ready = true → blkOf page = some (b, inst) →
    s.chip.accepts acc page false [] = true →
    exec (.blkDrain acc page on) s = .next { s with chip := s.chip.wf (F.BLK_CTRL_DRAIN.on page) (b2n on) }
    ∧ exec (.blkQuiesce acc page true) s = .next { s with chip :=
        (if s.chip.inComposition then s.chip.raise Pg.GLB 6 else s.chip.wf (F.BLK_CTRL_QUIESCE.on page) 1) }
    ∧ exec (.blkQuiesce acc page false) s = .next { s with chip :=
        { (s.chip.wf (F.BLK_CTRL_QUIESCE.on page) 0).wf (F.BLK_STAT_QUIESCED.on page) 0 with
          glb := { s.chip.glb with held := s.chip.glb.held.filter (· != page) } } }
    ∧ (b ≠ .cxl → b ≠ .lnk → exec (.blkEnable acc page on) s = .next { s with chip :=
        { s.chip.wf (F.BLK_CTRL_ENABLE.on page) (b2n on) with
          glb := { s.chip.glb with stopped := if on then s.chip.glb.stopped.filter (· != page) else s.chip.glb.stopped } } })
    ∧ exec (.blkEnable acc page on) s = .next { s with chip := ((s.chip.setEnable page on).switched s.chip b page inst).settle }
    ∧ exec (.blkReset acc page) s = .next { s with chip :=
        (if s.chip.rf (F.BLK_STAT_QUIESCED.on page) = 0 then s.chip.raise Pg.GLB 6 else (s.chip.resetPage s.fuses b page inst).settle) }

/-- O18. With nothing waiting and no error event in its cycle, for every page of the directory that accepts the write: the register keeps the
bits that were written 0, loses those written 1, and nothing else changes; so after it, bit i of the register is set exactly where it was
set before and the value has bit i clear. (R16, R544) -/
def Obligations.WriteOneClears : Prop :=
  ∀ (s : State) (acc : Access) (page inst val : Nat) (b : Blk) (int : Bool), s.ready = true → blkOf page = some (b, inst) →
    s.chip.accepts acc page false [] = true → val < 2 ^ 32 →
    ∃ t, exec (.rw1cWrite acc page int val 0) s = .next { s with chip := t }
      ∧ t = s.chip.wr (regAt page (if int then Reg.INT_STAT else Reg.ERR_STAT)) (t.rd (regAt page (if int then Reg.INT_STAT else Reg.ERR_STAT)))
      ∧ ∀ i, (t.rd (regAt page (if int then Reg.INT_STAT else Reg.ERR_STAT))).testBit i
          = ((s.chip.rd (regAt page (if int then Reg.INT_STAT else Reg.ERR_STAT))).testBit i && !val.testBit i)

/-- O19. For every page of the directory, every writer and every value written: where error event i falls in the same cycle as the RW1C write to
ERR_STAT, bit i of ERR_STAT is set afterwards; where the write is to INT_STAT and ERR_MASK does not hold the event back, bit i of INT_STAT
is set afterwards. This holds whether or not the write is accepted. (R18) -/
def Obligations.EventBitSurvivesItsClear : Prop :=
  ∀ (s : State) (acc : Access) (page inst val hw i : Nat) (b : Blk), s.ready = true → blkOf page = some (b, inst) → i < 32 → hw.testBit i = true →
    (∃ t, exec (.rw1cWrite acc page false val hw) s = .next t ∧ (t.chip.rd (regAt page Reg.ERR_STAT)).testBit i = true)
    ∧ ((s.chip.rd (regAt page Reg.ERR_MASK)).testBit i = false →
      ∃ t, exec (.rw1cWrite acc page true val hw) s = .next t ∧ (t.chip.rd (regAt page Reg.INT_STAT)).testBit i = true)

/-- O20. With nothing waiting. A 4-byte write to a block-specific register of the PWR, SMV, SCH, FLT, VGL, TIL, SDG, OPT or CAL pages that names
no command and is accepted under the rule of that register: its writable bits then read as written, its other bits as before, no other
register changes, and nothing else changes. A write whose size or alignment BAR0 does not serve is recorded with OUTCOME 5 and does nothing
else. (R16, R546, R547, R548) -/
def Obligations.RegisterWriteIsStoredAndReadBack : Prop :=
  (∀ (s : State) (acc : Access) (a val inst : Nat) (b : Blk) (r : RegRow) (n : Nat) (t3 : List (Nat × Bytes)), s.ready = true →
    a % 4 = 0 → val < 2 ^ 32 → blkOf (a / 0x1000) = some (b, inst) → b ∈ [Blk.pwr, .smv, .sch, .flt, .vgl, .til, .sdg, .opt, .cal] →
    0x100 ≤ a % 0x1000 → rowHere b inst (a % 0x1000) = some (r, n) → r.soft < 2 ^ 32 → s.commandWrite acc a val t3 = none →
    (s.chip.ruleOf a val).admin = false →
    s.chip.accepts acc (a / 0x1000) (s.chip.ruleOf a val).shared (s.chip.ruleOf a val).parts = true →
    ∃ t, exec (.registerWrite acc a 4 val t3) s = .next { s with chip := t } ∧ t = s.chip.wr a (t.rd a)
      ∧ ∀ i, (t.rd a).testBit i = if r.soft.testBit i then val.testBit i else (s.chip.rd a).testBit i)
  ∧ ∀ (s : State) (acc : Access) (a size val : Nat) (t3 : List (Nat × Bytes)), s.runs = true → served a size = false → s.chip.d3hot = false →
    exec (.registerWrite acc a size val t3) s = .next { s with chip := s.chip.logWrite acc.writer a (val % 2 ^ 32) 5 }

/-- O21. With nothing waiting, for the commands of ALM_PLAN_CTRL, XPT_CTX_CTRL, VGL_CTRL, LNK_CTRL and SMV_ORD_CTRL where it names no request: a
write that reaches its page and that R547 turns away with an OUTCOME (1: page not owned, 2: excluded partition, 4: observer or empty slot)
appends the record of that write to GLB_OWN_LOG, sets GLB ERR_STAT bit [0] (OUTCOME 1 and 4) or [2] (OUTCOME 2), and changes nothing else
but the count and what the bit raises. OUTCOME 3 is R550's, with bit [1]. (R547, R548, R550, R558) -/
def Obligations.RefusedWritesAreRecorded : Prop :=
  (∀ (s : State) (acc : Access) (o : Nat), s.ready = true →
    (s.chip.reaches acc.writer Pg.ALM = true → s.chip.judge acc Pg.ALM false [] = some o →
      exec (.planArm acc) s = .next { s with chip := s.chip.logWrite acc.writer Reg.ALM_PLAN_CTRL 1 o }
      ∧ exec (.planWithdraw acc) s = .next { s with chip := s.chip.logWrite acc.writer Reg.ALM_PLAN_CTRL 0 o })
    ∧ (∀ peer, s.chip.reaches acc.writer Pg.XPT = true → s.chip.judge acc Pg.XPT false [] = some o →
      exec (.contextFlush acc peer) s = .next { s with chip := s.chip.logWrite acc.writer Reg.XPT_CTX_CTRL (peer + 65536) o })
    ∧ (s.chip.reaches acc.writer Pg.VGL = true → s.chip.judge acc Pg.VGL false [] = some o →
      exec (.vigilArm acc) s = .next { s with chip := s.chip.logWrite acc.writer Reg.VGL_CTRL 1 o })
    ∧ ∀ l, l < 48 → s.chip.reaches acc.writer (Pg.lnk l) = true → s.chip.judge acc (Pg.lnk l) false [] = some o →
      exec (.lnkRetire acc l) s = .next { s with chip := s.chip.logWrite acc.writer (regAt (Pg.lnk l) Reg.LNK_CTRL) 2 o })
  ∧ ∀ (s : Chip) (w : Writer) (a v o : Nat),
    (s.logWrite w a v o).glb.ownLog.find (s.glb.logged % 16) = some (toLE 4 a ++ toLE 1 (writerCode w) ++ toLE 1 o ++ toLE 2 s.step ++ toLE 4 v ++ zeros 4)
      ∧ ((s.logWrite w a v o).rd (regAt Pg.GLB Reg.ERR_STAT)).testBit (if o = 2 then 2 else if o = 3 then 1 else if o = 5 then 3 else 0) = true

/-- O22. From every state, VIN_RISE and a MOD_RST_N low for at least 5,000 ns leave a chip whose every field is as at reset, but for the level
of PERST# and what follows from it, the model's own records of what has left the device and of free values drawn, and the registers that
copy the fuses; the fuses and the queue stay. VIN_RISE also turns the rails on. A shorter low does nothing. RAILS_OFF after a shutdown
(fatal device error with CAUSE 5) leaves the chip as at reset with its rails off and records that they went off; otherwise it changes
nothing. (R517, R518, R529, R567, R570) -/
def Obligations.ColdResetLosesAllButFuses : Prop :=
  ∀ (s : State) (c : Chip), c = { pwr := { perst := s.chip.pwr.perst, config := s.chip.pwr.config }, out := s.chip.out, free := s.chip.free } →
    exec .vinRise s = .next { s with chip := (c.showFuses s.fuses).emit (.rails true) }
    ∧ (∀ n, exec (.modRstN n) s = .next (if 5000 ≤ n then { s with chip := c.showFuses s.fuses } else s))
    ∧ (s.chip.pwr.off = false → exec .railsOff s = .next { s with chip :=
        (if s.chip.rf F.FLT_STAT_FATAL = 1 ∧ s.chip.rf F.FLT_STAT_CAUSE = 5 then
          ({ c with pwr := { c.pwr with off := true } } : Chip).emit (.rails false) else s.chip) })

/-- O23. With the rails on. PERST_ASSERT while PERST# is low changes nothing; else it goes low and configuration stops, and the module takes a
warm reset where XPT_CFG.EN is 0 and R518 allows it, loses its host where EN is 1, and else only its host link goes down. PERST_DEASSERT
raises PERST#, and configuration requests are answered. A start-up stage that is not open (done already, waiting for another, stage 10
unlocked), and stage 7, which ends with the acceptance of an image, changes nothing. Another that is open is noted as done and shown in
GLB_STAGE, and a firmware download that waited starts once stages 4 to 6 are done. Before that stage 3 takes each stack of STATE 0 to 1
training; stage 5 has every stack not in fault in service, after a cold start with the pins that were replaced (at most 32), and every tile
that is not retired shows TESTING with DONE 0; stage 6 tests the 17 tiles of each die, numbers those that pass from 16 × die up, the
seventeenth a spare, and sets bit [3] on the failed ones where fewer than 16 pass; stage 8 signs BOOT_SIG and activates memory for the host.
(R518, R519, R520, R521, R522) -/
def Obligations.PerstAndStartUpStages : Prop :=
  ∀ s : State, s.chip.pwr.off = false →
    exec .perstAssert s = .next
      (if s.chip.pwr.perst then s
       else
        let t : State := { s with chip := { s.chip with pwr := { s.chip.pwr with perst := true, config := false } } }
        if s.chip.rf F.XPT_CFG_EN = 1 then { t with chip := t.chip.cxlDown.hostLost.settle }
        else if t.chip.warmAllowed then t.warm else { t with chip := t.chip.cxlDown })
    ∧ exec .perstDeassert s = .next { s with chip := { s.chip with pwr := { s.chip.pwr with perst := false, config := true } } }
    ∧ (∀ n failed pins, n = 7 ∨ s.chip.stageOpen n = false → exec (.startupStageDone n failed pins) s = .next s)
    ∧ (∀ n failed pins, n ≠ 7 → n ≠ 8 → s.chip.stageOpen n = true → exec (.startupStageDone n failed pins) s = .next { s with chip :=
        (let w := if n = 3 then s.chip.each (below 24 (fun st => s.chip.rf (F.MEM_STAT_STATE.on (Pg.mem st)) == 0)) (fun c st => c.wf (F.MEM_STAT_STATE.on (Pg.mem st)) 1)
            else if n = 5 then
              (let d := s.chip.each (below 24 (fun st => s.chip.rf (F.MEM_STAT_STATE.on (Pg.mem st)) != 3)) (fun c st =>
                (c.wf (F.MEM_STAT_STATE.on (Pg.mem st)) 2).wf (F.MEM_STAT_PINS_REPAIRED.on (Pg.mem st))
                  (if c.rf F.GLB_STAGE_WARM = 1 then c.rf (F.MEM_STAT_PINS_REPAIRED.on (Pg.mem st)) else min 32 (pins.getD st 0)))
               d.each (below 68 (fun t => d.tileState t != 4)) (fun c t => (c.wf (F.TIL_MAP_STATE.on (Pg.til t)) 3).wf (F.TIL_SELFTEST_DONE.on (Pg.til t)) 0))
            else if n = 6 then s.chip.each (List.range 4) (fun c d =>
              (let all := (List.range 17).map (17 * d + ·)
               let e := c.each (all.filter (fun t => c.tileState t != 4)) (fun f t => f.bootTest t ((failed.find? (fun x => x.1 == t)).map (·.2)))
               let good := all.filter (fun t => e.tileState t != 4)
               let f := e.each good.zipIdx (fun g x => if x.2 < 16 then
                  (g.wf (F.TIL_MAP_STATE.on (Pg.til x.1)) 1).wf (F.TIL_MAP_LOGICAL.on (Pg.til x.1)) (16 * d + x.2) else g.wf (F.TIL_MAP_STATE.on (Pg.til x.1)) 2)
               if 16 ≤ good.length then f else f.each (all.filter (fun t => f.tileState t == 4)) (fun g t => g.raise (Pg.til t) 3)))
            else s.chip
         let c := ({ w with pwr := { w.pwr with done := w.pwr.done ++ [n] } } : Chip).wf F.GLB_STAGE_STAGE n
         if c.rf F.GLB_FW_STAT_STATE = 1 ∧ 4 ∈ c.pwr.done ∧ 5 ∈ c.pwr.done ∧ 6 ∈ c.pwr.done then
          (c.wf F.GLB_FW_STAT_STATE 2).wf F.SEC_STAT_STATE 1 else c) })
    ∧ (∀ failed pins, s.chip.stageOpen 8 = true → s.chip.rf F.GLB_FW_STAT_STATE ≠ 1 → exec (.startupStageDone 8 failed pins) s = .next { s with chip :=
        (({ s.chip with
            sec := { s.chip.sec with bootSig := padTo 29792 (Config.slhSign true dik.2 s.chip.credBody) }
            pwr := { s.chip.pwr with active := true, done := s.chip.pwr.done ++ [8] } } : Chip).wf F.GLB_STAGE_STAGE 8) })

/-- O24. With the rails on. An input voltage outside 50,000–59,500 mV for 1,000 µs sets PWR ERR_STAT bit [3]; input power above 2,800 W for 10
µs counts in PWR_OVER_TDP and sets bit [4]; a junction of die 0–3 at 105 °C or more sets the die's TRIPPED, puts it at level 15, counts and
sets bit [0]; below these limits nothing changes. SHUTDOWN outside R529's limits is a fatal device error with CAUSE 5 (FATAL and CAUSE, a
record of class 13, ERR_STAT bit [5] of FLT, a latch, a message to every watched peer, viral, and no more management Events), and within
them changes nothing. On a module that runs, D3HOT_REQUEST after configuration has started sets PWR_STATE.POWER to 2; D0_RETURN from D3hot
sets it to 0, writes the records that waited and sends the vectors kept; REFCLK_LOSS while PERST# is high takes a host link that is up down:
LINK_UP and WIDTH 0, and the timer of R445 runs. (R524, R527, R529, R561, R563, R571) -/
def Obligations.ExcursionsTripsAndPowerStates : Prop :=
  (∀ s : State, s.chip.pwr.off = false →
    (∀ mv us, exec (.inputVoltageExcursion mv us) s = .next { s with chip :=
      (if (mv < 50000 ∨ 59500 < mv) ∧ 1000 ≤ us then s.chip.raise Pg.PWR 3 else s.chip) })
    ∧ (∀ w us, exec (.inputPowerExcursion w us) s = .next { s with chip :=
      (if 2800 < w ∧ 10 ≤ us then (s.chip.cnt Reg.PWR_OVER_TDP).raise Pg.PWR 4 else s.chip) })
    ∧ (∀ d c, exec (.junctionTrip d c) s = .next { s with chip :=
      (if d < 4 ∧ 105 ≤ c then
        (((s.chip.wf (dieFld d F.PWR_DIE_TRIPPED) 1).setDieLevel d 15).cnt Reg.PWR_JUNCTION_TRIPS).raise Pg.PWR 0 else s.chip) })
    ∧ (∀ what, shutsDown what = false → exec (.shutdown what) s = .next s)
    ∧ ∀ what (c d : Chip), shutsDown what = true → s.chip.rf F.FLT_STAT_FATAL = 0 →
      c = ((((s.chip.wf F.FLT_STAT_FATAL 1).wf F.FLT_STAT_CAUSE 5).faultRecord 13 4 0xFFFF 0xFFFF 0xFFFF 0xFF 0 0).raise Pg.FLT 5).latch 5 →
      d = c.each c.watched (fun f p => f.send 8 p 0 0 (presenceMsg 0x21 5 f.selfDev f.step Config.serial.toNat)) →
      exec (.shutdown what) s = .next { s with chip := (d.viral.setFlt (fun f => { f with mute := true })).settle })
  ∧ ∀ s : State, s.ready = true →
    exec .d3hotRequest s = .next { s with chip := (if s.chip.pwr.config ∧ 3 ∈ s.chip.pwr.done then s.chip.wf F.PWR_STATE_POWER 2 else s.chip) }
    ∧ exec .d0Return s = .next { s with chip := (if s.chip.d3hot then (s.chip.wf F.PWR_STATE_POWER 0).cqFlush.drain.sendPending else s.chip).settle }
    ∧ exec .refclkLoss s = .next { s with chip := (if s.chip.pwr.perst ∨ s.chip.rf F.CXL_STAT_LINK_UP = 0 then s.chip
        else ((s.chip.wf F.CXL_STAT_LINK_UP 0).wf F.CXL_STAT_WIDTH 0).setCxl (fun c => { c with downTimer := true })).settle }

/-- O25. With nothing waiting, and for the orders of VGL_CTRL taken by the page. ARM arms the timed trigger at VGL_TIME, in place of any armed
before, and sets ARMED; with SPREAD 1 it also sends a Vigil message with that time to every watched peer. NOW has the next tick latch.
RELEASE clears HELD. DISARM removes the armed trigger and clears ARMED. A Vigil message of 32 bytes with PEER_EN 1 arms the trigger at its
time with SOURCE 3, any other sets ERR_STAT bit [3]. VIGIL_LATCH brings the time to the tick at which a waiting trigger latches, where that
falls before the next step begins, and latches there; with none waiting nothing changes. A NOW alone, nothing held, latches with SOURCE 2:
the snapshot, VGL_LAST_TIME, VGL_LAST_STEP, one more in VGL_LATCHES, HELD under HOLD, ERR_STAT bit [0]. Nothing else changes. The layout of
a Vigil message is the model's reading (log entry 24). (R530, R531, R532, R533, R540) -/
def Obligations.VigilTriggers : Prop :=
  ∀ s : State, s.ready = true →
    (∀ acc, s.chip.takes acc Pg.VGL false [] = true →
      (s.chip.rf F.VGL_CFG_SPREAD = 0 → exec (.vigilArm acc) s = .next { s with chip :=
        ({ s.chip with vgl := { s.chip.vgl with armed := some (s.chip.rd64 Reg.VGL_TIME_LO, 1) } } : Chip).wf F.VGL_STAT_ARMED 1 })
      ∧ (s.chip.rf F.VGL_CFG_SPREAD = 1 → exec (.vigilArm acc) s = .next { s with chip :=
        (let c := ({ s.chip with vgl := { s.chip.vgl with armed := some (s.chip.rd64 Reg.VGL_TIME_LO, 1) } } : Chip).wf F.VGL_STAT_ARMED 1
         (c.each c.watched (fun c d => c.send 8 d 0 0 (presenceMsg 0x30 0 c.selfDev (s.chip.rd64 Reg.VGL_TIME_LO) ownSerial))).settle) })
      ∧ exec (.vigilNow acc) s = .next { s with chip := { s.chip with vgl := { s.chip.vgl with now := true } } }
      ∧ exec (.vigilRelease acc) s = .next { s with chip := s.chip.wf F.VGL_STAT_HELD 0 }
      ∧ exec (.vigilDisarm acc) s = .next { s with chip := ({ s.chip with vgl := { s.chip.vgl with armed := none } } : Chip).wf F.VGL_STAT_ARMED 0 })
    ∧ (∀ src b, exec (.vigilMessage src b) s = .next { s with chip :=
        (let c := s.chip.take 8 src b
         if c.rf F.VGL_CFG_PEER_EN = 1 ∧ b.length = 32 then
          ({ c with vgl := { c.vgl with armed := some (le b 8 8, 3) } } : Chip).wf F.VGL_STAT_ARMED 1
         else c.raise Pg.VGL 3) })
    ∧ (s.chip.vgl.now = false → s.chip.vgl.fault = false → s.chip.vgl.armed = none → exec .vigilLatch s = .next s)
    ∧ ∀ t, s.chip.latchTick = some t → exec .vigilLatch s = .next { s with chip := (if t < s.chip.nextStart then (s.chip.advance t).latchDue else s.chip).settle }
        ∧ ∀ c d : Chip, s.chip.vgl.now = true → s.chip.vgl.fault = false → s.chip.vgl.armed = none → s.chip.rf F.VGL_STAT_HELD = 0 →
          s.chip.alm.now + 10 < s.chip.nextStart → c = s.chip.advance (s.chip.alm.now + 10) →
          d = (({ c with vgl := { c.vgl with now := false, fault := false, snap := c.snapshot } } : Chip).wr64 Reg.VGL_LAST_TIME_LO c.alm.now).wr64 Reg.VGL_LAST_STEP_LO c.step →
          exec .vigilLatch s = .next { s with chip := ((((if d.rf F.VGL_CFG_HOLD = 1 then
            ((d.wf F.VGL_STAT_SOURCE 2).cnt Reg.VGL_LATCHES).wf F.VGL_STAT_HELD 1 else (d.wf F.VGL_STAT_SOURCE 2).cnt Reg.VGL_LATCHES)).raise Pg.VGL 0)).settle }

/-- O26. For every chip and SOURCE: while VGL_CFG.HOLD is 1 a latch sets HELD, and while it is 0 a latch leaves HELD clear. While HELD is set a
further trigger does nothing but count in VGL_MISSED and set ERR_STAT bit [1], which reads set afterwards. RELEASE, taken with nothing
waiting, clears HELD. (R533) -/
def Obligations.HeldLatchIgnoresTriggers : Prop :=
  (∀ (c : Chip) (source : Nat), c.rf F.VGL_STAT_HELD = 0 →
      (c.latch source).rf F.VGL_STAT_HELD = (if c.rf F.VGL_CFG_HOLD = 1 then 1 else 0))
    ∧ (∀ (c : Chip) (source : Nat), c.rf F.VGL_STAT_HELD = 1 →
      c.latch source = (c.cnt Reg.VGL_MISSED).raise Pg.VGL 1 ∧ ((c.latch source).rd (regAt Pg.VGL Reg.ERR_STAT)).testBit 1 = true)
    ∧ ∀ (s : State) (acc : Access), s.ready = true → s.chip.takes acc Pg.VGL false [] = true →
      ∃ t, exec (.vigilRelease acc) s = .next t ∧ t.chip.rf F.VGL_STAT_HELD = 0

/-- O27. On a module that runs, for every link. A stage end changes nothing where the link is not in TRAINING stages 1 to 4, or where stage 1
(SIGNAL) lacks light on a lane. Else the lanes that failed it are FAILED and left out; where fewer than MIN_WIDTH are left the training
fails; else stage 1 leads to 2, stage 2 to 3 with RX_DOWN cleared, stage 3 to 4 with the lanes IN_USE and RX_GOOD set, and stage 4 to the
capability message (stage 5) or, after a retune, to authentication. A stage that overruns its limit fails the training, as an authentication
failure in stage 6: the link goes DOWN, counts in LNK_TRAIN_FAIL, sets ERR_STAT bit [3], and retires with REASON 1 where the failures make
it permanent. TRAINING_RETRY starts a training in DOWN and only there, of a link that is enabled on a module without a fatal error: its live
lanes become TRAINING (STATE 1) and TX_MASK, VERSION and RATE 0, stage 1, one more in LNK_TRAIN_CNT. What has become ready then goes out.
(R338, R339, R340, R465) -/
def Obligations.TrainingGoesThroughItsStages : Prop :=
  ∀ (s : State) (l : Nat), s.runs = true → l < 48 →
    (∀ lanes, exec (.trainingStageDone l lanes) s = .next { s with chip :=
      (let k := s.chip.link l
       let good := k.lanes &&& lanes
       let failed := (List.range 4).filter (fun w => k.lanes.testBit w && !good.testBit w)
       let c := (s.chip.each failed (fun c w => c.setLane l w 3)).updLink l (fun k => { k with lanes := good })
       if s.chip.lnkState l ≠ Ls.training ∨ k.stage ∉ [1, 2, 3, 4] ∨ (k.stage = 1 ∧ good ≠ k.lanes) then s.chip
       else if lanesIn good < c.minWidth l then c.trainFail l
       else if k.stage = 1 then c.updLink l (fun k => { k with stage := 2 })
       else if k.stage = 2 then c.updLink l (fun k => { k with stage := 3, rxDown := false })
       else if k.stage = 3 then
        (c.each ((List.range 4).filter good.testBit) (fun c w => c.setLane l w 2)).updLink l (fun k => { k with stage := 4, rxGood := good })
       else if k.retuned then c.authStart l
       else c.negotiate l).settle })
    ∧ (∀ x : Chip × Bool, s.chip.lnkState l = Ls.training → (s.chip.link l).stage ≠ 6 →
        x = (((s.chip.leave l Ls.down (decide (3 ≤ (s.chip.link l).stage))).cnt (regAt (Pg.lnk l) Reg.LNK_TRAIN_FAIL)).raise (Pg.lnk l) 3).retrainFailed (.link l) →
        exec (.trainingStageTimeout l) s = .next { s with chip := (if x.2 then x.1.retireLink l 1 else x.1).settle })
    ∧ (s.chip.lnkState l = Ls.training → (s.chip.link l).stage = 6 → exec (.trainingStageTimeout l) s = .next { s with chip :=
        (((s.chip.cnt Reg.SEC_LINK_AUTH_FAIL).raise Pg.SEC 1).trainFail l).settle })
    ∧ (s.chip.lnkState l ≠ Ls.training → exec (.trainingStageTimeout l) s = .next { s with chip := s.chip.settle })
    ∧ (∀ (c : Chip) (live : Nat), s.chip.lnkState l = Ls.down → s.chip.active (Pg.lnk l) (F.LNK_CFG_EN.on (Pg.lnk l)) = true → s.chip.flt.mute = false →
        c = (s.chip.leave l Ls.training (s.chip.link l).rxDown).cnt (regAt (Pg.lnk l) Reg.LNK_TRAIN_CNT) → live = c.liveLanes l →
        exec (.trainingRetry l) s = .next { s with chip :=
          (((((c.lnkWf l F.LNK_STAT_VERSION 0).lnkWf l F.LNK_STAT_RATE 0).lnkWf l F.LNK_STAT_TX_MASK live).updLink l (fun k => { k with stage := 1, lanes := live })).each
            (List.range 4) (fun d w => if live.testBit w then d.setLane l w 1 else d)).settle })
    ∧ (s.chip.lnkState l ≠ Ls.down → exec (.trainingRetry l) s = .next { s with chip := s.chip.settle })

/-- O28. On a module that runs, for every link; each message is taken from those heard. A capability message of 64 bytes in stages 4 and 5 (no
retune made) is kept; in stage 5 both ends' agreement is applied. One of another size, or in another state, is dropped. A credential
fragment in stage 6, of 3,844 bytes and number below 16, is kept by its number; any other is dropped. A ciphertext of 1,572 bytes in stage 6
is kept, and the link key is derived once both ciphertexts are there. A confirm outside stage 6 does nothing; in it, one of wrong size or
whose tag fails under LCK (or no LCK yet) counts in LNK_FRAME_DROP, sets ERR_STAT bit [6] and fails authentication; one whose digest differs
sets bit [5] and fails it; else the link goes to SELFTEST with this end's test begun, and a Margin frame that became due during the training
goes out. When a link is in which state during training is the model's reading, log entry 37. (R341, R342, R463, R464, R465, R462) -/
def Obligations.LinksAgreeAndAuthenticate : Prop :=
  ∀ (s : State) (l : Nat) (b : Bytes), s.runs = true → l < 48 →
    (let c := s.chip.takeCtl l 1 b
     let k := c.link l
     exec (.negotiateCapability l b) s = .next { s with chip :=
      (if b.length = 64 ∧ c.lnkState l = Ls.training ∧ (k.stage = 4 ∨ k.stage = 5) ∧ k.retuned = false then
        (let c := c.updLink l (fun k => { k with peerCap := b })
         if k.stage = 5 then c.agree l else c)
       else c).settle }
     ∧ exec (.credentialFragment l b) s = .next { s with chip :=
      (if k.stage = 6 ∧ b.length = 3844 ∧ le b 1 1 < 16 then c.updLink l (fun k => { k with frags := k.frags.put (le b 1 1) (b.drop 4) }) else c).settle }
     ∧ exec (.encapsulation l b) s = .next { s with chip :=
      (if k.stage = 6 ∧ b.length = 1572 then (c.updLink l (fun k => { k with peerCt := b.drop 4 })).deriveLck l else c).settle }
     ∧ (k.stage ≠ 6 → exec (.negotiateConfirm l b) s = .next { s with chip := c.settle })
     ∧ (k.stage = 6 → k.lck = [] ∨ le b 2 2 ≠ 72 → exec (.negotiateConfirm l b) s = .next { s with chip :=
        (((((c.cnt (regAt (Pg.lnk l) Reg.LNK_FRAME_DROP)).raise (Pg.lnk l) 6).cnt Reg.SEC_LINK_AUTH_FAIL).raise Pg.SEC 1).trainFail l).settle })
     ∧ (k.stage = 6 → k.lck ≠ [] → le b 2 2 = 72 →
        exec (.negotiateConfirm l b) s = .next { s with chip :=
          (match gcmUnlock k.lck (ivControl (!c.lowerEnd l) (2 ^ 64 - 1)) (b.take 104) [] (slice b 104 16) with
          | none => ((((c.cnt (regAt (Pg.lnk l) Reg.LNK_FRAME_DROP)).raise (Pg.lnk l) 6).cnt Reg.SEC_LINK_AUTH_FAIL).raise Pg.SEC 1).trainFail l
          | some _ =>
            if slice b 40 64 = digest (c.caps l) then
              (let d := (c.updLink l (fun k => { k with stage := 0, frags := [], alive := c.alm.now, tested := true, symbols := [], delays := 0, passed := false, planDue := false })).lnkWf
                l F.LNK_STAT_STATE Ls.selftest
               if k.planDue = true ∧ d.marginAgreed l = true then d.sendCtl l 7 (d.marginPayload l) else d)
            else (((c.raise (Pg.lnk l) 5).cnt Reg.SEC_LINK_AUTH_FAIL).raise Pg.SEC 1).trainFail l).settle }))

/-- O29. On a module that runs, for the credential that a peer sent over a link. Outside stage 6, before all sixteen fragments have come, or
once a credential is held, the end of a verification does nothing. Else the sixteen fragments in order are the credential: one that R462
does not accept counts in SEC_CRED_REFUSED and fails link authentication; an accepted one is kept, a ciphertext to its key is drawn and put
in line to be sent, and the link key is derived where the peer's ciphertext is there. (R462, R464, R465) -/
def Obligations.CredentialsAreVerified : Prop :=
  ∀ (s : State) (l : Nat), s.runs = true → l < 48 →
    (let k := s.chip.link l
     let cred := k.frags.flatMap (·.2)
     (k.stage ≠ 6 ∨ k.frags.length < 16 ∨ k.cred ≠ [] → exec (.credentialVerified (.link l)) s = .next { s with chip := s.chip.settle })
     ∧ (k.stage = 6 → 16 ≤ k.frags.length → k.cred = [] → exec (.credentialVerified (.link l)) s = .next { s with chip :=
        (if s.chip.credAccepts cred (capSerial k.peerCap) then
          (let x := (s.chip.keepCred cred).encaps (credKem cred)
           ((x.1.updLink l (fun k => { k with cred := cred, ownCt := x.2.1, ownSs := x.2.2 })).sendCtl l 1 ([4] ++ zeros 3 ++ x.2.1)).deriveLck l)
         else (((s.chip.cnt Reg.SEC_CRED_REFUSED).cnt Reg.SEC_LINK_AUTH_FAIL).raise Pg.SEC 1).trainFail l).settle }))

/-- O30. On a module that runs, for every link; messages are taken from those heard. A link in UP_CONTROL, SELFTEST or ADMITTED puts a 16-byte
Keepalive in line; another sends none. A Keepalive heard is noted with the almanac time. With none in 400 µs a link that is up is judged
down: it goes DOWN, sets ERR_STAT bit [1], and either the event makes it permanent and it retires with REASON 1, or it comes out of service
and trains again. A Test frame whose payload differs from R331's marks the self-test failed. A SELFTEST that ends with its tests passed
marks this end passed and lets the lower end propose; failed, it sets ERR_STAT bit [7] and fails the training. A proposal that a locked
higher end, passed and in SELFTEST, takes for a later step fixes that step and is confirmed; a confirm of this end's proposal before its
step fixes it; a withdraw of the step proposed or fixed removes both. The layout of Keepalives is the model's reading, log entry 38. (R336,
R347, R350, R351) -/
def Obligations.LinksAreTestedAndAdmitted : Prop :=
  ∀ (s : State) (l : Nat) (b : Bytes), s.runs = true → l < 48 →
    exec (.keepaliveSend l) s = .next { s with chip :=
      (if 2 ≤ s.chip.lnkState l ∧ s.chip.lnkState l ≤ 4 then
        s.chip.updLink l (fun k => { k with ctl := k.ctl ++ [(3, toLE 1 (s.chip.link l).rxGood ++ toLE 1 (s.chip.link l).peerGood ++ zeros 14)] })
       else s.chip).settle }
    ∧ exec (.keepalive l b) s = .next { s with chip := ((s.chip.takeCtl l 3 b).updLink l (fun k => { k with alive := s.chip.alm.now })).settle }
    ∧ exec (.keepaliveTimeout l) s = .next { s with chip :=
      (if 2 ≤ s.chip.lnkState l ∧ s.chip.lnkState l ≤ 4 then
        (let x := ((s.chip.leave l Ls.down true).raise (Pg.lnk l) 1).countEvent (.link l) 2
         let y := if (s.chip.returning (.link l)).isSome then x.1.attemptFailed (.link l)
           else (if s.chip.admitted l then x.1.startReturn (.link l) .selfTest else x.1, false)
         if x.2 then x.1.retireLink l 1 else if y.2 then y.1.retireLink l 1 else y.1.startTraining l)
       else s.chip).settle }
    ∧ (∀ seq, exec (.test l seq b) s = .next { s with chip :=
      (let c := s.chip.takeCtl l 5 b
       if c.lnkState l = Ls.selftest ∧ b ≠ testPayload seq then c.updLink l (fun k => { k with tested := false }) else c).settle })
    ∧ exec (.selftestEnd l) s = .next { s with chip :=
      (if s.chip.lnkState l ≠ Ls.selftest ∨ (s.chip.link l).passed = true then s.chip
       else if (s.chip.link l).testPassed then (s.chip.updLink l (fun k => { k with passed := true })).proposeAdmit l
       else (s.chip.raise (Pg.lnk l) 7).trainFail l).settle }
    ∧ (let c := s.chip.takeCtl l 4 b
       let n := le b 8 8
       exec (.admitPropose l b) s = .next { s with chip :=
        (if c.locked = true ∧ c.lowerEnd l = false ∧ (c.link l).passed = true ∧ c.lnkState l = Ls.selftest ∧ c.step < n then
          ((c.updLink l (fun k => { k with admitAt := some n })).lnkWf l F.LNK_STAT_ADMIT_PENDING 1).sendCtl l 4 (admitPayload 2 n)
         else c).settle }
       ∧ exec (.admitConfirm l b) s = .next { s with chip :=
        (if (c.link l).proposed = some n ∧ c.lnkState l = Ls.selftest ∧ c.step < n then
          (c.updLink l (fun k => { k with admitAt := some n })).lnkWf l F.LNK_STAT_ADMIT_PENDING 1
         else c).settle }
       ∧ exec (.admitWithdraw l b) s = .next { s with chip :=
        (if (c.link l).admitAt = some n ∨ (c.link l).proposed = some n then
          (c.updLink l (fun k => { k with admitAt := none, proposed := none })).lnkWf l F.LNK_STAT_ADMIT_PENDING 0
         else c).settle })

/-- O31. On a module that runs, for every link and lane. Loss of signal on a lane in good order is a lane failure: it leaves RX_GOOD, counts in
LNK_LANE_DROPS, sets ERR_STAT bit [0], and is asked for (STATE 4) or, permanent, RETIRED, and a link left with fewer than MIN_WIDTH is lost;
in TRAINING on a lane counted on it is FAILED and left out, and fewer than MIN_WIDTH left fail the training; else its run of good codewords
starts again. A lane that was asked for (STATE 4) and has not come back is FAILED, or RETIRED where its failures make it permanent, and its
RETRAIN_FAILS reads their count; 100 ms after, a FAILED lane of a link that is up is asked for again. A Retire frame, and LNK_RETIRE taken
by the page, judge the link permanent and retire it with REASON 2 unless it is RETIRED already. LNK_RETRAIN takes a link that is neither OFF
nor RETIRED to DOWN and trains it. LNK_READMIT acts on a RETIRED link alone: its record and its lanes' start again, its laser is on, and it
trains as a returning link. (R345, R346, R347, R348, R350, R583) -/
def Obligations.LanesAndLinkOrders : Prop :=
  ∀ (s : State) (l w : Nat), s.runs = true → l < 48 → w < 4 →
    exec (.laneSignalLoss l w) s = .next { s with chip :=
      (let k := s.chip.link l
       if k.rxGood.testBit w then
        (let x := (((s.chip.updLink l (fun k => { k with rxGood := maskDel k.rxGood w, badAt := k.badAt.del w, goodRun := k.goodRun.del w, reqOut := putBits k.reqOut w w 1 })).setLane
            l w 3).cnt (regAt (Pg.lnk l) Reg.LNK_LANE_DROPS) |>.raise (Pg.lnk l) 0).countEvent (.lane l w) 1
         let c := if x.2 then (x.1.setLane l w 5).updLink l (fun k => { k with reqOut := maskDel k.reqOut w }) else x.1.setLane l w 4
         if lanesIn (c.link l).rxGood < c.minWidth l then c.linkLost l else c)
       else if s.chip.lnkState l = Ls.training ∧ k.lanes.testBit w = true then
        (let c := (s.chip.updLink l (fun k => { k with lanes := maskDel k.lanes w })).setLane l w 3
         if lanesIn (c.link l).lanes < c.minWidth l then c.trainFail l else c)
       else s.chip.updLink l (fun k => { k with goodRun := k.goodRun.del w })).settle }
    ∧ exec (.laneRetrainTimeout l w) s = .next { s with chip :=
      (if s.chip.linkUp l = true ∧ s.chip.laneState l w = 4 then
        (let x := (s.chip.updLink l (fun k => { k with reqOut := maskDel k.reqOut w, goodRun := k.goodRun.del w })).retrainFailed (.lane l w)
         (x.1.setLane l w (if x.2 then 5 else 3)).lnkWf l (F.LNK_LANE_RETRAIN_FAILS.plus (4 * w)) (x.1.chan (.lane l w)).fails)
       else s.chip).settle }
    ∧ exec (.laneRetrainRetry l w) s = .next { s with chip :=
      (if s.chip.linkUp l = true ∧ s.chip.laneState l w = 3 then
        (s.chip.setLane l w 4).updLink l (fun k => { k with reqOut := putBits k.reqOut w w 1 })
       else s.chip).settle }
    ∧ (∀ b, exec (.retire l b) s = .next { s with chip :=
      (let c := s.chip.takeCtl l 6 b
       if c.lnkState l = Ls.retired then c else (c.judgePermanent (.link l) 3).retireEnd l 2).settle })
    ∧ ∀ acc, s.chip.takes acc (Pg.lnk l) false [] = true →
      exec (.lnkRetire acc l) s = .next { s with chip :=
        (if s.chip.lnkState l = Ls.retired then s.chip else (s.chip.judgePermanent (.link l) 3).retireLink l 2).settle }
      ∧ exec (.lnkRetrain acc l) s = .next { s with chip :=
        (if s.chip.lnkState l = Ls.off ∨ s.chip.lnkState l = Ls.retired then s.chip
         else ((s.chip.leave l Ls.down true).leftService l (s.chip.admitted l)).startTraining l).settle }
      ∧ (s.chip.lnkState l ≠ Ls.retired → exec (.lnkReadmit acc l) s = .next { s with chip := s.chip.settle })
      ∧ (s.chip.lnkState l = Ls.retired → exec (.lnkReadmit acc l) s = .next { s with chip :=
        (let c := (s.chip.setChan (.link l) { attempt := (s.chip.chan (.link l)).attempt }).each (List.range 4) (fun c w =>
          (let d := (c.setChan (.lane l w) {}).lnkWf l (F.LNK_LANE_RETRAIN_FAILS.plus (4 * w)) 0
           if d.laneState l w = 5 then d.setLane l w 0 else d))
         let e := F.OPT_CFG_LASER_EN.on (Pg.opt (l / 4))
         (((c.wf e (putBits (c.rf e) (l % 4) (l % 4) 1)).lnkWf l F.LNK_STAT_STATE Ls.off).startReturn (.link l) .selfTest).startTraining l).settle })

/-- O32. On a module that runs. An engine that fails loses READY, is judged permanent once (class 4), sets its page's ERR_STAT bit [3], and its
four links retire with REASON 3; over temperature it also shows OVERTEMP and its temperature and sets bit [2]. A laser fault shows the
lane's bias and launch power and sets bit [0]; low received power shows it and sets bit [1] where the lane is in use. A Margin frame of 64
bytes on a link that agreed on MARGIN puts the peer's PLAN in the link's two bits of VGL_AGE_PEER and counts; MARGIN_SEND puts one in line
on every such link. A measurement stores the lanes' eyes and each die's smallest margin, and where the PLAN they ask for differs from the
one shown it becomes that, ERR_STAT bit [2] is set and Margin frames go, on a link in training once it is up. (R349, R358, R534, R535, R536) -/
def Obligations.OpticsAndAgeing : Prop :=
  (∀ (s : State) (e : Nat), s.runs = true → e < 12 →
    (let fail := fun (c : Chip) => (((if (c.chan (.engine e)).perm then c else c.judgePermanent (.engine e) 4).raise (Pg.opt e) 3).each (List.range 4)
        (fun c i => c.retireLink (4 * e + i) 3))
     exec (.engineFailed e) s = .next { s with chip := (fail (s.chip.wf (F.OPT_STAT_READY.on (Pg.opt e)) 0)).settle }
     ∧ ∀ celsius, exec (.engineOvertemp e celsius) s = .next { s with chip := (fail (((s.chip.wf (F.OPT_STAT_OVERTEMP.on (Pg.opt e)) 1).wf
        (F.OPT_STAT_TEMP.on (Pg.opt e)) celsius).raise (Pg.opt e) 2)).settle }))
  ∧ (∀ (s : State) (l w p q : Nat), s.runs = true → l < 48 → w < 4 →
    (let pg := Pg.opt (l / 4)
     let i := 4 * (4 * (l % 4) + w)
     exec (.laserFault l w p q) s = .next { s with chip := (((s.chip.wr (regAt pg (Reg.OPT_BIAS + i)) p).wr (regAt pg (Reg.OPT_TX_PWR + i)) q).raise pg 0).settle }
     ∧ exec (.receivedPowerLow l w p) s = .next { s with chip :=
        (let c := s.chip.wr (regAt pg (Reg.OPT_RX_PWR + i)) p
         if c.laneState l w = 2 then c.raise pg 1 else c).settle }))
  ∧ (∀ (s : State) (l : Nat) (b : Bytes), s.runs = true → l < 48 → exec (.margin l b) s = .next { s with chip :=
      (let c := s.chip.takeCtl l 7 b
       let r := Reg.VGL_AGE_PEER + 4 * (l / 16)
       if c.marginAgreed l = true ∧ b.length = 64 then (c.wr r (putBits (c.rd r) (2 * (l % 16) + 1) (2 * (l % 16)) (le b 1 1))).cnt Reg.VGL_AGE_RX
       else c).settle })
  ∧ ∀ (s : State), s.runs = true →
    exec .marginSend s = .next { s with chip :=
      (s.chip.each ((List.range 48).filter s.chip.marginAgreed) (fun c l => c.updLink l (fun k => { k with ctl := k.ctl ++ [(7, c.marginPayload l)] }))).settle }
    ∧ ∀ replicas eyes, exec (.ageingMeasurement replicas eyes) s = .next { s with chip :=
      (let c := s.chip.each eyes (fun c e => c.lnkWf (e.1 % 48) (F.LNK_LANE_EYE.plus (4 * (e.2.1 % 4))) e.2.2)
       let dies := (List.range 4).map (fun d => smallest (replicas.getD d []))
       let c := c.each (List.range 4) (fun c d => c.wr (Reg.VGL_AGE_MARGIN + 4 * d) (ofSigned 32 (dies.getD d 0)))
       let c := (c.wf F.VGL_AGE_PLAN_WORST_DIE (((List.range 4).filter (fun d => dies.getD d 0 == smallest dies)).headD 0)).wf F.VGL_AGE_PLAN_WORST_LINK c.worstLink
       if c.agePlan dies = c.rf F.VGL_AGE_PLAN_PLAN then c else 
         (let d := (c.wf F.VGL_AGE_PLAN_PLAN (c.agePlan dies)).raise Pg.VGL 2
          d.marginSend.each ((List.range 48).filter (fun l => d.lnkState l == Ls.training)) (fun d l => d.updLink l (fun k => { k with planDue := true })))).settle }

/-- O33. On a module that runs, for every link and lane. A codeword on a RETIRED lane, or on a link that is neither up nor training beyond stage
2, does nothing. Else it joins the reorder buffer, descrambled, where its lane is in good order from stage 4 on; an uncorrectable one counts
against its lane, another for it, and its control field is read. A frame is taken from those received; on a link neither up nor in stage 4
or beyond nothing more happens; else the frame and its bytes count, a CRC failure counts in LNK_CRC_DROP and takes one LINK_SEQ, and
otherwise a LINK_SEQ ahead of the one due counts the frames missing in LNK_FRAME_GAP. A data frame that passes, on an ADMITTED link, is
dropped where the transport is disabled, waits to be forwarded where it is addressed elsewhere, counts in XPT_REASM_BAD where its OP is
unknown, and else is opened for its receive context. Bit order and counting are the model's reading, log entries 36 and 39. (R329, R330,
R331, R332, R333, R335, R345, R364) -/
def Obligations.CodewordsAndFrames : Prop :=
  (∀ (s : State) (l w : Nat) (cw : CwIn), s.runs = true → l < 48 → w < 4 →
    (let c := s.chip
     ((c.lnkState l ≠ Ls.training ∨ (c.link l).stage < 3) ∧ c.linkUp l = false ∨ c.laneState l w = 5 →
        exec (.codeword l w cw) s = .next { s with chip := c.settle })
     ∧ ((c.lnkState l = Ls.training ∧ 3 ≤ (c.link l).stage ∨ c.linkUp l = true) → c.laneState l w ≠ 5 →
        exec (.codeword l w cw) s = .next { s with chip :=
          (let n := bits cw.ctl 47 24 % 12582912
           let c := if (4 ≤ (c.link l).stage ∨ c.linkUp l = true) ∧ (c.link l).rxGood.testBit w = true then
              c.updLink l (fun k => k.place ⟨n, bits cw.ctl 57 48, cw.data.map (fun b => scramble n (padTo 625 b))⟩) else c
           if cw.data = none then c.cwBad l w else (c.cwGood l w cw.corrected).cwControl l cw.ctl).settle })))
  ∧ (∀ (s : State) (l : Nat) (b : Bytes), s.runs = true → l < 48 →
    (let c := s.chip.updLink l (fun k => { k with frames := k.frames.erase b })
     let d := (c.add64 (regAt (Pg.lnk l) Reg.LNK_FRAMES_RX_LO) 1).add64 (regAt (Pg.lnk l) Reg.LNK_BYTES_RX_LO) b.length
     let up := 4 ≤ (c.link l).stage ∨ c.linkUp l = true
     (¬ up → exec (.dataFrame l b) s = .next { s with chip := c.settle })
     ∧ (up → b.length < 52 ∨ crc32 0xEDB88320 (b.take (b.length - 4)) ≠ le b (b.length - 4) 4 → exec (.dataFrame l b) s = .next { s with chip :=
        (((d.cnt (regAt (Pg.lnk l) Reg.LNK_CRC_DROP)).testFailed l b).updLink l (fun k => { k with rxSeq := k.rxSeq + 1 })).settle })
     ∧ ∀ n e, n = nearest 65536 (d.link l).rxSeq (le b 6 2) →
        e = (if (d.link l).rxSeq < n then d.cntBy (regAt (Pg.lnk l) Reg.LNK_FRAME_GAP) (n - (d.link l).rxSeq) else d).updLink l
          (fun k => { k with rxSeq := max (d.link l).rxSeq (n + 1) }) →
        up → b.length = 52 + le b 2 2 → le b 2 2 ≤ 4096 → crc32 0xEDB88320 (b.take (b.length - 4)) = le b (b.length - 4) 4 →
        bits (le b 0 1) 3 0 = 1 → bits (le b 0 1) 7 4 = e.lnkRf l F.LNK_STAT_VERSION → e.lnkRf l F.LNK_STAT_VERSION ≠ 0 → e.admitted l = true →
        exec (.dataFrame l b) s = .next { s with chip :=
          (if e.xptOn = false then e
           else if (packetOf b).dstDev ≠ e.selfDev then e.setXpt (fun x => { x with fwd := x.fwd ++ [(l, b)] })
           else if (packetOf b).op = 0 ∨ 9 < (packetOf b).op then e.cnt Reg.XPT_REASM_BAD
           else e.contextFrame b).settle }))

/-- O34. On a module that runs with the transport enabled; the packet is taken from those opened. A SYNC makes the receive context active at its
START_PSN and SESSION, with EXPECT there and nothing received, unless it is active under that SESSION already, and a SYNC_ACK with its
payload goes back. A SYNC_ACK of the SESSION of a SYNCING send context makes it ACTIVE with the first timeout, and what waits is sent; any
other changes nothing. A context that was not being fetched is not affected by an arrival; one that was takes its place where the store has
room, and its waiting packets are handled in order of arrival. A message still open after its time is discarded and counted; a named one
that is not open is left. The ACK timer sends the ACK that is owed, and only then. (R365, R366, R371, R376) -/
def Obligations.ContextsSynchronise : Prop :=
  ∀ (s : State), s.runs = true → s.chip.xptOn = true →
    (∀ (pkt : Packet) (c : Chip) (k : Packet), c = s.chip.setXpt (fun x => { x with rx := x.rx.erase pkt }) → c.xptOn = true →
      (k = { pkt with op := 4 } → exec (.sync pkt) s = .next { s with chip :=
        (let x := c.rx (ctxNo 1 k.srcDev k.tc)
         let c := if x.active = true ∧ x.session = le k.payload 4 4 then c
           else c.putRx (ctxNo 1 k.srcDev k.tc) { active := true, session := le k.payload 4 4, expect := le k.payload 0 4, parts := (k.srcPart, k.dstPart) }
         c.sendControl 5 k.srcDev k.tc 0 k.dstPart k.srcPart k.psn (padTo 16 k.payload) k.openKey).settle })
      ∧ (k = { pkt with op := 5 } → exec (.syncAck pkt) s = .next { s with chip :=
        (let n := ctxNo 0 k.srcDev k.tc
         let x := c.tx n
         if x.state = .syncing ∧ x.session = le k.payload 4 4 then
          (c.putTx n { x with state := .active, expiries := 0, timeout := 8000 }).pumpKeyed k.srcDev k.tc
         else c).settle }))
    ∧ (∀ n, n ∉ s.chip.xpt.fetching → exec (.contextFetchDone n) s = .next { s with chip := s.chip.settle })
    ∧ (∀ n, n ∈ s.chip.xpt.fetching → s.chip.xpt.cached.length < 65536 → exec (.contextFetchDone n) s = .next { s with chip :=
      (let c := s.chip.setXpt (fun x => { x with cached := x.cached ++ [n], fetching := x.fetching.filter (· != n), miss := x.miss.filter (fun m => m.1 != n) })
       if n < 2 ^ 19 then c.pumpKeyed (n / 8) (n % 8)
       else c.each ((s.chip.xpt.miss.filter (fun m => m.1 == n)).map (·.2)) Chip.openFrame).settle })
    ∧ (∀ peer tc base, exec (.reassemblyTimeout peer tc base) s = .next { s with chip :=
      (if (s.chip.rx (ctxNo 1 peer tc)).msgs.any (fun m => m.base == base && m.refused == 0 && !(m.skip && m.frags.isEmpty)) then
        (s.chip.updRx (ctxNo 1 peer tc) (fun x => { x with msgs := x.msgs.filter (fun m => m.base != base) })).cnt Reg.XPT_REASM_DROP
       else s.chip).settle })
    ∧ ∀ peer tc, exec (.ackTimer peer tc) s = .next { s with chip :=
      (if (s.chip.rx (ctxNo 1 peer tc)).owed = 0 then s.chip else s.chip.ackNow peer tc).settle }

/-- O35. On a module that runs with the transport enabled; the packet is taken from those opened. An ACK of an ACTIVE context frees the packets
it covers that are not LOADs, marks its LOADs acknowledged, raises CUM, and on progress starts the timer afresh; what waits is then sent. An
ACK to a context that is not ACTIVE, and a NAK or LOAD_RESP that names no packet held, change nothing more (a NAK is counted). A NAK of an
ACTIVE context with reason NEED_SYNC sends every message again after a new SYNC. Reasons other than 1, 2 and 8 end the message of the packet
named, with that reason, and its remaining PSNs are skipped. A LOAD_RESP takes its LOAD from the store, and with STATUS 0 ends it at the
tile with its 64 bytes, written to the scratch address the tile waits for. A retry expiry of a context that neither synchronises nor holds a
packet changes nothing; the eighth without progress declares the peer lost; else the timeout doubles up to 1 ms and the SYNC or every packet
held is sent again. (R367, R369, R370, R371, R372, R388) -/
def Obligations.AcksNaksAndRetries : Prop :=
  ∀ (s : State), s.runs = true → s.chip.xptOn = true →
    (∀ (pkt : Packet) (c : Chip), c = s.chip.setXpt (fun x => { x with rx := x.rx.erase pkt }) → c.xptOn = true →
      (let n := ctxNo 0 pkt.srcDev pkt.tc
       let x := c.tx n
       (x.state ≠ .active → exec (.ack pkt) s = .next { s with chip := c.settle })
       ∧ (x.state = .active → ∀ (cum map : Nat) (hit : TxPkt → Bool) (moved : Bool), cum = nearest (2 ^ 32) x.cum (pkt.psn + 1) → map = leNat (pkt.payload.take 128) →
          hit = (fun p => actsOn pkt.openKey p && (decide (p.psn < cum) || (decide (p.psn < cum + 1024) && map.testBit (p.psn - cum)))) →
          moved = (decide (x.cum < cum) && (!pkt.openKey || x.pkts.any hit)) →
          exec (.ack pkt) s = .next { s with chip :=
            (let d := c.putTx n { x with
              pkts := (x.pkts.filter (fun p => !(hit p && p.op != 6))).map (fun p => if hit p then { p with acked := true } else p)
              cum := max x.cum cum
              expiries := if moved then 0 else x.expiries
              timeout := if moved then 8000 else x.timeout }
             let d := d.each (x.pkts.filter (fun p => hit p && p.op != 6)) (fun d p => d.pktAcked n p)
             ((d.each (x.pkts.filter (fun p => hit p && p.op == 6)) (fun d p => d.fenceAck n p.psn)).settleFences.pumpKeyed pkt.srcDev pkt.tc)).settle })
       ∧ (x.pkts.find? (fun p => p.psn % 2 ^ 32 == le pkt.payload 0 4 && actsOn pkt.openKey p) = none ∨ x.state ≠ .active →
          exec (.nak pkt) s = .next { s with chip := (c.cnt Reg.XPT_NAK_RX).settle })
       ∧ (∀ p, x.pkts.find? (fun p => p.psn % 2 ^ 32 == le pkt.payload 0 4 && actsOn pkt.openKey p) = some p → x.state = .active → le pkt.payload 4 1 = 8 →
          exec (.nak pkt) s = .next { s with chip := ((c.cnt Reg.XPT_NAK_RX).resync pkt.srcDev pkt.tc).settle })
       ∧ (∀ p m, x.pkts.find? (fun p => p.psn % 2 ^ 32 == le pkt.payload 0 4 && actsOn pkt.openKey p) = some p → x.state = .active →
          le pkt.payload 4 1 ∉ [1, 2, 8] → x.msgs.find? (fun m => m.num == p.num && !m.skip) = some m →
          exec (.nak pkt) s = .next { s with chip :=
            (((((((c.cnt Reg.XPT_NAK_RX).putTx n { x with pkts := x.pkts.filter (fun y => y.psn != p.psn) }).fenceAck n p.psn).updTx n
              (fun y => y.abandon m)).endMsg pkt.srcDev (le pkt.payload 4 1) m).settleFences).pumpKeyed pkt.srcDev pkt.tc).settle })
       ∧ (x.pkts.find? (fun p => p.op == 6 && p.psn % 2 ^ 32 == pkt.psn) = none → exec (.loadResp pkt) s = .next { s with chip := c.settle })
       ∧ ∀ p m, x.pkts.find? (fun p => p.op == 6 && p.psn % 2 ^ 32 == pkt.psn) = some p → x.msgs.find? (fun y => y.num == p.num) = some m →
          le pkt.payload 0 1 = 0 → exec (.loadResp pkt) s = .next { s with chip :=
            (let d := ((((c.putTx n { x with pkts := x.pkts.filter (fun y => y.psn != p.psn), msgs := x.msgs.filter (fun y => y.num != p.num) }).fenceAck
               n p.psn).fenceMsg p.num).emit (.loadDone m.tile m.num 0 (slice pkt.payload 16 64))).settleFences.pumpKeyed pkt.srcDev pkt.tc
             let e := d.setTile m.tile (fun y => { y with loads := y.loads.filter (fun (l : Nat × Nat) => l.1 != m.num) })
             match (d.tile m.tile).loads.find? (fun (l : Nat × Nat) => l.1 == m.num) with
             | some a => e.writeScratch m.tile a.2 (slice pkt.payload 16 64)
             | none => e).settle }))
    ∧ ∀ peer tc, (let n := ctxNo 0 peer tc
      let x := s.chip.tx n
      (x.state ≠ .syncing → (x.state ≠ .active ∨ x.pkts = []) → exec (.retryTimeout peer tc) s = .next { s with chip := s.chip.settle })
      ∧ (x.state = .syncing ∨ (x.state = .active ∧ x.pkts ≠ []) →
          (7 ≤ x.expiries → exec (.retryTimeout peer tc) s = .next { s with chip := (s.chip.declareLost peer).settle })
          ∧ (x.expiries < 7 → exec (.retryTimeout peer tc) s = .next { s with chip :=
            (let c := s.chip.putTx n { x with expiries := x.expiries + 1, timeout := min (2 * x.timeout) 1000000 }
             if x.state = .syncing then (c.sendSync peer tc).cnt Reg.XPT_RETRY
             else c.each x.pkts (fun c p => c.resendPkt peer tc p)).settle })))

/-- O36. On a module that runs with the transport enabled; the packet is taken from those opened, and a pending epoch that it carries is noted.
To a context without a session it is answered NEED_SYNC. A PSN below EXPECT or marked counts as a duplicate and is owed an ACK, and a LOAD
that a LOAD_RESP can answer (no refusal, or reasons 5 to 7) is answered again, one refused otherwise is refused again; one at or beyond
EXPECT + 1,024 counts and is dropped. Within the window a SKIP consumes its PSN and names its message as skipped; a MSG goes to the
reassembly of its message; a LOAD or STORE waits, judged as it arrived; then every memory operation whose lower PSNs have all arrived runs
in the order of PSNs. An exchange message that a MSG completes reaches its tile. (R365, R368, R370, R375, R376, R387) -/
def Obligations.NumberedPacketsAreTakenOnce : Prop :=
  ∀ (s : State) (pkt : Packet) (ecc : List WordErr) (c : Chip), s.runs = true → c = s.chip.setXpt (fun x => { x with rx := x.rx.erase pkt }) →
    c.xptOn = true →
    ∀ op, op ∈ [1, 6, 8, 9] → ∀ (k : Packet) (n psn : Nat) (x : RxCtx) (d t : Chip),
      k = { pkt with op := op } → n = ctxNo 1 k.srcDev k.tc → x = c.rx n → d = c.noteEpoch k → psn = nearest (2 ^ 32) x.expect k.psn →
      t = (if x.active = false then d.sendNak k 8
        else if psn < x.expect ∨ psn ∈ x.marks then
          (if op = 6 then
            (let r := (d.cnt Reg.XPT_DUP).judgeOp k
             if r.1 = 0 ∨ (5 ≤ r.1 ∧ r.1 ≤ 7) then (d.cnt Reg.XPT_DUP).serveLoad k r.1 r.2 ecc else (d.cnt Reg.XPT_DUP).sendNak k r.1)
           else d.cnt Reg.XPT_DUP).owe k
        else if x.expect + 1024 ≤ psn then d.cnt Reg.XPT_OUT_WINDOW
        else Chip.runOps n ecc 1025 (if op = 9 then d.skipIn k psn else if op = 1 then d.fragIn k psn
          else d.updRx n (fun x => { x with ops := x.ops.filter (fun o => o.psn != psn) ++ [⟨psn, k, (d.judgeOp k).1, (d.judgeOp k).2, le k.payload 0 2⟩] }))) →
      (op = 1 → exec (.msg pkt ecc) s = .next { s with chip := t.exchanges.settle })
      ∧ (op = 6 → exec (.load pkt ecc) s = .next { s with chip := t.settle })
      ∧ (op = 8 → exec (.store pkt ecc) s = .next { s with chip := t.settle })
      ∧ (op = 9 → exec (.skip pkt ecc) s = .next { s with chip := t.settle })

/-- O37. On a module that runs, with the transport enabled and no fatal error; the frame is taken from those to be forwarded. With HOPS_LEFT 0,
or with no route that has an ADMITTED link, it is dropped: XPT_FWD_DROP counts and ERR_STAT bit [7] is set. Else it goes to the queue of its
traffic class on the link of its route with HOPS_LEFT one lower, LINK_SEQ zero and no CRC, the rest as it came, and XPT_FWD_FRAMES counts;
where that queue or the shaping block does not take it, it is dropped with SHP_FWD_FULL and SHP ERR_STAT bit [1], and bit [3] where the
queue was full of forwarded frames as its limit says. With the transport off it is dropped in silence. (R364, R402) -/
def Obligations.ForwardedFramesKeepTheirRoute : Prop :=
  ∀ (s : State) (l : Nat) (b : Bytes), s.runs = true → l < 48 →
    ∀ (c : Chip) (k : Packet), c = s.chip.setXpt (fun x => { x with fwd := x.fwd.erase (l, b) }) → k = packetOf b →
      (c.xptOn = false ∨ c.flt.mute = true → exec (.forwardedFrame l b) s = .next { s with chip := c.settle })
      ∧ (c.xptOn = true → c.flt.mute = false →
        (k.hops = 0 ∨ c.route k.dstDev k.psn = none →
          exec (.forwardedFrame l b) s = .next { s with chip := ((c.cnt Reg.XPT_FWD_DROP).raise Pg.XPT 7).settle })
        ∧ ∀ o, 0 < k.hops → c.route k.dstDev k.psn = some o → exec (.forwardedFrame l b) s = .next { s with chip :=
          (if c.shpOn o = true ∧ c.queueFull o (24 + k.tc) b.length = none then
            (c.enqueue o (24 + k.tc) { bytes := patch (patch (b.take (48 + le b 2 2)) 6 [0, 0]) 15 (toLE 1 (k.hops - 1)), since := c.alm.now / 10 }).cnt Reg.XPT_FWD_FRAMES
           else
            (let e := (c.cnt (regAt (Pg.shp o) Reg.SHP_FWD_FULL)).raise (Pg.shp o) 1
             if e.queueFull o (24 + k.tc) b.length = some true then e.raise (Pg.shp o) 3 else e)).settle })

/-- O38. On a module that runs, for a command that the XPT page takes as a field shared by design, naming the image's partition (or that of the
export or window named), while none of these commands is busy. An image that breaks R383 has RESULT 1, an export or window already open
RESULT 3; else an export opens with the next GEN of its EXPORT_ID and XPT_WIN_STAT shows RESULT 0, EXPORT_ID and GEN, and a window opens
with RESULT 0. A revoke of an export that is not open has RESULT 1; else the export is free at once and the command busy (15) until no
operation it accepted is held, when REVOKE_DONE makes RESULT 0. A window closes with RESULT 0. While a command is busy, a further open
changes nothing. (R383, R384, R385) -/
def Obligations.ExportsAndWindows : Prop :=
  (∀ (s : State) (acc : Access) (image : Bytes), s.runs = true →
    ∀ b, b = s.chip.image (s.chip.rd64 Reg.XPT_WIN_ADDR_LO) 64 image → s.chip.takes acc Pg.XPT true [le b 2 1] = true →
      (s.chip.rf F.XPT_WIN_STAT_RESULT = 15 → exec (.exportOpen acc image) s = .next { s with chip := s.chip.settle }
        ∧ exec (.windowOpen acc image) s = .next { s with chip := s.chip.settle })
      ∧ (s.chip.rf F.XPT_WIN_STAT_RESULT ≠ 15 →
        exec (.exportOpen acc image) s = .next { s with chip :=
          (if s.chip.exportBad b then s.chip.wf F.XPT_WIN_STAT_RESULT 1
           else if (s.chip.xpt.exports.find (le b 4 2)).isSome then s.chip.wf F.XPT_WIN_STAT_RESULT 3
           else
            (let g := (s.chip.xpt.gens.getD (le b 4 2) 0 + 1) % 65536
             let e : Export := { rights := le b 1 1, part := le b 2 1, any := bit (le b 3 1) 0, gen := g, obj := le b 8 2, peerDev := le b 10 2
                                 peerPart := le b 12 1, off := le b 16 8, size := le b 24 8 }
             (((s.chip.setXpt (fun x => { x with exports := x.exports.put (le b 4 2) e, gens := x.gens.put (le b 4 2) g })).wf F.XPT_WIN_STAT_RESULT 0).wf
               F.XPT_WIN_STAT_EXPORT_ID (le b 4 2)).wf F.XPT_WIN_STAT_GEN g)).settle }
        ∧ exec (.windowOpen acc image) s = .next { s with chip :=
          (if s.chip.windowBad b then s.chip.wf F.XPT_WIN_STAT_RESULT 1
           else if (s.chip.xpt.windows.find (le b 4 2)).isSome then s.chip.wf F.XPT_WIN_STAT_RESULT 3
           else
            (let w : Window := { rights := le b 1 1, part := le b 2 1, tc := le b 3 1, gen := le b 6 2, exp := le b 8 2, dev := le b 10 2
                                 peerPart := le b 12 1, size := le b 16 8 }
             (s.chip.setXpt (fun x => { x with windows := x.windows.put (le b 4 2) w })).wf F.XPT_WIN_STAT_RESULT 0)).settle }))
  ∧ (∀ (s : State) (acc : Access) (id : Nat), s.runs = true → s.chip.rf F.XPT_WIN_STAT_RESULT ≠ 15 →
    (∀ e, s.chip.xpt.exports.find id = some e → s.chip.takes acc Pg.XPT true [e.part] = true → exec (.exportRevoke acc id) s = .next { s with chip :=
      (((s.chip.dropExport id).setXpt (fun x => { x with revoking := some id })).wf F.XPT_WIN_STAT_RESULT 15).settle })
    ∧ (s.chip.xpt.exports.find id = none → s.chip.takes acc Pg.XPT true [] = true → exec (.exportRevoke acc id) s = .next { s with chip :=
      (s.chip.wf F.XPT_WIN_STAT_RESULT 1).settle })
    ∧ ∀ w, s.chip.xpt.windows.find id = some w → s.chip.takes acc Pg.XPT true [w.part] = true → exec (.windowClose acc id) s = .next { s with chip :=
      ((s.chip.setXpt (fun x => { x with windows := x.windows.del id })).wf F.XPT_WIN_STAT_RESULT 0).settle })
  ∧ ∀ s : State, s.runs = true → exec .exportRevokeDone s = .next { s with chip :=
      (match s.chip.xpt.revoking with
       | some id => if s.chip.heldOps id then s.chip else (s.chip.setXpt (fun x => { x with revoking := none })).wf F.XPT_WIN_STAT_RESULT 0
       | none => s.chip).settle }

/-- O39. On a module that runs. A proposal that the XPT page takes is read at XPT_MAP_ADDR, as long as its header says. An image that is no map
has XPT_MAP_STAT.RESULT 1 and sets ERR_STAT bit [5], and one whose members can be read is voted against (log entry 54); a map that a check
refuses has that check's RESULT, sets bit [5] and is voted against; a map that passes every check is accepted: it is its composition's one
proposal, this device's members of it belong to the composition with the role they change to pending, its plan is the pending plan with ARM
and SOURCE 1, RESULT is 0, STATE 1, and accepting Votes go. A Vote is taken from those delivered; one of another size or TYPE, that does not
name its sender, that refuses, or that is held already changes nothing more; an accepting one is kept and the Votes are counted: a proposal
for which every other device of the map has voted is complete, and VOTES shows the count of the last proposal. (R391, R392, R393, R397) -/
def Obligations.MapsAreProposedAndVotedOn : Prop :=
  ∀ s : State, s.runs = true →
    (∀ (acc : Access) (brought : Bytes), s.chip.takes acc Pg.XPT false [] = true →
      ∀ a img, a = s.chip.rd64 Reg.XPT_MAP_ADDR_LO → img = s.chip.image a (mapSize (le (s.chip.image a 128 brought) 16 2)) brought →
      (mapOfBytes img = none → exec (.mapProposal acc brought) s = .next { s with chip :=
        (if mapWhole img then ((s.chip.wf F.XPT_MAP_STAT_RESULT 1).raise Pg.XPT 5).sendVotes 1 (mapFields img) (digest (img.take (mapSize (le img 16 2))))
         else (s.chip.wf F.XPT_MAP_STAT_RESULT 1).raise Pg.XPT 5).settle })
      ∧ ∀ m p dig, mapOfBytes img = some m → p = padTo (mapSize m.members.length) img → dig = digest p →
        (∀ c d e : Chip, s.chip.checkMap m (prevDigest p) = 0 →
          c = s.chip.setXpt (fun x => { x with proposals := x.proposals.filter (fun y => y.map.comp != m.comp) ++ [{ map := m, digest := dig }], lastProp := m.comp }) →
          d = c.each (m.members.filter (fun k => k.dev == c.selfDev)) (fun f k => f.setPart k.part (fun y =>
            { y with comp := some m.comp, pending := if y.due.getD y.role = k.role then none else some k.role, since := f.step + 1 })) →
          e = ((((((d.wr Reg.ALM_CADENCE m.plan.c).wr Reg.ALM_BW_LEN m.plan.w).wr Reg.ALM_EXCH_START m.plan.x).wr Reg.ALM_SETTLE_START m.plan.s).wr64
            Reg.ALM_PLAN_STEP_LO m.step).wf F.ALM_PLAN_CTRL_ARM 1).wf F.ALM_PLAN_CTRL_SOURCE 1 →
          exec (.mapProposal acc brought) s = .next { s with chip :=
            ((((e.wf F.XPT_MAP_STAT_RESULT 0).wf F.XPT_MAP_STAT_STATE 1).sendVotes 0 m dig).countVotes).settle })
        ∧ (s.chip.checkMap m (prevDigest p) ≠ 0 → exec (.mapProposal acc brought) s = .next { s with chip :=
            (((s.chip.wf F.XPT_MAP_STAT_RESULT (s.chip.checkMap m (prevDigest p))).raise Pg.XPT 5).sendVotes 1 m dig).settle }))
    ∧ ∀ (src : MsgSrc) (b : Bytes), exec (.vote src b) s = .next { s with chip :=
      (let c := s.chip.take 8 src b
       let v := (le b 2 2, le b 4 4, src.dev, slice b 16 64)
       if b.length = 96 ∧ le b 0 1 = 1 ∧ le b 80 2 = src.dev ∧ le b 1 1 = 0 ∧ v ∉ c.xpt.votes then
        (let d := c.setXpt (fun x => { x with votes := x.votes ++ [v] })
         let e := d.setXpt (fun x => { x with proposals := x.proposals.map (fun p =>
           if !p.lapsed && d.votesFor p == (p.map.devices.filter (· != d.selfDev)).length then { p with complete := true } else p) })
         let n := match e.xpt.proposals.find? (fun p => p.map.comp == e.xpt.lastProp && !p.lapsed) with
           | some p => e.votesFor p
           | none => 0
         (e.wf F.XPT_MAP_STAT_VOTES (min n 65535)).noteWatched)
       else c).settle }

/-- O40. On a module that runs, for every link. At a frame boundary of a link that neither is up nor trains in stage 5 or 6 no frame starts; a
control frame in line goes first; in SELFTEST with none in line a Test frame goes; no data frame goes on a link that is not ADMITTED or
while the almanac is not locked; else the frame that R416 chooses starts: it leaves its queue, takes its tokens, its time in the queue is
sampled, the next head gets its tag, and it goes out with LINK_SEQ and CRC. A refill gives each bucket that is not full its rate. A commit
that the CAL page takes shows PENDING for the next row 9 and who ordered it. A write of SHP_RATE or SHP_BURST that is accepted stores the
value and fills both buckets of the queue. A sampler with interval 0 or a ring size that R417 does not allow writes nothing; else, with one
queue in its mask, it writes that queue's record at the ring's index and moves the index, or stops and sets ERR_STAT bit [2] where the write
fails. (R337, R350, R406, R408, R409, R413, R417, R418) -/
def Obligations.QueuesShapersAndSamplers : Prop :=
  ∀ (s : State) (l : Nat), s.runs = true → l < 48 →
    (∀ c, c = s.chip.noteCross l →
      (c.linkUp l = false → (c.lnkState l ≠ Ls.training ∨ (c.link l).stage < 5) → exec (.frameBoundary l) s = .next { s with chip := c.settle })
      ∧ (c.linkUp l = true ∨ (c.lnkState l = Ls.training ∧ 5 ≤ (c.link l).stage) →
        (∀ t p rest, (c.link l).ctl = (t, p) :: rest → exec (.frameBoundary l) s = .next { s with chip :=
          (((c.updLink l (fun k => { k with ctl := rest })).watchEnd l (c.gate l) (p.length + 52)).ctlNow l t p).settle })
        ∧ ((c.link l).ctl = [] →
          (c.lnkState l = Ls.selftest → exec (.frameBoundary l) s = .next { s with chip := (c.ctlNow l 5 (testPayload ((c.link l).txSeq % 65536))).settle })
          ∧ (c.lnkState l ≠ Ls.selftest → c.admitted l = false ∨ c.locked = false → exec (.frameBoundary l) s = .next { s with chip := c.settle })
          ∧ (c.admitted l = true → c.locked = true → c.choose l (c.gate l) = none → exec (.frameBoundary l) s = .next { s with chip := (c.noteWaits l (c.gate l)).settle })
          ∧ ∀ q f rest, c.admitted l = true → c.locked = true → c.choose l (c.gate l) = some q →
            ((c.noteWaits l (c.gate l)).shp l).frames q = f :: rest → exec (.frameBoundary l) s = .next { s with chip :=
              (let d := (c.noteWaits l (c.gate l)).takeTokens l q f.size
               let now := d.alm.now / 10
               let e := ((((d.updShp l (fun x => { x with vtime := x.tags.getD q 0, queues := x.queues.upd q [] (·.drop 1) })).updSample l q
                 (fun y => { y with sent := min 65535 (y.sent + 1), maxAge := max y.maxAge (now - f.since) })).tagHead l q).watchEnd l (c.gate l) f.size)
               let e := if le f.bytes 10 2 = e.selfDev then e.setFlt (fun x => { x with sentTo := x.sentTo.put (le f.bytes 12 2) e.alm.now }) else e
               e.frameOut l (withCrc (patch f.bytes 6 (toLE 2 (e.link l).txSeq)))).settle })))
    ∧ exec .bucketRefill s = .next { s with chip :=
      (s.chip.each s.chip.shps.keys (fun c l =>
        c.each ((List.range 32).filter (fun q => ((c.shp l).cbucket.find q).isSome || ((c.shp l).pbucket.find q).isSome)) (fun d q =>
          d.setBuckets l q (d.committedBucket l q + d.queueParam l q F.SHP_RATE_CIR) (d.peakBucket l q + d.queueParam l q F.SHP_RATE_PIR)))).settle }
    ∧ (∀ acc, s.chip.takes acc (Pg.cal l) false [] = true → exec (.calendarCommit acc l) s = .next { s with chip :=
      ((s.chip.wf (F.CAL_STAT_PENDING.on (Pg.cal l)) 1).updShp l (fun x => { x with writer := some acc.writer })).settle })
    ∧ (∀ acc q v (burst : Bool), q < 32 → s.chip.accepts acc (Pg.shp l) false [] = true → exec (.policerWrite acc l q burst v) s = .next { s with chip :=
      ((s.chip.wr (regAt (Pg.shp l) ((if burst then Reg.SHP_BURST else Reg.SHP_RATE) + 16 * q)) v).updShp l
        (fun x => { x with cbucket := x.cbucket.del q, pbucket := x.pbucket.del q })).settle })
    ∧ (s.chip.rd (regAt (Pg.shp l) Reg.SHP_SMP_INT) = 0 ∨ ringSizeOk (s.chip.rd (regAt (Pg.shp l) Reg.SHP_SMP_SIZE)) = false →
      exec (.sampler l) s = .next { s with chip := s.chip.settle })
    ∧ (∀ q, s.chip.rd (regAt (Pg.shp l) Reg.SHP_SMP_INT) ≠ 0 → ringSizeOk (s.chip.rd (regAt (Pg.shp l) Reg.SHP_SMP_SIZE)) = true →
      (List.range 32).filter (fun q => bit (s.chip.rd (regAt (Pg.shp l) Reg.SHP_SMP_MASK)) q) = [q] → (s.chip.shp l).stopped = false →
      exec (.sampler l) s = .next { s with chip :=
        (let n := s.chip.rd (regAt (Pg.shp l) Reg.SHP_SMP_WIDX)
         let x := s.chip.sampleWrite (s.chip.rd64 (regAt (Pg.shp l) Reg.SHP_SMP_BASE_LO) / 32 * 32 + 32 * (n % s.chip.rd (regAt (Pg.shp l) Reg.SHP_SMP_SIZE))) (s.chip.sampleRecord l q)
         if x.2 then (x.1.wr (regAt (Pg.shp l) Reg.SHP_SMP_WIDX) ((n + 1) % 2 ^ 32)).updShp l (fun y => { y with samples := y.samples.del q })
         else (x.1.updShp l (fun y => { y with stopped := true })).raise (Pg.shp l) 2).settle })

/-- O41. On a module that runs, in D0, not viral. A host read, or write, of an address that no committed decoder maps to a line of an object the
host may read, or write, or while Memory_Active is 0, counts in CXL_UNMAPPED, latches its address and sets ERR_STAT bit [0]; a read is
answered with 64 bytes of zero and a write dropped. Else a read whose line the filter has room for reads the 64 bytes, an item in its stack,
and grants the line where the host obtains it; a damaged line, or a stack that is down, counts in CXL_DAMAGED_RD, latches its address, sets
bit [1], raises AER and reads as 0xFF bytes. A write of a stack that is up stores the bytes of its mask. A snoop is answered RspI. A decoder
is committed only where it is number 0 or 1, whole multiples of 256 MiB, within the DVSEC range and apart from the other (units of 256 MiB:
log entry 44). A back-invalidate response takes the line out of the filter, its data stored where the host had modified it; after the last,
the commands held go on. (R426, R428, R429, R430, R431, R448) -/
def Obligations.HostMemoryAccesses : Prop :=
  (∀ (s : State) (hpa mask : Nat) (data : Bytes) (obtains : Option Bool) (ecc : List WordErr), s.runs = true → s.chip.d3hot = false →
    s.chip.rf F.CXL_STAT_VIRAL_OUT ≠ 1 →
    (let bad := ((s.chip.cnt Reg.CXL_UNMAPPED).wr64 Reg.CXL_ERR_HPA_LO hpa).raise Pg.CXL 0
     (s.chip.pwr.active = false ∨ s.chip.hostLine hpa false = none → exec (.hostMemRead hpa obtains ecc) s = .next { s with chip := (bad.emit (.memData (zeros 64))).settle })
     ∧ (s.chip.pwr.active = false ∨ s.chip.hostLine hpa true = none → exec (.hostMemWrite hpa data mask) s = .next { s with chip := bad.settle })
     ∧ (∀ a, s.chip.pwr.active = true → s.chip.hostLine hpa false = some a → s.chip.cxl.filter.length < 1048576 →
        ∀ (x : Chip × Bool) (t : Chip),
        x = (if s.chip.stackDown a then (s.chip, false) else (if inT2 a then s.chip.itemRuns (stackOf a) Config.hostAccessTicks else s.chip).access 3 a 64 ecc) →
        t = x.1.setCxl (fun c => { c with touched := [] }) →
        (x.2 = false ∨ t.readPhys a 64 = none → exec (.hostMemRead hpa obtains ecc) s = .next { s with chip :=
          ((((((t.cnt Reg.CXL_DAMAGED_RD).wr64 Reg.CXL_ERR_HPA_LO hpa).raise Pg.CXL 1).setCxl (fun c => { c with aer := true })).emit .aer).emit (.memData (List.replicate 64 255))).settle })
        ∧ (∀ b, x.2 = true → t.readPhys a 64 = some b → exec (.hostMemRead hpa obtains ecc) s = .next { s with chip :=
          ((match obtains with
            | some m => t.setCxl (fun c => { c with filter := c.filter.filter (fun y : Nat × Bool => y.1 != a) ++ [(a, m)] })
            | none => t).emit (.memData b)).settle }))
     ∧ (∀ a, s.chip.pwr.active = true → s.chip.hostLine hpa true = some a → exec (.hostMemWrite hpa data mask) s = .next { s with chip :=
        (if s.chip.stackDown a then bad
         else
          (let c := if inT2 a then s.chip.itemRuns (stackOf a) Config.hostAccessTicks else s.chip
           let c := if mask = 2 ^ 64 - 1 then c.writePhys false a (padTo 64 data)
             else c.each ((List.range 64).filter (fun i => mask.testBit i)) (fun c i => c.writePhys false (a + i) (slice (padTo 64 data) i 1))
           (c.markDirty a 64).setCxl (fun x => { x with touched := [] }))).settle }))
    ∧ exec (.h2dSnoop hpa) s = .next { s with chip := (s.chip.emit (.rspI hpa)).settle })
  ∧ (∀ (s : State) (i : Nat) (base size dpa : Nat), s.runs = true →
    (2 ≤ i ∨ size = 0 ∨ base % 2 ^ 28 ≠ 0 ∨ size % 2 ^ 28 ≠ 0 ∨ dpa % 2 ^ 28 ≠ 0 ∨ 4080 * 2 ^ 36 < dpa + size → exec (.hdmDecoderCommit i base size dpa) s = .next { s with chip := s.chip.settle })
    ∧ (i < 2 → 0 < size → base % 2 ^ 28 = 0 → size % 2 ^ 28 = 0 → dpa % 2 ^ 28 = 0 → dpa + size ≤ 4080 * 2 ^ 36 → s.chip.cxl.hdm = [] →
      exec (.hdmDecoderCommit i base size dpa) s = .next { s with chip := (s.chip.setCxl (fun c => { c with hdm := [(i, ⟨base, size, dpa⟩)] })).settle }))
  ∧ ∀ (s : State) (line : Nat) (data : Option Bytes), s.runs = true →
    ∀ c d : Chip, c = s.chip.setCxl (fun c => { c with snooped := c.snooped.filter (· != line), filter := c.filter.filter (fun x => x.1 != line) }) →
      d = (match data with
        | some b => ((c.writePhys false line (padTo 64 b)).markDirty line 64).setCxl (fun x => { x with touched := [] })
        | none => c) →
      exec (.bisnpResponse line data) s = .next { s with chip :=
        (if d.cxl.snooped = [] then (d.setCxl (fun x => { x with heldCmds := [] })).each d.cxl.heldCmds Chip.resume else d).settle }

/-- O42. On a module that runs, for a command of CXL_CFG_CTRL that the page takes for the partition it names, none being busy. An image at
CXL_CFG_ADDR that is no T3 address, or that breaks R433, has RESULT 1; a queue or ring in use has RESULT 3; else a queue pair or ring is
made with the image's fields and counts at zero, or a profile set, with RESULT 0. Deleting a queue that does not exist has RESULT 4, one
with descriptors not read or submissions waiting RESULT 3, else it is gone with RESULT 0. Deleting a ring that does not exist has RESULT 4,
one that a live request of this origin names RESULT 3, else it is gone with its backlog, and requests that only wait to be reported end.
(R433, R434, R450) -/
def Obligations.QueuesRingsAndProfiles : Prop :=
  ∀ (s : State) (acc : Access) (image : Bytes), s.runs = true → s.chip.rf F.CXL_CFG_STAT_RESULT ≠ 15 →
    ∀ b, b = padTo 32 image →
    (s.chip.takes acc Pg.CXL false [le image 1 1] = true →
      (inT3 (s.chip.rd64 Reg.CXL_CFG_ADDR_LO) = false → exec (.createQueuePair acc image) s = .next { s with chip := (s.chip.wf F.CXL_CFG_STAT_RESULT 1).settle }
        ∧ exec (.createEmitRing acc image) s = .next { s with chip := (s.chip.wf F.CXL_CFG_STAT_RESULT 1).settle })
      ∧ (inT3 (s.chip.rd64 Reg.CXL_CFG_ADDR_LO) = true →
        exec (.createQueuePair acc image) s = .next { s with chip :=
          (if qpBad b then s.chip.wf F.CXL_CFG_STAT_RESULT 1
           else if (s.chip.cxl.qps.find (le b 2 2)).isSome then s.chip.wf F.CXL_CFG_STAT_RESULT 3
           else
            (let x : QueuePair := { partition := le b 1 1, sqEntries := le b 4 2, cqEntries := le b 6 2, sqBase := le b 8 8, cqBase := le b 16 8
                                    vector := le b 24 2, coalCount := le b 26 2, coalUsec := le b 28 2, sqHead := 0, sqTail := 0, cqHead := 0, cqTail := 0
                                    reserved := 0, unsig := 0, held := [] }
             (s.chip.setCxl (fun c => { c with qps := c.qps.put (le b 2 2) x })).wf F.CXL_CFG_STAT_RESULT 0)).settle }
        ∧ exec (.createEmitRing acc image) s = .next { s with chip :=
          (if ringBad b then s.chip.wf F.CXL_CFG_STAT_RESULT 1
           else if (s.chip.ring (le b 2 2)).isSome then s.chip.wf F.CXL_CFG_STAT_RESULT 3
           else
            (s.chip.setRing (le b 2 2) { partition := le b 1 1, entries := le b 4 4, base := le b 8 8, vector := le b 16 2, coalCount := le b 18 2
                                         coalUsec := le b 20 2, head := 0, tail := 0, unsig := 0, abandoned := false, lastFlags := [] }).wf
              F.CXL_CFG_STAT_RESULT 0).settle }))
    ∧ (s.chip.takes acc Pg.CXL false [] = true →
      (inT3 (s.chip.rd64 Reg.CXL_CFG_ADDR_LO) = false ∨ le b 0 1 ≠ 3 ∨ 255 < le b 2 2 → exec (.setProfile acc image) s = .next { s with chip := (s.chip.wf F.CXL_CFG_STAT_RESULT 1).settle })
      ∧ (inT3 (s.chip.rd64 Reg.CXL_CFG_ADDR_LO) = true → le b 0 1 = 3 → le b 2 2 ≤ 255 → exec (.setProfile acc image) s = .next { s with chip :=
        (let p : Profile := { temperature := le b 4 2, topP := le b 6 2, topK := le b 8 2, stops := [le b 16 4, le b 20 4, le b 24 4, le b 28 4] }
         (s.chip.setCxl (fun c => { c with profiles := c.profiles.put (le b 2 2) p })).wf F.CXL_CFG_STAT_RESULT 0).settle })
      ∧ (∀ q, s.chip.cxl.qps.find q = none → exec (.deleteQueuePair acc q) s = .next { s with chip := (s.chip.wf F.CXL_CFG_STAT_RESULT 4).settle })
      ∧ ∀ r, s.chip.ring r = none → exec (.deleteEmitRing acc r) s = .next { s with chip := (s.chip.wf F.CXL_CFG_STAT_RESULT 4).settle })
    ∧ (∀ q x, s.chip.cxl.qps.find q = some x → s.chip.takes acc Pg.CXL false [x.partition] = true → exec (.deleteQueuePair acc q) s = .next { s with chip :=
      (if x.sqHead ≠ x.sqTail ∨ (∃ y ∈ s.chip.cxl.subs, y.qid = q) ∨ (∃ o ∈ s.chip.rtb.offers, o.sub.qid = q) then s.chip.wf F.CXL_CFG_STAT_RESULT 3
       else (s.chip.setCxl (fun c => { c with qps := c.qps.del q })).wf F.CXL_CFG_STAT_RESULT 0).settle })
    ∧ ∀ r x, s.chip.ring r = some x → s.chip.takes acc Pg.CXL false [x.partition] = true → exec (.deleteEmitRing acc r) s = .next { s with chip :=
      (if s.chip.rtb.locators.vals.any (fun l => l.ring == r && l.state == 1) then s.chip.wf F.CXL_CFG_STAT_RESULT 3
       else
        ((s.chip.each (s.chip.rtb.locators.vals.filter (fun l => l.ring == r && l.state == 2)) (fun c l => c.freeLocator l.rid)).setCxl
          (fun c => { c with rings := c.rings.del r, backlog := c.backlog.filter (fun h => h.ring != r) })).wf F.CXL_CFG_STAT_RESULT 0).settle }

/-- O43. On a module that runs. A descriptor is read only where R437 lets the queue be read; a Submit joins the submissions with its fields,
refused (code 6) where its lengths break R81, with the SQ head one on and one CQ entry reserved; a good prompt that does not fit the staging
store waits. A Cancel by HOST_TAG takes that submission away, any offer of it withdrawn, and both are completed; one by the RID of a live
request goes to its home; one that finds none is answered not found. A copied prompt goes into its submission, cut or padded to PROMPT_LEN.
A doorbell, taken by the page, of a queue or ring that does not exist, or with an index out of range or beyond what it may reach, is ignored
and sets ERR_STAT bit [2]; else it moves the tail or head, and a ring's held records are written. A coalescing timer signals records not yet
signalled. Unmasking sends what is pending and no longer masked. How an index becomes a count is log entry 44. (R81, R435, R437, R439, R441,
R446) -/
def Obligations.DescriptorsAndDoorbells : Prop :=
  ∀ s : State, s.runs = true →
    (∀ q d x, s.chip.cxl.qps.find q = some x →
      (let bad := le d 0 1 ≠ 1 ∨ badLengths (le d 16 4) (le d 20 4) = true
       let read := (s.chip.setCxl (fun c => { c with qps := c.qps.put q { x with sqHead := x.sqHead + 1, reserved := x.reserved + 1 } })).cnt Reg.CXL_SUBMITS
       (s.chip.mayRead q = false ∨ le d 0 1 = 2 ∨ (¬ bad ∧ 2 ^ 29 < s.chip.stageUsed + 4 * le d 16 4) → exec (.submitRead q d) s = .next { s with chip := s.chip.settle })
       ∧ (∀ r : Option Nat, s.chip.mayRead q = true → le d 0 1 ≠ 2 → (bad → r = some 6) → (¬ bad → r = none ∧ s.chip.stageUsed + 4 * le d 16 4 ≤ 2 ^ 29) →
          exec (.submitRead q d) s = .next { s with chip :=
            (let b : Submission := { num := s.chip.cxl.subNum, qid := q, dclass := le d 2 1 % 16, profile := le d 3 1, model := le d 4 2, adapter := le d 6 2
                                     ring := le d 8 2, tenant := le d 12 4, promptLen := le d 16 4, maxNew := le d 20 4, addr := le d 24 8
                                     deadline := le d 32 8, hostTag := le d 40 8, seed := le d 48 8, time := s.chip.alm.now, refusal := r, tokens := [] }
             read.setCxl (fun c => { c with subs := c.subs ++ [b], subNum := c.subNum + 1 })).settle })
       ∧ (s.chip.mayRead q = false ∨ le d 0 1 ≠ 2 → exec (.cancelRead q d) s = .next { s with chip := s.chip.settle })
       ∧ (s.chip.mayRead q = true → le d 0 1 = 2 → bit (le d 1 1) 0 = false → read.locator (le d 48 8) = none →
          exec (.cancelRead q d) s = .next { s with chip := (read.cqWrite q 2 1 (le d 40 8) (le d 48 8)).settle })
       ∧ (∀ l, s.chip.mayRead q = true → le d 0 1 = 2 → bit (le d 1 1) 0 = false → read.locator (le d 48 8) = some l → l.state = 1 →
          exec (.cancelRead q d) s = .next { s with chip :=
            ((read.send 2 l.device l.part (((read.cxl.qps.find q).map (·.partition)).getD 0) (cancelRecord l.rid)).cqWrite q 2 0 (le d 40 8) (le d 48 8)).settle })
       ∧ (∀ b, s.chip.mayRead q = true → le d 0 1 = 2 → bit (le d 1 1) 0 = true → read.cxl.subs.find? (fun b => b.qid == q && b.hostTag == le d 40 8) = some b →
          exec (.cancelRead q d) s = .next { s with chip :=
            ((((read.each (read.rtb.offers.filter (fun o => o.sub.num == b.num)) Chip.dropOffer).dropSub b).cqWrite q 1 3 (le d 40 8) 0).cqWrite q 2 0
              (le d 40 8) (le d 48 8)).settle })))
    ∧ (∀ num tokens, exec (.promptCopied num tokens) s = .next { s with chip :=
      (s.chip.setCxl (fun c => { c with subs := c.subs.map (fun b =>
        if b.num = num ∧ b.refusal = none then { b with tokens := (tokens ++ List.replicate b.promptLen 0).take b.promptLen } else b) })).settle })
    ∧ (∀ acc n i, s.chip.takes acc Pg.CXL false [] = true →
      exec (.sqTailDoorbell acc n i) s = .next { s with chip :=
        (match s.chip.cxl.qps.find n with
         | none => s.chip.raise Pg.CXL 2
         | some x =>
           let m := ringCount x.sqTail x.sqEntries i
           if x.sqEntries ≤ i ∨ x.sqEntries < m - x.sqHead then s.chip.raise Pg.CXL 2
           else s.chip.setCxl (fun c => { c with qps := c.qps.put n { x with sqTail := m } })).settle }
      ∧ exec (.cqHeadDoorbell acc n i) s = .next { s with chip :=
        (match s.chip.cxl.qps.find n with
         | none => s.chip.raise Pg.CXL 2
         | some x =>
           let m := ringCount x.cqHead x.cqEntries i
           if x.cqEntries ≤ i ∨ x.cqTail < m then s.chip.raise Pg.CXL 2
           else s.chip.setCxl (fun c => { c with qps := c.qps.put n { x with cqHead := m } })).settle }
      ∧ exec (.emitHeadDoorbell acc n i) s = .next { s with chip :=
        (match s.chip.ring n with
         | none => s.chip.raise Pg.CXL 2
         | some x =>
           let m := ringCount x.head x.entries i
           if x.entries ≤ i ∨ x.tail < m then s.chip.raise Pg.CXL 2 else (s.chip.setRing n { x with head := m }).drain).settle })
    ∧ (∀ n, exec (.coalesceTimeout true n) s = .next { s with chip :=
        (match s.chip.ring n with
         | some x => if x.unsig ≠ 0 ∧ x.coalUsec ≠ 0 then (s.chip.setRing n { x with unsig := 0 }).msix x.vector else s.chip
         | none => s.chip).settle }
      ∧ exec (.coalesceTimeout false n) s = .next { s with chip :=
        (match s.chip.cxl.qps.find n with
         | some x => if x.unsig ≠ 0 ∧ x.coalUsec ≠ 0 then
             (s.chip.setCxl (fun c => { c with qps := c.qps.put n { x with unsig := 0 } })).msix x.vector else s.chip
         | none => s.chip).settle })
    ∧ (∀ v, exec (.vectorUnmask (some v)) s = .next { s with chip := (s.chip.setCxl (fun c => { c with unmasked := insertNat v c.unmasked })).sendPending.settle })
    ∧ exec (.vectorUnmask none) s = .next { s with chip := (s.chip.setCxl (fun c => { c with maskAll := false })).sendPending.settle }

/-- O44. On a module that runs. A link that comes up on eight lanes or sixteen shows LINK_UP and its width and stops the loss timer; of another
width none comes up; one that goes down clears LINK_UP and WIDTH and starts it, once. Loss of the host, where HOST_LOST is set already,
changes nothing; else HOST_LOST is set, descriptors are read no more, submissions that were offered are withdrawn, queue pairs, rings,
submissions and backlog are gone, a class 12 record (its verdict free, log entry 8) and ERR_STAT bit [5] are written, live requests that it
originated and homes end with 0x09, and with the transport enabled it is a fatal error with CAUSE 3. HOST_LINK_LOST is that while the timer
runs, SURPRISE_REMOVAL after the link has gone down, VIRAL_IN after VIRAL_IN is set. A ring that stalls is abandoned where CXL_EMIT_STALL is
not 0 and a record waits for it: its records go, each live request of it is sent a Cancel and counted for its tenant, CXL_ABANDONED counts
and bit [3] is set; one abandoned before is left. FATAL_LINKS_OFF after a fatal error takes every link not RETIRED to OFF. (R445, R447,
R448, R510) -/
def Obligations.HostLinkComesAndGoes : Prop :=
  ∀ s : State, s.runs = true → ∀ (down : Chip) (lost : Chip → Chip),
    down = (if s.chip.rf F.CXL_STAT_LINK_UP = 0 then s.chip
      else ((s.chip.wf F.CXL_STAT_LINK_UP 0).wf F.CXL_STAT_WIDTH 0).setCxl (fun c => { c with downTimer := true })) →
    lost = (fun c => if c.rf F.CXL_STAT_HOST_LOST = 1 then c
      else
        let d := ((c.wf F.CXL_STAT_HOST_LOST 1).each c.rtb.offers Chip.dropOffer).setCxl (fun x => { x with reading := false, qps := [], rings := [], subs := [], backlog := [], downTimer := false })
        let d := ((({ d with free := d.free + 1 } : Chip).faultRecord 12 (Config.freeValue d.free 8 % 2 ^ 8) 0xFFFF 0xFFFF 0xFFFF 0xFF 0 0)).raise Pg.CXL 5
        let d := d.each ((d.rtb.rtes.filter (fun x => ridOrigin x.2.rid == d.selfDev && x.2.state.live)).map (·.1)) (fun e i => e.endNow i 0x09)
        if d.active Pg.XPT F.XPT_CFG_EN then d.fatal 3 else d) →
    (∀ width, exec (.cxlLinkUp width) s = .next { s with chip :=
      (if width = 1 ∨ width = 2 then ((s.chip.wf F.CXL_STAT_LINK_UP 1).wf F.CXL_STAT_WIDTH width).setCxl (fun c => { c with downTimer := false })
       else s.chip).settle })
    ∧ exec .cxlLinkDown s = .next { s with chip := down.settle }
    ∧ exec .hostLinkLost s = .next { s with chip := (if s.chip.cxl.downTimer then lost s.chip else s.chip).settle }
    ∧ exec .surpriseRemoval s = .next { s with chip := (lost down).settle }
    ∧ exec .viralIn s = .next { s with chip := (lost (s.chip.wf F.CXL_STAT_VIRAL_IN 1)).settle }
    ∧ (∀ r, exec (.emitStall r) s = .next { s with chip :=
      (match s.chip.ring r with
       | none => s.chip
       | some x => if s.chip.rd Reg.CXL_EMIT_STALL ≠ 0 ∧ s.chip.backlogOf r ≠ 0 ∧ x.abandoned = false then
           (let c := (s.chip.setRing r { x with abandoned := true, unsig := 0 }).setCxl (fun c => { c with backlog := c.backlog.filter (fun h => h.ring != r) })
            let d := c.each (c.rtb.locators.vals.filter (fun l : Locator => l.ring == r && l.state == 1)) (fun d l =>
              (d.send 2 l.device l.part x.partition (cancelRecord l.rid)).acct l.tenant (fun e => { e with cancelled := e.cancelled + 1 }))
            (d.cnt Reg.CXL_ABANDONED).raise Pg.CXL 3)
         else s.chip).settle })
    ∧ exec .fatalLinksOff s = .next { s with chip :=
      (if s.chip.rf F.FLT_STAT_FATAL = 0 then s.chip
       else s.chip.each ((List.range 48).filter (fun l => s.chip.lnkState l != 0 && s.chip.lnkState l != 6)) (fun c l => (c.leave l 0 false).emit (.linkOff l))).settle }

/-- O45. On a module that runs, for a device that is watched and not declared lost, or not. A Presence goes to a watched peer as a message of 32
bytes on service 8 with this device, the step and its serial. A Presence received (32 bytes, from such a peer) counts it present at the
almanac time. A Departure of 32 bytes from such a peer, and the end of its time, declare it lost: it is gone, its contexts of the eight
traffic classes go to ERROR, XPT_LOST_DEVICE shows it, XPT_PEER_LOST and FLT_PEERS_LOST count, ERR_STAT bit [0] of XPT and FLT is set, a
record of class 10 is written (its verdict free, log entry 8), fences settle, and what it was partner of is looked after. For any other
device nothing happens, but that a message is taken from those delivered. (R493, R494, R495) -/
def Obligations.PeersAreWatched : Prop :=
  ∀ s : State, s.runs = true → ∀ lost : Chip → Nat → Chip,
    lost = (fun c dev =>
      let d := c.setFlt (fun f => { f with gone := insertNat dev f.gone, seen := f.seen.del dev })
      let d := (((d.each (List.range 8) (fun e tc => e.ctxError dev tc)).wr Reg.XPT_LOST_DEVICE dev).cnt Reg.XPT_PEER_LOST).raise Pg.XPT 0 |>.settleFences
      let d := ((({ d with free := d.free + 1 } : Chip).faultRecord 10 (Config.freeValue d.free 8 % 2 ^ 8) 0xFFFF 0xFFFF dev 0xFF 0 0).cnt Reg.FLT_PEERS_LOST).raise Pg.FLT 0
      d.partnerGone dev) →
    (∀ dev, (let kept := s.chip.watched.contains dev && !s.chip.flt.gone.contains dev
      exec (.presenceSend dev) s = .next { s with chip :=
        (if kept then s.chip.send 8 dev 0 0 (toLE 1 0x20 ++ zeros 1 ++ toLE 2 s.chip.selfDev ++ zeros 4 ++ toLE 8 s.chip.step ++ toLE 8 Config.serial.toNat ++ zeros 8)
         else s.chip).settle }
      ∧ exec (.peerTimeout dev) s = .next { s with chip := (if kept then lost s.chip dev else s.chip).settle }))
    ∧ ∀ (src : MsgSrc) (b : Bytes) (c : Chip), c = s.chip.take 8 src b →
      (let kept := b.length == 32 && c.watched.contains src.dev && !c.flt.gone.contains src.dev
       exec (.presence src b) s = .next { s with chip := (if kept then c.setFlt (fun f => { f with seen := f.seen.put src.dev c.alm.now }) else c).settle }
       ∧ exec (.departure src b) s = .next { s with chip := (if kept then lost c src.dev else c).settle })

/-- O46. On a module that runs. A probe moves almanac time to offset W + 100, marks each ACTIVE tile that is silent as probed, stopping one that
has a program, and each other that keeps any state as having reported. A probed ACTIVE tile that has not answered is judged failed: it
stops, and retires where the event makes its channel permanent, else is TESTING, serves no logical tile, and awaits a self-test. A repair
that the FLT page takes, none being busy: of a half-bank not retired has RESULT 1; without spare rows RESULT 2 and ERR_STAT bit [4]; else it
is busy in STAGE 2 and the self-test of the unit's next attempt begins; a retest of a tile that is not RETIRED after a failed self-test has
RESULT 1, else the tile is tested, to take no logical tile. A self-test of a unit that awaits none changes nothing; a half-bank that passes
has no damaged word and awaits admission in STAGE 4, and one that fails leaves its return with RESULT 3 and bit [4]. A tile in its load
becomes AWAITING on success; a load it does not await changes nothing. The stages shown are log entry 56, probed tiles log entry 55. (R499,
R500, R504, R505, R506, R514) -/
def Obligations.UnitsReturnToService : Prop :=
  ∀ s : State, s.runs = true →
    (∀ silent, exec (.watchdogProbe silent) s = .next { s with chip :=
      (let c := s.chip.toOffset (s.chip.plan.w + 100)
       c.each ((List.range 68).filter (fun t => c.tileState t == 1)) (fun c t =>
        if t ∈ silent then
          (let d := c.setTile t (fun x => { x with reported := false, probed := true })
           if (d.tile t).prog = 0 then d else d.stopTile t)
        else if c.tiles.find t = none then c
        else c.setTile t (fun x => { x with reported := true, probed := false }))).settle })
    ∧ (∀ t, t < 68 → exec (.watchdogExpiry t) s = .next { s with chip :=
      (if s.chip.tileState t = 1 ∧ (s.chip.tile t).probed = true ∧ (s.chip.tile t).reported = false then
        (let lt := s.chip.rf (F.TIL_MAP_LOGICAL.on (Pg.til t))
         let x := (s.chip.stopTile t).countEvent (.tile t) 9
         if x.2 then x.1.retireTile t lt
         else (((x.1.setTileState t 3).wf (F.TIL_MAP_LOGICAL.on (Pg.til t)) 127).setTile t (fun _ => { takes := lt })).startReturn (.tile t) .selfTest)
        else s.chip).settle })
    ∧ (∀ acc st hb spares, st < 24 → hb < 4096 → s.chip.takes acc Pg.FLT false (s.chip.cgOwner st (groupOf hb)).toList = true → s.chip.rf F.FLT_REPAIR_STAT_RESULT ≠ 15 →
      exec (.repairHalfBank acc st hb spares) s = .next { s with chip :=
        (if s.chip.hbRetired st hb = false then (s.chip.wf F.FLT_REPAIR_STAT_RESULT 1).wf F.FLT_REPAIR_STAT_STAGE 0
         else if spares = false then ((s.chip.wf F.FLT_REPAIR_STAT_RESULT 2).wf F.FLT_REPAIR_STAT_STAGE 0).raise Pg.FLT 4
         else
          ((((s.chip.startReturn (.halfBank st hb) .selfTest).wf F.FLT_REPAIR_STAT_RESULT 15).wf F.FLT_REPAIR_STAT_STAGE 2).setFlt
            (fun f => { f with repair := some (.halfBank st hb) }))).settle })
    ∧ (∀ acc t, s.chip.takes acc Pg.FLT false [] = true → s.chip.rf F.FLT_REPAIR_STAT_RESULT ≠ 15 → exec (.retestTile acc t) s = .next { s with chip :=
      (if 68 ≤ t ∨ s.chip.tileState t ≠ 4 ∨ s.chip.rf (F.TIL_SELFTEST_DONE.on (Pg.til t)) = 0 ∨ s.chip.rf (F.TIL_SELFTEST_PASS.on (Pg.til t)) = 1 then
        (s.chip.wf F.FLT_REPAIR_STAT_RESULT 1).wf F.FLT_REPAIR_STAT_STAGE 0
       else
        (((s.chip.testTile t 127).wf F.FLT_REPAIR_STAT_RESULT 15).wf F.FLT_REPAIR_STAT_STAGE 2).setFlt
          (fun f => { f with repair := some (.tile t) })).settle })
    ∧ (∀ st hb n, st < 24 → hb < 4096 →
      (let u := Chan.halfBank st hb
       (s.chip.returning u ≠ some .selfTest → ∀ r, exec (.selftestDone (.halfBank st hb) r) s = .next { s with chip := s.chip.settle })
       ∧ (s.chip.returning u = some .selfTest →
          exec (.selftestDone (.halfBank st hb) .pass) s = .next { s with chip :=
            (((s.chip.setMemu (fun m => { m with damaged := m.damaged.filter (fun w => !(inT2 w && stackOf w == st && halfBankOf w == hb)), units := m.units.filter (fun x => !(inT2 x.1 && stackOf x.1 == st && halfBankOf x.1 == hb)) })).setFlt (fun f => { f with returns := f.returns.map (fun r => if r.chan = u then { r with stage := .awaiting } else r) })).wf F.FLT_REPAIR_STAT_STAGE 4).settle }
          ∧ exec (.selftestDone (.halfBank st hb) (.fail n)) s = .next { s with chip :=
            (((((s.chip.setFlt (fun f => { f with returns := f.returns.filter (fun r => r.chan != u) })).wf F.FLT_REPAIR_STAT_RESULT 3).wf F.FLT_REPAIR_STAT_STAGE 0).setFlt
              (fun f => { f with repair := none })).raise Pg.FLT 4).settle })))
    ∧ ∀ t, t < 68 →
      (s.chip.returning (.tile t) ≠ some .load → ∀ ok, exec (.unitLoadDone t ok) s = .next { s with chip := s.chip.settle })
      ∧ (s.chip.returning (.tile t) = some .load → exec (.unitLoadDone t true) s = .next { s with chip :=
        ((s.chip.setTileState t 5).setFlt (fun f => { f with returns := f.returns.map (fun r => if r.chan = .tile t then { r with stage := .awaiting } else r) })).settle })

/-- O47. On a module that runs; the record is taken from those delivered. One of another TYPE, or that runs past what arrived, is discarded and
sets RTB ERR_STAT bit [2]. A device that is no partner answers status 3. An anchor of a request whose journal is held is answered 0 with its
position; a new one is answered 0 and a journal kept with its anchor and its 4 KiB units reserved, or 1 where the units are not free. A run
or End for a journal not held is answered 2; a run beyond PROMPT_LEN + MAX_NEW is answered 1 with the position held; any other is stored and
answered 0 with the position reached; an End marks the journal to be discarded in the next row 7 and is answered 0. (R90, R91, R92, R93,
R98) -/
def Obligations.PartnersKeepJournals : Prop :=
  ∀ (s : State) (src : MsgSrc) (b : Bytes) (c : Chip) (rid : Nat), s.runs = true → c = s.chip.take 2 src b → rid = le b 8 8 →
    (le b 0 1 ≠ 1 ∨ b.length < recordSize b → exec (.anchorRecord src b) s = .next { s with chip := (c.raise Pg.RTB 2).settle })
    ∧ (le b 0 1 ≠ 2 ∨ b.length < recordSize b → exec (.tokenRunRecord src b) s = .next { s with chip := (c.raise Pg.RTB 2).settle })
    ∧ (le b 0 1 ≠ 4 ∨ b.length < recordSize b → exec (.endRecord src b) s = .next { s with chip := (c.raise Pg.RTB 2).settle })
    ∧ (recordSize b ≤ b.length →
      (le b 0 1 = 1 → exec (.anchorRecord src b) s = .next { s with chip :=
        (if c.isPartner = false then c.ackJournal src 3 0xFFFFFFFF rid
         else match c.rtb.journals.find? (fun j => j.rid == rid) with
         | some j => c.ackJournal src 0 j.position rid
         | none =>
           let u := ceilDiv (128 + 4 * (le b 24 4 + le b 28 4)) 4096
           if u ≤ c.jrnFree then
             ({ c with rtb := { c.rtb with journals := c.rtb.journals ++ [{ rid := rid, anchor := padTo 128 b, tokens := [], units := u }] } } : Chip).ackJournal src 0
               0xFFFFFFFF rid
           else c.ackJournal src 1 0xFFFFFFFF rid).settle })
      ∧ (le b 0 1 = 2 → exec (.tokenRunRecord src b) s = .next { s with chip :=
        (if c.isPartner = false then c.ackJournal src 3 0xFFFFFFFF rid
         else match c.rtb.journals.find? (fun j => j.rid == rid) with
         | none => c.ackJournal src 2 0xFFFFFFFF rid
         | some j =>
           if anchorMax j.anchor < le b 4 4 + le b 2 2 then c.ackJournal src 1 j.position rid
           else ({ c with rtb := { c.rtb with journals := c.rtb.journals.map (fun j => if j.rid = rid then j.store b else j) } } : Chip).ackJournal src 0
             (j.store b).position rid).settle })
      ∧ (le b 0 1 = 4 → exec (.endRecord src b) s = .next { s with chip :=
        (if c.isPartner = false then c.ackJournal src 3 0xFFFFFFFF rid
         else match c.rtb.journals.find? (fun j => j.rid == rid) with
         | none => c.ackJournal src 2 0xFFFFFFFF rid
         | some j =>
           ({ c with rtb := { c.rtb with journals := c.rtb.journals.map (fun j => if j.rid = rid then { j with ended := true, endedStep := c.step } else j) } } : Chip).ackJournal
             src 0 j.position rid).settle }))

/-- O48. On a module that runs; a record is taken from those delivered, and one that fails R91 is discarded with RTB ERR_STAT bit [2]. An
Acknowledgement with status 0 of an anchor on offer marks the offer accepted. With no anchor on offer and none that counted as refused, one
with status 0 from a request's partner keeps the highest POSITION, holds again what it still must, and emits what became ready; another
status counts the partner lost. A Home record of a journal held puts the new home into its anchor; for none held, at an origin that is
another device, it is answered 2 or 3; at the origin it puts the new home in the locator entry. A Cancel of a request neither known nor a
stub is answered status 8; of a live one it sets the flag and ends it with status 3. An Emit of an unknown RID counts as an orphan and sets
CXL bit [4], one at or below the emitted position is a duplicate, and another, or a Finish of a status other than 8, is written where its
turn has come and else held. An anchor unanswered for 50 µs makes its candidate count as refusing, an answer that comes late remembered; the
offer waits for the next row 11, and in row 11 it goes to the next candidate, or is given up: no candidate left (refused 5), or a partition
that takes no new request (7). A write of RTB_SERIAL sets SERIAL_VALID; one of RTB_PEEK_IDX reads the entry, or sets DENIED where the writer
may not name the partition. (R72, R85, R90, R94, R95, R98, R99, R102, R103, R106, R439, R443) -/
def Obligations.HomesAndOriginsHearRecords : Prop :=
  ∀ s : State, s.runs = true →
    (∀ (src : MsgSrc) (b : Bytes) (c : Chip), c = s.chip.take 2 src b → recordSize b ≤ b.length →
      (le b 0 1 = 5 → ∀ (i : Nat) (r : Rte), c.rtb.offers = [] → c.rtb.lateAcks = [] → c.findRid (le b 8 8) = some (i, r) → r.jrnPartner = src.dev → r.state ≠ RState.forward →
        exec (.acknowledgementRecord src b) s = .next { s with chip :=
          (if le b 1 1 = 0 then
            (let best := if le b 4 4 = 0xFFFFFFFF then r.jrnAckPos else if r.jrnAckPos = 0xFFFFFFFF then le b 4 4 else max (le b 4 4) r.jrnAckPos
             (c.putRte i { r with jrnAckPos := best }.rehold).emitReady i)
           else c.partnerLost i).settle })
      ∧ (le b 0 1 = 5 → le b 1 1 = 0 → ∀ o, c.rtb.offers.find? (fun (o : Offer) => o.rid == le b 8 8 && o.candidate == src.dev && !o.accepted && !o.carried) = some o →
        exec (.acknowledgementRecord src b) s = .next { s with chip :=
          ({ c with rtb := { c.rtb with offers := c.rtb.offers.map (fun x => if x.rid = o.rid then { x with accepted := true } else x) } } : Chip).settle })
      ∧ (le b 0 1 = 3 → (∃ j, c.rtb.journals.find? (fun j => j.rid == le b 8 8) = some j) → ∀ d e : Chip, d = ({ c with rtb := { c.rtb with journals := c.rtb.journals.map (fun j => if j.rid = le b 8 8 then
            { j with anchor := anchorHomed j.anchor b, homeLost := false } else j) } } : Chip).setSmv
          (fun m => { m with intents := m.intents.filter (fun i => !(i.hdr.rid == le b 8 8 && i.newDev == le b 2 2 && i.newPart == le b 1 1)) }) →
        e = (if d.smv.intents.any (fun i => i.hdr.rid == le b 8 8) then d else d.checkHome (le b 8 8)) → ridOrigin (le b 8 8) ≠ e.selfDev →
        exec (.homeRecord src b) s = .next { s with chip := e.settle })
      ∧ (le b 0 1 = 3 → c.rtb.journals = [] → exec (.homeRecord src b) s = .next { s with chip :=
        (if ridOrigin (le b 8 8) = c.selfDev then
          (match c.locator (le b 8 8) with
           | none => c
           | some l =>
             let d : Chip := { c with rtb := { c.rtb with locators := c.rtb.locators.put (locIdx (le b 8 8)) { l with device := le b 2 2, part := le b 1 1 } } }
             match d.locator (le b 8 8) with
             | some l => if l.cancel then d.send 2 l.device l.part src.dstPart (cancelRecord l.rid) else d
             | none => d)
         else c.ackJournal src (if c.isPartner then 2 else 3) 0xFFFFFFFF (le b 8 8)).settle })
      ∧ (le b 0 1 = 8 → exec (.cancelRecord src b) s = .next { s with chip :=
        (match c.findKnown (le b 8 8) with
         | none => c.replyCommand (le b 8 8) 8 src none
         | some (i, r) =>
           if r.state = RState.forward then c.replyCommand (le b 8 8) 8 src (some r)
           else if r.state.live then (c.putRte i { r with flags := { r.flags with cancelReq := true } }).endNow i 3
           else c).settle })
      ∧ (le b 0 1 = 6 → (c.locator (le b 16 8) = none → exec (.emitRecord src b) s = .next { s with chip := ((c.cnt Reg.CXL_EMIT_ORPHAN).raise Pg.CXL 4).settle })
        ∧ (c.locator (le b 16 8) ≠ none → le b 24 4 ≤ c.emitted (le b 16 8) → exec (.emitRecord src b) s = .next { s with chip := (c.cnt Reg.CXL_EMIT_DUP).settle }))
      ∧ (le b 0 1 = 7 → c.locator (le b 16 8) = none → exec (.finishRecord src b) s = .next { s with chip := (c.cnt Reg.CXL_EMIT_ORPHAN).settle })
      ∧ (le b 0 1 = 7 → ∀ (l : Locator) (h : HeldEmit), c.locator (le b 16 8) = some l → c.ringGone (le b 2 2) = false → le b 1 1 ≠ 8 → h = { finish := true, ring := le b 2 2, flags := le b 1 1, token := 0, hostTag := le b 8 8, rid := le b 16 8, position := le b 4 4, stepLo := le b 24 4 } →
        exec (.finishRecord src b) s = .next { s with chip :=
          (if c.heldReady h then c.writeCompletion h else (c.updLocator (le b 16 8) (fun l => { l with state := 2 })).holdEmit h).settle })
      ∧ (le b 0 1 = 6 → ∀ (l : Locator) (h : HeldEmit), c.locator (le b 16 8) = some l → c.emitted (le b 16 8) < le b 24 4 → c.ringGone (le b 2 2) = false → h = { finish := false, ring := le b 2 2, flags := le b 1 1, token := le b 4 4, hostTag := le b 8 8, rid := le b 16 8, position := le b 24 4, stepLo := le b 28 4 } →
        exec (.emitRecord src b) s = .next { s with chip := (if c.heldReady h then (c.writeEmit h).drain else c.holdEmit h).settle }))
    ∧ (∀ rid cand, s.chip.rtb.offers.find? (fun (o : Offer) => o.rid == rid && o.candidate == cand && !o.accepted && !o.carried) = none →
      exec (.anchorTimeout rid cand) s = .next { s with chip := s.chip.settle })
    ∧ (∀ rid cand (o p : Offer) (c d : Chip),
      s.chip.rtb.offers.find? (fun (o : Offer) => o.rid == rid && o.candidate == cand && !o.accepted && !o.carried) = some o →
      c = { s.chip with rtb := { s.chip.rtb with lateAcks := s.chip.rtb.lateAcks ++ [(o.rid, o.candidate)] } } → p = { o with tried := o.tried ++ [o.candidate] } →
      d = { c with rtb := { c.rtb with offers := c.rtb.offers.filter (fun x => x.rid != o.rid) } } →
      (s.chip.alm.row ≠ 11 → exec (.anchorTimeout rid cand) s = .next { s with chip :=
        ({ c with rtb := { c.rtb with offers := c.rtb.offers.map (fun x => if x.rid = o.rid then { p with carried := true } else x) } } : Chip).settle })
      ∧ (s.chip.alm.row = 11 → c.takesNew o.partition = false → exec (.anchorTimeout rid cand) s = .next { s with chip :=
        ((d.freeObjs o.partition o.rid).refuseSub o.sub 7).settle })
      ∧ (s.chip.alm.row = 11 → c.takesNew o.partition = true → d.partnerCands o.partition (ridComp o.rid) p.tried = [] →
        exec (.anchorTimeout rid cand) s = .next { s with chip := ((d.freeObjs o.partition o.rid).refuseSub o.sub 5).settle })
      ∧ ∀ q qs r, s.chip.alm.row = 11 → c.takesNew o.partition = true → d.partnerCands o.partition (ridComp o.rid) p.tried = q :: qs →
        r = { o.rte with jrnPartner := q, admitStep := d.step } → exec (.anchorTimeout rid cand) s = .next { s with chip :=
          (({ d with rtb := { d.rtb with offers := d.rtb.offers ++ [{ p with candidate := q, rte := r, carried := false }] } } : Chip).toPartner r (anchorOf r d.selfDev)).settle })
    ∧ ∀ acc v, s.chip.accepts acc Pg.RTB false [] = true →
      exec (.rtbSerialWrite acc v) s = .next { s with chip := ((s.chip.wr Reg.RTB_SERIAL (v % 2 ^ 32)).wf F.RTB_CFG_SERIAL_VALID 1).settle }
      ∧ exec (.rtbPeekIdxWrite acc v) s = .next { s with chip :=
        (let i := bits v 17 0
         let denied := match s.chip.rangeOwner i with
           | some p => !s.chip.mayName acc.writer p
           | none => false
         ({ s.chip with rtb := { s.chip.rtb with peek := if denied then [] else ((s.chip.rte i).map Rte.toBytes).getD [] } } : Chip).wr Reg.RTB_PEEK_IDX
           (i + (if denied then 2 ^ 31 else 0))).settle }

/-- O49. On a module that runs; a message is taken from those delivered, and one of another TYPE or too short is discarded with PFX ERR_STAT bit
[3]. A Lookup at a partition that is no shard is answered 1, without a table 2, and otherwise with what matched: nothing as zeros, else the
count under a new lease on the matched entries for the lookup's step plus 2. A reply for a request that waits for it at that shard is
applied: another status than 0 fails the lookup, 0 notes MATCHED and LEASE and counts the blocks matched and missed, and asks for a delivery
where any matched; any other reply is answered with a Release. A Release ends its lease: the references it held go, and the lease. A pin or
unpin taken for its partition marks the ready entries of that hash there, with RESULT 0, or 1 where there is none. Zeros in a reply without
a match are log entry 48. (R118, R119, R120, R121, R128, R130) -/
def Obligations.PrefixMessagesAndPins : Prop :=
  ∀ s : State, s.runs = true →
    (∀ (src : MsgSrc) (b : Bytes) (c : Chip), c = s.chip.take 3 src b →
      (le b 0 1 ≠ 1 ∨ 1024 < le b 2 2 ∨ b.length < 32 + 32 * le b 2 2 → exec (.lookup src b) s = .next { s with chip := (c.raise Pg.PFX 3).settle })
      ∧ (le b 0 1 = 1 → le b 2 2 ≤ 1024 → 32 + 32 * le b 2 2 ≤ b.length →
        ∀ (part : Nat) (answer : Chip → Nat → Nat → Nat → Nat → Nat → Chip), part = le b 16 1 →
          answer = (fun c st m lease spans pps => c.send 3 src.dev src.part part (lookupReply st m (le b 4 4) (le b 8 8) (src.step + 2) lease spans pps)) →
          exec (.lookup src b) s = .next { s with chip :=
            (if c.isShard part = false then answer c 1 0 0 0 0
             else if c.hasTable = false then answer c 2 0 0 0 0
             else
              (let x := Chip.matchRun part (le b 1 1) ((List.range (le b 2 2)).map (fun k => slice b (32 + 32 * k) 32)) c []
               match x.2 with
               | [] => answer x.1 0 0 0 0 0
               | i :: rest =>
                 let y := x.1.takeLease src (le b 8 8) part (i :: rest)
                 let sp := ((x.1.pfx.table.find i).map (fun e => (e.spans, e.pps))).getD (0, 0)
                 answer y.1 0 (rest.length + 1) y.2 sp.1 sp.2)).settle })
      ∧ (le b 0 1 ≠ 2 ∨ b.length < 48 → exec (.lookupReply src b) s = .next { s with chip := (c.raise Pg.PFX 3).settle })
      ∧ (le b 0 1 = 2 → 48 ≤ b.length →
        (c.findKnown (le b 8 8) = none →
          exec (.lookupReply src b) s = .next { s with chip := (c.send 3 src.dev src.part src.dstPart (releaseMsg (le b 24 4) (le b 8 8))).settle })
        ∧ ∀ i r, c.findKnown (le b 8 8) = some (i, r) → exec (.lookupReply src b) s = .next { s with chip :=
          (if r.lookup = 1 ∧ r.shard.1 = src.dev ∧ r.state.live = true then
            (if le b 1 1 ≠ 0 then c.lookupFail i
             else
              (let r' := { r with lookup := 2, matched := le b 2 2, lease := le b 24 4 }
               let d := ((c.putRte i r').cntBy Reg.PFX_BLOCKS_MATCHED (le b 2 2)).cntBy Reg.PFX_BLOCKS_MISSED (r.promptBlocks - r.localMatch - le b 2 2)
               if le b 2 2 = 0 then d else d.sendPull r' (le b 24 4) (le b 2 2)))
           else c.send 3 src.dev src.part src.dstPart (releaseMsg (le b 24 4) (le b 8 8))).settle })
      ∧ exec (.lookupRelease src b) s = .next { s with chip := (if le b 0 1 ≠ 3 ∨ b.length < 16 then c.raise Pg.PFX 3
        else match c.pfx.leases.find? (fun (l : Lease) => l.id == le b 4 4) with
        | some l => (c.each l.entries (fun d i => d.updEntry i (fun e => { e with refcnt := e.refcnt - 1 }))).setPfx
            (fun x => { x with leases := x.leases.filter (fun y => y.id != le b 4 4) })
        | none => c).settle })
    ∧ ∀ acc part (pin : Bool → Chip), part < 8 → s.chip.takes acc Pg.PFX false [part] = true →
      pin = (fun on =>
        let hit := fun (e : PEntry) => e.hash == s.chip.pinHash && e.state == 2 && e.partition == part
        if s.chip.pfx.table.vals.any hit then
          (s.chip.setPfx (fun x => { x with table := x.table.map (fun k => (k.1, if hit k.2 then { k.2 with pinned := on } else k.2)) })).wf F.PFX_PIN_STAT_RESULT 0
        else s.chip.wf F.PFX_PIN_STAT_RESULT 1) →
      exec (.pfxPin acc part) s = .next { s with chip := (pin true).settle } ∧ exec (.pfxUnpin acc part) s = .next { s with chip := (pin false).settle }

/-- O50. On a module that runs; the message is taken from those delivered, and one that R142 turns away sets SMV ERR_STAT bit [3] and, with a
whole header, is answered MALFORMED, an Open counted in SMV_REFUSED. An Open of a transfer that is held is refused DUPLICATE with outcome 3,
and while the block takes none BUSY; one that passes every check has its space reserved, its RTE in the cache, a context kept and the answer
OK. A Data message or a Seal for no context is answered by what the transfer came to; a Seal is kept, and the counts judged. A Commit of a
READY transfer waits for the next row 6, of one IN_DOUBT resolves it as committed. An Abort at the destination of a transfer that is neither
frees what it reserved and counts, of one IN_DOUBT resolves it as aborted, and is answered OK. A READY transfer whose Commit does not come
is IN_DOUBT, sets bit [2] and asks. (R142, R143, R145, R147, R150, R580) -/
def Obligations.TransfersAtTheDestination : Prop :=
  (∀ (s : State) (src : MsgSrc) (b : Bytes) (c : Chip) (h : SHdr) (bad : Chip), s.runs = true → c = s.chip.take 1 src b → h = SHdr.ofBytes b →
    bad = (if b.length < 32 then c.raise Pg.SMV 3 else (c.raise Pg.SMV 3).reply h src { status := 0x0E, replyTo := le b 0 1 }) →
    (badMessage b 1 = true ∨ le b 1 1 = 0 → exec (.open src b) s = .next { s with chip :=
      (if b.length < 32 then c.raise Pg.SMV 3
       else (((c.cnt Reg.SMV_REFUSED).raise Pg.SMV 0).raise Pg.SMV 3).reply h src { status := 0x0E, replyTo := le b 0 1 }).settle })
    ∧ (badMessage b 3 = true → exec (.seal src b) s = .next { s with chip := bad.settle })
    ∧ (badMessage b 2 = true → exec (.data src b) s = .next { s with chip := bad.settle })
    ∧ (badMessage b 5 = true → exec (.commit src b) s = .next { s with chip := bad.settle })
    ∧ (badMessage b 6 = true → exec (.abort src b) s = .next { s with chip := bad.settle })
    ∧ (badMessage b 1 = false → le b 1 1 ≠ 0 → c.dstX h.srcDev h.seq ≠ none → exec (.open src b) s = .next { s with chip :=
      (((c.cnt Reg.SMV_REFUSED).raise Pg.SMV 0).reply h src { status := St.duplicate, replyTo := 1, outcome := 3 }).settle })
    ∧ (∀ (t : Chip) (x : DstXfer), badMessage b 1 = false → h.kind ∈ [1, 2, 3, 4, 5] → le b 1 1 = h.kind → c.dstX h.srcDev h.seq = none →
      c.doneOutcome h.srcDev h.seq = none →
      (let o := OpenBody.ofBytes (b.drop 32)
       c.smvOn = true → c.quiet Pg.SMV = false → c.ctxUsed < 4096 → c.openTaking h o = true → c.openResident h o = true → c.openBusy h = false →
       (h.kind ≤ 2 → c.freeRte h.dstPart ≠ none) →
       c.reserve h o { hdr := h, body := (b.drop 32).take 320, rteIdx := if h.kind ≤ 2 then c.freeRte h.dstPart else none, partner := (openRte h.kind o).jrnPartner } = some (t, x) →
       exec (.open src b) s = .next { s with chip :=
        ((match x.rteIdx with
          | some i => (t.setSmv (fun m => { m with dsts := m.dsts ++ [x] })).touch i
          | none => t.setSmv (fun m => { m with dsts := m.dsts ++ [x] })).reply h src { status := St.ok, replyTo := 1 }).settle }))
    ∧ (badMessage b 3 = false → exec (.seal src b) s = .next { s with chip :=
      (match c.dstX h.srcDev h.seq with
       | none => c.noContext h src 3
       | some _ => (c.updDst h.srcDev h.seq (fun x => { x with sealed := some (le b 32 4, le b 36 4, le b 40 8) })).checkSeal h.srcDev h.seq).settle })
    ∧ (∀ rs, badMessage b 2 = false → 0 < le b 34 2 → le b 34 2 ≤ 64 → splitData (le b 34 2) (le b 32 1) (b.drop 48) = some rs → c.dstX h.srcDev h.seq = none →
      exec (.data src b) s = .next { s with chip := (c.noContext h src 2).settle })
    ∧ (∀ rs x l t y, badMessage b 2 = false → 0 < le b 34 2 → le b 34 2 ≤ 64 → splitData (le b 34 2) (le b 32 1) (b.drop 48) = some rs →
      c.dstX h.srcDev h.seq = some x → x.state = .receiving → le b 36 4 ∉ x.msgs → x.pages.any c.stackDown = false →
      (rs.foldl (fun (st : Chip × Option (List DRec)) (r : _ × _) => match st.2 with
        | none => st
        | some l => match st.1.unpackRecord ((x.pages.head?.map (fun a => stackOf a / 6)).getD 0) (le b 32 1) (h.srcDev == c.selfDev) r.1 r.2 with
          | (t, some r) => (t, some (l ++ [r]))
          | (t, none) => (t, none)) (c, some [])) = (t, some l) →
      (t.add64 Reg.SMV_BYTES_IN_LO b.length).publishFill { x with recs := x.recs ++ l, msgs := x.msgs ++ [le b 36 4], recCount := x.recCount + rs.length, bytes := x.bytes + b.length } = y →
      exec (.data src b) s = .next { s with chip := ((y.1.updDst h.srcDev h.seq (fun _ => y.2)).checkSeal h.srcDev h.seq).settle })
    ∧ (badMessage b 5 = false → ∀ x, c.dstX h.srcDev h.seq = some x → exec (.commit src b) s = .next { s with chip :=
      (if x.state = DstState.ready then c.updDst h.srcDev h.seq (fun y => { y with commit := true, replyTo := some (src.dev, src.part) })
       else if x.state = DstState.inDoubt then c.updDst h.srcDev h.seq (fun y => { y with outcome := 1, asked := 0, replyTo := some (src.dev, src.part) })
       else c.noContext h src 5).settle })
    ∧ (∀ x d, badMessage b 6 = false → d = c.noteErr (le b 32 2) h.kind 6 src.dev h.rid → ¬ (src.dev = h.dstDev ∧ src.part = h.dstPart) → d.dstX h.srcDev h.seq = some x →
      exec (.abort src b) s = .next { s with chip :=
        (((if x.state = DstState.inDoubt then d.updDst h.srcDev h.seq (fun y => { y with outcome := 2, asked := 0 })
           else (((d.unreserve x).dropDst x 2).cnt Reg.SMV_ABORTED).raise Pg.SMV 1).dropIntent h).reply h src { status := St.ok, replyTo := 6 }).settle }))
  ∧ ∀ (s : State) (dev seq : Nat), s.runs = true → exec (.decideWaitExpiry dev seq) s = .next { s with chip :=
    (match s.chip.dstX dev seq with
     | some x =>
       if x.state = DstState.ready ∧ x.commit = false then
         ((s.chip.updDst dev seq (fun y => { y with state := .inDoubt })).raise Pg.SMV 2).doubtAsk { x with state := .inDoubt }
       else s.chip
     | none => s.chip).settle }

/-- O51. On a module that runs; a message that R142 passes is taken from those delivered. An Intent for a journal whose anchor names the old
home is kept and answered OK; any other is answered NO_ANCHOR. A Query with ASK 0 is answered with the OUTCOME here. A Pull of a lease that
is held queues the delivery; else it is answered UNKNOWN_REQUEST. A Lost for no journal is answered UNKNOWN_REQUEST; for one not ended it
raises REC_EPOCH and orders a rebuild. A Locate that asks counts for its tenant, and is answered UNKNOWN_REQUEST for a RID unknown here,
else OK with the position emitted; it puts the new home into a live locator entry. A Reply OK to the Intent of a transfer INTENDING makes it
PREPARED. A runtime order that the page takes for the request's partition: RESULT says that the request is unknown (none, or only a stub),
or 0xFF with 64 queued; else it is queued behind the others with RESULT 0xFE. A Reply's effect is stated where it meets no line that the
host holds. (R136, R140, R144, R145, R150, R153, R154, R158, R162, R582) -/
def Obligations.TransfersElsewhere : Prop :=
  (∀ (s : State) (src : MsgSrc) (b : Bytes) (c : Chip) (h : SHdr), s.runs = true → c = s.chip.take 1 src b → h = SHdr.ofBytes b →
    (badMessage b 4 = false → exec (.intent src b) s = .next { s with chip :=
      (match c.rtb.journals.find? (fun (j : Journal) => j.rid == h.rid) with
       | some j =>
         if le j.anchor 88 2 = le b 32 2 ∧ le j.anchor 90 1 = le b 34 1 then
           (c.setSmv (fun m => { m with intents := m.intents ++ [({ hdr := h, oldDev := le b 32 2, oldPart := le b 34 1, newDev := le b 36 2, newPart := le b 35 1, step := le b 40 8, asking := 0 } : Intent)] })).reply
             h src { status := St.ok, replyTo := 4 }
         else c.reply h src { status := St.noAnchor, replyTo := 4 }
       | none => c.reply h src { status := St.noAnchor, replyTo := 4 }).settle })
    ∧ (badMessage b 7 = false → le b 32 1 = 0 → exec (.query src b) s = .next { s with chip :=
      (c.reply h src { status := St.ok, replyTo := 7, outcome := c.outcomeHere h }).settle })
    ∧ (badMessage b 9 = false → exec (.pull src b) s = .next { s with chip :=
      (match c.pfx.leases.find? (fun (l : Lease) => l.id == le b 32 4) with
       | some l => c.queueOrder { kind := 3, rid := h.rid, srcPart := l.shardPart, dst := (src.dev, src.part), lease := l.id, first := le b 36 4, count := le b 40 4 }
       | none => c.reply h src { status := St.unknown, replyTo := 9 }).settle })
    ∧ (badMessage b 0x0A = false → exec (.lost src b) s = .next { s with chip :=
      (match c.rtb.journals.find? (fun (j : Journal) => j.rid == h.rid) with
       | some j =>
         if j.ended then c
         else { c with rtb := { c.rtb with journals := c.rtb.journals.map (fun (j : Journal) => if j.rid = h.rid then { j with homeLost := true, recEpoch := j.recEpoch + 1 } else j) } }
       | none => c.reply h src { status := St.unknown, replyTo := 0x0A }).settle })
    ∧ (badMessage b 0x0B = false → le b 35 1 ≠ 1 → (∀ l, c.locator h.rid = some l → l.state ≠ 1) → exec (.locate src b) s = .next { s with chip := c.settle })
    ∧ (∀ d, badMessage b 0x0B = false → le b 35 1 = 1 → d = c.acct (le b 40 4) (fun e => { e with failedOver := e.failedOver + 1 }) →
      ((∀ l, d.locator h.rid = some l → l.state ≠ 1) → exec (.locate src b) s = .next { s with chip := (d.reply h src { status := St.unknown, replyTo := 0x0B }).settle })
      ∧ ∀ l f, d.locator h.rid = some l → l.state = 1 →
        f = { d with rtb := { d.rtb with locators := d.rtb.locators.put (locIdx h.rid) { l with device := le b 32 2, part := le b 34 1, partner := le b 36 2 } } } →
        exec (.locate src b) s = .next { s with chip := (f.reply h src { status := St.ok, replyTo := 0x0B, value := f.emitted h.rid }).settle })
    ∧ (∀ l, badMessage b 0x0B = false → c.locator h.rid = some l → l.state = 1 → le b 35 1 ≠ 1 → exec (.locate src b) s = .next { s with chip :=
      ({ c with rtb := { c.rtb with locators := c.rtb.locators.put (locIdx h.rid) { l with device := le b 32 2, part := le b 34 1, partner := le b 36 2 } } } : Chip).settle })
    ∧ (∀ x ecc, badMessage b 8 = false → (ReplyBody.ofBytes b).status = 0 → (ReplyBody.ofBytes b).replyTo = 4 → h.srcDev = c.selfDev → c.srcX h.seq = some x → x.state = .intending →
      c.cxl.touched = [] → exec (.reply src b ecc) s = .next { s with chip := (c.updSrc x.hdr.seq (fun y => { y with state := .prepared })).settle }))
  ∧ ∀ (s : State) (acc : Access) (rid : Nat), s.runs = true → rid = s.chip.rd64 Reg.SMV_ORD_RID_LO →
    (s.chip.findKnown rid = none → s.chip.takes acc Pg.SMV false [] = true → exec (.smvOrdIssue acc) s = .next { s with chip := (s.chip.ordResult St.unknown).settle })
    ∧ ∀ i r, s.chip.findKnown rid = some (i, r) → s.chip.takes acc Pg.SMV false [r.partition] = true → exec (.smvOrdIssue acc) s = .next { s with chip :=
      (if r.state = RState.forward then s.chip.ordResult St.unknown
       else if 64 ≤ s.chip.runtimeQueued then s.chip.ordResult 0xFF
       else
        (s.chip.queueOrder { kind := 1, rid := rid, srcPart := r.partition, runtime := true
                             dst := (s.chip.rf F.SMV_ORD_DST_DEVICE, s.chip.rf F.SMV_ORD_DST_PARTITION) }).ordResult 0xFE).settle }

/-- O52. On a module that runs, on a tile that executes and, where the instruction reads scratch words, finds none of them uncorrectable. A pass
whose exchange messages have arrived draws its packed blocks, then leaves C + A × B in the accumulators (C zero where it clears them),
counts its clocks, the skipped blocks and the clocks it waited for the Expander, and of a sparse pass the pass itself and its illegal
groups, which set ERR_STAT bit [0]; one whose messages have not arrived stops the tile; one of types or a shape that may not meet is a
sequencer fault. A conversion whose result fits in scratch computes its element-wise function, draws one random integer for each element
where it rounds stochastically, writes FP32, BF16 or MX elements and then packs its blocks; a guarded one after an overflow stores nothing.
A Router run with legal bounds, whose list fits in scratch, counts the tokens and the choices dropped, and NaN tokens, which set bit [2]. A
fence is added over the packets not yet acknowledged to the device in its classes. A LOAD or STORE of an address that no window serves, or a
LOAD to a place outside scratch, is a sequencer fault; of one that a window serves, it is one message to the window's device, and a LOAD
into scratch is noted with the address that its data goes to. An entry of the exchange plan that is not packed and lies in its own tiles
goes to the gang's member and, where it asks, is followed by a fence. Log entries 50 and 64 hold the operands' form. (R165, R166, R167,
R174, R175, R183, R186, R187, R378, R379, R386) -/
def Obligations.TilesCompute : Prop :=
  ∀ (s : State) (tile : Nat), s.runs = true → s.chip.tileRuns tile = true →
    (∀ ecc c, s.chip.scratchErrs tile ecc = (c, true) →
      (∀ (a : PassMat) (b : PassB) (run : PassRun),
        (c.arrived tile run.awaits = false → exec (.pass tile a b run ecc) s = .next { s with chip := (c.stopTile tile).settle })
        ∧ (∀ e, c.arrived tile run.awaits = true → e = c.each run.draws (fun x r => x.expandSlot tile r) → e.tileRuns tile = true →
          (passOk a b = false → exec (.pass tile a b run ecc) s = .next { s with chip := (e.seqFault tile (e.tile tile).part false).settle })
          ∧ (passOk a b = true → ∀ d bad,
            d = (((e.setTile tile (fun x => { x with acc := passResult a b (if run.clear = true then [] else (e.tile tile).acc) })).cntBy
              (regAt (Pg.til tile) Reg.TIL_EXP_STALL) run.stall).add64 (regAt (Pg.til tile) Reg.TIL_MXE_BUSY_LO) (passClocks a b)).add64
              (regAt (Pg.til tile) Reg.TIL_MXE_SKIP_LO) ((a.rows.map (fun r => (r.filter (·.skipped a.elem)).length)).foldl (· + ·) 0) →
            bad = ((b.cols.map (fun c => (c.map (fun x => badGroups x.2)).foldl (· + ·) 0)).foldl (· + ·) 0) →
            exec (.pass tile a b run ecc) s = .next { s with chip :=
              (if b.sparse = false then d
               else if bad = 0 then d.cnt (regAt (Pg.til tile) Reg.TIL_SPARSE_PASSES)
               else ((d.cnt (regAt (Pg.til tile) Reg.TIL_SPARSE_PASSES)).cntBy (regAt (Pg.til tile) Reg.TIL_SPARSE_BADMETA) bad).raise (Pg.til tile) 0).settle })))
      ∧ (∀ (o : ConvOp), convFits o = false → exec (.conversion tile o ecc) s = .next { s with chip :=
          ((c.seqFault tile (c.tile tile).part false).each o.packs (fun x r => x.packSlot tile r)).settle })
      ∧ (∀ (o : ConvOp), convFits o = true → o.guarded = true → (c.tile tile).overflow = true →
          exec (.conversion tile o ecc) s = .next { s with chip := (c.each o.packs (fun x r => x.packSlot tile r)).settle })
      ∧ (∀ (o : ConvOp) e vs, convFits o = true → (o.guarded && (c.tile tile).overflow) = false → vs = convResults o →
          e = (c.setTile tile (fun x => { x with overflow := convOverflows o x.overflow })) →
          (o.fp32 = true → exec (.conversion tile o ecc) s = .next { s with chip :=
            (((e.setTile tile (fun x => { x with srCount := x.srCount + 0 })).writeScratch tile o.dst (vs.flatMap (toLE 4))).each o.packs (fun x r => x.packSlot tile r)).settle })
          ∧ (o.fp32 = false → o.elem = .bf16 → exec (.conversion tile o ecc) s = .next { s with chip :=
            (((e.setTile tile (fun x => { x with srCount := x.srCount + (if o.sr = true then vs.length else 0) })).writeScratch tile o.dst
              (vs.zipIdx.flatMap (fun v => toLE 2 (bf16.encode (e.roundingAt tile o.sr v.2) (of32 v.1))))).each o.packs (fun x r => x.packSlot tile r)).settle })
          ∧ (∀ (cs : List Conv), o.fp32 = false → o.elem ≠ .bf16 →
            cs = (chunksOf 32 vs).zipIdx.map (fun b => toMx o.elem (fun i => e.roundingAt tile o.sr (32 * b.2 + i)) (b.1.map of32)) →
            exec (.conversion tile o ecc) s = .next { s with chip :=
            ((((((e.setTile tile (fun x => { x with srCount := x.srCount + (if o.sr = true then vs.length else 0) })).writeScratch tile o.dst
              (cs.flatMap (fun c => packElems o.elem.width c.block.elems))).writeScratch tile o.scaleDst (cs.map (fun c => BitVec.ofNat 8 c.block.scale))).cntBy
              (regAt (Pg.til tile) Reg.TIL_CONV_SAT) ((cs.map (·.sat)).foldl (· + ·) 0)).cntBy (regAt (Pg.til tile) Reg.TIL_CONV_NAN) ((cs.filter (·.nan)).length)).each o.packs
              (fun x r => x.packSlot tile r)).settle }))
      ∧ (∀ (o : RouterOp) (all kept : List Choice) nans,
          nans = (o.logits.filter nanToken).length →
          all = (List.range o.k).flatMap (fun r => (o.logits.zipIdx.flatMap (fun x => if nanToken x.1 = true then [] else choicesOf o x.2 x.1)).filter (fun c => c.rank == r)) →
          kept = keepChoices o.cap all → routerOk o = true →
          inScratch o.dst (64 + 16 * o.experts.length + 8 * ((List.range o.experts.length).flatMap (fun e => kept.filter (fun c => c.expert == e))).length) = true →
          ∃ bytes, exec (.routerRun tile o ecc) s = .next { s with chip :=
            (let d := ((c.writeScratch tile o.dst bytes).cntBy (regAt (Pg.til tile) Reg.TIL_ROUTE_TOKENS) o.logits.length).cntBy (regAt (Pg.til tile) Reg.TIL_ROUTE_DROP) (all.length - kept.length)
             if nans = 0 then d else (d.cntBy (regAt (Pg.til tile) Reg.TIL_ROUTE_NAN) nans).raise (Pg.til tile) 2).settle }))
    ∧ (∀ num dev (tc : Option Nat) (cs : List Nat), cs = ((List.range 8).filter (fun k => tc = none ∨ tc = some k)).map (ctxNo 0 dev) →
        exec (.fence tile num dev tc) s = .next { s with chip :=
          ((s.chip.setXpt (fun x =>
            let f : Fence := { id := num, tile := tile, psns := cs.flatMap (fun k => ((s.chip.tx k).pkts.filter (fun p => !p.acked)).map (fun p => (k, p.psn, p.num))),
                               lost := cs.any (fun k => (s.chip.tx k).state == .error) }
            { x with fences := x.fences ++ [f] })).settleFences).settle })
    ∧ (∀ addr dst, s.chip.windowFor tile addr false = none → inScratch dst 64 = true → exec (.tileLoad tile addr dst) s = .next { s with chip :=
        (s.chip.seqFault tile (((s.chip.logicalOf tile).bind s.chip.ltOwner).getD (s.chip.tile tile).part) false).settle })
    ∧ (∀ addr dst, inScratch dst 64 = false → exec (.tileLoad tile addr dst) s = .next { s with chip := (s.chip.seqFault tile (s.chip.tile tile).part false).settle })
    ∧ (∀ addr data, s.chip.windowFor tile addr true = none → exec (.tileStore tile addr data) s = .next { s with chip :=
        (s.chip.seqFault tile (((s.chip.logicalOf tile).bind s.chip.ltOwner).getD (s.chip.tile tile).part) false).settle })
    ∧ (∀ addr dst w, s.chip.windowFor tile addr false = some w → inScratch dst 64 = true → exec (.tileLoad tile addr dst) s = .next { s with chip :=
        ((s.chip.setTile tile (fun x => { x with loads := x.loads ++ [(s.chip.xpt.nextNum, dst)] })).transmitIn w.tc w.dev
          { num := 0, op := 6, svc := 7, srcPart := w.part, dstPart := w.peerPart, bytes := opHead w (addr % 2 ^ 32), tile := tile }).settle })
    ∧ (∀ addr data w, s.chip.windowFor tile addr true = some w → exec (.tileStore tile addr data) s = .next { s with chip :=
        (s.chip.transmitIn w.tc w.dev
          { num := 0, op := 8, svc := 7, srcPart := w.part, dstPart := w.peerPart, bytes := opHead w (addr % 2 ^ 32) ++ padTo 64 data, tile := tile }).settle })
    ∧ ∀ (op : ExchOp) ecc c d p, op.tile = tile → s.chip.skipped (le op.bytes 20 4) = false → d = s.chip.toOffset (le op.bytes 20 4) → d.tileRuns tile = true →
        d.scratchErrs tile ecc = (c, true) → le op.bytes 4 1 = 0 → p = (c.tile tile).part →
        c.inOwnTiles p (le op.bytes 8 8) (le op.bytes 16 4) = true →
        exec (.exchangeEntry op ecc) s = .next { s with chip :=
          (let g := c.gangEntry p (le op.bytes 2 1)
           let msg := exchHeader op.bytes ++ memRead c.mem (le op.bytes 8 8) (le op.bytes 16 4)
           let u := if g.1 = c.selfDev then c.deliver 6 ⟨c.selfDev, p, g.2, c.step⟩ msg
             else c.transmitIn (bits (le op.bytes 3 1) 2 0) g.1 { num := 0, svc := 6, srcPart := p, dstPart := g.2, bytes := msg }
           if bit (le op.bytes 3 1) 7 = true then u.issueFence tile (le op.bytes 0 2) g.1 (some (bits (le op.bytes 3 1) 2 0)) else u).exchanges.settle }

/-- O53. On a module that runs, where page SCH takes the write. A load while RESULT is 15 changes nothing; else a container that fails a check
gives its number as RESULT, and one that passes all takes the lowest free index, which INDEX and the count SCH_PROGS show. An unload of a
program that a partition forces or of an empty index gives RESULT 7; else the program is marked for the next row 12. A model or adapter is
registered where it passes the checks, else RESULT is 1 for a bad ID, 2 for a bad KV format or head, 3 for a bad U, 4 for an unknown model,
5 for a full registry, 7 for another type. A deregistration gives 1 for an unknown ID, 6 for one in use, 0 otherwise. An account is
registered, its flag set, removed or its counters cleared, for the tenant that SCH_ACCT_TENANT names; a tenant that another one's entry
keeps out takes its place as the lines say. SLICE_COMMIT sets bit 0 of SCH_SLICE_STAT for the next boundary. (R196, R200, R226, R230) -/
def Obligations.ProgramsRegistryAndAccounts : Prop :=
  ∀ (s : State) (acc : Access) (res : Nat → Chip → Chip), s.runs = true → s.chip.takes acc Pg.SCH false [] = true →
    res = (fun k (c : Chip) => c.wf F.SCH_REG_STAT_RESULT k) →
    (s.chip.rf F.SCH_LOAD_STAT_RESULT = 15 →
      (∀ image, exec (.programLoad acc image) s = .next { s with chip := s.chip.settle })
      ∧ ∀ i, exec (.programUnload acc i) s = .next { s with chip := s.chip.settle })
    ∧ (∀ image a b, s.chip.rf F.SCH_LOAD_STAT_RESULT ≠ 15 → a = s.chip.rd64 Reg.SCH_LOAD_ADDR_LO → b = s.chip.image a (max 256 (le (s.chip.image a 256 image) 80 8)) image →
        (s.chip.loadCheck b ≠ 0 → exec (.programLoad acc image) s = .next { s with chip := (s.chip.wf F.SCH_LOAD_STAT_RESULT (s.chip.loadCheck b)).settle })
        ∧ (s.chip.loadCheck b = 0 → exec (.programLoad acc image) s = .next { s with chip :=
          (let i := firstFree 512 0 s.chip.sch.progs.keys
           let c := s.chip.setSch (fun x => { x with progs := x.progs.put i (progOfBytes b) })
           ((c.wr Reg.SCH_PROGS c.sch.progs.length).wf F.SCH_LOAD_STAT_RESULT 0).wf F.SCH_LOAD_STAT_INDEX i).settle }))
    ∧ (∀ i, s.chip.rf F.SCH_LOAD_STAT_RESULT ≠ 15 → i < 512 → exec (.programUnload acc i) s = .next { s with chip :=
        (if (∃ p ∈ List.range 8, s.chip.schPart p F.SCH_PART_CFG_FORCE_EN = 1 ∧ s.chip.schPart p F.SCH_PART_CFG_FORCE = i) ∨ s.chip.prog i = none then s.chip.wf F.SCH_LOAD_STAT_RESULT 7
         else (s.chip.updProg i (fun g => { g with unload := true })).wf F.SCH_LOAD_STAT_RESULT 0).settle })
    ∧ (∀ image b, b = s.chip.image (s.chip.rd64 Reg.SCH_REG_ADDR_LO) 64 image → exec (.registerEntry acc image) s = .next { s with chip :=
        (if le b 0 1 = 1 then
           (let m := modelOfBytes b
            if badId s.chip.sch.models (le b 2 2) = true then res 1 s.chip
            else if m.kvFormat = 0 ∨ 3 < m.kvFormat ∨ m.headDim % 32 ≠ 0 ∨ m.headDim < 32 ∨ 256 < m.headDim then res 2 s.chip
            else if m.u = 0 ∨ 8 < m.u then res 3 s.chip
            else if m.fallbackId ≠ 0xFFFF ∧ s.chip.model m.fallbackId = none then res 4 s.chip
            else if 256 ≤ s.chip.registered then res 5 s.chip
            else res 0 (s.chip.setSch (fun x => { x with models := x.models.put (le b 2 2) m })))
         else if le b 0 1 = 2 then
           (if badId s.chip.sch.adapters (le b 2 2) = true then res 1 s.chip
            else if s.chip.model (le b 4 2) = none then res 4 s.chip
            else if 256 ≤ s.chip.registered then res 5 s.chip
            else res 0 (s.chip.setSch (fun x => { x with adapters := x.adapters.put (le b 2 2) { model := le b 4 2, tag := slice b 16 16, weightBytes := le b 32 8 } })))
         else res 7 s.chip).settle })
    ∧ (∀ (adapter : Bool) (i : Nat), i < 65536 → exec (.deregister acc adapter i) s = .next { s with chip :=
        (if (if adapter = true then s.chip.sch.adapters.find i = none else s.chip.model i = none) then res 1 s.chip
         else if s.chip.regInUse adapter i = true then res 6 s.chip
         else res 0 (s.chip.setSch (fun x => if adapter = true then { x with adapters := x.adapters.del i } else { x with models := x.models.del i }))).settle })
    ∧ (∀ t, t = s.chip.rd Reg.SCH_ACCT_TENANT →
        (∀ ride, exec (.acctRegister acc ride) s = .next { s with chip :=
          (if s.chip.acctOf t = none then s.chip.setSch (fun x => { x with acct := x.acct.put (t % 4096) { tenant := t, ride := ride } })
           else s.chip.acct t (fun e => { e with ride := ride })).settle })
        ∧ exec (.acctRemove acc) s = .next { s with chip :=
          (if s.chip.acctOf t = none then s.chip else s.chip.setSch (fun x => { x with acct := x.acct.del (t % 4096) })).settle }
        ∧ exec (.acctClear acc) s = .next { s with chip := (s.chip.acct t (fun e => { e with admitted := 0, completed := 0, cancelled := 0, failedOver := 0 })).settle })
    ∧ exec (.sliceCommit acc) s = .next { s with chip := (s.chip.wr Reg.SCH_SLICE_STAT (s.chip.rd Reg.SCH_SLICE_STAT ||| 1)).settle }

/-- O54. On a module that runs. Where page SCH takes the write for an existing partition and RESULT is not 15, a load of something unregistered
gives 1, of a resident one 0, of one loading 4; with room it is started; else the fewest least recently used victims are evicted for it
first (15), or RESULT is 3. An evict gives 1 for an unregistered, 2 for an absent or loading one, 4 for one that may not be evicted, and
else waits (15). A pin or unpin marks a resident entry (0) and gives 2 or 1 otherwise. A load that runs ends: a bundle that passes is
decrypted to the weights' places with REASON 0 and RESULT 0; one refused leaves the entry absent, counts, sets SEC bit [4] and gives its
REASON and RESULT 5; where a chunk fails (7), the places of those before it are zeroed. A scheduler message of another type or length is
discarded with SCH bit [4]; a Bid or Offer is noted; a Void of the step that runs voids it. A barrier with a member missing voids the step;
else the step has run: generating requests get their tokens, prefill requests advance by the tokens that they were bound with, and one that
reaches its prompt's end gets its first token. What a started load shows is log entry 53. (R203, R207, R218, R223, R224, R225, R473) -/
def Obligations.ResidencyBidsAndBarriers : Prop :=
  ∀ (s : State), s.runs = true →
    (∀ acc p (adapter : Bool) i (res : Nat → Chip → Chip), p < 8 → i < 65536 → s.chip.takes acc Pg.SCH false [p] = true → s.chip.rf F.SCH_RES_STAT_RESULT ≠ 15 →
      res = (fun k (c : Chip) => (c.wf F.SCH_RES_STAT_RESULT k).setSch (fun x => { x with resNamed := some (p, adapter, i) })) →
      (s.chip.partExists p = false →
        exec (.residencyLoad acc p adapter i) s = .next { s with chip := (res 7 s.chip).settle } ∧ exec (.residencyEvict acc p adapter i) s = .next { s with chip := (res 7 s.chip).settle }
        ∧ exec (.residencyPin acc p adapter i) s = .next { s with chip := (res 7 s.chip).settle } ∧ exec (.residencyUnpin acc p adapter i) s = .next { s with chip := (res 7 s.chip).settle })
      ∧ (s.chip.partExists p = true →
        (∀ (room used : Nat), room = s.chip.rd (Reg.SCH_RES_QUOTA + 4 * p) * 2 ^ 20 → used = s.chip.resUsed p →
          exec (.residencyLoad acc p adapter i) s = .next { s with chip :=
          (match s.chip.weightOf adapter i, s.chip.residency p adapter i with
           | none, _ => res 1 s.chip
           | some _, some r => res (if r.resident = true then 0 else 4) s.chip
           | some size, none =>
             if used + size ≤ room then
               res 0 (s.chip.setSch (fun x => { x with res := x.res ++ [({ part := p, adapter := adapter, id := i, size := size } : Residency)], loads := x.loads ++ [(p, adapter, i)] }))
             else match s.chip.victimsFor p (used + size - room) with
               | some v => res 15 (s.chip.setSch (fun x => { x with evicts := x.evicts ++ [({ part := p, victims := v.map (fun (r : Residency) => (r.adapter, r.id)), load := some (adapter, i) } : EvictCmd)] }))
               | none => res 3 s.chip).settle })
        ∧ exec (.residencyEvict acc p adapter i) s = .next { s with chip :=
          (match s.chip.weightOf adapter i, s.chip.residency p adapter i with
           | none, none => res 1 s.chip
           | some _, none => res 2 s.chip
           | _, some r =>
             if r.resident = false then res 2 s.chip
             else if s.chip.evictableRes r = true then res 15 (s.chip.setSch (fun x => { x with evicts := x.evicts ++ [({ part := p, victims := [(adapter, i)] } : EvictCmd)] }))
             else res 4 s.chip).settle }
        ∧ ∀ (pin : Bool → Chip),
          pin = (fun on => match s.chip.weightOf adapter i, s.chip.residency p adapter i with
           | none, none => res 1 s.chip
           | some _, none => res 2 s.chip
           | _, some r => if r.resident = true then res 0 (s.chip.updRes p adapter i (fun r => { r with pinned := on })) else res 2 s.chip) →
          exec (.residencyPin acc p adapter i) s = .next { s with chip := (pin true).settle } ∧ exec (.residencyUnpin acc p adapter i) s = .next { s with chip := (pin false).settle }))
    ∧ (∀ p (adapter : Bool) i b,
        (¬ (p, adapter, i) ∈ s.chip.sch.loads → exec (.loadFinished p adapter i b) s = .next { s with chip := s.chip.settle })
        ∧ ((p, adapter, i) ∈ s.chip.sch.loads → ∀ (c : Chip), c = s.chip.setSch (fun x => { x with loads := x.loads.erase (p, adapter, i) }) →
          (c.bundleReason p adapter i b ≠ 0 → exec (.loadFinished p adapter i b) s = .next { s with chip :=
            (((((((c.wf F.SEC_BUNDLE_STAT_REASON (c.bundleReason p adapter i b)).wf F.SEC_BUNDLE_STAT_PARTITION p).dropRes p adapter i).cnt Reg.SEC_BUNDLE_REFUSED).raise Pg.SEC 4).wf
              F.SCH_RES_STAT_RESULT 5).setSch (fun x => { x with resNamed := some (p, adapter, i) })).settle })
          ∧ ∀ wsk good, c.bundleReason p adapter i b = 0 → c.unwrap b = some wsk → good = goodChunks b wsk (le b 36 4) 0 →
            (good.length = le b 36 4 → exec (.loadFinished p adapter i b) s = .next { s with chip :=
              ((((Chip.writeImage (c.imageUnits (c.weightObjects p adapter i)) good.flatten ((c.wf F.SEC_BUNDLE_STAT_REASON 0).wf F.SEC_BUNDLE_STAT_PARTITION p)).updRes p adapter i
                (fun r => { r with loaded := true })).wf F.SCH_RES_STAT_RESULT 0).setSch (fun x => { x with resNamed := some (p, adapter, i) })).settle })
            ∧ (good.length ≠ le b 36 4 → exec (.loadFinished p adapter i b) s = .next { s with chip :=
              ((((((((Chip.writeImage (c.imageUnits (c.weightObjects p adapter i)) (zeros good.flatten.length) c).wf F.SEC_BUNDLE_STAT_REASON 7).wf F.SEC_BUNDLE_STAT_PARTITION p).dropRes p
                adapter i).cnt Reg.SEC_BUNDLE_REFUSED).raise Pg.SEC 4).wf F.SCH_RES_STAT_RESULT 5).setSch (fun x => { x with resNamed := some (p, adapter, i) })).settle })))
    ∧ (∀ (src : MsgSrc) b (c : Chip), c = s.chip.take 4 src b →
        (le b 0 1 ≠ 1 ∨ b.length ≠ 32 → exec (.bid src b) s = .next { s with chip := (c.raise Pg.SCH 4).settle })
        ∧ (le b 0 1 ≠ 2 ∨ b.length ≠ 32 → exec (.offer src b) s = .next { s with chip := (c.raise Pg.SCH 4).settle })
        ∧ (le b 0 1 ≠ 3 ∨ b.length ≠ 32 → exec (.void src b) s = .next { s with chip := (c.raise Pg.SCH 4).settle })
        ∧ (b.length = 32 → le b 0 1 = 1 → exec (.bid src b) s = .next { s with chip := (c.setSch (fun x =>
            { x with bids := x.bids ++ [{ step := le b 8 8, dev := le b 2 2, part := le b 1 1, dst := src.dstPart, count := le b 4 4, ctx := le b 16 4, model := le b 20 2 }] })).settle })
        ∧ (b.length = 32 → le b 0 1 = 2 → exec (.offer src b) s = .next { s with chip := (c.setSch (fun x =>
            { x with offers := x.offers ++ [{ step := le b 8 8, dev := le b 2 2, part := le b 1 1, dst := src.dstPart, room := le b 4 4, model := le b 16 2 }] })).settle })
        ∧ (b.length = 32 → le b 0 1 = 3 → ∀ (d : Chip), d = c.setSch (fun x => { x with voids := x.voids ++ [(le b 8 8, src.dstPart, le b 2 2)] }) →
            (le b 8 8 ≠ c.step ∨ d.sel src.dstPart = none → exec (.void src b) s = .next { s with chip := d.settle })
            ∧ ∀ x, le b 8 8 = c.step → d.sel src.dstPart = some x →
              exec (.void src b) s = .next { s with chip :=
                (if x.voided = true ∨ x.ran = true then d
                 else ((d.updSel src.dstPart (fun y => { y with voided := true })).cnt Reg.SCH_VOID).raise Pg.SCH 1).settle }))
    ∧ ∀ p (samples : List (Nat × List (List (Nat × Nat)))) (missing : Bool), p < 8 →
        (s.chip.sel p = none → exec (.gangBarrier p samples missing) s = .next { s with chip := s.chip.settle })
        ∧ ∀ x, s.chip.sel p = some x →
          (x.ran = true ∨ x.voided = true → exec (.gangBarrier p samples missing) s = .next { s with chip := s.chip.settle })
          ∧ (x.ran = false → x.voided = false → missing = true ∨ s.chip.sch.voids.any (fun v => v.1 == s.chip.step && v.2.1 == p) = true →
              exec (.gangBarrier p samples missing) s = .next { s with chip :=
                (((s.chip.updSel p (fun y => { y with voided := true })).cnt Reg.SCH_VOID).raise Pg.SCH 1).settle })
          ∧ (x.ran = false → x.voided = false → missing = false → s.chip.sch.voids.any (fun v => v.1 == s.chip.step && v.2.1 == p) = false →
              ∀ c g, c = s.chip.updSel p (fun y => { y with ran := true }) → c.prog x.prog = some g →
                (g.kind = 1 → exec (.gangBarrier p samples missing) s = .next { s with chip :=
                  ((c.each (x.bound.map (fun (q : Nat × Nat) => q.1)) (fun (d : Chip) i =>
                    if (d.rte i).any (fun (r : Rte) => r.state == .generating && r.flags.bound && !x.unanswered.contains r.rid) = true then
                      d.sampleTokens i (logitsFor samples ((d.rte i).elim 0 (·.rid))) ((d.rte i).elim 1 d.uOf)
                    else d)).each (x.ride ++ x.back) (fun (d : Chip) (b : Nat × Nat) => d.stepPrefill samples x.unanswered b.1 b.2)).settle })
                ∧ (g.kind ≠ 1 → exec (.gangBarrier p samples missing) s = .next { s with chip :=
                  ((c.each x.bound (fun (d : Chip) b => d.stepPrefill samples x.unanswered b.1 b.2)).each (x.ride ++ x.back)
                    (fun (d : Chip) (b : Nat × Nat) => d.stepPrefill samples x.unanswered b.1 b.2)).settle })
                ∧ ∀ i n r, g.kind ≠ 1 → x.bound = [(i, n)] → x.ride ++ x.back = [] → c.rte i = some r → r.state = .prefill ∨ r.state = .rebuilding →
                    r.flags.bound = true → ¬ r.rid ∈ x.unanswered → r.cursor + n < r.len →
                    exec (.gangBarrier p samples missing) s = .next { s with chip := (c.putRte i { r with prefilled := r.cursor + n }).settle })

/-- O55. On a module that runs. A command reaches its stack's inlet where its group is up, its tile runs and the static sequence of the tile's
program names it, at that START; its wait behind the rivals that the rotation serves first is kept as the longest. One whose opcode is not
its row's, or that names a place outside its own, is refused: a sequencer fault of its tile, else ERR_STAT bit [4]. One that may run now
puts its operands at OPND, meets the words in error, does its work and counts its clocks in the bank's segment, which remembers what a
forced stop restores. APPEND writes the keys and values at OPND as records from TOK_FIRST on; SUMMARISE merges the maxima and minima of the
keys under TAG; SUMWRITE writes what is merged to slot ARG and empties it; SCORE leaves the scores of slots from ARG on at RSLT; ATTEND
merges its part under TAG and leaves the outputs at RSLT; MATVEC merges the dot products and leaves them at RSLT; READ leaves words at RSLT;
WRITE and INIT write the data and the page header, with WRITTEN 0 and the tail zero; NOP does nothing else. One that meets lines the host
holds waits for them. A query of a running tile leaves with its header completed, its items awaited; the first result of an item ends it,
one not OK bars its request, and status 2 asks the origin. An Attend of the wrong length sets bit [4] of its gather page; else it waits for
its slice, is served in ascending POSITION and answered in its own order. A refresh updates the banks' credits, the largest of which MAXC
keeps, stops segments at 8 and scrubs where SCRUB_EN is set. Sensor readings set TEMP and SHORT. Operands are log entry 51's. (R251, R255,
R256, R258, R259, R261, R262, R263, R264, R268, R292, R485) -/
def Obligations.SedgeGroupsRun : Prop :=
  (∀ (s : State) (stack : Nat) (frm : SedgeFrom) (word data : Bytes) (turn : SedgeTurn) (ecc : List WordErr) (w : SedgeCmd) (ends a : Nat) (tile : Option Nat)
     (c₀ c : Chip) (elem : Elem) (note : Chip → Chip → Nat → Chip) (ran : Bytes → (Chip → Chip) → Chip) (held : Chip → Instr → State),
     s.runs = true → stack < 24 → w = SedgeCmd.ofBytes word → a = w.addr stack → s.chip.sedgeIssues stack frm word = true →
     (∀ t, frm = .tile t → tile = some t ∧ c₀ = s.chip.toOffset ((s.chip.staticStart stack t word).getD 0)) → ((∀ t, frm ≠ .tile t) → tile = none ∧ c₀ = s.chip) →
     c = (if arbWait 19 c₀.sch.rot (c₀.requester frm) turn.rivals ≤ c₀.rd Reg.SCH_ARB_MAXWAIT then c₀
          else c₀.wr Reg.SCH_ARB_MAXWAIT (arbWait 19 c₀.sch.rot (c₀.requester frm) turn.rivals)) →
     note = (fun (was d : Chip) n =>
       let x := d.add64 (regAt (Pg.sdg stack) Reg.SDG_BUSY_LO) turn.clocks
       let old := (x.sdgAt stack).running.getD w.bankKey { partition := (was.sedgeParty frm).getD 0, fromTile := tile, ends := ends, began := x.offset }
       let g : Segment := { old with clocks := old.clocks + turn.clocks, units := old.units + n, oldOpnd := old.oldOpnd ++ opndChanged (was.sdgAt stack).opnd (x.sdgAt stack).opnd,
                                     oldTags := if (old.oldTags.find w.tag).isSome = true ∨ (was.sdgAt stack).merge.find w.tag = (x.sdgAt stack).merge.find w.tag then old.oldTags
                                                else old.oldTags.put w.tag ((was.sdgAt stack).merge.find w.tag) }
       if w.segEnd = true then x.segmentEnds stack w.bankKey g turn.clocks else x.setSdg stack (fun y => { y with running := y.running.put w.bankKey g })) →
     ran = (fun data run =>
       let was := (if data = [] then c else c.setOpnd stack w.opnd data).each ecc (fun x e => x.meetWord (sedgeReader frm) e)
       note was (run was) (ceilDiv data.length 32)) →
     held = (fun d i => { s with chip := ((s.chip.each d.cxl.touched Chip.backInvalidate).setCxl (fun x => { x with heldCmds := x.heldCmds ++ [i] })).settle }) →
     (∀ i op, (i, op) ∈ [(Instr.append stack frm word data turn ecc, 1), (.summarise stack frm word turn ecc, 2), (.sumwrite stack frm word turn ecc, 3),
         (.score stack frm word data turn ecc, 4), (.attend stack frm word data turn ecc, 5), (.matvec stack frm word data elem turn ecc, 6), (.sedgeRead stack frm word turn ecc, 7),
         (.sedgeWrite stack frm word data turn ecc, 8), (.init stack frm word data turn ecc, 9), (.nop stack frm word turn, 0x3F)] →
       w.opcode ≠ op ∨ c.sedgeOutside stack frm w = true → ∀ d, d = tile.elim (c.raise (Pg.sdg stack) 4) (fun t => c.seqFault t (((c.logicalOf t).bind c.ltOwner).getD (c.tile t).part) false) →
       d.cxl.touched = [] → exec i s = .next { s with chip := d.settle }) ∧
     (c.sedgeOutside stack frm w = false → c.sedgeMay stack frm w = some ends →
     (w.opcode = 0x01 → ∀ d, d = ran data (fun c =>
       match c.pageHdr stack a ecc with
       | (d, none) => d
       | (d, some h) =>
         let vec := fun k => bf16s (slice (d.opnd stack w.opnd (2 * (2 * h.dim) * w.count)) (k * (2 * h.dim)) (2 * h.dim))
         (d.appendAt stack a w.first ((List.range w.count).map vec) ((List.range w.count).map (fun k => vec (w.count + k))) ecc).1) →
       (d.cxl.touched = [] → exec (.append stack frm word data turn ecc) s = .next { s with chip := d.settle }) ∧ (d.cxl.touched ≠ [] → exec (.append stack frm word data turn ecc) s = .next (held d (.append stack frm word data turn ecc))))
     ∧ (w.opcode = 0x02 → ∀ d, d = ran [] (fun c =>
       match c.keysAt stack a w.first w.count ecc with
       | (d, some x) => (d.mergeTag stack w.tag (minmaxOf x.2)).1
       | (d, none) => d) →
       (d.cxl.touched = [] → exec (.summarise stack frm word turn ecc) s = .next { s with chip := d.settle }) ∧ (d.cxl.touched ≠ [] → exec (.summarise stack frm word turn ecc) s = .next (held d (.summarise stack frm word turn ecc))))
     ∧ (w.opcode = 0x03 → ∀ d, d = ran [] (fun c =>
       match (c.sdgAt stack).merge.find w.tag with
       | some (.minmax hi lo) => ((c.setSdg stack (fun g => { g with merge := g.merge.del w.tag })).writeSummary stack a w.arg hi lo ecc).1
       | _ => c) →
       (d.cxl.touched = [] → exec (.sumwrite stack frm word turn ecc) s = .next { s with chip := d.settle }) ∧ (d.cxl.touched ≠ [] → exec (.sumwrite stack frm word turn ecc) s = .next (held d (.sumwrite stack frm word turn ecc))))
     ∧ (w.opcode = 0x04 → ∀ d, d = ran data (fun c =>
       match c.pageHdr stack a ecc with
       | (d, none) => d
       | (d, some h) => d.each (List.range w.count) (fun x k =>
         match slotRecord h (w.arg + k) with
         | none => x
         | some i =>
           if h.written ≤ i then x
           else match x.readSummary stack a (w.arg + k) h ecc with
             | (y, none) => y
             | (y, some m) =>
               (y.setSdg stack (fun g => { g with opnd := memWrite g.opnd (32 * w.rslt + 4 * k) (toLE 4 (scoreOf (d.queriesAt stack w.opnd (w.gm1 + 1) h.dim) m.1 m.2)) })).add64
                 (regAt (Pg.sdg stack) Reg.SDG_BLK_SCORED_LO) 1)) →
       (d.cxl.touched = [] → exec (.score stack frm word data turn ecc) s = .next { s with chip := d.settle }) ∧ (d.cxl.touched ≠ [] → exec (.score stack frm word data turn ecc) s = .next (held d (.score stack frm word data turn ecc))))
     ∧ (w.opcode = 0x05 → ∀ d, d = ran data (fun c =>
       match c.keysAt stack a w.first w.count ecc with
       | (d, none) => d
       | (d, some x) =>
         match d.valsAt stack a w.first w.count x.1 ecc with
         | (e, none) => e
         | (e, some vs) =>
           let q := 2 * x.1.dim * (w.gm1 + 1)
           match (e.add64 (regAt (Pg.sdg stack) Reg.SDG_BLK_ATTENDED_LO) (blocksIn x.1 w.first w.count)).mergeTag stack w.tag
             (.attn (attnOf x.1 (le (e.opnd stack w.opnd (q + 4)) q 4) (e.queriesAt stack w.opnd (w.gm1 + 1) x.1.dim) x.2 vs)) with
           | (f, .attn t) => f.setOpnd stack w.rslt (t.flatMap Triple.output)
           | (f, _) => f) →
       (d.cxl.touched = [] → exec (.attend stack frm word data turn ecc) s = .next { s with chip := d.settle }) ∧ (d.cxl.touched ≠ [] → exec (.attend stack frm word data turn ecc) s = .next (held d (.attend stack frm word data turn ecc))))
     ∧ (∀ k vt, w.opcode = 0x06 → k = 32 * (w.arg + 1) → vt = (if elem = Elem.bf16 then Elem.bf16 else .e4m3) →
       ∀ d, d = ran data (fun c =>
       match c.sedgeRead stack a (w.count * recordBytes elem k) ecc with
       | (d, none) => d
       | (d, some b) =>
         let vecs := (List.range (w.gm1 + 1)).map (fun i => ofRecord vt k (slice (d.opnd stack w.opnd (recordBytes vt k * (w.gm1 + 1))) (i * recordBytes vt k) (recordBytes vt k)))
         let rows := (List.range w.count).map (fun i => ofRecord elem k (slice b (i * recordBytes elem k) (recordBytes elem k)))
         match d.mergeTag stack w.tag (.dots (rows.map (fun r => vecs.map (dot32 (elem == .bf16) r)))) with
         | (e, .dots l) => e.setOpnd stack w.rslt (fp32Bytes l.flatten)
         | (e, _) => e) →
       (d.cxl.touched = [] → exec (.matvec stack frm word data elem turn ecc) s = .next { s with chip := d.settle }) ∧ (d.cxl.touched ≠ [] → exec (.matvec stack frm word data elem turn ecc) s = .next (held d (.matvec stack frm word data elem turn ecc))))
     ∧ (w.opcode = 0x07 → ∀ d, d = ran [] (fun c =>
       match c.sedgeMeet (sedgeReader frm) (a + 64 * w.first) (64 * w.count) ecc with
       | (d, true) => d.setOpnd stack w.rslt (memRead d.mem (a + 64 * w.first) (64 * w.count))
       | (d, false) =>
         let e := d.noteDamaged stack (d.damagedWords (a + 64 * w.first) (64 * w.count))
         tile.elim e (fun t => e.stopTile t)) →
       (d.cxl.touched = [] → exec (.sedgeRead stack frm word turn ecc) s = .next { s with chip := d.settle }) ∧ (d.cxl.touched ≠ [] → exec (.sedgeRead stack frm word turn ecc) s = .next (held d (.sedgeRead stack frm word turn ecc))))
     ∧ (w.opcode = 0x08 → ∀ d, d = ran data (fun c =>
       (c.sedgeWrite (sedgeReader frm == 1) stack (a + 64 * w.first) (data.take (64 * w.count)) ecc).1) →
       (d.cxl.touched = [] → exec (.sedgeWrite stack frm word data turn ecc) s = .next { s with chip := d.settle }) ∧ (d.cxl.touched ≠ [] → exec (.sedgeWrite stack frm word data turn ecc) s = .next (held d (.sedgeWrite stack frm word data turn ecc))))
     ∧ (w.opcode = 0x09 → ∀ d, d = ran data (fun c =>
       (c.sedgeWrite true stack a (patch (c.opnd stack w.opnd 64) 6 (zeros 2)) ecc).1.clearTail a (le (c.opnd stack w.opnd 64) 0 1) (le (c.opnd stack w.opnd 64) 2 2)) →
       (d.cxl.touched = [] → exec (.init stack frm word data turn ecc) s = .next { s with chip := d.settle }) ∧ (d.cxl.touched ≠ [] → exec (.init stack frm word data turn ecc) s = .next (held d (.init stack frm word data turn ecc))))
     ∧ (w.opcode = 0x3F → ∀ d, d = note c c 0 → exec (.nop stack frm word turn) s = .next { s with chip := d.settle })))
  ∧ (∀ (s : State) (tile dev part : Nat) (b : Bytes) (h : AttendHdr), s.runs = true → s.chip.tileRuns tile = true →
     h = { AttendHdr.ofBytes b with type := 1, step := s.chip.step, srcDev := s.chip.selfDev, srcPart := (s.chip.tile tile).part, dstPart := part } →
     exec (.attendSend tile dev part b) s = .next { s with chip :=
       ((s.chip.updSel h.srcPart (fun x =>
         { x with asked := x.asked ++ (List.range h.count).map (fun k => (le b (32 + k * h.itemSize) 8, h.layer, le b (40 + k * h.itemSize) 4)) })).send
           5 dev part h.srcPart (h.toBytes ++ b.drop 32)).settle })
  ∧ (∀ (s : State) (src : MsgSrc) (b : Bytes) (c : Chip) (h : AttendHdr), s.runs = true → c = s.chip.take 5 src b → h = AttendHdr.ofBytes b →
     (h.type ≠ 2 ∨ h.step ≠ c.step ∨ b.length ≠ 32 + h.count * h.resultSize → exec (.result src b) s = .next { s with chip := c.settle })
     ∧ (h.type = 2 → h.step = c.step → b.length = 32 + h.count * h.resultSize →
       exec (.result src b) s = .next { s with chip := (c.each ((List.range h.count).map (fun k => slice b (32 + k * h.resultSize) 16)) (fun (d : Chip) i =>
         let name := (le i 0 8, h.layer, le i 8 4)
         let e := d.updSel src.dstPart (fun x =>
           { x with asked := x.asked.filter (fun q => q != name), barred := if le i 12 1 = 0 then x.barred else x.barred ++ [le i 0 8] })
         if ((d.sel src.dstPart).map (·.asked)).any (fun l => l.contains name) = false then d
         else if le i 12 1 = 2 then e.askOrigin (le i 0 8) src.dstPart else e)).settle })
     ∧ ∀ (turn : InletTurn) (ecc : List WordErr) (i : Instr) (d : Chip), i = .attendMessage src b turn ecc →
       (h.type ≠ 1 ∨ b.length ≠ 32 + h.count * h.itemSize → d = c.raise (c.gatherPage src.dstPart h) 4) →
       (h.type = 1 → b.length = 32 + h.count * h.itemSize → ∃ (e f : Chip) (l : List (Nat × Bytes)),
         e = ((if c.attendLate src.dstPart h = true then c else c.toOffset (c.serveMoment src.dstPart h)).each ecc (fun x k => x.meetWord 1 k)).each
           ((turn.stops.map (·.2)).filter (fun st => decide (st < 24))) Chip.inletStopped ∧
         Chip.serveItems src.dstPart h ((e.progsFor src.dstPart).find? (e.progMatches h)) (c.attendLate src.dstPart h) (turn.stops.map (·.1)) ecc
           (sortBy (fun (x y : Nat × Bytes) => decide (le x.2 8 4 ≤ le y.2 8 4)) ((List.range h.count).map (fun k => (k, slice b (32 + k * h.itemSize) h.itemSize)))) e = (f, l) ∧
         d = (f.inletWork src.dstPart turn.work).send 5 src.dev src.part src.dstPart
           (({ h with type := 2, scale := 0, srcDev := (f.inletWork src.dstPart turn.work).selfDev, srcPart := src.dstPart, dstPart := src.part } : AttendHdr).toBytes
             ++ (sortBy (fun (x y : Nat × Bytes) => decide (x.1 ≤ y.1)) l).flatMap (·.2))) →
       (d.cxl.touched = [] → exec (.attendMessage src b turn ecc) s = .next { s with chip := d.settle })
       ∧ (d.cxl.touched ≠ [] → exec (.attendMessage src b turn ecc) s = .next { s with chip :=
           ((s.chip.each d.cxl.touched Chip.backInvalidate).setCxl (fun x => { x with heldCmds := x.heldCmds ++ [i] })).settle }))
  ∧ ∀ (s : State), s.runs = true →
     (∀ (stack : Nat) (ecc : List WordErr) (c d m : Chip) (g : Sdg) (old : Nat → Int) (new : Nat → Int), stack < 24 → g = s.chip.sdgAt stack → m = s.chip.itemRuns stack 20 →
       old = (fun b => g.credit.getD b 0) →
       new = (fun b => creditAfter (s.chip.rf (F.SDG_CFG_REF_AHEAD.on (Pg.sdg stack)) = 1) ((g.running.find b).isSome) (old b)) →
       c = (m.wf (F.SDG_REF_STAT_MAXC.on (Pg.sdg stack))
           (max (((List.range 2048).map (fun b => (old b + 1).toNat)).foldl max 0) (m.rf (F.SDG_REF_STAT_MAXC.on (Pg.sdg stack))))).setSdg stack
           (fun y => { y with credit := ((List.range 2048).filter (fun b => new b != 0)).map (fun b => (b, new b)) }) →
       d = c.each (g.running.filter (fun x => decide (8 ≤ old x.1 + 1))) (fun x k => x.forceStop stack k.1 k.2) →
       exec (.refresh stack ecc) s = .next { s with chip :=
         (if d.rf (F.MEM_CFG_SCRUB_EN.on (Pg.mem stack)) = 1 then
            (d.scrubbed stack ((List.range 2048).map (fun b => (b, (old b + 1 - new b).toNat)))).each ecc (fun x e => x.meetWord 4 e)
          else d).settle })
     ∧ ∀ (temps : List Nat) (c : Chip),
         c = s.chip.each (temps.zipIdx.filter (fun x => decide (x.2 < 24))) (fun c x =>
           (c.wf (F.SDG_REF_STAT_TEMP.on (Pg.sdg x.2)) x.1).wf (F.SDG_REF_STAT_SHORT.on (Pg.sdg x.2)) (b2n (decide (85 < x.1)))) →
         exec (.dieSensorUpdate temps) s = .next { s with chip := c }

/-- O56. On a module that runs. A descriptor command changes nothing while RESULT is 15. Where M00 takes it for the partition it names, one that
fails a check of R286 gives the check's number and sets ERR_STAT bit [4]; an install is else kept with RESULT 15 until it is done, when its
units are zero and RESULT is 0, a migrate keeps the new placement, and a free removes the descriptor, with RESULT 0. A copy of a unit whose
stacks are up copies its words to the new placement, marks it copied and no longer dirty; of a slot that is copied back it copies 16 KiB and
marks it. Outside the Boundary window a switch changes nothing; in it, an object all of whose units are copied, with no more dirty units
than MIG_DIRTY, has the dirty ones copied, its remaps freed, its new descriptor in force and the stall counted. A copy or a switch that
meets lines the host holds waits for them. A poll of a stack that is up: answered, its misses end; missed, they are counted, and the fourth
is a stack fault. An attempt counts; one that ends well leaves the stack awaiting its return to service, and one that fails is counted as
R503 says. (R284, R286, R288, R289, R290, R291, R297, R298, R502, R503, R504) -/
def Obligations.DescriptorsMigrationAndStacks : Prop :=
  ∀ (s : State) (held : Chip → Instr → State), s.runs = true →
    held = (fun d i => { s with chip := ((s.chip.each d.cxl.touched Chip.backInvalidate).setCxl (fun x => { x with heldCmds := x.heldCmds ++ [i] })).settle }) →
    (s.chip.rf (F.MEM_DESC_STAT_RESULT.on (Pg.mem 0)) = 15 → ∀ acc,
      (∀ image, exec (.descriptorInstall acc image) s = .next { s with chip := s.chip.settle } ∧ exec (.descriptorMigrate acc image) s = .next { s with chip := s.chip.settle })
      ∧ ∀ o, exec (.descriptorFree acc o) s = .next { s with chip := s.chip.settle })
    ∧ (∀ (acc : Access) (o : Nat) (d : Desc) (answer : Chip → Nat → Chip), s.chip.rf (F.MEM_DESC_STAT_RESULT.on (Pg.mem 0)) ≠ 15 →
        s.chip.takes acc (Pg.mem 0) false [d.partition] = true →
        answer = (fun c r =>
          let x := (c.wf (F.MEM_DESC_STAT_RESULT.on (Pg.mem 0)) r).wf (F.MEM_DESC_STAT_OBJECT.on (Pg.mem 0)) o
          if r = 0 ∨ r = 15 then x else x.raise (Pg.mem 0) 4) →
        (∀ image, descOfBytes (s.chip.image (s.chip.rd64 (regAt (Pg.mem 0) Reg.MEM_DESC_ADDR_LO)) 64 image) = (o, d) →
          (exec (.descriptorInstall acc image) s = .next { s with chip :=
            (if d.broken o = true then answer s.chip 1
             else if s.chip.memu.descs.find o ≠ none then answer s.chip 2
             else if s.chip.maskBad d = true then answer s.chip 3
             else if d.sizeBad = true then answer s.chip 4
             else if (s.chip.placed o).any d.overlaps = true then answer s.chip 5
             else answer (s.chip.setMemu (fun m => { m with install := some (o, d) })) 15).settle })
          ∧ exec (.descriptorMigrate acc image) s = .next { s with chip :=
            (if d.broken o = true then answer s.chip 1
             else match s.chip.memu.descs.find o with
               | none => answer s.chip 2
               | some old =>
                 if s.chip.maskBad d = true then answer s.chip 3
                 else if d.sizeBad = true then answer s.chip 4
                 else if (s.chip.placed o).any d.overlaps = true then answer s.chip 5
                 else if old.kind ≠ 1 ∨ d.size ≠ old.size ∨ d.kind ≠ old.kind ∨ d.partition ≠ old.partition ∨ d.use ≠ old.use ∨ d.id ≠ old.id then answer s.chip 6
                 else if s.chip.objectBusy o old = true then answer s.chip 7
                 else answer (s.chip.setMemu (fun m => { m with migs := m.migs.put o { desc := d } })) 0).settle })
        ∧ (s.chip.memu.descs.find o = some d → exec (.descriptorFree acc o) s = .next { s with chip :=
            (if 4079 < o then answer s.chip 1
             else if s.chip.objectBusy o d = true then answer s.chip 7
             else answer (s.chip.setMemu (fun m => { m with descs := m.descs.del o })) 0).settle }))
    ∧ (s.chip.memu.install = none → exec .descriptorInstallDone s = .next { s with chip := s.chip.settle })
    ∧ (∀ (o : Nat) (d : Desc) (c : Chip), s.chip.memu.install = some (o, d) →
        c = s.chip.each (List.range d.units) (fun x u => x.writePhys false (x.remapped (d.unitAddr u)) (zeros d.unit)) →
        exec .descriptorInstallDone s = .next { s with chip :=
          (((c.setMemu (fun m => { m with install := none, descs := m.descs.put o d })).wf (F.MEM_DESC_STAT_RESULT.on (Pg.mem 0)) 0).wf (F.MEM_DESC_STAT_OBJECT.on (Pg.mem 0)) o).settle })
    ∧ (∀ (o u : Nat) (ecc : List WordErr) (old : Desc) (m : Migration) (offs : List Nat), s.chip.memu.descs.find o = some old → s.chip.memu.migs.find o = some m →
        offs = (List.range (old.unit / 4096)).map (fun k => u * old.unit + 4096 * k) → u < old.units →
        offs.any (fun x => s.chip.stackDown (s.chip.placeOf old x) || s.chip.stackDown (s.chip.placeOf m.desc x)) = false →
        ∀ d, d = (s.chip.each offs (fun d x => d.copyWords (d.placeOf old x) (d.placeOf m.desc x) 4096 ecc)).setMemu (fun x =>
            { x with migs := x.migs.put o { m with copied := insertNat u m.copied, dirty := m.dirty.filter (· != u) } }) → (d.cxl.touched = [] → exec (.migrationCopy (.object o u) ecc) s = .next { s with chip := d.settle }) ∧ (d.cxl.touched ≠ [] → exec (.migrationCopy (.object o u) ecc) s = .next (held d (.migrationCopy (.object o u) ecc))))
    ∧ (∀ (a b n : Nat) (ecc : List WordErr), s.chip.memu.remaps.find? (fun r => r.1 == a) = some (a, b) → s.chip.memu.backs.find a = some n → s.chip.stackDown a = false →
        ∀ d, d = (s.chip.copyWords b a 16384 ecc).setMemu (fun m => { m with backs := m.backs.put a 1 }) → (d.cxl.touched = [] → exec (.migrationCopy (.slot a) ecc) s = .next { s with chip := d.settle }) ∧ (d.cxl.touched ≠ [] → exec (.migrationCopy (.slot a) ecc) s = .next (held d (.migrationCopy (.slot a) ecc))))
    ∧ (∀ what stall ecc, s.chip.phase ≠ 0 → s.chip.cxl.touched = [] → exec (.migrationSwitch what stall ecc) s = .next { s with chip := s.chip.settle })
    ∧ (∀ (o u stall : Nat) (ecc : List WordErr) (c : Chip) (old : Desc) (m : Migration), s.chip.phase = 0 → c = s.chip.touchObject o →
        c.memu.descs.find o = some old → c.memu.migs.find o = some m → old.units ≤ m.copied.length → m.dirty.length ≤ c.rd (regAt (Pg.mem 0) Reg.MEM_MIG_DIRTY) →
        m.dirty.any (fun x => c.stackDown (c.placeOf old (x * old.unit)) || c.stackDown (c.placeOf m.desc (x * old.unit))) = false →
        ∀ d, d = ((((c.toOffset (c.plan.w - 1000)).each m.dirty (fun d x => d.copyUnit o x ecc)).freeRemaps (fun a => (old.unitOf a).any (fun x => decide (x < old.units)))).setMemu (fun x =>
          { x with descs := x.descs.put o m.desc, migs := x.migs.del o })).cntBy (regAt (Pg.mem 0) Reg.MEM_MIG_STALL) stall → (d.cxl.touched = [] → exec (.migrationSwitch (.object o u) stall ecc) s = .next { s with chip := d.settle }) ∧ (d.cxl.touched ≠ [] → exec (.migrationSwitch (.object o u) stall ecc) s = .next (held d (.migrationSwitch (.object o u) stall ecc))))
    ∧ ∀ stack, stack < 24 →
        (s.chip.stackState stack = 2 →
          exec (.stackPoll stack true) s = .next { s with chip := (s.chip.setMemu (fun m => { m with misses := m.misses.del stack })).settle }
          ∧ ∀ (n : Nat) (c : Chip), n = s.chip.memu.misses.getD stack 0 + 1 → c = s.chip.cnt (regAt (Pg.mem stack) Reg.MEM_HEARTBEAT_MISS) →
            (n < 4 → exec (.stackPoll stack false) s = .next { s with chip := (c.setMemu (fun m => { m with misses := m.misses.put stack n })).settle })
            ∧ ∀ d perm, 4 ≤ n → (((((c.setMemu (fun m => { m with misses := m.misses.del stack })).wf (F.MEM_STAT_STATE.on (Pg.mem stack)) 3).raise (Pg.mem stack) 2).setMemu (fun m =>
                { m with retrain := m.retrain.put stack 0 })).countEvent (.stack stack) 7) = (d, perm) →
                exec (.stackPoll stack false) s = .next { s with chip := (if perm = true then d.fatal 2 else d.startReturn (.stack stack) .selfTest).settle })
        ∧ (s.chip.stackState stack = 3 → s.chip.returning (.stack stack) = some .selfTest →
          (∀ n, s.chip.memu.retrain.find stack = some n → exec (.stackRetrainAttempt stack) s = .next { s with chip := s.chip.setMemu (fun m => { m with retrain := m.retrain.put stack (n + 1) }) })
          ∧ exec (.stackRetrainDone stack true true) s = .next { s with chip :=
              (((s.chip.setMemu (fun m => { m with retrain := m.retrain.del stack })).retrainOk (.stack stack)).setStage (.stack stack) .awaiting).settle }
          ∧ ∀ trained kept c perm, (trained = false ∨ kept = false) → s.chip.attemptFailed (.stack stack) = (c, perm) →
              exec (.stackRetrainDone stack trained kept) s = .next { s with chip := (if perm = true then c.fatal 2 else c).settle })

/-- O57. On a module that runs. A GO that page GLB takes changes nothing while a download waits or is checked or firmware has been accepted; an
image longer than 64 MiB is refused with RESULT 15 and GLB ERR_STAT bit [5] (log entry 28); else the download starts, or waits for the
stages it needs. The check of an image shows the number of the first check of R458 that fails in RESULT and SEC_FW_STAT: a failure sets
STATE, SEC bit [0] and GLB bit [5]; success accepts the image with its SVN, and keeps the certificate if it verifies, else zeros. A fuse
write that page SEC takes: a writer that is not admin gets 2, a digest already fused 1, each with SEC bit [7]; else the digest is fused, or
MIN_SVN rises to the greater of itself and the SVN that runs, with result 0. (R458, R459, R461, R522, R549) -/
def Obligations.FirmwareAndFuses : Prop :=
  ∀ s : State, s.runs = true →
    (∀ acc, s.chip.takes acc Pg.GLB true [] = true → exec (.firmwareGo acc) s = .next { s with chip :=
      (if s.chip.rf F.GLB_FW_STAT_STATE = 1 ∨ s.chip.rf F.GLB_FW_STAT_STATE = 2 ∨ s.chip.rf F.SEC_STAT_STATE = 2 then s.chip
       else if 2 ^ 26 < s.chip.rd Reg.GLB_FW_LEN then ((s.chip.wf F.GLB_FW_STAT_STATE 3).wf F.GLB_FW_STAT_RESULT 15).raise Pg.GLB 5
       else if s.chip.downloadReady = true then s.chip.downloadStart
       else s.chip.wf F.GLB_FW_STAT_STATE 1).settle })
    ∧ (∀ image cert,
        (s.chip.rf F.GLB_FW_STAT_STATE ≠ 2 → exec (.firmwareChecked image cert) s = .next { s with chip := s.chip.settle })
        ∧ (s.chip.rf F.GLB_FW_STAT_STATE = 2 → ∀ (b : Bytes) (r : Nat) (c : Chip), b = padTo (s.chip.rd Reg.GLB_FW_LEN) image →
            r = firmwareResult s.fuses (s.chip.rd Reg.GLB_REV % 256) b → c = ((s.chip.wf F.GLB_FW_STAT_STATE 3).wf F.GLB_FW_STAT_RESULT r).wr Reg.SEC_FW_STAT r →
            (r ≠ 0 → exec (.firmwareChecked image cert) s = .next { s with chip := (((c.wf F.SEC_STAT_STATE 3).raise Pg.SEC 0).raise Pg.GLB 5).settle })
            ∧ (r = 0 → ∀ (ok : Bool), ok = Config.slhVerify true (slice b 96 64) (toLE 8 ownSerial ++ dikPub) (padTo 29792 cert) →
              ∀ (d : Chip), d = ((c.wf F.SEC_STAT_STATE 2).wr Reg.SEC_SVN (le b 12 4)).setSec (fun x => { x with running := slice b 0 256 }) →
              exec (.firmwareChecked image cert) s = .next { s with chip := (if ok = true then
                ((d.setSec (fun x => { x with cert := padTo 29792 cert })).wf F.SEC_STAT_CERT 1).noteStage 7
               else ((d.setSec (fun x => { x with cert := zeros 29792 })).wf F.SEC_STAT_CERT 0).noteStage 7).settle })))
    ∧ ∀ acc, s.chip.takes acc Pg.SEC false [] = true →
      (s.chip.rank acc.writer ≠ .admin →
        (∀ d, exec (.fuseOwnerKey acc d) s = .next { s with chip := ((s.chip.showFuses s.fuses).wr Reg.SEC_FUSE_STAT 2).raise Pg.SEC 7 })
        ∧ (∀ d, exec (.fuseManagementRoot acc d) s = .next { s with chip := ((s.chip.showFuses s.fuses).wr Reg.SEC_FUSE_STAT 2).raise Pg.SEC 7 })
        ∧ exec (.raiseMinSvn acc) s = .next { s with chip := ((s.chip.showFuses s.fuses).wr Reg.SEC_FUSE_STAT 2).raise Pg.SEC 7 })
      ∧ (s.chip.rank acc.writer = .admin →
        (∀ (d : Bytes) (done : Fuses → State), done = (fun f => { s with fuses := f, chip := (s.chip.showFuses f).wr Reg.SEC_FUSE_STAT 0 }) →
          (s.fuses.ownerKey ≠ none → exec (.fuseOwnerKey acc d) s = .next { s with chip := ((s.chip.showFuses s.fuses).wr Reg.SEC_FUSE_STAT 1).raise Pg.SEC 7 })
          ∧ (s.fuses.ownerKey = none → exec (.fuseOwnerKey acc d) s = .next (done { s.fuses with ownerKey := some (s.chip.image (s.chip.rd64 Reg.SEC_FUSE_ADDR_LO) 64 d) }))
          ∧ (s.fuses.mgmtRoot ≠ none → exec (.fuseManagementRoot acc d) s = .next { s with chip := ((s.chip.showFuses s.fuses).wr Reg.SEC_FUSE_STAT 1).raise Pg.SEC 7 })
          ∧ (s.fuses.mgmtRoot = none → exec (.fuseManagementRoot acc d) s = .next (done { s.fuses with mgmtRoot := some (s.chip.image (s.chip.rd64 Reg.SEC_FUSE_ADDR_LO) 64 d) }))
          ∧ exec (.raiseMinSvn acc) s = .next (done { s.fuses with minSvn := max s.fuses.minSvn (s.chip.rd Reg.SEC_SVN) })))

/-- O58. On a module that runs. A Pair credential of the right size, without a handshake with its device, starts one and this device's
credential goes out; one for the handshake's own HID is kept, and one that meets an own start continues the HID of the lower serial. An
encapsulation for the HID is kept once and the PMK is derived where both ciphertexts are known. A verified confirm puts the pair keys into
force and keeps what they replace to the next step. A handshake that times out is dropped, counts and sets SEC bit [2]. A seal that ends
writes the bundle, signed, to its address with result 0, and gives 1 where its object is gone. A request for a report is ignored while one
is busy or firmware does not run, gives 1 for an address outside T3 and else reads busy, and is signed where no other is. A signed report
ends the wait: for the host it is written with the credential at its address, for a session it answers the Report, with the credential where
asked, for the mailbox it is the response, and for a Hello or a Key open it opens the session whose keys both ends derive and is sent with
its ID and ciphertext. A Hello of the right size, while a report can be signed, is refused 1 for a slot without a principal, 2 for another
key, 3 for a bad signature, 4 with eight sessions, and else its report is signed. A session that times out is closed. The order of checks is
log entries 31, 32 and 35. (R466, R467, R471, R472, R474, R476, R478, R479) -/
def Obligations.HandshakesReportsAndSessions : Prop :=
  ∀ s : State, s.runs = true →
    (∀ (src : MsgSrc) (b : Bytes) (c : Chip), c = s.chip.take 8 src b →
      (∀ (hid : Nat) (cred : Bytes) (join : Chip → Chip), hid = le b 8 8 → cred = b.drop 16 →
        join = (fun d => ((d.dropShake src.dev).setSec (fun x => { x with shakes := x.shakes ++ [({ dev := src.dev, hid := hid, own := false, start := d.alm.now, cred := cred } : Shake)] })).sendShake
          src.dev 0x10 hid d.credential) → (c.sec.running = [] ∨ b.length ≠ 61456 ∨ src.dev = c.selfDev → exec (.pairCredential src b) s = .next { s with chip := c.settle })
        ∧ (b.length = 61456 → c.sec.running ≠ [] → src.dev ≠ c.selfDev →
          (c.shake src.dev = none → exec (.pairCredential src b) s = .next { s with chip := (join c).settle })
          ∧ ∀ k, c.shake src.dev = some k → exec (.pairCredential src b) s = .next { s with chip :=
            (if k.hid = hid then (if k.cred = [] then c.updShake src.dev (fun x => { x with cred := cred }) else c)
             else if k.own = true ∧ ownSerial < credSerial cred then c
             else join c).settle }))
      ∧ (c.shake src.dev = none →
        exec (.pairEncapsulation src b) s = .next { s with chip := c.settle } ∧ exec (.pairConfirm src b) s = .next { s with chip := c.settle })
      ∧ ∀ k, c.shake src.dev = some k →
        exec (.pairEncapsulation src b) s = .next { s with chip :=
          (if b.length ≠ 1584 ∨ le b 8 8 ≠ k.hid ∨ k.peerCt ≠ [] then c
           else (c.updShake src.dev (fun x => { x with peerCt := b.drop 16 })).derivePair src.dev).settle }
        ∧ (∀ (d : Chip) (q : Shake) (pmk own ss : Bytes), b.length = 1584 → le b 8 8 = k.hid → k.peerCt = [] → d = c.updShake src.dev (fun x => { x with peerCt := b.drop 16 }) →
            d.shake src.dev = some q → q.accepted = true → q.peerCt ≠ [] → q.pmk = [] → own = d.credential → ss = d.decaps q.peerCt →
            pmk = kdf "PAIR" ((if ownSerial < credSerial q.cred then q.ownSs ++ ss else ss ++ q.ownSs)
              ++ digest (toLE 8 q.hid ++ (if ownSerial < credSerial q.cred then own ++ q.cred else q.cred ++ own) ++ (if ownSerial < credSerial q.cred then q.ownCt ++ q.peerCt else q.peerCt ++ q.ownCt))) 64 →
            exec (.pairEncapsulation src b) s = .next { s with chip :=
              ((d.updShake src.dev (fun x => { x with pmk := pmk })).sendShake src.dev 0x12 q.hid (kdf "PCONF" (pmk ++ toLE 8 ownSerial) 64)).settle })
        ∧ (b.length ≠ 80 ∨ le b 8 8 ≠ k.hid ∨ k.pmk = [] ∨ b.drop 16 ≠ kdf "PCONF" (k.pmk ++ toLE 8 (credSerial k.cred)) 64 →
            exec (.pairConfirm src b) s = .next { s with chip := c.settle })
        ∧ (b.length = 80 → le b 8 8 = k.hid → k.pmk ≠ [] → b.drop 16 = kdf "PCONF" (k.pmk ++ toLE 8 (credSerial k.cred)) 64 →
            ∀ (d : Chip) (old : List (Pair × Nat)) (new : Pair), d = c.dropShake src.dev → old = (d.pair src.dev).toList.map (fun p => (p, d.step + 1)) →
            new = { dev := src.dev, serial := credSerial k.cred, pmk := k.pmk, made := d.step } →
            exec (.pairConfirm src b) s = .next { s with chip := ((d.setSec (fun x =>
              { x with pairs := x.pairs.filter (fun p => p.dev != src.dev) ++ [new], old := x.old.filter (fun p => p.1.dev != src.dev) ++ old })).pumpAll).settle }))
    ∧ (∀ dev, exec (.handshakeTimeout dev) s = .next { s with chip :=
        (if s.chip.shake dev = none then s.chip else (((s.chip.dropShake dev).cnt Reg.SEC_PAIR_FAIL).raise Pg.SEC 2).pumpAll).settle })
    ∧ (∀ acc (who : ReportFor × Bytes), s.chip.takes acc Pg.SEC true [] = true →
        who = (.host (s.chip.rd64 Reg.SEC_ATT_ADDR_LO) acc.writer, (List.range 8).flatMap (fun i => toLE 4 (s.chip.rd (Reg.SEC_ATT_NONCE + 4 * i)))) → exec (.attestationRequest acc) s = .next { s with chip :=
        (if s.chip.rf F.SEC_ATT_STAT_RESULT = 15 ∨ s.chip.pwr.done.contains 8 = false then s.chip
         else if inT3 (s.chip.rd64 Reg.SEC_ATT_ADDR_LO) = false then s.chip.wr Reg.SEC_ATT_STAT 1
         else if s.chip.sec.signing ≠ none then s.chip.wr Reg.SEC_ATT_STAT 15
         else (s.chip.wr Reg.SEC_ATT_STAT 15).setSec (fun x => { x with signing := some who })).settle })
    ∧ (s.chip.sec.sealing = none → exec .secSealDone s = .next { s with chip := s.chip.settle })
    ∧ (∀ (x : Seal) (c : Chip), s.chip.sec.sealing = some x → c = s.chip.setSec (fun y => { y with sealing := none }) →
        (c.memu.descs.find x.obj = none → exec .secSealDone s = .next { s with chip := (c.wr Reg.SEC_SEAL_STAT 1).settle })
        ∧ ∀ (d : Desc) (image header wsk bid entries : Bytes) (e f g : Chip) (adapter : Bool) (size n : Nat), c.memu.descs.find x.obj = some d → adapter = (d.use == 2) → size = (c.weightOf adapter d.id).getD 0 →
          n = ceilDiv size chunkLen → c.readImage (c.imageUnits (c.weightObjects x.part adapter d.id)) = some image → c.random 32 = (e, wsk) → e.random 8 = (f, bid) →
          header = [0x49, 0x53, 0x57, 0x42, 1] ++ toLE 1 (if adapter = true then 2 else 1) ++ toLE 2 d.id ++ f.tagOf adapter d.id ++ toLE 8 size ++ toLE 2 x.rcpt.length ++ [2, 0] ++ toLE 4 n
            ++ bid ++ toLE 8 ownSerial ++ toLE 8 f.step ++ digest f.akPub ++ zeros 128 →
          Chip.wrapAll wsk header x.rcpt f = (g, entries) →
          exec .secSealDone s = .next { s with chip :=
            (let b := header ++ entries ++ sealChunks wsk header (padTo size image) n 0
             (g.hostWrite (x.addr - t3Base) (b ++ padTo 35664 (Config.slhSign false g.ak.2 (digest b)))).wr Reg.SEC_SEAL_STAT 0).settle })
    ∧ (s.chip.sec.signing = none → exec .reportSigned s = .next { s with chip := s.chip.settle })
    ∧ (∀ addr w nonce (c d : Chip), s.chip.sec.signing = some (.host addr w, nonce) → c = s.chip.setSec (fun x => { x with signing := none }) →
        d = (if c.rf F.SEC_ATT_STAT_RESULT = 15 then c.wr Reg.SEC_ATT_STAT 0 else c) →
        exec .reportSigned s = .next { s with chip := (d.hostWrite (addr - t3Base) (d.report s.fuses w nonce ++ d.credential)).settle })
    ∧ (∀ who nonce (c d : Chip), s.chip.sec.signing = some (who, nonce) → c = s.chip.setSec (fun x => { x with signing := none }) →
        d = (if c.rf F.SEC_ATT_STAT_RESULT = 15 then c.wr Reg.SEC_ATT_STAT 0 else c) →
        (∀ id head (cred : Bool) x, who = .nmp id head cred → d.session id = some x → exec .reportSigned s = .next { s with chip :=
          (if cred = true then (d.answer id head 0 (d.report s.fuses (.slot x.slot) nonce)).emit (.datagram ([3, 0, 0, 0] ++ toLE 4 id ++ d.credential))
           else d.answer id head 0 (d.report s.fuses (.slot x.slot) nonce)).settle })
        ∧ (who = .spdm → exec .reportSigned s = .next { s with chip := (d.emit (.spdm (toLE 1 1 ++ toLE 1 0 ++ zeros 2 ++ (d.report s.fuses .host nonce ++ d.credential)))).settle })
        ∧ ∀ b (e f : Chip) r ct ss, d.draw 32 = (e, r) →
          (∀ slot head, who = .hello slot b → e.encaps (slice b 84 1568) = (f, ct, ss) → head = [2, 0, 0, 0] ++ toLE 4 (firstFree 9 r (e.sec.sessions.map (·.id)) % 2 ^ 32) ++ ct →
            exec .reportSigned s = .next { s with chip :=
              (let g := f.setSessions (fun l => l ++ [{ id := firstFree 9 r (e.sec.sessions.map (·.id)) % 2 ^ 32, slot := slot, up := kdf "NMP-UP" (ss ++ digest (b ++ head)) 32,
                                                         dn := kdf "NMP-DN" (ss ++ digest (b ++ head)) 32, last := f.alm.now }])
               g.emit (.datagram (head ++ g.report s.fuses (.slot slot) nonce))).settle })
          ∧ ∀ head, who = .keyOpen b → e.encaps (slice b 36 1568) = (f, ct, ss) → head = [2, 0, 0, 0] ++ toLE 4 r ++ ct →
            exec .reportSigned s = .next { s with chip :=
              (let g := f.setSec (fun x => { x with keySess := some { id := r, up := kdf "IDE-UP" (ss ++ digest (b ++ head)) 32, dn := kdf "IDE-DN" (ss ++ digest (b ++ head)) 32, last := f.alm.now } })
               g.emit (.spdm (head ++ g.report s.fuses .host ((digest (b ++ ct)).take 32)))).settle })
    ∧ (∀ (b : Bytes) (slot : Nat) (refuse : Nat → Chip), slot = le b 1 1 →
        refuse = (fun r => ((s.chip.emit (.datagram ([2] ++ toLE 1 r ++ zeros 38774))).cnt Reg.SEC_NMP_REFUSED).raise Pg.SEC 5) →
        exec (.hello b) s = .next { s with chip :=
        (if b.length ≠ 37328 ∨ le b 0 1 ≠ 1 ∨ s.chip.signFree = false then s.chip
         else if 8 ≤ slot ∨ s.chip.rank (.slot slot) = .none then refuse 1
         else if digest (slice b 36 48) ≠ (List.range 16).flatMap (fun j => toLE 4 (s.chip.rd (Reg.SEC_PRIN_DIGEST + 64 * slot + 4 * j))) then refuse 2
         else if Config.slhVerify false (slice b 36 48) (slice b 0 1664) (slice b 1664 35664) = false then refuse 3
         else if 8 ≤ s.chip.sec.sessions.length then refuse 4
         else s.chip.setSec (fun x => { x with signing := some (.hello slot b, (digest b).take 32) })) })
    ∧ ∀ i, exec (.sessionTimeout i) s = .next { s with chip := s.chip.setSec (fun x => { x with sessions := x.sessions.filter (fun y => y.id != i) }) }

/-- O59. On a module that runs, with an answer in the session it came from. A Record that opens under its session's key and is new is noted and
its command executed; one of another form, that fails the check or was seen changes nothing. A Read answers 4 for a bad COUNT, 1 without a
principal, 2 for an OFFSET that is not aligned or lies outside BAR0, else the words. A Write answers 4 for a bad COUNT, 1 for a rank below
operator, 2 for such an OFFSET, else 0, or 1 at the first word that is ignored. A cold reset is an admin's, a warm one an operator's or an
admin's and refused 5 where R518 does not allow it; both are answered 0 first, else 1. A purge is an admin's, refused 5 in a composition or
during a purge; it clears memory, and its end clears it again and answers 0. A Report answers 1 without a principal, 3 while another is
signed, else it is signed. The order of the checks is log entry 34. (R479, R518, R553, R554) -/
def Obligations.ManagementCommandsAreRanked : Prop :=
  ∀ (s : State) (ses : Nat) (answer : State → Bytes → Nat → Bytes → State), s.runs = true →
    answer = (fun t h st rest => { t with chip := t.chip.sendRecord ses (toLE 1 (le h 0 1 % 128 + 128) ++ toLE 1 st ++ zeros 2 ++ slice h 4 10 ++ zeros 2 ++ rest) }) →
    (∀ (d : Bytes) (t3 : List (Nat × Bytes)),
      (s.chip.session (le d 4 4) = none ∨ d.length < 32 ∨ le d 0 1 ≠ 4 ∨ le d 1 1 ≠ 0 → exec (.nmpRecord d t3) s = .next s)
      ∧ ∀ x body, s.chip.session (le d 4 4) = some x → 32 ≤ d.length → le d 0 1 = 4 → le d 1 1 = 0 →
        gcmUnlock x.up ([0, 0, 0, 0] ++ toLE 8 (le d 8 8)) (d.take 16) (slice d 16 (d.length - 32)) (slice d (16 + (d.length - 32)) 16) = some body →
        (replayed 64 x.high x.seen (le d 8 8) = true → exec (.nmpRecord d t3) s = .next s)
        ∧ (replayed 64 x.high x.seen (le d 8 8) = false → le d 8 8 < 2 ^ 48 → exec (.nmpRecord d t3) s = .next
          (State.nmpBody { s with chip := s.chip.setSec (fun y => { y with sessions := y.sessions.map (fun z =>
            if z.id = le d 4 4 then { z with high := (noteSeen 64 x.high x.seen (le d 8 8)).1, seen := (noteSeen 64 x.high x.seen (le d 8 8)).2, last := s.chip.alm.now } else z) }) } (le d 4 4) body t3)))
    ∧ (∀ tag off n h, h = nmpHead 1 0 tag off n →
        exec (.nmpRead ses tag off n) s = .next
        (if le h 12 2 = 0 ∨ 1024 < le h 12 2 then answer s h 4 []
         else if s.chip.sessionRank ses = .none then answer s h 1 []
         else if le h 8 4 % 4 ≠ 0 ∨ 0x8000000 < le h 8 4 + 4 * le h 12 2 then answer s h 2 []
         else
           (let r := Chip.readRegs (le h 12 2) (le h 8 4) s.chip
            answer { s with chip := r.1 } h 0 (r.2.flatMap (toLE 4)))))
    ∧ (∀ tag off words t3 h x, h = nmpHead 2 0 tag off words.length → s.chip.session ses = some x →
        exec (.nmpWrite ses tag off words t3) s = .next
        (if words.length = 0 ∨ 1024 < words.length then answer s h 4 []
         else if s.chip.rank (.slot x.slot) ≠ .admin ∧ s.chip.rank (.slot x.slot) ≠ .operator then answer s h 1 []
         else if le h 8 4 % 4 ≠ 0 ∨ 0x8000000 < le h 8 4 + 4 * words.length then answer s h 2 []
         else match State.writeRun ⟨.slot x.slot, false⟩ t3 words (le h 8 4) s with
           | (t, none) => answer t h 0 []
           | (t, some a) => answer t (patch h 8 (toLE 4 a)) 1 []))
    ∧ (∀ tag h, h = nmpHead 3 0 tag 0 0 → exec (.nmpColdReset ses tag) s = .next
        (if s.chip.sessionRank ses = .admin then (answer s h 0 []).cold else answer s h 1 []))
    ∧ (∀ tag h, h = nmpHead 4 0 tag 0 0 → exec (.nmpWarmReset ses tag) s = .next
        (if s.chip.sessionRank ses ≠ .admin ∧ s.chip.sessionRank ses ≠ .operator then answer s h 1 []
         else if s.chip.warmAllowed = false then answer s h 5 []
         else (answer s h 0 []).warm))
    ∧ (∀ tag h, h = nmpHead 5 0 tag 0 0 → exec (.nmpPurge ses tag) s = .next
        (if s.chip.sessionRank ses ≠ .admin then answer s h 1 []
         else if s.chip.inComposition = true ∨ s.chip.pwr.purging ≠ none then answer s h 5 []
         else { s with chip := { s.chip with mem := [], memu := { s.chip.memu with damaged := [], units := [], sedgeW := [] }, pwr := { s.chip.pwr with purging := some (ses, le h 4 4) } } }))
    ∧ (s.chip.pwr.purging = none → exec .purgeDone s = .next s)
    ∧ (∀ tag, s.chip.pwr.purging = some (ses, tag) → exec .purgeDone s = .next
        (answer { s with chip := { s.chip with mem := [], pwr := { s.chip.pwr with purging := none, purged := true } } } (nmpHead 5 0 tag 0 0) 0 []))
    ∧ ∀ tag (cred : Bool) nonce h, h = nmpHead 6 (if cred = true then 1 else 0) tag 0 0 → exec (.nmpReport ses tag cred nonce) s = .next
        (if s.chip.sessionRank ses = .none then answer s h 1 []
         else if s.chip.sec.signing ≠ none then answer s h 3 []
         else { s with chip := s.chip.setSec (fun x => { x with signing := some (.nmp ses h (bit (le h 1 1) 0), padTo 32 nonce) }) })

/-- O60. On a module that runs, whose mailbox answers. GET_VERSION and GET_CAPABILITIES are answered with the SPDM messages of their codes, and
any other request with the error that names it. A Report request or a Key open of the wrong size is answered 1, one while no report can be
signed 2, and else its report is to be signed. A Key message is answered 3 without its session, 1 for a bad form, 4 where its check fails or
it was seen; else it is noted, takes effect, and is answered under the session's key. A Key close of the wrong size is answered 1, of
another session 3; else the session ends with 0. A key session that times out ends. The codes of the responses and the layout of the IDE_KM
message are log entry 33. (R480, R481, R482, R521) -/
def Obligations.DoeMailboxAnswers : Prop :=
  ∀ (s : State), s.runs = true → s.chip.doeUp = true →
    exec .getVersion s = .next { s with chip := (s.chip.emit (.spdm (Config.spdmAnswer 0x84))).settle }
    ∧ exec .getCapabilities s = .next { s with chip := (s.chip.emit (.spdm (Config.spdmAnswer 0xE1))).settle }
    ∧ (∀ code, exec (.unsupportedSpdmRequest code) s = .next { s with chip := (s.chip.emit (.spdm ([0x7F, 0x07] ++ toLE 1 code))).settle })
    ∧ (∀ answer : Chip → Nat → Nat → Chip, answer = (fun c op r => c.emit (.spdm (toLE 1 op ++ toLE 1 r ++ zeros 2))) →
      (∀ b : Bytes, exec (.spdmReport b) s = .next { s with chip :=
        (if b.length ≠ 36 then answer s.chip 1 1
         else if s.chip.signFree = false then answer s.chip 1 2
         else s.chip.setSec (fun x => { x with signing := some (.spdm, slice b 4 32) })).settle })
      ∧ (∀ b : Bytes, exec (.keyOpen b) s = .next { s with chip :=
        (if b.length ≠ 1604 then answer s.chip 2 1
         else if s.chip.signFree = false then answer s.chip 2 2
         else s.chip.setSec (fun x => { x with signing := some (.keyOpen b, []) })).settle })
      ∧ (∀ b : Bytes, s.chip.sec.keySess = none → exec (.keyMessage b) s = .next { s with chip := (answer s.chip 3 3).settle })
      ∧ (∀ (b : Bytes) (k : Session), s.chip.sec.keySess = some k →
        (b.length < 36 ∨ le b 8 1 ≠ 0 → exec (.keyMessage b) s = .next { s with chip := (answer s.chip 3 1).settle })
        ∧ (36 ≤ b.length → le b 8 1 = 0 → le b 4 4 ≠ k.id → exec (.keyMessage b) s = .next { s with chip := (answer s.chip 3 3).settle })
        ∧ (36 ≤ b.length → le b 8 1 = 0 → le b 4 4 = k.id → ∀ (seq : Nat) (plain : Option Bytes), seq = le b 12 8 →
          plain = gcmUnlock k.up ([0, 0, 0, 0] ++ toLE 8 seq) (b.take 20) (slice b 20 (b.length - 36)) (slice b (20 + (b.length - 36)) 16) →
          (plain = none ∨ replayed 64 k.high k.seen seq = true → exec (.keyMessage b) s = .next { s with chip := (answer s.chip 3 4).settle })
          ∧ ∀ m k', plain = some m → replayed 64 k.high k.seen seq = false →
            k' = { k with high := (noteSeen 64 k.high k.seen seq).1, seen := (noteSeen 64 k.high k.seen seq).2, last := s.chip.alm.now } →
            exec (.keyMessage b) s = .next { s with chip :=
            (let c := (s.chip.setSec (fun x => { x with keySess := some k' })).ideMessage m
             let head := [3, 0, 0, 0] ++ toLE 4 k.id ++ [1, 0, 0, 0] ++ toLE 8 seq
             c.emit (.spdm (head ++ gcmLock k.dn ([1, 0, 0, 0] ++ toLE 8 seq) head (Config.ideAnswer m)))).settle })
        ∧ (∀ c : Bytes, c.length = 8 → exec (.keyClose c) s = .next { s with chip :=
            (if le c 4 4 = k.id then answer (s.chip.setSec (fun x => { x with keySess := none })) 4 0 else answer s.chip 4 3).settle }))
      ∧ (∀ b : Bytes, b.length ≠ 8 → exec (.keyClose b) s = .next { s with chip := (answer s.chip 4 1).settle })
      ∧ (∀ b : Bytes, b.length = 8 → s.chip.sec.keySess = none → exec (.keyClose b) s = .next { s with chip := (answer s.chip 4 3).settle }))
    ∧ exec .keySessionTimeout s = .next { s with chip := (s.chip.setSec (fun x => { x with keySess := none })).settle }
end

