-- ==== Sys2Proof/Laws/Bits.lean ====
section
/-! SUPPORT. What the sparse maps and the bit fields do: a read after a write, and that the canonical form is kept. -/

namespace Sys2Proof.Machine

open Sys2Proof

/-! ## Sparse maps -/

section maps

variable {α : Type}

@[simp] theorem SMap.find_put_same (m : SMap α) (a : Nat) (x : α) : (m.put a x).find a = some x := by
  induction m with
  | nil => simp [SMap.put, SMap.find]
  | cons h t ih =>
    obtain ⟨k, v⟩ := h
    by_cases h1 : a < k
    · simp [SMap.put, SMap.find, h1]
    · by_cases h2 : a = k
      · simp [SMap.put, SMap.find, h2]
      · simp [SMap.put, SMap.find, h1, h2, Ne.symm h2, ih]

theorem SMap.find_put_other (m : SMap α) {a b : Nat} (x : α) (h : b ≠ a) : (m.put a x).find b = m.find b := by
  induction m with
  | nil => simp [SMap.put, SMap.find, Ne.symm h]
  | cons c t ih =>
    obtain ⟨k, v⟩ := c
    by_cases h1 : a < k
    · simp [SMap.put, SMap.find, h1, Ne.symm h]
    · by_cases h2 : a = k
      · simp [SMap.put, SMap.find, ← h2, Ne.symm h]
      · simp [SMap.put, SMap.find, h1, h2, ih]

@[simp] theorem SMap.find_del_same (m : SMap α) (a : Nat) : (m.del a).find a = none := by
  induction m with
  | nil => simp [SMap.del, SMap.find]
  | cons h t ih =>
    obtain ⟨k, v⟩ := h
    by_cases h1 : k = a
    · simp [SMap.del, h1, ih]
    · simp [SMap.del, SMap.find, h1, ih]

theorem SMap.find_del_other (m : SMap α) {a b : Nat} (h : b ≠ a) : (m.del a).find b = m.find b := by
  induction m with
  | nil => simp [SMap.del, SMap.find]
  | cons c t ih =>
    obtain ⟨k, v⟩ := c
    by_cases h1 : k = a
    · simp [SMap.del, SMap.find, h1, Ne.symm h, ih]
    · simp [SMap.del, SMap.find, h1, ih]

@[simp] theorem SMap.getD_put_same (m : SMap α) (a : Nat) (x d : α) : (m.put a x).getD a d = x := by simp [SMap.getD]

theorem SMap.getD_put_other (m : SMap α) {a b : Nat} (x d : α) (h : b ≠ a) : (m.put a x).getD b d = m.getD b d := by
  simp [SMap.getD, SMap.find_put_other m x h]

@[simp] theorem SMap.getD_upd_same (m : SMap α) (a : Nat) (d : α) (f : α → α) : (m.upd a d f).getD a d = f (m.getD a d) := by
  simp [SMap.upd]

theorem SMap.getD_upd_other (m : SMap α) {a b : Nat} (d : α) (f : α → α) (h : b ≠ a) : (m.upd a d f).getD b d = m.getD b d := by
  simp [SMap.upd, SMap.getD_put_other _ _ _ h]

@[simp] theorem SMap.getD_putOr_same [DecidableEq α] (m : SMap α) (a : Nat) (d x : α) : (m.putOr a d x).getD a d = x := by
  by_cases h : x = d <;> simp [SMap.putOr, SMap.getD, h]

theorem SMap.getD_putOr_other [DecidableEq α] (m : SMap α) {a b : Nat} (d x e : α) (h : b ≠ a) :
    (m.putOr a d x).getD b e = m.getD b e := by
  by_cases hx : x = d <;> simp [SMap.putOr, SMap.getD, hx, SMap.find_del_other m h, SMap.find_put_other m _ h]

/-- Every key of a map lies above a bound. -/
def SMap.above (a : Nat) (m : SMap α) : Prop := ∀ x ∈ m, a < x.1

theorem SMap.rising_cons (a : Nat) (x : α) (m : SMap α) : SMap.rising ((a, x) :: m) = true ↔ SMap.above a m ∧ SMap.rising m = true := by
  induction m generalizing a x with
  | nil => simp [SMap.rising, SMap.above]
  | cons h t ih =>
    obtain ⟨k, v⟩ := h
    simp only [SMap.rising, Bool.and_eq_true, decide_eq_true_eq]
    constructor
    · rintro ⟨h1, h2⟩
      refine ⟨?_, h2⟩
      intro y hy
      rcases List.mem_cons.1 hy with rfl | hy
      · exact h1
      · exact lt_trans h1 (((ih k v).1 h2).1 y hy)
    · rintro ⟨h1, h2⟩
      exact ⟨h1 _ (List.mem_cons_self), h2⟩

theorem SMap.mem_put (m : SMap α) (a : Nat) (x : α) (y : Nat × α) (h : y ∈ m.put a x) : y = (a, x) ∨ y ∈ m := by
  induction m with
  | nil => simp [SMap.put] at h; exact Or.inl h
  | cons c t ih =>
    obtain ⟨k, v⟩ := c
    simp only [SMap.put] at h
    split at h
    · rcases List.mem_cons.1 h with rfl | h
      · exact Or.inl rfl
      · exact Or.inr h
    · split at h
      · rename_i e
        rcases List.mem_cons.1 h with rfl | h
        · exact Or.inl (by rw [e])
        · exact Or.inr (List.mem_cons_of_mem _ h)
      · rcases List.mem_cons.1 h with rfl | h
        · exact Or.inr List.mem_cons_self
        · rcases ih h with h | h
          · exact Or.inl h
          · exact Or.inr (List.mem_cons_of_mem _ h)

theorem SMap.rising_put (m : SMap α) (a : Nat) (x : α) (h : m.rising = true) : (m.put a x).rising = true := by
  induction m with
  | nil => simp [SMap.put, SMap.rising]
  | cons c t ih =>
    obtain ⟨k, v⟩ := c
    obtain ⟨h1, h2⟩ := (SMap.rising_cons k v t).1 h
    by_cases c1 : a < k
    · simp only [SMap.put, c1, if_true]
      refine (SMap.rising_cons _ _ _).2 ⟨?_, h⟩
      intro y hy
      rcases List.mem_cons.1 hy with rfl | hy
      · exact c1
      · exact lt_trans c1 (h1 y hy)
    · by_cases c2 : a = k
      · simp only [SMap.put, c2, lt_irrefl, if_true, if_false]
        exact (SMap.rising_cons _ _ _).2 ⟨h1, h2⟩
      · simp only [SMap.put, c1, c2, if_false]
        refine (SMap.rising_cons _ _ _).2 ⟨?_, ih h2⟩
        intro y hy
        rcases SMap.mem_put t a x y hy with rfl | h'
        · show k < a
          omega
        · exact h1 y h'

theorem SMap.mem_del (m : SMap α) (a : Nat) (y : Nat × α) (h : y ∈ m.del a) : y ∈ m := by
  induction m with
  | nil => simp [SMap.del] at h
  | cons c t ih =>
    obtain ⟨k, v⟩ := c
    simp only [SMap.del] at h
    split at h
    · exact List.mem_cons_of_mem _ (ih h)
    · rcases List.mem_cons.1 h with rfl | h
      · exact List.mem_cons_self
      · exact List.mem_cons_of_mem _ (ih h)

theorem SMap.rising_del (m : SMap α) (a : Nat) (h : m.rising = true) : (m.del a).rising = true := by
  induction m with
  | nil => simp [SMap.del, SMap.rising]
  | cons c t ih =>
    obtain ⟨k, v⟩ := c
    obtain ⟨h1, h2⟩ := (SMap.rising_cons k v t).1 h
    simp only [SMap.del]
    split
    · exact ih h2
    · exact (SMap.rising_cons _ _ _).2 ⟨fun y hy => h1 y (SMap.mem_del t a y hy), ih h2⟩

theorem SMap.rising_putOr [DecidableEq α] (m : SMap α) (a : Nat) (d x : α) (h : m.rising = true) : (m.putOr a d x).rising = true := by
  unfold SMap.putOr
  split
  · exact SMap.rising_del m a h
  · exact SMap.rising_put m a x h

end maps

/-! ## Bit fields -/

theorem bits_lt (v hi lo : Nat) : bits v hi lo < 2 ^ (hi + 1 - lo) := Nat.mod_lt _ (by positivity)

theorem bits_shift_le (v hi lo : Nat) : (bits v hi lo) <<< lo ≤ v := by
  rw [bits, Nat.shiftLeft_eq, Nat.shiftRight_eq_div_pow]
  calc v / 2 ^ lo % 2 ^ (hi + 1 - lo) * 2 ^ lo ≤ v / 2 ^ lo * 2 ^ lo := Nat.mul_le_mul_right _ (Nat.mod_le _ _)
    _ ≤ v := Nat.div_mul_le_self _ _

theorem testBit_bits (v hi lo i : Nat) : (bits v hi lo).testBit i = (decide (i < hi + 1 - lo) && v.testBit (lo + i)) := by
  simp [bits, Nat.testBit_mod_two_pow, Nat.testBit_shiftRight]

/-- Every bit of a number with a field replaced: of the new value within the field, of the old one outside. -/
theorem testBit_putBits (v hi lo x i : Nat) (h : lo ≤ hi) :
    (putBits v hi lo x).testBit i = if lo ≤ i ∧ i ≤ hi then x.testBit (i - lo) else v.testBit i := by
  have e : putBits v hi lo x = 2 ^ (hi + 1) * (v / 2 ^ (hi + 1)) + (2 ^ lo * (x % 2 ^ (hi + 1 - lo)) + v % 2 ^ lo) := by
    have p : 2 ^ (hi + 1) = 2 ^ lo * 2 ^ (hi + 1 - lo) := by rw [← pow_add]; congr 1; omega
    have d1 := Nat.div_add_mod v (2 ^ lo)
    have d2 := Nat.div_add_mod (v / 2 ^ lo) (2 ^ (hi + 1 - lo))
    have d3 : v / 2 ^ (hi + 1) = v / 2 ^ lo / 2 ^ (hi + 1 - lo) := by rw [p, Nat.div_div_eq_div_mul]
    simp only [putBits, bits, Nat.shiftLeft_eq, Nat.shiftRight_eq_div_pow]
    rw [d3, p]
    generalize v / 2 ^ lo / 2 ^ (hi + 1 - lo) = q at *
    generalize v / 2 ^ lo % 2 ^ (hi + 1 - lo) = r at *
    generalize v % 2 ^ lo = t at *
    rw [← d2] at d1
    have hv : v = 2 ^ lo * 2 ^ (hi + 1 - lo) * q + r * 2 ^ lo + t := by rw [← d1]; ring
    rw [hv]
    have : 2 ^ lo * 2 ^ (hi + 1 - lo) * q + r * 2 ^ lo + t - r * 2 ^ lo = 2 ^ lo * 2 ^ (hi + 1 - lo) * q + t := by omega
    rw [this]; ring
  have hw : 2 ^ lo * (x % 2 ^ (hi + 1 - lo)) + v % 2 ^ lo < 2 ^ (hi + 1) := by
    have p : 2 ^ (hi + 1) = 2 ^ lo * 2 ^ (hi + 1 - lo) := by rw [← pow_add]; congr 1; omega
    have a1 : x % 2 ^ (hi + 1 - lo) + 1 ≤ 2 ^ (hi + 1 - lo) := Nat.mod_lt _ (by positivity)
    have a2 : v % 2 ^ lo < 2 ^ lo := Nat.mod_lt _ (by positivity)
    calc 2 ^ lo * (x % 2 ^ (hi + 1 - lo)) + v % 2 ^ lo < 2 ^ lo * (x % 2 ^ (hi + 1 - lo)) + 2 ^ lo := by omega
      _ = 2 ^ lo * (x % 2 ^ (hi + 1 - lo) + 1) := by ring
      _ ≤ 2 ^ lo * 2 ^ (hi + 1 - lo) := Nat.mul_le_mul_left _ a1
      _ = 2 ^ (hi + 1) := p.symm
  have hl : v % 2 ^ lo < 2 ^ lo := Nat.mod_lt _ (by positivity)
  rw [e, Nat.testBit_two_pow_mul_add _ hw]
  by_cases h1 : i < hi + 1
  · rw [if_pos h1, Nat.testBit_two_pow_mul_add _ hl]
    by_cases h2 : i < lo
    · have : ¬ (lo ≤ i ∧ i ≤ hi) := by omega
      rw [if_pos h2, if_neg this, Nat.testBit_mod_two_pow]; simp [h2]
    · have : lo ≤ i ∧ i ≤ hi := by omega
      rw [if_neg h2, if_pos this, Nat.testBit_mod_two_pow]
      have : i - lo < hi + 1 - lo := by omega
      simp [this]
  · have : ¬ (lo ≤ i ∧ i ≤ hi) := by omega
    rw [if_neg h1, if_neg this, Nat.testBit_div_two_pow]
    congr 1; omega

theorem bits_putBits_same (v hi lo x : Nat) (h : lo ≤ hi) : bits (putBits v hi lo x) hi lo = x % 2 ^ (hi + 1 - lo) := by
  apply Nat.eq_of_testBit_eq; intro i
  rw [testBit_bits, testBit_putBits _ _ _ _ _ h, Nat.testBit_mod_two_pow]
  by_cases hi' : i < hi + 1 - lo
  · have : lo ≤ lo + i ∧ lo + i ≤ hi := by omega
    simp [hi', this]
  · simp [hi']

theorem bits_putBits_other (v hi lo x hi' lo' : Nat) (h : lo ≤ hi) (hd : hi' < lo ∨ hi < lo') :
    bits (putBits v hi lo x) hi' lo' = bits v hi' lo' := by
  apply Nat.eq_of_testBit_eq; intro i
  rw [testBit_bits, testBit_bits, testBit_putBits _ _ _ _ _ h]
  by_cases hi'' : i < hi' + 1 - lo'
  · have : ¬ (lo ≤ lo' + i ∧ lo' + i ≤ hi) := by omega
    simp [hi'', this]
  · simp [hi'']

theorem putBits_lt (v hi lo x : Nat) (h : lo ≤ hi) (h32 : hi < 32) (hv : v < 2 ^ 32) : putBits v hi lo x < 2 ^ 32 := by
  apply Nat.lt_pow_two_of_testBit; intro i hi'
  rw [testBit_putBits _ _ _ _ _ h]
  have : ¬ (lo ≤ i ∧ i ≤ hi) := by omega
  rw [if_neg this]
  exact Nat.testBit_lt_two_pow (lt_of_lt_of_le hv (Nat.pow_le_pow_right (by norm_num) hi'))

end Sys2Proof.Machine
end

