-- ==== Sys2Proof/Laws/State.lean ====
section
/-! SUPPORT. One lemma per field per update: what each update of the chip leaves in each of its fields. A write of a register goes through
`withRegs`, so that no proof compares register files. -/

namespace Sys2Proof.Machine

open Sys2Proof

variable (s : Chip)

/-! ## setAlm -/

@[simp] theorem Chip.setAlm_regs (f : Alm → Alm) : (s.setAlm f).regs = s.regs := rfl
@[simp] theorem Chip.setAlm_mem (f : Alm → Alm) : (s.setAlm f).mem = s.mem := rfl
@[simp] theorem Chip.setAlm_alm (f : Alm → Alm) : (s.setAlm f).alm = f s.alm := rfl
@[simp] theorem Chip.setAlm_parts (f : Alm → Alm) : (s.setAlm f).parts = s.parts := rfl
@[simp] theorem Chip.setAlm_glb (f : Alm → Alm) : (s.setAlm f).glb = s.glb := rfl
@[simp] theorem Chip.setAlm_cxl (f : Alm → Alm) : (s.setAlm f).cxl = s.cxl := rfl
@[simp] theorem Chip.setAlm_rtb (f : Alm → Alm) : (s.setAlm f).rtb = s.rtb := rfl
@[simp] theorem Chip.setAlm_pfx (f : Alm → Alm) : (s.setAlm f).pfx = s.pfx := rfl
@[simp] theorem Chip.setAlm_smv (f : Alm → Alm) : (s.setAlm f).smv = s.smv := rfl
@[simp] theorem Chip.setAlm_tiles (f : Alm → Alm) : (s.setAlm f).tiles = s.tiles := rfl
@[simp] theorem Chip.setAlm_sch (f : Alm → Alm) : (s.setAlm f).sch = s.sch := rfl
@[simp] theorem Chip.setAlm_sdgs (f : Alm → Alm) : (s.setAlm f).sdgs = s.sdgs := rfl
@[simp] theorem Chip.setAlm_memu (f : Alm → Alm) : (s.setAlm f).memu = s.memu := rfl
@[simp] theorem Chip.setAlm_links (f : Alm → Alm) : (s.setAlm f).links = s.links := rfl
@[simp] theorem Chip.setAlm_xpt (f : Alm → Alm) : (s.setAlm f).xpt = s.xpt := rfl
@[simp] theorem Chip.setAlm_shps (f : Alm → Alm) : (s.setAlm f).shps = s.shps := rfl
@[simp] theorem Chip.setAlm_sec (f : Alm → Alm) : (s.setAlm f).sec = s.sec := rfl
@[simp] theorem Chip.setAlm_flt (f : Alm → Alm) : (s.setAlm f).flt = s.flt := rfl
@[simp] theorem Chip.setAlm_pwr (f : Alm → Alm) : (s.setAlm f).pwr = s.pwr := rfl
@[simp] theorem Chip.setAlm_vgl (f : Alm → Alm) : (s.setAlm f).vgl = s.vgl := rfl
@[simp] theorem Chip.setAlm_t3seen (f : Alm → Alm) : (s.setAlm f).t3seen = s.t3seen := rfl
@[simp] theorem Chip.setAlm_out (f : Alm → Alm) : (s.setAlm f).out = s.out := rfl
@[simp] theorem Chip.setAlm_free (f : Alm → Alm) : (s.setAlm f).free = s.free := rfl

/-! ## setFlt -/

@[simp] theorem Chip.setFlt_regs (f : Flt → Flt) : (s.setFlt f).regs = s.regs := rfl
@[simp] theorem Chip.setFlt_mem (f : Flt → Flt) : (s.setFlt f).mem = s.mem := rfl
@[simp] theorem Chip.setFlt_alm (f : Flt → Flt) : (s.setFlt f).alm = s.alm := rfl
@[simp] theorem Chip.setFlt_parts (f : Flt → Flt) : (s.setFlt f).parts = s.parts := rfl
@[simp] theorem Chip.setFlt_glb (f : Flt → Flt) : (s.setFlt f).glb = s.glb := rfl
@[simp] theorem Chip.setFlt_cxl (f : Flt → Flt) : (s.setFlt f).cxl = s.cxl := rfl
@[simp] theorem Chip.setFlt_rtb (f : Flt → Flt) : (s.setFlt f).rtb = s.rtb := rfl
@[simp] theorem Chip.setFlt_pfx (f : Flt → Flt) : (s.setFlt f).pfx = s.pfx := rfl
@[simp] theorem Chip.setFlt_smv (f : Flt → Flt) : (s.setFlt f).smv = s.smv := rfl
@[simp] theorem Chip.setFlt_tiles (f : Flt → Flt) : (s.setFlt f).tiles = s.tiles := rfl
@[simp] theorem Chip.setFlt_sch (f : Flt → Flt) : (s.setFlt f).sch = s.sch := rfl
@[simp] theorem Chip.setFlt_sdgs (f : Flt → Flt) : (s.setFlt f).sdgs = s.sdgs := rfl
@[simp] theorem Chip.setFlt_memu (f : Flt → Flt) : (s.setFlt f).memu = s.memu := rfl
@[simp] theorem Chip.setFlt_links (f : Flt → Flt) : (s.setFlt f).links = s.links := rfl
@[simp] theorem Chip.setFlt_xpt (f : Flt → Flt) : (s.setFlt f).xpt = s.xpt := rfl
@[simp] theorem Chip.setFlt_shps (f : Flt → Flt) : (s.setFlt f).shps = s.shps := rfl
@[simp] theorem Chip.setFlt_sec (f : Flt → Flt) : (s.setFlt f).sec = s.sec := rfl
@[simp] theorem Chip.setFlt_flt (f : Flt → Flt) : (s.setFlt f).flt = f s.flt := rfl
@[simp] theorem Chip.setFlt_pwr (f : Flt → Flt) : (s.setFlt f).pwr = s.pwr := rfl
@[simp] theorem Chip.setFlt_vgl (f : Flt → Flt) : (s.setFlt f).vgl = s.vgl := rfl
@[simp] theorem Chip.setFlt_t3seen (f : Flt → Flt) : (s.setFlt f).t3seen = s.t3seen := rfl
@[simp] theorem Chip.setFlt_out (f : Flt → Flt) : (s.setFlt f).out = s.out := rfl
@[simp] theorem Chip.setFlt_free (f : Flt → Flt) : (s.setFlt f).free = s.free := rfl

/-! ## setCxl -/

@[simp] theorem Chip.setCxl_regs (f : Cxl → Cxl) : (s.setCxl f).regs = s.regs := rfl
@[simp] theorem Chip.setCxl_mem (f : Cxl → Cxl) : (s.setCxl f).mem = s.mem := rfl
@[simp] theorem Chip.setCxl_alm (f : Cxl → Cxl) : (s.setCxl f).alm = s.alm := rfl
@[simp] theorem Chip.setCxl_parts (f : Cxl → Cxl) : (s.setCxl f).parts = s.parts := rfl
@[simp] theorem Chip.setCxl_glb (f : Cxl → Cxl) : (s.setCxl f).glb = s.glb := rfl
@[simp] theorem Chip.setCxl_cxl (f : Cxl → Cxl) : (s.setCxl f).cxl = f s.cxl := rfl
@[simp] theorem Chip.setCxl_rtb (f : Cxl → Cxl) : (s.setCxl f).rtb = s.rtb := rfl
@[simp] theorem Chip.setCxl_pfx (f : Cxl → Cxl) : (s.setCxl f).pfx = s.pfx := rfl
@[simp] theorem Chip.setCxl_smv (f : Cxl → Cxl) : (s.setCxl f).smv = s.smv := rfl
@[simp] theorem Chip.setCxl_tiles (f : Cxl → Cxl) : (s.setCxl f).tiles = s.tiles := rfl
@[simp] theorem Chip.setCxl_sch (f : Cxl → Cxl) : (s.setCxl f).sch = s.sch := rfl
@[simp] theorem Chip.setCxl_sdgs (f : Cxl → Cxl) : (s.setCxl f).sdgs = s.sdgs := rfl
@[simp] theorem Chip.setCxl_memu (f : Cxl → Cxl) : (s.setCxl f).memu = s.memu := rfl
@[simp] theorem Chip.setCxl_links (f : Cxl → Cxl) : (s.setCxl f).links = s.links := rfl
@[simp] theorem Chip.setCxl_xpt (f : Cxl → Cxl) : (s.setCxl f).xpt = s.xpt := rfl
@[simp] theorem Chip.setCxl_shps (f : Cxl → Cxl) : (s.setCxl f).shps = s.shps := rfl
@[simp] theorem Chip.setCxl_sec (f : Cxl → Cxl) : (s.setCxl f).sec = s.sec := rfl
@[simp] theorem Chip.setCxl_flt (f : Cxl → Cxl) : (s.setCxl f).flt = s.flt := rfl
@[simp] theorem Chip.setCxl_pwr (f : Cxl → Cxl) : (s.setCxl f).pwr = s.pwr := rfl
@[simp] theorem Chip.setCxl_vgl (f : Cxl → Cxl) : (s.setCxl f).vgl = s.vgl := rfl
@[simp] theorem Chip.setCxl_t3seen (f : Cxl → Cxl) : (s.setCxl f).t3seen = s.t3seen := rfl
@[simp] theorem Chip.setCxl_out (f : Cxl → Cxl) : (s.setCxl f).out = s.out := rfl
@[simp] theorem Chip.setCxl_free (f : Cxl → Cxl) : (s.setCxl f).free = s.free := rfl

/-! ## setMemu -/

@[simp] theorem Chip.setMemu_regs (f : Memu → Memu) : (s.setMemu f).regs = s.regs := rfl
@[simp] theorem Chip.setMemu_mem (f : Memu → Memu) : (s.setMemu f).mem = s.mem := rfl
@[simp] theorem Chip.setMemu_alm (f : Memu → Memu) : (s.setMemu f).alm = s.alm := rfl
@[simp] theorem Chip.setMemu_parts (f : Memu → Memu) : (s.setMemu f).parts = s.parts := rfl
@[simp] theorem Chip.setMemu_glb (f : Memu → Memu) : (s.setMemu f).glb = s.glb := rfl
@[simp] theorem Chip.setMemu_cxl (f : Memu → Memu) : (s.setMemu f).cxl = s.cxl := rfl
@[simp] theorem Chip.setMemu_rtb (f : Memu → Memu) : (s.setMemu f).rtb = s.rtb := rfl
@[simp] theorem Chip.setMemu_pfx (f : Memu → Memu) : (s.setMemu f).pfx = s.pfx := rfl
@[simp] theorem Chip.setMemu_smv (f : Memu → Memu) : (s.setMemu f).smv = s.smv := rfl
@[simp] theorem Chip.setMemu_tiles (f : Memu → Memu) : (s.setMemu f).tiles = s.tiles := rfl
@[simp] theorem Chip.setMemu_sch (f : Memu → Memu) : (s.setMemu f).sch = s.sch := rfl
@[simp] theorem Chip.setMemu_sdgs (f : Memu → Memu) : (s.setMemu f).sdgs = s.sdgs := rfl
@[simp] theorem Chip.setMemu_memu (f : Memu → Memu) : (s.setMemu f).memu = f s.memu := rfl
@[simp] theorem Chip.setMemu_links (f : Memu → Memu) : (s.setMemu f).links = s.links := rfl
@[simp] theorem Chip.setMemu_xpt (f : Memu → Memu) : (s.setMemu f).xpt = s.xpt := rfl
@[simp] theorem Chip.setMemu_shps (f : Memu → Memu) : (s.setMemu f).shps = s.shps := rfl
@[simp] theorem Chip.setMemu_sec (f : Memu → Memu) : (s.setMemu f).sec = s.sec := rfl
@[simp] theorem Chip.setMemu_flt (f : Memu → Memu) : (s.setMemu f).flt = s.flt := rfl
@[simp] theorem Chip.setMemu_pwr (f : Memu → Memu) : (s.setMemu f).pwr = s.pwr := rfl
@[simp] theorem Chip.setMemu_vgl (f : Memu → Memu) : (s.setMemu f).vgl = s.vgl := rfl
@[simp] theorem Chip.setMemu_t3seen (f : Memu → Memu) : (s.setMemu f).t3seen = s.t3seen := rfl
@[simp] theorem Chip.setMemu_out (f : Memu → Memu) : (s.setMemu f).out = s.out := rfl
@[simp] theorem Chip.setMemu_free (f : Memu → Memu) : (s.setMemu f).free = s.free := rfl

/-! ## setSmv -/

@[simp] theorem Chip.setSmv_regs (f : Smv → Smv) : (s.setSmv f).regs = s.regs := rfl
@[simp] theorem Chip.setSmv_mem (f : Smv → Smv) : (s.setSmv f).mem = s.mem := rfl
@[simp] theorem Chip.setSmv_alm (f : Smv → Smv) : (s.setSmv f).alm = s.alm := rfl
@[simp] theorem Chip.setSmv_parts (f : Smv → Smv) : (s.setSmv f).parts = s.parts := rfl
@[simp] theorem Chip.setSmv_glb (f : Smv → Smv) : (s.setSmv f).glb = s.glb := rfl
@[simp] theorem Chip.setSmv_cxl (f : Smv → Smv) : (s.setSmv f).cxl = s.cxl := rfl
@[simp] theorem Chip.setSmv_rtb (f : Smv → Smv) : (s.setSmv f).rtb = s.rtb := rfl
@[simp] theorem Chip.setSmv_pfx (f : Smv → Smv) : (s.setSmv f).pfx = s.pfx := rfl
@[simp] theorem Chip.setSmv_smv (f : Smv → Smv) : (s.setSmv f).smv = f s.smv := rfl
@[simp] theorem Chip.setSmv_tiles (f : Smv → Smv) : (s.setSmv f).tiles = s.tiles := rfl
@[simp] theorem Chip.setSmv_sch (f : Smv → Smv) : (s.setSmv f).sch = s.sch := rfl
@[simp] theorem Chip.setSmv_sdgs (f : Smv → Smv) : (s.setSmv f).sdgs = s.sdgs := rfl
@[simp] theorem Chip.setSmv_memu (f : Smv → Smv) : (s.setSmv f).memu = s.memu := rfl
@[simp] theorem Chip.setSmv_links (f : Smv → Smv) : (s.setSmv f).links = s.links := rfl
@[simp] theorem Chip.setSmv_xpt (f : Smv → Smv) : (s.setSmv f).xpt = s.xpt := rfl
@[simp] theorem Chip.setSmv_shps (f : Smv → Smv) : (s.setSmv f).shps = s.shps := rfl
@[simp] theorem Chip.setSmv_sec (f : Smv → Smv) : (s.setSmv f).sec = s.sec := rfl
@[simp] theorem Chip.setSmv_flt (f : Smv → Smv) : (s.setSmv f).flt = s.flt := rfl
@[simp] theorem Chip.setSmv_pwr (f : Smv → Smv) : (s.setSmv f).pwr = s.pwr := rfl
@[simp] theorem Chip.setSmv_vgl (f : Smv → Smv) : (s.setSmv f).vgl = s.vgl := rfl
@[simp] theorem Chip.setSmv_t3seen (f : Smv → Smv) : (s.setSmv f).t3seen = s.t3seen := rfl
@[simp] theorem Chip.setSmv_out (f : Smv → Smv) : (s.setSmv f).out = s.out := rfl
@[simp] theorem Chip.setSmv_free (f : Smv → Smv) : (s.setSmv f).free = s.free := rfl

/-! ## updLink -/

@[simp] theorem Chip.updLink_regs (l : Nat) (f : Link → Link) : (s.updLink l f).regs = s.regs := rfl
@[simp] theorem Chip.updLink_mem (l : Nat) (f : Link → Link) : (s.updLink l f).mem = s.mem := rfl
@[simp] theorem Chip.updLink_alm (l : Nat) (f : Link → Link) : (s.updLink l f).alm = s.alm := rfl
@[simp] theorem Chip.updLink_parts (l : Nat) (f : Link → Link) : (s.updLink l f).parts = s.parts := rfl
@[simp] theorem Chip.updLink_glb (l : Nat) (f : Link → Link) : (s.updLink l f).glb = s.glb := rfl
@[simp] theorem Chip.updLink_cxl (l : Nat) (f : Link → Link) : (s.updLink l f).cxl = s.cxl := rfl
@[simp] theorem Chip.updLink_rtb (l : Nat) (f : Link → Link) : (s.updLink l f).rtb = s.rtb := rfl
@[simp] theorem Chip.updLink_pfx (l : Nat) (f : Link → Link) : (s.updLink l f).pfx = s.pfx := rfl
@[simp] theorem Chip.updLink_smv (l : Nat) (f : Link → Link) : (s.updLink l f).smv = s.smv := rfl
@[simp] theorem Chip.updLink_tiles (l : Nat) (f : Link → Link) : (s.updLink l f).tiles = s.tiles := rfl
@[simp] theorem Chip.updLink_sch (l : Nat) (f : Link → Link) : (s.updLink l f).sch = s.sch := rfl
@[simp] theorem Chip.updLink_sdgs (l : Nat) (f : Link → Link) : (s.updLink l f).sdgs = s.sdgs := rfl
@[simp] theorem Chip.updLink_memu (l : Nat) (f : Link → Link) : (s.updLink l f).memu = s.memu := rfl
@[simp] theorem Chip.updLink_links (l : Nat) (f : Link → Link) : (s.updLink l f).links = s.links.upd l {} f := rfl
@[simp] theorem Chip.updLink_xpt (l : Nat) (f : Link → Link) : (s.updLink l f).xpt = s.xpt := rfl
@[simp] theorem Chip.updLink_shps (l : Nat) (f : Link → Link) : (s.updLink l f).shps = s.shps := rfl
@[simp] theorem Chip.updLink_sec (l : Nat) (f : Link → Link) : (s.updLink l f).sec = s.sec := rfl
@[simp] theorem Chip.updLink_flt (l : Nat) (f : Link → Link) : (s.updLink l f).flt = s.flt := rfl
@[simp] theorem Chip.updLink_pwr (l : Nat) (f : Link → Link) : (s.updLink l f).pwr = s.pwr := rfl
@[simp] theorem Chip.updLink_vgl (l : Nat) (f : Link → Link) : (s.updLink l f).vgl = s.vgl := rfl
@[simp] theorem Chip.updLink_t3seen (l : Nat) (f : Link → Link) : (s.updLink l f).t3seen = s.t3seen := rfl
@[simp] theorem Chip.updLink_out (l : Nat) (f : Link → Link) : (s.updLink l f).out = s.out := rfl
@[simp] theorem Chip.updLink_free (l : Nat) (f : Link → Link) : (s.updLink l f).free = s.free := rfl

/-! ## setPart -/

@[simp] theorem Chip.setPart_regs (p : Nat) (f : Part → Part) : (s.setPart p f).regs = s.regs := rfl
@[simp] theorem Chip.setPart_mem (p : Nat) (f : Part → Part) : (s.setPart p f).mem = s.mem := rfl
@[simp] theorem Chip.setPart_alm (p : Nat) (f : Part → Part) : (s.setPart p f).alm = s.alm := rfl
@[simp] theorem Chip.setPart_parts (p : Nat) (f : Part → Part) : (s.setPart p f).parts = updAt s.parts p f := rfl
@[simp] theorem Chip.setPart_glb (p : Nat) (f : Part → Part) : (s.setPart p f).glb = s.glb := rfl
@[simp] theorem Chip.setPart_cxl (p : Nat) (f : Part → Part) : (s.setPart p f).cxl = s.cxl := rfl
@[simp] theorem Chip.setPart_rtb (p : Nat) (f : Part → Part) : (s.setPart p f).rtb = s.rtb := rfl
@[simp] theorem Chip.setPart_pfx (p : Nat) (f : Part → Part) : (s.setPart p f).pfx = s.pfx := rfl
@[simp] theorem Chip.setPart_smv (p : Nat) (f : Part → Part) : (s.setPart p f).smv = s.smv := rfl
@[simp] theorem Chip.setPart_tiles (p : Nat) (f : Part → Part) : (s.setPart p f).tiles = s.tiles := rfl
@[simp] theorem Chip.setPart_sch (p : Nat) (f : Part → Part) : (s.setPart p f).sch = s.sch := rfl
@[simp] theorem Chip.setPart_sdgs (p : Nat) (f : Part → Part) : (s.setPart p f).sdgs = s.sdgs := rfl
@[simp] theorem Chip.setPart_memu (p : Nat) (f : Part → Part) : (s.setPart p f).memu = s.memu := rfl
@[simp] theorem Chip.setPart_links (p : Nat) (f : Part → Part) : (s.setPart p f).links = s.links := rfl
@[simp] theorem Chip.setPart_xpt (p : Nat) (f : Part → Part) : (s.setPart p f).xpt = s.xpt := rfl
@[simp] theorem Chip.setPart_shps (p : Nat) (f : Part → Part) : (s.setPart p f).shps = s.shps := rfl
@[simp] theorem Chip.setPart_sec (p : Nat) (f : Part → Part) : (s.setPart p f).sec = s.sec := rfl
@[simp] theorem Chip.setPart_flt (p : Nat) (f : Part → Part) : (s.setPart p f).flt = s.flt := rfl
@[simp] theorem Chip.setPart_pwr (p : Nat) (f : Part → Part) : (s.setPart p f).pwr = s.pwr := rfl
@[simp] theorem Chip.setPart_vgl (p : Nat) (f : Part → Part) : (s.setPart p f).vgl = s.vgl := rfl
@[simp] theorem Chip.setPart_t3seen (p : Nat) (f : Part → Part) : (s.setPart p f).t3seen = s.t3seen := rfl
@[simp] theorem Chip.setPart_out (p : Nat) (f : Part → Part) : (s.setPart p f).out = s.out := rfl
@[simp] theorem Chip.setPart_free (p : Nat) (f : Part → Part) : (s.setPart p f).free = s.free := rfl

/-! ## setTile -/

@[simp] theorem Chip.setTile_regs (t : Nat) (f : Tile → Tile) : (s.setTile t f).regs = s.regs := rfl
@[simp] theorem Chip.setTile_mem (t : Nat) (f : Tile → Tile) : (s.setTile t f).mem = s.mem := rfl
@[simp] theorem Chip.setTile_alm (t : Nat) (f : Tile → Tile) : (s.setTile t f).alm = s.alm := rfl
@[simp] theorem Chip.setTile_parts (t : Nat) (f : Tile → Tile) : (s.setTile t f).parts = s.parts := rfl
@[simp] theorem Chip.setTile_glb (t : Nat) (f : Tile → Tile) : (s.setTile t f).glb = s.glb := rfl
@[simp] theorem Chip.setTile_cxl (t : Nat) (f : Tile → Tile) : (s.setTile t f).cxl = s.cxl := rfl
@[simp] theorem Chip.setTile_rtb (t : Nat) (f : Tile → Tile) : (s.setTile t f).rtb = s.rtb := rfl
@[simp] theorem Chip.setTile_pfx (t : Nat) (f : Tile → Tile) : (s.setTile t f).pfx = s.pfx := rfl
@[simp] theorem Chip.setTile_smv (t : Nat) (f : Tile → Tile) : (s.setTile t f).smv = s.smv := rfl
@[simp] theorem Chip.setTile_tiles (t : Nat) (f : Tile → Tile) : (s.setTile t f).tiles = s.tiles.upd t {} f := rfl
@[simp] theorem Chip.setTile_sch (t : Nat) (f : Tile → Tile) : (s.setTile t f).sch = s.sch := rfl
@[simp] theorem Chip.setTile_sdgs (t : Nat) (f : Tile → Tile) : (s.setTile t f).sdgs = s.sdgs := rfl
@[simp] theorem Chip.setTile_memu (t : Nat) (f : Tile → Tile) : (s.setTile t f).memu = s.memu := rfl
@[simp] theorem Chip.setTile_links (t : Nat) (f : Tile → Tile) : (s.setTile t f).links = s.links := rfl
@[simp] theorem Chip.setTile_xpt (t : Nat) (f : Tile → Tile) : (s.setTile t f).xpt = s.xpt := rfl
@[simp] theorem Chip.setTile_shps (t : Nat) (f : Tile → Tile) : (s.setTile t f).shps = s.shps := rfl
@[simp] theorem Chip.setTile_sec (t : Nat) (f : Tile → Tile) : (s.setTile t f).sec = s.sec := rfl
@[simp] theorem Chip.setTile_flt (t : Nat) (f : Tile → Tile) : (s.setTile t f).flt = s.flt := rfl
@[simp] theorem Chip.setTile_pwr (t : Nat) (f : Tile → Tile) : (s.setTile t f).pwr = s.pwr := rfl
@[simp] theorem Chip.setTile_vgl (t : Nat) (f : Tile → Tile) : (s.setTile t f).vgl = s.vgl := rfl
@[simp] theorem Chip.setTile_t3seen (t : Nat) (f : Tile → Tile) : (s.setTile t f).t3seen = s.t3seen := rfl
@[simp] theorem Chip.setTile_out (t : Nat) (f : Tile → Tile) : (s.setTile t f).out = s.out := rfl
@[simp] theorem Chip.setTile_free (t : Nat) (f : Tile → Tile) : (s.setTile t f).free = s.free := rfl

/-! ## setSdg -/

@[simp] theorem Chip.setSdg_regs (st : Nat) (f : Sdg → Sdg) : (s.setSdg st f).regs = s.regs := rfl
@[simp] theorem Chip.setSdg_mem (st : Nat) (f : Sdg → Sdg) : (s.setSdg st f).mem = s.mem := rfl
@[simp] theorem Chip.setSdg_alm (st : Nat) (f : Sdg → Sdg) : (s.setSdg st f).alm = s.alm := rfl
@[simp] theorem Chip.setSdg_parts (st : Nat) (f : Sdg → Sdg) : (s.setSdg st f).parts = s.parts := rfl
@[simp] theorem Chip.setSdg_glb (st : Nat) (f : Sdg → Sdg) : (s.setSdg st f).glb = s.glb := rfl
@[simp] theorem Chip.setSdg_cxl (st : Nat) (f : Sdg → Sdg) : (s.setSdg st f).cxl = s.cxl := rfl
@[simp] theorem Chip.setSdg_rtb (st : Nat) (f : Sdg → Sdg) : (s.setSdg st f).rtb = s.rtb := rfl
@[simp] theorem Chip.setSdg_pfx (st : Nat) (f : Sdg → Sdg) : (s.setSdg st f).pfx = s.pfx := rfl
@[simp] theorem Chip.setSdg_smv (st : Nat) (f : Sdg → Sdg) : (s.setSdg st f).smv = s.smv := rfl
@[simp] theorem Chip.setSdg_tiles (st : Nat) (f : Sdg → Sdg) : (s.setSdg st f).tiles = s.tiles := rfl
@[simp] theorem Chip.setSdg_sch (st : Nat) (f : Sdg → Sdg) : (s.setSdg st f).sch = s.sch := rfl
@[simp] theorem Chip.setSdg_sdgs (st : Nat) (f : Sdg → Sdg) : (s.setSdg st f).sdgs = s.sdgs.upd st {} f := rfl
@[simp] theorem Chip.setSdg_memu (st : Nat) (f : Sdg → Sdg) : (s.setSdg st f).memu = s.memu := rfl
@[simp] theorem Chip.setSdg_links (st : Nat) (f : Sdg → Sdg) : (s.setSdg st f).links = s.links := rfl
@[simp] theorem Chip.setSdg_xpt (st : Nat) (f : Sdg → Sdg) : (s.setSdg st f).xpt = s.xpt := rfl
@[simp] theorem Chip.setSdg_shps (st : Nat) (f : Sdg → Sdg) : (s.setSdg st f).shps = s.shps := rfl
@[simp] theorem Chip.setSdg_sec (st : Nat) (f : Sdg → Sdg) : (s.setSdg st f).sec = s.sec := rfl
@[simp] theorem Chip.setSdg_flt (st : Nat) (f : Sdg → Sdg) : (s.setSdg st f).flt = s.flt := rfl
@[simp] theorem Chip.setSdg_pwr (st : Nat) (f : Sdg → Sdg) : (s.setSdg st f).pwr = s.pwr := rfl
@[simp] theorem Chip.setSdg_vgl (st : Nat) (f : Sdg → Sdg) : (s.setSdg st f).vgl = s.vgl := rfl
@[simp] theorem Chip.setSdg_t3seen (st : Nat) (f : Sdg → Sdg) : (s.setSdg st f).t3seen = s.t3seen := rfl
@[simp] theorem Chip.setSdg_out (st : Nat) (f : Sdg → Sdg) : (s.setSdg st f).out = s.out := rfl
@[simp] theorem Chip.setSdg_free (st : Nat) (f : Sdg → Sdg) : (s.setSdg st f).free = s.free := rfl

/-! ## setPfx -/

@[simp] theorem Chip.setPfx_regs (f : Pfx → Pfx) : (s.setPfx f).regs = s.regs := rfl
@[simp] theorem Chip.setPfx_mem (f : Pfx → Pfx) : (s.setPfx f).mem = s.mem := rfl
@[simp] theorem Chip.setPfx_alm (f : Pfx → Pfx) : (s.setPfx f).alm = s.alm := rfl
@[simp] theorem Chip.setPfx_parts (f : Pfx → Pfx) : (s.setPfx f).parts = s.parts := rfl
@[simp] theorem Chip.setPfx_glb (f : Pfx → Pfx) : (s.setPfx f).glb = s.glb := rfl
@[simp] theorem Chip.setPfx_cxl (f : Pfx → Pfx) : (s.setPfx f).cxl = s.cxl := rfl
@[simp] theorem Chip.setPfx_rtb (f : Pfx → Pfx) : (s.setPfx f).rtb = s.rtb := rfl
@[simp] theorem Chip.setPfx_pfx (f : Pfx → Pfx) : (s.setPfx f).pfx = f s.pfx := rfl
@[simp] theorem Chip.setPfx_smv (f : Pfx → Pfx) : (s.setPfx f).smv = s.smv := rfl
@[simp] theorem Chip.setPfx_tiles (f : Pfx → Pfx) : (s.setPfx f).tiles = s.tiles := rfl
@[simp] theorem Chip.setPfx_sch (f : Pfx → Pfx) : (s.setPfx f).sch = s.sch := rfl
@[simp] theorem Chip.setPfx_sdgs (f : Pfx → Pfx) : (s.setPfx f).sdgs = s.sdgs := rfl
@[simp] theorem Chip.setPfx_memu (f : Pfx → Pfx) : (s.setPfx f).memu = s.memu := rfl
@[simp] theorem Chip.setPfx_links (f : Pfx → Pfx) : (s.setPfx f).links = s.links := rfl
@[simp] theorem Chip.setPfx_xpt (f : Pfx → Pfx) : (s.setPfx f).xpt = s.xpt := rfl
@[simp] theorem Chip.setPfx_shps (f : Pfx → Pfx) : (s.setPfx f).shps = s.shps := rfl
@[simp] theorem Chip.setPfx_sec (f : Pfx → Pfx) : (s.setPfx f).sec = s.sec := rfl
@[simp] theorem Chip.setPfx_flt (f : Pfx → Pfx) : (s.setPfx f).flt = s.flt := rfl
@[simp] theorem Chip.setPfx_pwr (f : Pfx → Pfx) : (s.setPfx f).pwr = s.pwr := rfl
@[simp] theorem Chip.setPfx_vgl (f : Pfx → Pfx) : (s.setPfx f).vgl = s.vgl := rfl
@[simp] theorem Chip.setPfx_t3seen (f : Pfx → Pfx) : (s.setPfx f).t3seen = s.t3seen := rfl
@[simp] theorem Chip.setPfx_out (f : Pfx → Pfx) : (s.setPfx f).out = s.out := rfl
@[simp] theorem Chip.setPfx_free (f : Pfx → Pfx) : (s.setPfx f).free = s.free := rfl

/-! ## setRtes -/

@[simp] theorem Chip.setRtes_regs (m : SMap Rte) : (s.setRtes m).regs = s.regs := rfl
@[simp] theorem Chip.setRtes_mem (m : SMap Rte) : (s.setRtes m).mem = s.mem := rfl
@[simp] theorem Chip.setRtes_alm (m : SMap Rte) : (s.setRtes m).alm = s.alm := rfl
@[simp] theorem Chip.setRtes_parts (m : SMap Rte) : (s.setRtes m).parts = s.parts := rfl
@[simp] theorem Chip.setRtes_glb (m : SMap Rte) : (s.setRtes m).glb = s.glb := rfl
@[simp] theorem Chip.setRtes_cxl (m : SMap Rte) : (s.setRtes m).cxl = s.cxl := rfl
@[simp] theorem Chip.setRtes_rtb (m : SMap Rte) : (s.setRtes m).rtb = { s.rtb with rtes := m } := rfl
@[simp] theorem Chip.setRtes_pfx (m : SMap Rte) : (s.setRtes m).pfx = s.pfx := rfl
@[simp] theorem Chip.setRtes_smv (m : SMap Rte) : (s.setRtes m).smv = s.smv := rfl
@[simp] theorem Chip.setRtes_tiles (m : SMap Rte) : (s.setRtes m).tiles = s.tiles := rfl
@[simp] theorem Chip.setRtes_sch (m : SMap Rte) : (s.setRtes m).sch = s.sch := rfl
@[simp] theorem Chip.setRtes_sdgs (m : SMap Rte) : (s.setRtes m).sdgs = s.sdgs := rfl
@[simp] theorem Chip.setRtes_memu (m : SMap Rte) : (s.setRtes m).memu = s.memu := rfl
@[simp] theorem Chip.setRtes_links (m : SMap Rte) : (s.setRtes m).links = s.links := rfl
@[simp] theorem Chip.setRtes_xpt (m : SMap Rte) : (s.setRtes m).xpt = s.xpt := rfl
@[simp] theorem Chip.setRtes_shps (m : SMap Rte) : (s.setRtes m).shps = s.shps := rfl
@[simp] theorem Chip.setRtes_sec (m : SMap Rte) : (s.setRtes m).sec = s.sec := rfl
@[simp] theorem Chip.setRtes_flt (m : SMap Rte) : (s.setRtes m).flt = s.flt := rfl
@[simp] theorem Chip.setRtes_pwr (m : SMap Rte) : (s.setRtes m).pwr = s.pwr := rfl
@[simp] theorem Chip.setRtes_vgl (m : SMap Rte) : (s.setRtes m).vgl = s.vgl := rfl
@[simp] theorem Chip.setRtes_t3seen (m : SMap Rte) : (s.setRtes m).t3seen = s.t3seen := rfl
@[simp] theorem Chip.setRtes_out (m : SMap Rte) : (s.setRtes m).out = s.out := rfl
@[simp] theorem Chip.setRtes_free (m : SMap Rte) : (s.setRtes m).free = s.free := rfl

/-! ## setSch -/

@[simp] theorem Chip.setSch_regs (f : Sch → Sch) : (s.setSch f).regs = s.regs := rfl
@[simp] theorem Chip.setSch_mem (f : Sch → Sch) : (s.setSch f).mem = s.mem := rfl
@[simp] theorem Chip.setSch_alm (f : Sch → Sch) : (s.setSch f).alm = s.alm := rfl
@[simp] theorem Chip.setSch_parts (f : Sch → Sch) : (s.setSch f).parts = s.parts := rfl
@[simp] theorem Chip.setSch_glb (f : Sch → Sch) : (s.setSch f).glb = s.glb := rfl
@[simp] theorem Chip.setSch_cxl (f : Sch → Sch) : (s.setSch f).cxl = s.cxl := rfl
@[simp] theorem Chip.setSch_rtb (f : Sch → Sch) : (s.setSch f).rtb = s.rtb := rfl
@[simp] theorem Chip.setSch_pfx (f : Sch → Sch) : (s.setSch f).pfx = s.pfx := rfl
@[simp] theorem Chip.setSch_smv (f : Sch → Sch) : (s.setSch f).smv = s.smv := rfl
@[simp] theorem Chip.setSch_tiles (f : Sch → Sch) : (s.setSch f).tiles = s.tiles := rfl
@[simp] theorem Chip.setSch_sch (f : Sch → Sch) : (s.setSch f).sch = f s.sch := rfl
@[simp] theorem Chip.setSch_sdgs (f : Sch → Sch) : (s.setSch f).sdgs = s.sdgs := rfl
@[simp] theorem Chip.setSch_memu (f : Sch → Sch) : (s.setSch f).memu = s.memu := rfl
@[simp] theorem Chip.setSch_links (f : Sch → Sch) : (s.setSch f).links = s.links := rfl
@[simp] theorem Chip.setSch_xpt (f : Sch → Sch) : (s.setSch f).xpt = s.xpt := rfl
@[simp] theorem Chip.setSch_shps (f : Sch → Sch) : (s.setSch f).shps = s.shps := rfl
@[simp] theorem Chip.setSch_sec (f : Sch → Sch) : (s.setSch f).sec = s.sec := rfl
@[simp] theorem Chip.setSch_flt (f : Sch → Sch) : (s.setSch f).flt = s.flt := rfl
@[simp] theorem Chip.setSch_pwr (f : Sch → Sch) : (s.setSch f).pwr = s.pwr := rfl
@[simp] theorem Chip.setSch_vgl (f : Sch → Sch) : (s.setSch f).vgl = s.vgl := rfl
@[simp] theorem Chip.setSch_t3seen (f : Sch → Sch) : (s.setSch f).t3seen = s.t3seen := rfl
@[simp] theorem Chip.setSch_out (f : Sch → Sch) : (s.setSch f).out = s.out := rfl
@[simp] theorem Chip.setSch_free (f : Sch → Sch) : (s.setSch f).free = s.free := rfl

/-! ## setSec -/

@[simp] theorem Chip.setSec_regs (f : Sec → Sec) : (s.setSec f).regs = s.regs := rfl
@[simp] theorem Chip.setSec_mem (f : Sec → Sec) : (s.setSec f).mem = s.mem := rfl
@[simp] theorem Chip.setSec_alm (f : Sec → Sec) : (s.setSec f).alm = s.alm := rfl
@[simp] theorem Chip.setSec_parts (f : Sec → Sec) : (s.setSec f).parts = s.parts := rfl
@[simp] theorem Chip.setSec_glb (f : Sec → Sec) : (s.setSec f).glb = s.glb := rfl
@[simp] theorem Chip.setSec_cxl (f : Sec → Sec) : (s.setSec f).cxl = s.cxl := rfl
@[simp] theorem Chip.setSec_rtb (f : Sec → Sec) : (s.setSec f).rtb = s.rtb := rfl
@[simp] theorem Chip.setSec_pfx (f : Sec → Sec) : (s.setSec f).pfx = s.pfx := rfl
@[simp] theorem Chip.setSec_smv (f : Sec → Sec) : (s.setSec f).smv = s.smv := rfl
@[simp] theorem Chip.setSec_tiles (f : Sec → Sec) : (s.setSec f).tiles = s.tiles := rfl
@[simp] theorem Chip.setSec_sch (f : Sec → Sec) : (s.setSec f).sch = s.sch := rfl
@[simp] theorem Chip.setSec_sdgs (f : Sec → Sec) : (s.setSec f).sdgs = s.sdgs := rfl
@[simp] theorem Chip.setSec_memu (f : Sec → Sec) : (s.setSec f).memu = s.memu := rfl
@[simp] theorem Chip.setSec_links (f : Sec → Sec) : (s.setSec f).links = s.links := rfl
@[simp] theorem Chip.setSec_xpt (f : Sec → Sec) : (s.setSec f).xpt = s.xpt := rfl
@[simp] theorem Chip.setSec_shps (f : Sec → Sec) : (s.setSec f).shps = s.shps := rfl
@[simp] theorem Chip.setSec_sec (f : Sec → Sec) : (s.setSec f).sec = f s.sec := rfl
@[simp] theorem Chip.setSec_flt (f : Sec → Sec) : (s.setSec f).flt = s.flt := rfl
@[simp] theorem Chip.setSec_pwr (f : Sec → Sec) : (s.setSec f).pwr = s.pwr := rfl
@[simp] theorem Chip.setSec_vgl (f : Sec → Sec) : (s.setSec f).vgl = s.vgl := rfl
@[simp] theorem Chip.setSec_t3seen (f : Sec → Sec) : (s.setSec f).t3seen = s.t3seen := rfl
@[simp] theorem Chip.setSec_out (f : Sec → Sec) : (s.setSec f).out = s.out := rfl
@[simp] theorem Chip.setSec_free (f : Sec → Sec) : (s.setSec f).free = s.free := rfl

/-! ## updShp -/

@[simp] theorem Chip.updShp_regs (l : Nat) (f : Shp → Shp) : (s.updShp l f).regs = s.regs := rfl
@[simp] theorem Chip.updShp_mem (l : Nat) (f : Shp → Shp) : (s.updShp l f).mem = s.mem := rfl
@[simp] theorem Chip.updShp_alm (l : Nat) (f : Shp → Shp) : (s.updShp l f).alm = s.alm := rfl
@[simp] theorem Chip.updShp_parts (l : Nat) (f : Shp → Shp) : (s.updShp l f).parts = s.parts := rfl
@[simp] theorem Chip.updShp_glb (l : Nat) (f : Shp → Shp) : (s.updShp l f).glb = s.glb := rfl
@[simp] theorem Chip.updShp_cxl (l : Nat) (f : Shp → Shp) : (s.updShp l f).cxl = s.cxl := rfl
@[simp] theorem Chip.updShp_rtb (l : Nat) (f : Shp → Shp) : (s.updShp l f).rtb = s.rtb := rfl
@[simp] theorem Chip.updShp_pfx (l : Nat) (f : Shp → Shp) : (s.updShp l f).pfx = s.pfx := rfl
@[simp] theorem Chip.updShp_smv (l : Nat) (f : Shp → Shp) : (s.updShp l f).smv = s.smv := rfl
@[simp] theorem Chip.updShp_tiles (l : Nat) (f : Shp → Shp) : (s.updShp l f).tiles = s.tiles := rfl
@[simp] theorem Chip.updShp_sch (l : Nat) (f : Shp → Shp) : (s.updShp l f).sch = s.sch := rfl
@[simp] theorem Chip.updShp_sdgs (l : Nat) (f : Shp → Shp) : (s.updShp l f).sdgs = s.sdgs := rfl
@[simp] theorem Chip.updShp_memu (l : Nat) (f : Shp → Shp) : (s.updShp l f).memu = s.memu := rfl
@[simp] theorem Chip.updShp_links (l : Nat) (f : Shp → Shp) : (s.updShp l f).links = s.links := rfl
@[simp] theorem Chip.updShp_xpt (l : Nat) (f : Shp → Shp) : (s.updShp l f).xpt = s.xpt := rfl
@[simp] theorem Chip.updShp_shps (l : Nat) (f : Shp → Shp) : (s.updShp l f).shps = s.shps.upd l {} f := rfl
@[simp] theorem Chip.updShp_sec (l : Nat) (f : Shp → Shp) : (s.updShp l f).sec = s.sec := rfl
@[simp] theorem Chip.updShp_flt (l : Nat) (f : Shp → Shp) : (s.updShp l f).flt = s.flt := rfl
@[simp] theorem Chip.updShp_pwr (l : Nat) (f : Shp → Shp) : (s.updShp l f).pwr = s.pwr := rfl
@[simp] theorem Chip.updShp_vgl (l : Nat) (f : Shp → Shp) : (s.updShp l f).vgl = s.vgl := rfl
@[simp] theorem Chip.updShp_t3seen (l : Nat) (f : Shp → Shp) : (s.updShp l f).t3seen = s.t3seen := rfl
@[simp] theorem Chip.updShp_out (l : Nat) (f : Shp → Shp) : (s.updShp l f).out = s.out := rfl
@[simp] theorem Chip.updShp_free (l : Nat) (f : Shp → Shp) : (s.updShp l f).free = s.free := rfl

/-! ## setXpt -/

@[simp] theorem Chip.setXpt_regs (f : Xpt → Xpt) : (s.setXpt f).regs = s.regs := rfl
@[simp] theorem Chip.setXpt_mem (f : Xpt → Xpt) : (s.setXpt f).mem = s.mem := rfl
@[simp] theorem Chip.setXpt_alm (f : Xpt → Xpt) : (s.setXpt f).alm = s.alm := rfl
@[simp] theorem Chip.setXpt_parts (f : Xpt → Xpt) : (s.setXpt f).parts = s.parts := rfl
@[simp] theorem Chip.setXpt_glb (f : Xpt → Xpt) : (s.setXpt f).glb = s.glb := rfl
@[simp] theorem Chip.setXpt_cxl (f : Xpt → Xpt) : (s.setXpt f).cxl = s.cxl := rfl
@[simp] theorem Chip.setXpt_rtb (f : Xpt → Xpt) : (s.setXpt f).rtb = s.rtb := rfl
@[simp] theorem Chip.setXpt_pfx (f : Xpt → Xpt) : (s.setXpt f).pfx = s.pfx := rfl
@[simp] theorem Chip.setXpt_smv (f : Xpt → Xpt) : (s.setXpt f).smv = s.smv := rfl
@[simp] theorem Chip.setXpt_tiles (f : Xpt → Xpt) : (s.setXpt f).tiles = s.tiles := rfl
@[simp] theorem Chip.setXpt_sch (f : Xpt → Xpt) : (s.setXpt f).sch = s.sch := rfl
@[simp] theorem Chip.setXpt_sdgs (f : Xpt → Xpt) : (s.setXpt f).sdgs = s.sdgs := rfl
@[simp] theorem Chip.setXpt_memu (f : Xpt → Xpt) : (s.setXpt f).memu = s.memu := rfl
@[simp] theorem Chip.setXpt_links (f : Xpt → Xpt) : (s.setXpt f).links = s.links := rfl
@[simp] theorem Chip.setXpt_xpt (f : Xpt → Xpt) : (s.setXpt f).xpt = f s.xpt := rfl
@[simp] theorem Chip.setXpt_shps (f : Xpt → Xpt) : (s.setXpt f).shps = s.shps := rfl
@[simp] theorem Chip.setXpt_sec (f : Xpt → Xpt) : (s.setXpt f).sec = s.sec := rfl
@[simp] theorem Chip.setXpt_flt (f : Xpt → Xpt) : (s.setXpt f).flt = s.flt := rfl
@[simp] theorem Chip.setXpt_pwr (f : Xpt → Xpt) : (s.setXpt f).pwr = s.pwr := rfl
@[simp] theorem Chip.setXpt_vgl (f : Xpt → Xpt) : (s.setXpt f).vgl = s.vgl := rfl
@[simp] theorem Chip.setXpt_t3seen (f : Xpt → Xpt) : (s.setXpt f).t3seen = s.t3seen := rfl
@[simp] theorem Chip.setXpt_out (f : Xpt → Xpt) : (s.setXpt f).out = s.out := rfl
@[simp] theorem Chip.setXpt_free (f : Xpt → Xpt) : (s.setXpt f).free = s.free := rfl

/-! ## emit -/

@[simp] theorem Chip.emit_regs (o : Out) : (s.emit o).regs = s.regs := rfl
@[simp] theorem Chip.emit_mem (o : Out) : (s.emit o).mem = s.mem := rfl
@[simp] theorem Chip.emit_alm (o : Out) : (s.emit o).alm = s.alm := rfl
@[simp] theorem Chip.emit_parts (o : Out) : (s.emit o).parts = s.parts := rfl
@[simp] theorem Chip.emit_glb (o : Out) : (s.emit o).glb = s.glb := rfl
@[simp] theorem Chip.emit_cxl (o : Out) : (s.emit o).cxl = s.cxl := rfl
@[simp] theorem Chip.emit_rtb (o : Out) : (s.emit o).rtb = s.rtb := rfl
@[simp] theorem Chip.emit_pfx (o : Out) : (s.emit o).pfx = s.pfx := rfl
@[simp] theorem Chip.emit_smv (o : Out) : (s.emit o).smv = s.smv := rfl
@[simp] theorem Chip.emit_tiles (o : Out) : (s.emit o).tiles = s.tiles := rfl
@[simp] theorem Chip.emit_sch (o : Out) : (s.emit o).sch = s.sch := rfl
@[simp] theorem Chip.emit_sdgs (o : Out) : (s.emit o).sdgs = s.sdgs := rfl
@[simp] theorem Chip.emit_memu (o : Out) : (s.emit o).memu = s.memu := rfl
@[simp] theorem Chip.emit_links (o : Out) : (s.emit o).links = s.links := rfl
@[simp] theorem Chip.emit_xpt (o : Out) : (s.emit o).xpt = s.xpt := rfl
@[simp] theorem Chip.emit_shps (o : Out) : (s.emit o).shps = s.shps := rfl
@[simp] theorem Chip.emit_sec (o : Out) : (s.emit o).sec = s.sec := rfl
@[simp] theorem Chip.emit_flt (o : Out) : (s.emit o).flt = s.flt := rfl
@[simp] theorem Chip.emit_pwr (o : Out) : (s.emit o).pwr = s.pwr := rfl
@[simp] theorem Chip.emit_vgl (o : Out) : (s.emit o).vgl = s.vgl := rfl
@[simp] theorem Chip.emit_t3seen (o : Out) : (s.emit o).t3seen = s.t3seen := rfl
@[simp] theorem Chip.emit_out (o : Out) : (s.emit o).out = s.out ++ [o] := rfl
@[simp] theorem Chip.emit_free (o : Out) : (s.emit o).free = s.free := rfl

/-! ## Register writes -/

theorem Chip.withRegs_mem (r : SMap Word) : ({ s with regs := r } : Chip).mem = s.mem := rfl
theorem Chip.withRegs_alm (r : SMap Word) : ({ s with regs := r } : Chip).alm = s.alm := rfl
theorem Chip.withRegs_parts (r : SMap Word) : ({ s with regs := r } : Chip).parts = s.parts := rfl
theorem Chip.withRegs_glb (r : SMap Word) : ({ s with regs := r } : Chip).glb = s.glb := rfl
theorem Chip.withRegs_cxl (r : SMap Word) : ({ s with regs := r } : Chip).cxl = s.cxl := rfl
theorem Chip.withRegs_rtb (r : SMap Word) : ({ s with regs := r } : Chip).rtb = s.rtb := rfl
theorem Chip.withRegs_pfx (r : SMap Word) : ({ s with regs := r } : Chip).pfx = s.pfx := rfl
theorem Chip.withRegs_smv (r : SMap Word) : ({ s with regs := r } : Chip).smv = s.smv := rfl
theorem Chip.withRegs_tiles (r : SMap Word) : ({ s with regs := r } : Chip).tiles = s.tiles := rfl
theorem Chip.withRegs_sch (r : SMap Word) : ({ s with regs := r } : Chip).sch = s.sch := rfl
theorem Chip.withRegs_sdgs (r : SMap Word) : ({ s with regs := r } : Chip).sdgs = s.sdgs := rfl
theorem Chip.withRegs_memu (r : SMap Word) : ({ s with regs := r } : Chip).memu = s.memu := rfl
theorem Chip.withRegs_links (r : SMap Word) : ({ s with regs := r } : Chip).links = s.links := rfl
theorem Chip.withRegs_xpt (r : SMap Word) : ({ s with regs := r } : Chip).xpt = s.xpt := rfl
theorem Chip.withRegs_shps (r : SMap Word) : ({ s with regs := r } : Chip).shps = s.shps := rfl
theorem Chip.withRegs_sec (r : SMap Word) : ({ s with regs := r } : Chip).sec = s.sec := rfl
theorem Chip.withRegs_flt (r : SMap Word) : ({ s with regs := r } : Chip).flt = s.flt := rfl
theorem Chip.withRegs_pwr (r : SMap Word) : ({ s with regs := r } : Chip).pwr = s.pwr := rfl
theorem Chip.withRegs_vgl (r : SMap Word) : ({ s with regs := r } : Chip).vgl = s.vgl := rfl
theorem Chip.withRegs_t3seen (r : SMap Word) : ({ s with regs := r } : Chip).t3seen = s.t3seen := rfl
theorem Chip.withRegs_out (r : SMap Word) : ({ s with regs := r } : Chip).out = s.out := rfl
theorem Chip.withRegs_free (r : SMap Word) : ({ s with regs := r } : Chip).free = s.free := rfl

theorem Chip.withRegs_regs (r : SMap Word) : ({ s with regs := r } : Chip).regs = r := rfl

theorem Chip.wr_regs (a v : Nat) : (s.wr a v).regs = s.regs.putOr a (resetWord a) (BitVec.ofNat 32 v) := s.withRegs_regs _

/-! ## wr -/

@[simp] theorem Chip.wr_mem (a v : Nat) : (s.wr a v).mem = s.mem := s.withRegs_mem _
@[simp] theorem Chip.wr_alm (a v : Nat) : (s.wr a v).alm = s.alm := s.withRegs_alm _
@[simp] theorem Chip.wr_parts (a v : Nat) : (s.wr a v).parts = s.parts := s.withRegs_parts _
@[simp] theorem Chip.wr_glb (a v : Nat) : (s.wr a v).glb = s.glb := s.withRegs_glb _
@[simp] theorem Chip.wr_cxl (a v : Nat) : (s.wr a v).cxl = s.cxl := s.withRegs_cxl _
@[simp] theorem Chip.wr_rtb (a v : Nat) : (s.wr a v).rtb = s.rtb := s.withRegs_rtb _
@[simp] theorem Chip.wr_pfx (a v : Nat) : (s.wr a v).pfx = s.pfx := s.withRegs_pfx _
@[simp] theorem Chip.wr_smv (a v : Nat) : (s.wr a v).smv = s.smv := s.withRegs_smv _
@[simp] theorem Chip.wr_tiles (a v : Nat) : (s.wr a v).tiles = s.tiles := s.withRegs_tiles _
@[simp] theorem Chip.wr_sch (a v : Nat) : (s.wr a v).sch = s.sch := s.withRegs_sch _
@[simp] theorem Chip.wr_sdgs (a v : Nat) : (s.wr a v).sdgs = s.sdgs := s.withRegs_sdgs _
@[simp] theorem Chip.wr_memu (a v : Nat) : (s.wr a v).memu = s.memu := s.withRegs_memu _
@[simp] theorem Chip.wr_links (a v : Nat) : (s.wr a v).links = s.links := s.withRegs_links _
@[simp] theorem Chip.wr_xpt (a v : Nat) : (s.wr a v).xpt = s.xpt := s.withRegs_xpt _
@[simp] theorem Chip.wr_shps (a v : Nat) : (s.wr a v).shps = s.shps := s.withRegs_shps _
@[simp] theorem Chip.wr_sec (a v : Nat) : (s.wr a v).sec = s.sec := s.withRegs_sec _
@[simp] theorem Chip.wr_flt (a v : Nat) : (s.wr a v).flt = s.flt := s.withRegs_flt _
@[simp] theorem Chip.wr_pwr (a v : Nat) : (s.wr a v).pwr = s.pwr := s.withRegs_pwr _
@[simp] theorem Chip.wr_vgl (a v : Nat) : (s.wr a v).vgl = s.vgl := s.withRegs_vgl _
@[simp] theorem Chip.wr_t3seen (a v : Nat) : (s.wr a v).t3seen = s.t3seen := s.withRegs_t3seen _
@[simp] theorem Chip.wr_out (a v : Nat) : (s.wr a v).out = s.out := s.withRegs_out _
@[simp] theorem Chip.wr_free (a v : Nat) : (s.wr a v).free = s.free := s.withRegs_free _

/-! ## wf -/

@[simp] theorem Chip.wf_mem (r : Fld) (v : Nat) : (s.wf r v).mem = s.mem := s.wr_mem _ _
@[simp] theorem Chip.wf_alm (r : Fld) (v : Nat) : (s.wf r v).alm = s.alm := s.wr_alm _ _
@[simp] theorem Chip.wf_parts (r : Fld) (v : Nat) : (s.wf r v).parts = s.parts := s.wr_parts _ _
@[simp] theorem Chip.wf_glb (r : Fld) (v : Nat) : (s.wf r v).glb = s.glb := s.wr_glb _ _
@[simp] theorem Chip.wf_cxl (r : Fld) (v : Nat) : (s.wf r v).cxl = s.cxl := s.wr_cxl _ _
@[simp] theorem Chip.wf_rtb (r : Fld) (v : Nat) : (s.wf r v).rtb = s.rtb := s.wr_rtb _ _
@[simp] theorem Chip.wf_pfx (r : Fld) (v : Nat) : (s.wf r v).pfx = s.pfx := s.wr_pfx _ _
@[simp] theorem Chip.wf_smv (r : Fld) (v : Nat) : (s.wf r v).smv = s.smv := s.wr_smv _ _
@[simp] theorem Chip.wf_tiles (r : Fld) (v : Nat) : (s.wf r v).tiles = s.tiles := s.wr_tiles _ _
@[simp] theorem Chip.wf_sch (r : Fld) (v : Nat) : (s.wf r v).sch = s.sch := s.wr_sch _ _
@[simp] theorem Chip.wf_sdgs (r : Fld) (v : Nat) : (s.wf r v).sdgs = s.sdgs := s.wr_sdgs _ _
@[simp] theorem Chip.wf_memu (r : Fld) (v : Nat) : (s.wf r v).memu = s.memu := s.wr_memu _ _
@[simp] theorem Chip.wf_links (r : Fld) (v : Nat) : (s.wf r v).links = s.links := s.wr_links _ _
@[simp] theorem Chip.wf_xpt (r : Fld) (v : Nat) : (s.wf r v).xpt = s.xpt := s.wr_xpt _ _
@[simp] theorem Chip.wf_shps (r : Fld) (v : Nat) : (s.wf r v).shps = s.shps := s.wr_shps _ _
@[simp] theorem Chip.wf_sec (r : Fld) (v : Nat) : (s.wf r v).sec = s.sec := s.wr_sec _ _
@[simp] theorem Chip.wf_flt (r : Fld) (v : Nat) : (s.wf r v).flt = s.flt := s.wr_flt _ _
@[simp] theorem Chip.wf_pwr (r : Fld) (v : Nat) : (s.wf r v).pwr = s.pwr := s.wr_pwr _ _
@[simp] theorem Chip.wf_vgl (r : Fld) (v : Nat) : (s.wf r v).vgl = s.vgl := s.wr_vgl _ _
@[simp] theorem Chip.wf_t3seen (r : Fld) (v : Nat) : (s.wf r v).t3seen = s.t3seen := s.wr_t3seen _ _
@[simp] theorem Chip.wf_out (r : Fld) (v : Nat) : (s.wf r v).out = s.out := s.wr_out _ _
@[simp] theorem Chip.wf_free (r : Fld) (v : Nat) : (s.wf r v).free = s.free := s.wr_free _ _

/-! ## wr64 -/

@[simp] theorem Chip.wr64_mem (a v : Nat) : (s.wr64 a v).mem = s.mem := ((s.wr _ _).wr_mem _ _).trans (s.wr_mem _ _)
@[simp] theorem Chip.wr64_alm (a v : Nat) : (s.wr64 a v).alm = s.alm := ((s.wr _ _).wr_alm _ _).trans (s.wr_alm _ _)
@[simp] theorem Chip.wr64_parts (a v : Nat) : (s.wr64 a v).parts = s.parts := ((s.wr _ _).wr_parts _ _).trans (s.wr_parts _ _)
@[simp] theorem Chip.wr64_glb (a v : Nat) : (s.wr64 a v).glb = s.glb := ((s.wr _ _).wr_glb _ _).trans (s.wr_glb _ _)
@[simp] theorem Chip.wr64_cxl (a v : Nat) : (s.wr64 a v).cxl = s.cxl := ((s.wr _ _).wr_cxl _ _).trans (s.wr_cxl _ _)
@[simp] theorem Chip.wr64_rtb (a v : Nat) : (s.wr64 a v).rtb = s.rtb := ((s.wr _ _).wr_rtb _ _).trans (s.wr_rtb _ _)
@[simp] theorem Chip.wr64_pfx (a v : Nat) : (s.wr64 a v).pfx = s.pfx := ((s.wr _ _).wr_pfx _ _).trans (s.wr_pfx _ _)
@[simp] theorem Chip.wr64_smv (a v : Nat) : (s.wr64 a v).smv = s.smv := ((s.wr _ _).wr_smv _ _).trans (s.wr_smv _ _)
@[simp] theorem Chip.wr64_tiles (a v : Nat) : (s.wr64 a v).tiles = s.tiles := ((s.wr _ _).wr_tiles _ _).trans (s.wr_tiles _ _)
@[simp] theorem Chip.wr64_sch (a v : Nat) : (s.wr64 a v).sch = s.sch := ((s.wr _ _).wr_sch _ _).trans (s.wr_sch _ _)
@[simp] theorem Chip.wr64_sdgs (a v : Nat) : (s.wr64 a v).sdgs = s.sdgs := ((s.wr _ _).wr_sdgs _ _).trans (s.wr_sdgs _ _)
@[simp] theorem Chip.wr64_memu (a v : Nat) : (s.wr64 a v).memu = s.memu := ((s.wr _ _).wr_memu _ _).trans (s.wr_memu _ _)
@[simp] theorem Chip.wr64_links (a v : Nat) : (s.wr64 a v).links = s.links := ((s.wr _ _).wr_links _ _).trans (s.wr_links _ _)
@[simp] theorem Chip.wr64_xpt (a v : Nat) : (s.wr64 a v).xpt = s.xpt := ((s.wr _ _).wr_xpt _ _).trans (s.wr_xpt _ _)
@[simp] theorem Chip.wr64_shps (a v : Nat) : (s.wr64 a v).shps = s.shps := ((s.wr _ _).wr_shps _ _).trans (s.wr_shps _ _)
@[simp] theorem Chip.wr64_sec (a v : Nat) : (s.wr64 a v).sec = s.sec := ((s.wr _ _).wr_sec _ _).trans (s.wr_sec _ _)
@[simp] theorem Chip.wr64_flt (a v : Nat) : (s.wr64 a v).flt = s.flt := ((s.wr _ _).wr_flt _ _).trans (s.wr_flt _ _)
@[simp] theorem Chip.wr64_pwr (a v : Nat) : (s.wr64 a v).pwr = s.pwr := ((s.wr _ _).wr_pwr _ _).trans (s.wr_pwr _ _)
@[simp] theorem Chip.wr64_vgl (a v : Nat) : (s.wr64 a v).vgl = s.vgl := ((s.wr _ _).wr_vgl _ _).trans (s.wr_vgl _ _)
@[simp] theorem Chip.wr64_t3seen (a v : Nat) : (s.wr64 a v).t3seen = s.t3seen := ((s.wr _ _).wr_t3seen _ _).trans (s.wr_t3seen _ _)
@[simp] theorem Chip.wr64_out (a v : Nat) : (s.wr64 a v).out = s.out := ((s.wr _ _).wr_out _ _).trans (s.wr_out _ _)
@[simp] theorem Chip.wr64_free (a v : Nat) : (s.wr64 a v).free = s.free := ((s.wr _ _).wr_free _ _).trans (s.wr_free _ _)

/-! ## add64 -/

@[simp] theorem Chip.add64_mem (a n : Nat) : (s.add64 a n).mem = s.mem := s.wr64_mem _ _
@[simp] theorem Chip.add64_alm (a n : Nat) : (s.add64 a n).alm = s.alm := s.wr64_alm _ _
@[simp] theorem Chip.add64_parts (a n : Nat) : (s.add64 a n).parts = s.parts := s.wr64_parts _ _
@[simp] theorem Chip.add64_glb (a n : Nat) : (s.add64 a n).glb = s.glb := s.wr64_glb _ _
@[simp] theorem Chip.add64_cxl (a n : Nat) : (s.add64 a n).cxl = s.cxl := s.wr64_cxl _ _
@[simp] theorem Chip.add64_rtb (a n : Nat) : (s.add64 a n).rtb = s.rtb := s.wr64_rtb _ _
@[simp] theorem Chip.add64_pfx (a n : Nat) : (s.add64 a n).pfx = s.pfx := s.wr64_pfx _ _
@[simp] theorem Chip.add64_smv (a n : Nat) : (s.add64 a n).smv = s.smv := s.wr64_smv _ _
@[simp] theorem Chip.add64_tiles (a n : Nat) : (s.add64 a n).tiles = s.tiles := s.wr64_tiles _ _
@[simp] theorem Chip.add64_sch (a n : Nat) : (s.add64 a n).sch = s.sch := s.wr64_sch _ _
@[simp] theorem Chip.add64_sdgs (a n : Nat) : (s.add64 a n).sdgs = s.sdgs := s.wr64_sdgs _ _
@[simp] theorem Chip.add64_memu (a n : Nat) : (s.add64 a n).memu = s.memu := s.wr64_memu _ _
@[simp] theorem Chip.add64_links (a n : Nat) : (s.add64 a n).links = s.links := s.wr64_links _ _
@[simp] theorem Chip.add64_xpt (a n : Nat) : (s.add64 a n).xpt = s.xpt := s.wr64_xpt _ _
@[simp] theorem Chip.add64_shps (a n : Nat) : (s.add64 a n).shps = s.shps := s.wr64_shps _ _
@[simp] theorem Chip.add64_sec (a n : Nat) : (s.add64 a n).sec = s.sec := s.wr64_sec _ _
@[simp] theorem Chip.add64_flt (a n : Nat) : (s.add64 a n).flt = s.flt := s.wr64_flt _ _
@[simp] theorem Chip.add64_pwr (a n : Nat) : (s.add64 a n).pwr = s.pwr := s.wr64_pwr _ _
@[simp] theorem Chip.add64_vgl (a n : Nat) : (s.add64 a n).vgl = s.vgl := s.wr64_vgl _ _
@[simp] theorem Chip.add64_t3seen (a n : Nat) : (s.add64 a n).t3seen = s.t3seen := s.wr64_t3seen _ _
@[simp] theorem Chip.add64_out (a n : Nat) : (s.add64 a n).out = s.out := s.wr64_out _ _
@[simp] theorem Chip.add64_free (a n : Nat) : (s.add64 a n).free = s.free := s.wr64_free _ _

/-! ## cntBy -/

@[simp] theorem Chip.cntBy_mem (a n : Nat) : (s.cntBy a n).mem = s.mem := s.wr_mem _ _
@[simp] theorem Chip.cntBy_alm (a n : Nat) : (s.cntBy a n).alm = s.alm := s.wr_alm _ _
@[simp] theorem Chip.cntBy_parts (a n : Nat) : (s.cntBy a n).parts = s.parts := s.wr_parts _ _
@[simp] theorem Chip.cntBy_glb (a n : Nat) : (s.cntBy a n).glb = s.glb := s.wr_glb _ _
@[simp] theorem Chip.cntBy_cxl (a n : Nat) : (s.cntBy a n).cxl = s.cxl := s.wr_cxl _ _
@[simp] theorem Chip.cntBy_rtb (a n : Nat) : (s.cntBy a n).rtb = s.rtb := s.wr_rtb _ _
@[simp] theorem Chip.cntBy_pfx (a n : Nat) : (s.cntBy a n).pfx = s.pfx := s.wr_pfx _ _
@[simp] theorem Chip.cntBy_smv (a n : Nat) : (s.cntBy a n).smv = s.smv := s.wr_smv _ _
@[simp] theorem Chip.cntBy_tiles (a n : Nat) : (s.cntBy a n).tiles = s.tiles := s.wr_tiles _ _
@[simp] theorem Chip.cntBy_sch (a n : Nat) : (s.cntBy a n).sch = s.sch := s.wr_sch _ _
@[simp] theorem Chip.cntBy_sdgs (a n : Nat) : (s.cntBy a n).sdgs = s.sdgs := s.wr_sdgs _ _
@[simp] theorem Chip.cntBy_memu (a n : Nat) : (s.cntBy a n).memu = s.memu := s.wr_memu _ _
@[simp] theorem Chip.cntBy_links (a n : Nat) : (s.cntBy a n).links = s.links := s.wr_links _ _
@[simp] theorem Chip.cntBy_xpt (a n : Nat) : (s.cntBy a n).xpt = s.xpt := s.wr_xpt _ _
@[simp] theorem Chip.cntBy_shps (a n : Nat) : (s.cntBy a n).shps = s.shps := s.wr_shps _ _
@[simp] theorem Chip.cntBy_sec (a n : Nat) : (s.cntBy a n).sec = s.sec := s.wr_sec _ _
@[simp] theorem Chip.cntBy_flt (a n : Nat) : (s.cntBy a n).flt = s.flt := s.wr_flt _ _
@[simp] theorem Chip.cntBy_pwr (a n : Nat) : (s.cntBy a n).pwr = s.pwr := s.wr_pwr _ _
@[simp] theorem Chip.cntBy_vgl (a n : Nat) : (s.cntBy a n).vgl = s.vgl := s.wr_vgl _ _
@[simp] theorem Chip.cntBy_t3seen (a n : Nat) : (s.cntBy a n).t3seen = s.t3seen := s.wr_t3seen _ _
@[simp] theorem Chip.cntBy_out (a n : Nat) : (s.cntBy a n).out = s.out := s.wr_out _ _
@[simp] theorem Chip.cntBy_free (a n : Nat) : (s.cntBy a n).free = s.free := s.wr_free _ _

/-! ## cnt -/

@[simp] theorem Chip.cnt_mem (a : Nat) : (s.cnt a).mem = s.mem := s.cntBy_mem _ _
@[simp] theorem Chip.cnt_alm (a : Nat) : (s.cnt a).alm = s.alm := s.cntBy_alm _ _
@[simp] theorem Chip.cnt_parts (a : Nat) : (s.cnt a).parts = s.parts := s.cntBy_parts _ _
@[simp] theorem Chip.cnt_glb (a : Nat) : (s.cnt a).glb = s.glb := s.cntBy_glb _ _
@[simp] theorem Chip.cnt_cxl (a : Nat) : (s.cnt a).cxl = s.cxl := s.cntBy_cxl _ _
@[simp] theorem Chip.cnt_rtb (a : Nat) : (s.cnt a).rtb = s.rtb := s.cntBy_rtb _ _
@[simp] theorem Chip.cnt_pfx (a : Nat) : (s.cnt a).pfx = s.pfx := s.cntBy_pfx _ _
@[simp] theorem Chip.cnt_smv (a : Nat) : (s.cnt a).smv = s.smv := s.cntBy_smv _ _
@[simp] theorem Chip.cnt_tiles (a : Nat) : (s.cnt a).tiles = s.tiles := s.cntBy_tiles _ _
@[simp] theorem Chip.cnt_sch (a : Nat) : (s.cnt a).sch = s.sch := s.cntBy_sch _ _
@[simp] theorem Chip.cnt_sdgs (a : Nat) : (s.cnt a).sdgs = s.sdgs := s.cntBy_sdgs _ _
@[simp] theorem Chip.cnt_memu (a : Nat) : (s.cnt a).memu = s.memu := s.cntBy_memu _ _
@[simp] theorem Chip.cnt_links (a : Nat) : (s.cnt a).links = s.links := s.cntBy_links _ _
@[simp] theorem Chip.cnt_xpt (a : Nat) : (s.cnt a).xpt = s.xpt := s.cntBy_xpt _ _
@[simp] theorem Chip.cnt_shps (a : Nat) : (s.cnt a).shps = s.shps := s.cntBy_shps _ _
@[simp] theorem Chip.cnt_sec (a : Nat) : (s.cnt a).sec = s.sec := s.cntBy_sec _ _
@[simp] theorem Chip.cnt_flt (a : Nat) : (s.cnt a).flt = s.flt := s.cntBy_flt _ _
@[simp] theorem Chip.cnt_pwr (a : Nat) : (s.cnt a).pwr = s.pwr := s.cntBy_pwr _ _
@[simp] theorem Chip.cnt_vgl (a : Nat) : (s.cnt a).vgl = s.vgl := s.cntBy_vgl _ _
@[simp] theorem Chip.cnt_t3seen (a : Nat) : (s.cnt a).t3seen = s.t3seen := s.cntBy_t3seen _ _
@[simp] theorem Chip.cnt_out (a : Nat) : (s.cnt a).out = s.out := s.cntBy_out _ _
@[simp] theorem Chip.cnt_free (a : Nat) : (s.cnt a).free = s.free := s.cntBy_free _ _

/-! ## sub -/

@[simp] theorem Chip.sub_mem (a n : Nat) : (s.sub a n).mem = s.mem := s.wr_mem _ _
@[simp] theorem Chip.sub_alm (a n : Nat) : (s.sub a n).alm = s.alm := s.wr_alm _ _
@[simp] theorem Chip.sub_parts (a n : Nat) : (s.sub a n).parts = s.parts := s.wr_parts _ _
@[simp] theorem Chip.sub_glb (a n : Nat) : (s.sub a n).glb = s.glb := s.wr_glb _ _
@[simp] theorem Chip.sub_cxl (a n : Nat) : (s.sub a n).cxl = s.cxl := s.wr_cxl _ _
@[simp] theorem Chip.sub_rtb (a n : Nat) : (s.sub a n).rtb = s.rtb := s.wr_rtb _ _
@[simp] theorem Chip.sub_pfx (a n : Nat) : (s.sub a n).pfx = s.pfx := s.wr_pfx _ _
@[simp] theorem Chip.sub_smv (a n : Nat) : (s.sub a n).smv = s.smv := s.wr_smv _ _
@[simp] theorem Chip.sub_tiles (a n : Nat) : (s.sub a n).tiles = s.tiles := s.wr_tiles _ _
@[simp] theorem Chip.sub_sch (a n : Nat) : (s.sub a n).sch = s.sch := s.wr_sch _ _
@[simp] theorem Chip.sub_sdgs (a n : Nat) : (s.sub a n).sdgs = s.sdgs := s.wr_sdgs _ _
@[simp] theorem Chip.sub_memu (a n : Nat) : (s.sub a n).memu = s.memu := s.wr_memu _ _
@[simp] theorem Chip.sub_links (a n : Nat) : (s.sub a n).links = s.links := s.wr_links _ _
@[simp] theorem Chip.sub_xpt (a n : Nat) : (s.sub a n).xpt = s.xpt := s.wr_xpt _ _
@[simp] theorem Chip.sub_shps (a n : Nat) : (s.sub a n).shps = s.shps := s.wr_shps _ _
@[simp] theorem Chip.sub_sec (a n : Nat) : (s.sub a n).sec = s.sec := s.wr_sec _ _
@[simp] theorem Chip.sub_flt (a n : Nat) : (s.sub a n).flt = s.flt := s.wr_flt _ _
@[simp] theorem Chip.sub_pwr (a n : Nat) : (s.sub a n).pwr = s.pwr := s.wr_pwr _ _
@[simp] theorem Chip.sub_vgl (a n : Nat) : (s.sub a n).vgl = s.vgl := s.wr_vgl _ _
@[simp] theorem Chip.sub_t3seen (a n : Nat) : (s.sub a n).t3seen = s.t3seen := s.wr_t3seen _ _
@[simp] theorem Chip.sub_out (a n : Nat) : (s.sub a n).out = s.out := s.wr_out _ _
@[simp] theorem Chip.sub_free (a n : Nat) : (s.sub a n).free = s.free := s.wr_free _ _

end Sys2Proof.Machine
end

