-- ==== Sys2Proof/Laws/Regs.lean ====
section
/-! SUPPORT. What a write of a register does to every register and field, and that the register file keeps its canonical form. -/

namespace Sys2Proof.Machine

open Sys2Proof

variable (s : Chip)

theorem Chip.word_wr_same (a v : Nat) : (s.wr a v).word a = BitVec.ofNat 32 v := by
  unfold Chip.word
  rw [Chip.wr_regs]
  exact SMap.getD_putOr_same s.regs a (resetWord a) (BitVec.ofNat 32 v)

theorem Chip.word_wr_other {a b : Nat} (v : Nat) (h : b ≠ a) : (s.wr a v).word b = s.word b := by
  unfold Chip.word
  rw [Chip.wr_regs]
  exact SMap.getD_putOr_other s.regs (resetWord a) (BitVec.ofNat 32 v) (resetWord b) h

/-- A register reads as the value stored in it, 32 bits of it. -/
@[simp] theorem Chip.rd_wr_same (a v : Nat) : (s.wr a v).rd a = v % 2 ^ 32 := by
  unfold Chip.rd
  rw [Chip.word_wr_same]
  exact BitVec.toNat_ofNat v 32

/-- No other register changes. -/
theorem Chip.rd_wr_other {a b : Nat} (v : Nat) (h : b ≠ a) : (s.wr a v).rd b = s.rd b := by
  unfold Chip.rd
  rw [Chip.word_wr_other s v h]

theorem Chip.rd_lt (a : Nat) : s.rd a < 2 ^ 32 := (s.word a).isLt

theorem Chip.rd_wf_other (f : Fld) (v : Nat) {b : Nat} (h : b ≠ f.reg) : (s.wf f v).rd b = s.rd b := s.rd_wr_other _ h

theorem Chip.rd_wf_same (f : Fld) (v : Nat) (h : f.lo ≤ f.hi) (h32 : f.hi < 32) :
    (s.wf f v).rd f.reg = putBits (s.rd f.reg) f.hi f.lo v := by
  unfold Chip.wf
  rw [Chip.rd_wr_same]
  exact Nat.mod_eq_of_lt (putBits_lt _ _ _ _ h h32 (s.rd_lt _))

/-- A field reads as the value written to it. -/
theorem Chip.rf_wf_same (f : Fld) (v : Nat) (h : f.lo ≤ f.hi) (h32 : f.hi < 32) :
    (s.wf f v).rf f = v % 2 ^ (f.hi + 1 - f.lo) := by
  unfold Chip.rf
  rw [Chip.rd_wf_same s f v h h32]
  exact bits_putBits_same _ _ _ _ h

/-- A field of another register is left alone. -/
theorem Chip.rf_wf_reg (f g : Fld) (v : Nat) (h : g.reg ≠ f.reg) : (s.wf f v).rf g = s.rf g := by
  unfold Chip.rf
  rw [Chip.rd_wf_other s f v h]

/-- A field of the same register that shares no bit with the one written is left alone. -/
theorem Chip.rf_wf_other (f g : Fld) (v : Nat) (h : f.lo ≤ f.hi) (h32 : f.hi < 32) (hr : g.reg = f.reg) (hd : g.hi < f.lo ∨ f.hi < g.lo) :
    (s.wf f v).rf g = s.rf g := by
  unfold Chip.rf
  rw [hr, Chip.rd_wf_same s f v h h32]
  exact bits_putBits_other _ _ _ _ _ _ h hd

theorem Chip.rf_wr_other (f : Fld) (a v : Nat) (h : f.reg ≠ a) : (s.wr a v).rf f = s.rf f := by
  unfold Chip.rf
  rw [Chip.rd_wr_other s v h]

/-! ## Reads depend on the register file alone -/

theorem Chip.rd_of_regs {s t : Chip} (h : t.regs = s.regs) (a : Nat) : t.rd a = s.rd a := by
  unfold Chip.rd Chip.word
  rw [h]

theorem Chip.rf_of_regs {s t : Chip} (h : t.regs = s.regs) (f : Fld) : t.rf f = s.rf f := by
  unfold Chip.rf
  rw [Chip.rd_of_regs h]

/-! ## The canonical form (Chip.regsOk) -/

theorem Chip.regsOk_iff : s.regsOk = true ↔ SMap.rising s.regs = true ∧ ∀ x ∈ s.regs, x.2 ≠ resetWord x.1 := by
  simp [Chip.regsOk, List.all_eq_true]

/-- Writing a register keeps the register file's canonical form. -/
theorem Chip.regsOk_wr (a v : Nat) (h : s.regsOk = true) : (s.wr a v).regsOk = true := by
  rw [Chip.regsOk_iff] at h ⊢
  rw [Chip.wr_regs]
  refine ⟨SMap.rising_putOr _ _ _ _ h.1, ?_⟩
  intro x hx
  unfold SMap.putOr at hx
  split at hx
  · exact h.2 x (SMap.mem_del _ _ _ hx)
  · rename_i hne
    rcases SMap.mem_put _ _ _ _ hx with rfl | hx
    · exact hne
    · exact h.2 x hx

theorem Chip.regsOk_wf (f : Fld) (v : Nat) (h : s.regsOk = true) : (s.wf f v).regsOk = true := s.regsOk_wr _ _ h

theorem Chip.regsOk_cnt (a : Nat) (h : s.regsOk = true) : (s.cnt a).regsOk = true := s.regsOk_wr _ _ h

end Sys2Proof.Machine
end

