-- ==== Sys2Proof/Laws/Control.lean ====
section
/-! SUPPORT. The shared ways a command runs: who it reaches and who may write, what follows it, and what raising an error leaves alone. -/

namespace Sys2Proof.Machine

open Sys2Proof

/-! ## The gates -/

theorem State.run_runs (s : State) (f : Chip → Chip) (h : s.runs = true) : s.run f = .next { s with chip := (f s.chip).settle } := by
  simp only [State.runs, Bool.and_eq_true, Bool.not_eq_true'] at h
  simp [State.run, State.onChip, h.1, h.2]

theorem State.run_stopped (s : State) (f : Chip → Chip) (h : s.runs = false) : s.run f = .next s := by
  have : (s.chip.pwr.off || s.chip.pwr.purged) = true := by
    simp only [State.runs] at h
    revert h
    cases s.chip.pwr.off <;> cases s.chip.pwr.purged <;> simp
  simp [State.run, State.onChip, this]

theorem State.runOn_runs (s : State) (ok : Bool) (f : Chip → Chip) (h : s.runs = true) (hok : ok = true) :
    s.runOn ok f = .next { s with chip := (f s.chip).settle } := by
  unfold State.runOn
  rw [State.run_runs s _ h, if_pos hok]

theorem State.onMgmt_on (s : State) (f : Chip → Chip) (h : s.chip.pwr.off = false) : s.onMgmt f = .next { s with chip := f s.chip } := by
  simp [State.onMgmt, h]

theorem State.onMgmt_off (s : State) (f : Chip → Chip) (h : s.chip.pwr.off = true) : s.onMgmt f = .next s := by
  simp [State.onMgmt, h]

/-! ## Writes of command registers and of registers (R545, R547) -/

theorem Chip.accepts_iff (s : Chip) (a : Access) (pg : Nat) (shared : Bool) (parts : List Nat) :
    s.accepts a pg shared parts = true ↔ s.reaches a.writer pg = true ∧ s.judge a pg shared parts = none := by
  simp [Chip.accepts]

theorem Chip.command_accepted (s : Chip) (a : Access) (pg off val : Nat) (shared : Bool) (parts : List Nat) (excluded run : Chip → Chip)
    (h : s.accepts a pg shared parts = true) (hd : s.draining pg = false) : s.command a pg off val shared parts excluded run = run s := by
  rw [Chip.accepts_iff] at h
  simp [Chip.command, h.1, h.2, hd]

theorem Chip.command_draining (s : Chip) (a : Access) (pg off val : Nat) (shared : Bool) (parts : List Nat) (excluded run : Chip → Chip)
    (h : s.accepts a pg shared parts = true) (hd : s.draining pg = true) : s.command a pg off val shared parts excluded run = s := by
  rw [Chip.accepts_iff] at h
  simp [Chip.command, h.1, h.2, hd]

theorem Chip.command_refused (s : Chip) (a : Access) (pg off val : Nat) (shared : Bool) (parts : List Nat) (excluded run : Chip → Chip) (o : Nat)
    (h : s.reaches a.writer pg = true) (hj : s.judge a pg shared parts = some o) :
    s.command a pg off val shared parts excluded run
      = if o = 2 then excluded (s.logWrite a.writer (regAt pg off) val o) else s.logWrite a.writer (regAt pg off) val o := by
  simp [Chip.command, h, hj]

theorem Chip.command_unreached (s : Chip) (a : Access) (pg off val : Nat) (shared : Bool) (parts : List Nat) (excluded run : Chip → Chip)
    (h : s.reaches a.writer pg = false) : s.command a pg off val shared parts excluded run = s := by
  simp [Chip.command, h]

theorem Chip.write_accepted (s : Chip) (a : Access) (pg off val : Nat) (shared : Bool) (parts : List Nat) (run : Chip → Chip)
    (h : s.accepts a pg shared parts = true) : s.write a pg off val shared parts run = run s := by
  rw [Chip.accepts_iff] at h
  simp [Chip.write, h.1, h.2]

theorem Chip.write_refused (s : Chip) (a : Access) (pg off val : Nat) (shared : Bool) (parts : List Nat) (run : Chip → Chip) (o : Nat)
    (h : s.reaches a.writer pg = true) (hj : s.judge a pg shared parts = some o) :
    s.write a pg off val shared parts run = s.logWrite a.writer (regAt pg off) val o := by
  simp [Chip.write, h, hj]

theorem Chip.write_unreached (s : Chip) (a : Access) (pg off val : Nat) (shared : Bool) (parts : List Nat) (run : Chip → Chip)
    (h : s.reaches a.writer pg = false) : s.write a pg off val shared parts run = s := by
  simp [Chip.write, h]

/-! ## What follows a command -/

/-- With nothing waiting, nothing follows a command. -/
theorem Chip.settle_calm (s : Chip) (h : s.calm = true) : s.settle = s := by
  simp only [Chip.calm, Bool.and_eq_true, List.isEmpty_iff, beq_iff_eq] at h
  obtain ⟨⟨⟨h1, h2⟩, h3⟩, h4⟩ := h
  unfold Chip.settle
  simp [h1, Chip.reportEnded, Chip.windowGo, h2, Chip.settleTouched, h3, h4]

/-- Whether anything waits depends on the transport, the window's row and the lines met alone. -/
theorem Chip.calm_congr {s t : Chip} (hx : t.xpt = s.xpt) (ha : t.alm.row = s.alm.row) (hc : t.cxl.touched = s.cxl.touched) : t.calm = s.calm := by
  unfold Chip.calm Chip.busyCtxs
  rw [hx, ha, hc]

/-! ## Repeated steps -/

/-- What no step of a repetition changes, the repetition does not change. -/
theorem Chip.each_keeps {α β : Type} (g : Chip → β) (s : Chip) (l : List α) (f : Chip → α → Chip) (h : ∀ s x, g (f s x) = g s) :
    g (s.each l f) = g s := by
  unfold Chip.each
  induction l generalizing s with
  | nil => rfl
  | cons x l ih => rw [List.foldl_cons, ih, h]

@[simp] theorem Chip.each_nil {α : Type} (s : Chip) (f : Chip → α → Chip) : s.each [] f = s := rfl

/-! ## Raising an error -/

theorem Chip.sendRecord_regs (s : Chip) (id : Nat) (b : Bytes) : (s.sendRecord id b).regs = s.regs := by
  unfold Chip.sendRecord; split <;> rfl
theorem Chip.sendEvents_regs (s : Chip) (pg c : Nat) : (s.sendEvents pg c).regs = s.regs := by
  unfold Chip.sendEvents; exact Chip.each_keeps Chip.regs _ _ _ (fun s x => Chip.sendRecord_regs s _ _)
theorem Chip.msix_regs (s : Chip) (v : Nat) : (s.msix v).regs = s.regs := by
  unfold Chip.msix; split <;> [rfl; (split <;> rfl)]
theorem Chip.signalIfNew_regs (w : Bool) (s : Chip) (pg : Nat) : (s.signalIfNew w pg).regs = s.regs := by
  unfold Chip.signalIfNew
  split
  · simp only []
    split <;> split <;> simp only [Chip.sendEvents_regs, Chip.msix_regs]
  · rfl
theorem Chip.sendRecord_mem (s : Chip) (id : Nat) (b : Bytes) : (s.sendRecord id b).mem = s.mem := by
  unfold Chip.sendRecord; split <;> rfl
theorem Chip.sendEvents_mem (s : Chip) (pg c : Nat) : (s.sendEvents pg c).mem = s.mem := by
  unfold Chip.sendEvents; exact Chip.each_keeps Chip.mem _ _ _ (fun s x => Chip.sendRecord_mem s _ _)
theorem Chip.msix_mem (s : Chip) (v : Nat) : (s.msix v).mem = s.mem := by
  unfold Chip.msix; split <;> [rfl; (split <;> rfl)]
theorem Chip.signalIfNew_mem (w : Bool) (s : Chip) (pg : Nat) : (s.signalIfNew w pg).mem = s.mem := by
  unfold Chip.signalIfNew
  split
  · simp only []
    split <;> split <;> simp only [Chip.sendEvents_mem, Chip.msix_mem]
  · rfl
@[simp] theorem Chip.raise_mem (s : Chip) (pg b : Nat) : (s.raise pg b).mem = s.mem := by
  unfold Chip.raise
  simp only []
  rw [Chip.signalIfNew_mem]
  split <;> split <;> simp only [Chip.sendEvents_mem, Chip.wr_mem]
theorem Chip.sendRecord_alm (s : Chip) (id : Nat) (b : Bytes) : (s.sendRecord id b).alm = s.alm := by
  unfold Chip.sendRecord; split <;> rfl
theorem Chip.sendEvents_alm (s : Chip) (pg c : Nat) : (s.sendEvents pg c).alm = s.alm := by
  unfold Chip.sendEvents; exact Chip.each_keeps Chip.alm _ _ _ (fun s x => Chip.sendRecord_alm s _ _)
theorem Chip.msix_alm (s : Chip) (v : Nat) : (s.msix v).alm = s.alm := by
  unfold Chip.msix; split <;> [rfl; (split <;> rfl)]
theorem Chip.signalIfNew_alm (w : Bool) (s : Chip) (pg : Nat) : (s.signalIfNew w pg).alm = s.alm := by
  unfold Chip.signalIfNew
  split
  · simp only []
    split <;> split <;> simp only [Chip.sendEvents_alm, Chip.msix_alm]
  · rfl
@[simp] theorem Chip.raise_alm (s : Chip) (pg b : Nat) : (s.raise pg b).alm = s.alm := by
  unfold Chip.raise
  simp only []
  rw [Chip.signalIfNew_alm]
  split <;> split <;> simp only [Chip.sendEvents_alm, Chip.wr_alm]
theorem Chip.sendRecord_parts (s : Chip) (id : Nat) (b : Bytes) : (s.sendRecord id b).parts = s.parts := by
  unfold Chip.sendRecord; split <;> rfl
theorem Chip.sendEvents_parts (s : Chip) (pg c : Nat) : (s.sendEvents pg c).parts = s.parts := by
  unfold Chip.sendEvents; exact Chip.each_keeps Chip.parts _ _ _ (fun s x => Chip.sendRecord_parts s _ _)
theorem Chip.msix_parts (s : Chip) (v : Nat) : (s.msix v).parts = s.parts := by
  unfold Chip.msix; split <;> [rfl; (split <;> rfl)]
theorem Chip.signalIfNew_parts (w : Bool) (s : Chip) (pg : Nat) : (s.signalIfNew w pg).parts = s.parts := by
  unfold Chip.signalIfNew
  split
  · simp only []
    split <;> split <;> simp only [Chip.sendEvents_parts, Chip.msix_parts]
  · rfl
@[simp] theorem Chip.raise_parts (s : Chip) (pg b : Nat) : (s.raise pg b).parts = s.parts := by
  unfold Chip.raise
  simp only []
  rw [Chip.signalIfNew_parts]
  split <;> split <;> simp only [Chip.sendEvents_parts, Chip.wr_parts]
theorem Chip.sendRecord_glb (s : Chip) (id : Nat) (b : Bytes) : (s.sendRecord id b).glb = s.glb := by
  unfold Chip.sendRecord; split <;> rfl
theorem Chip.sendEvents_glb (s : Chip) (pg c : Nat) : (s.sendEvents pg c).glb = s.glb := by
  unfold Chip.sendEvents; exact Chip.each_keeps Chip.glb _ _ _ (fun s x => Chip.sendRecord_glb s _ _)
theorem Chip.msix_glb (s : Chip) (v : Nat) : (s.msix v).glb = s.glb := by
  unfold Chip.msix; split <;> [rfl; (split <;> rfl)]
theorem Chip.signalIfNew_glb (w : Bool) (s : Chip) (pg : Nat) : (s.signalIfNew w pg).glb = s.glb := by
  unfold Chip.signalIfNew
  split
  · simp only []
    split <;> split <;> simp only [Chip.sendEvents_glb, Chip.msix_glb]
  · rfl
@[simp] theorem Chip.raise_glb (s : Chip) (pg b : Nat) : (s.raise pg b).glb = s.glb := by
  unfold Chip.raise
  simp only []
  rw [Chip.signalIfNew_glb]
  split <;> split <;> simp only [Chip.sendEvents_glb, Chip.wr_glb]
theorem Chip.sendRecord_cxl (s : Chip) (id : Nat) (b : Bytes) : (s.sendRecord id b).cxl = s.cxl := by
  unfold Chip.sendRecord; split <;> rfl
theorem Chip.sendEvents_cxl (s : Chip) (pg c : Nat) : (s.sendEvents pg c).cxl = s.cxl := by
  unfold Chip.sendEvents; exact Chip.each_keeps Chip.cxl _ _ _ (fun s x => Chip.sendRecord_cxl s _ _)
theorem Chip.sendRecord_rtb (s : Chip) (id : Nat) (b : Bytes) : (s.sendRecord id b).rtb = s.rtb := by
  unfold Chip.sendRecord; split <;> rfl
theorem Chip.sendEvents_rtb (s : Chip) (pg c : Nat) : (s.sendEvents pg c).rtb = s.rtb := by
  unfold Chip.sendEvents; exact Chip.each_keeps Chip.rtb _ _ _ (fun s x => Chip.sendRecord_rtb s _ _)
theorem Chip.msix_rtb (s : Chip) (v : Nat) : (s.msix v).rtb = s.rtb := by
  unfold Chip.msix; split <;> [rfl; (split <;> rfl)]
theorem Chip.signalIfNew_rtb (w : Bool) (s : Chip) (pg : Nat) : (s.signalIfNew w pg).rtb = s.rtb := by
  unfold Chip.signalIfNew
  split
  · simp only []
    split <;> split <;> simp only [Chip.sendEvents_rtb, Chip.msix_rtb]
  · rfl
@[simp] theorem Chip.raise_rtb (s : Chip) (pg b : Nat) : (s.raise pg b).rtb = s.rtb := by
  unfold Chip.raise
  simp only []
  rw [Chip.signalIfNew_rtb]
  split <;> split <;> simp only [Chip.sendEvents_rtb, Chip.wr_rtb]
theorem Chip.sendRecord_pfx (s : Chip) (id : Nat) (b : Bytes) : (s.sendRecord id b).pfx = s.pfx := by
  unfold Chip.sendRecord; split <;> rfl
theorem Chip.sendEvents_pfx (s : Chip) (pg c : Nat) : (s.sendEvents pg c).pfx = s.pfx := by
  unfold Chip.sendEvents; exact Chip.each_keeps Chip.pfx _ _ _ (fun s x => Chip.sendRecord_pfx s _ _)
theorem Chip.msix_pfx (s : Chip) (v : Nat) : (s.msix v).pfx = s.pfx := by
  unfold Chip.msix; split <;> [rfl; (split <;> rfl)]
theorem Chip.signalIfNew_pfx (w : Bool) (s : Chip) (pg : Nat) : (s.signalIfNew w pg).pfx = s.pfx := by
  unfold Chip.signalIfNew
  split
  · simp only []
    split <;> split <;> simp only [Chip.sendEvents_pfx, Chip.msix_pfx]
  · rfl
@[simp] theorem Chip.raise_pfx (s : Chip) (pg b : Nat) : (s.raise pg b).pfx = s.pfx := by
  unfold Chip.raise
  simp only []
  rw [Chip.signalIfNew_pfx]
  split <;> split <;> simp only [Chip.sendEvents_pfx, Chip.wr_pfx]
theorem Chip.sendRecord_smv (s : Chip) (id : Nat) (b : Bytes) : (s.sendRecord id b).smv = s.smv := by
  unfold Chip.sendRecord; split <;> rfl
theorem Chip.sendEvents_smv (s : Chip) (pg c : Nat) : (s.sendEvents pg c).smv = s.smv := by
  unfold Chip.sendEvents; exact Chip.each_keeps Chip.smv _ _ _ (fun s x => Chip.sendRecord_smv s _ _)
theorem Chip.msix_smv (s : Chip) (v : Nat) : (s.msix v).smv = s.smv := by
  unfold Chip.msix; split <;> [rfl; (split <;> rfl)]
theorem Chip.signalIfNew_smv (w : Bool) (s : Chip) (pg : Nat) : (s.signalIfNew w pg).smv = s.smv := by
  unfold Chip.signalIfNew
  split
  · simp only []
    split <;> split <;> simp only [Chip.sendEvents_smv, Chip.msix_smv]
  · rfl
@[simp] theorem Chip.raise_smv (s : Chip) (pg b : Nat) : (s.raise pg b).smv = s.smv := by
  unfold Chip.raise
  simp only []
  rw [Chip.signalIfNew_smv]
  split <;> split <;> simp only [Chip.sendEvents_smv, Chip.wr_smv]
theorem Chip.sendRecord_tiles (s : Chip) (id : Nat) (b : Bytes) : (s.sendRecord id b).tiles = s.tiles := by
  unfold Chip.sendRecord; split <;> rfl
theorem Chip.sendEvents_tiles (s : Chip) (pg c : Nat) : (s.sendEvents pg c).tiles = s.tiles := by
  unfold Chip.sendEvents; exact Chip.each_keeps Chip.tiles _ _ _ (fun s x => Chip.sendRecord_tiles s _ _)
theorem Chip.msix_tiles (s : Chip) (v : Nat) : (s.msix v).tiles = s.tiles := by
  unfold Chip.msix; split <;> [rfl; (split <;> rfl)]
theorem Chip.signalIfNew_tiles (w : Bool) (s : Chip) (pg : Nat) : (s.signalIfNew w pg).tiles = s.tiles := by
  unfold Chip.signalIfNew
  split
  · simp only []
    split <;> split <;> simp only [Chip.sendEvents_tiles, Chip.msix_tiles]
  · rfl
@[simp] theorem Chip.raise_tiles (s : Chip) (pg b : Nat) : (s.raise pg b).tiles = s.tiles := by
  unfold Chip.raise
  simp only []
  rw [Chip.signalIfNew_tiles]
  split <;> split <;> simp only [Chip.sendEvents_tiles, Chip.wr_tiles]
theorem Chip.sendRecord_sch (s : Chip) (id : Nat) (b : Bytes) : (s.sendRecord id b).sch = s.sch := by
  unfold Chip.sendRecord; split <;> rfl
theorem Chip.sendEvents_sch (s : Chip) (pg c : Nat) : (s.sendEvents pg c).sch = s.sch := by
  unfold Chip.sendEvents; exact Chip.each_keeps Chip.sch _ _ _ (fun s x => Chip.sendRecord_sch s _ _)
theorem Chip.msix_sch (s : Chip) (v : Nat) : (s.msix v).sch = s.sch := by
  unfold Chip.msix; split <;> [rfl; (split <;> rfl)]
theorem Chip.signalIfNew_sch (w : Bool) (s : Chip) (pg : Nat) : (s.signalIfNew w pg).sch = s.sch := by
  unfold Chip.signalIfNew
  split
  · simp only []
    split <;> split <;> simp only [Chip.sendEvents_sch, Chip.msix_sch]
  · rfl
@[simp] theorem Chip.raise_sch (s : Chip) (pg b : Nat) : (s.raise pg b).sch = s.sch := by
  unfold Chip.raise
  simp only []
  rw [Chip.signalIfNew_sch]
  split <;> split <;> simp only [Chip.sendEvents_sch, Chip.wr_sch]
theorem Chip.sendRecord_sdgs (s : Chip) (id : Nat) (b : Bytes) : (s.sendRecord id b).sdgs = s.sdgs := by
  unfold Chip.sendRecord; split <;> rfl
theorem Chip.sendEvents_sdgs (s : Chip) (pg c : Nat) : (s.sendEvents pg c).sdgs = s.sdgs := by
  unfold Chip.sendEvents; exact Chip.each_keeps Chip.sdgs _ _ _ (fun s x => Chip.sendRecord_sdgs s _ _)
theorem Chip.msix_sdgs (s : Chip) (v : Nat) : (s.msix v).sdgs = s.sdgs := by
  unfold Chip.msix; split <;> [rfl; (split <;> rfl)]
theorem Chip.signalIfNew_sdgs (w : Bool) (s : Chip) (pg : Nat) : (s.signalIfNew w pg).sdgs = s.sdgs := by
  unfold Chip.signalIfNew
  split
  · simp only []
    split <;> split <;> simp only [Chip.sendEvents_sdgs, Chip.msix_sdgs]
  · rfl
@[simp] theorem Chip.raise_sdgs (s : Chip) (pg b : Nat) : (s.raise pg b).sdgs = s.sdgs := by
  unfold Chip.raise
  simp only []
  rw [Chip.signalIfNew_sdgs]
  split <;> split <;> simp only [Chip.sendEvents_sdgs, Chip.wr_sdgs]
theorem Chip.sendRecord_memu (s : Chip) (id : Nat) (b : Bytes) : (s.sendRecord id b).memu = s.memu := by
  unfold Chip.sendRecord; split <;> rfl
theorem Chip.sendEvents_memu (s : Chip) (pg c : Nat) : (s.sendEvents pg c).memu = s.memu := by
  unfold Chip.sendEvents; exact Chip.each_keeps Chip.memu _ _ _ (fun s x => Chip.sendRecord_memu s _ _)
theorem Chip.msix_memu (s : Chip) (v : Nat) : (s.msix v).memu = s.memu := by
  unfold Chip.msix; split <;> [rfl; (split <;> rfl)]
theorem Chip.signalIfNew_memu (w : Bool) (s : Chip) (pg : Nat) : (s.signalIfNew w pg).memu = s.memu := by
  unfold Chip.signalIfNew
  split
  · simp only []
    split <;> split <;> simp only [Chip.sendEvents_memu, Chip.msix_memu]
  · rfl
@[simp] theorem Chip.raise_memu (s : Chip) (pg b : Nat) : (s.raise pg b).memu = s.memu := by
  unfold Chip.raise
  simp only []
  rw [Chip.signalIfNew_memu]
  split <;> split <;> simp only [Chip.sendEvents_memu, Chip.wr_memu]
theorem Chip.sendRecord_links (s : Chip) (id : Nat) (b : Bytes) : (s.sendRecord id b).links = s.links := by
  unfold Chip.sendRecord; split <;> rfl
theorem Chip.sendEvents_links (s : Chip) (pg c : Nat) : (s.sendEvents pg c).links = s.links := by
  unfold Chip.sendEvents; exact Chip.each_keeps Chip.links _ _ _ (fun s x => Chip.sendRecord_links s _ _)
theorem Chip.msix_links (s : Chip) (v : Nat) : (s.msix v).links = s.links := by
  unfold Chip.msix; split <;> [rfl; (split <;> rfl)]
theorem Chip.signalIfNew_links (w : Bool) (s : Chip) (pg : Nat) : (s.signalIfNew w pg).links = s.links := by
  unfold Chip.signalIfNew
  split
  · simp only []
    split <;> split <;> simp only [Chip.sendEvents_links, Chip.msix_links]
  · rfl
@[simp] theorem Chip.raise_links (s : Chip) (pg b : Nat) : (s.raise pg b).links = s.links := by
  unfold Chip.raise
  simp only []
  rw [Chip.signalIfNew_links]
  split <;> split <;> simp only [Chip.sendEvents_links, Chip.wr_links]
theorem Chip.sendRecord_xpt (s : Chip) (id : Nat) (b : Bytes) : (s.sendRecord id b).xpt = s.xpt := by
  unfold Chip.sendRecord; split <;> rfl
theorem Chip.sendEvents_xpt (s : Chip) (pg c : Nat) : (s.sendEvents pg c).xpt = s.xpt := by
  unfold Chip.sendEvents; exact Chip.each_keeps Chip.xpt _ _ _ (fun s x => Chip.sendRecord_xpt s _ _)
theorem Chip.msix_xpt (s : Chip) (v : Nat) : (s.msix v).xpt = s.xpt := by
  unfold Chip.msix; split <;> [rfl; (split <;> rfl)]
theorem Chip.signalIfNew_xpt (w : Bool) (s : Chip) (pg : Nat) : (s.signalIfNew w pg).xpt = s.xpt := by
  unfold Chip.signalIfNew
  split
  · simp only []
    split <;> split <;> simp only [Chip.sendEvents_xpt, Chip.msix_xpt]
  · rfl
@[simp] theorem Chip.raise_xpt (s : Chip) (pg b : Nat) : (s.raise pg b).xpt = s.xpt := by
  unfold Chip.raise
  simp only []
  rw [Chip.signalIfNew_xpt]
  split <;> split <;> simp only [Chip.sendEvents_xpt, Chip.wr_xpt]
theorem Chip.sendRecord_shps (s : Chip) (id : Nat) (b : Bytes) : (s.sendRecord id b).shps = s.shps := by
  unfold Chip.sendRecord; split <;> rfl
theorem Chip.sendEvents_shps (s : Chip) (pg c : Nat) : (s.sendEvents pg c).shps = s.shps := by
  unfold Chip.sendEvents; exact Chip.each_keeps Chip.shps _ _ _ (fun s x => Chip.sendRecord_shps s _ _)
theorem Chip.msix_shps (s : Chip) (v : Nat) : (s.msix v).shps = s.shps := by
  unfold Chip.msix; split <;> [rfl; (split <;> rfl)]
theorem Chip.signalIfNew_shps (w : Bool) (s : Chip) (pg : Nat) : (s.signalIfNew w pg).shps = s.shps := by
  unfold Chip.signalIfNew
  split
  · simp only []
    split <;> split <;> simp only [Chip.sendEvents_shps, Chip.msix_shps]
  · rfl
@[simp] theorem Chip.raise_shps (s : Chip) (pg b : Nat) : (s.raise pg b).shps = s.shps := by
  unfold Chip.raise
  simp only []
  rw [Chip.signalIfNew_shps]
  split <;> split <;> simp only [Chip.sendEvents_shps, Chip.wr_shps]
theorem Chip.sendRecord_flt (s : Chip) (id : Nat) (b : Bytes) : (s.sendRecord id b).flt = s.flt := by
  unfold Chip.sendRecord; split <;> rfl
theorem Chip.sendEvents_flt (s : Chip) (pg c : Nat) : (s.sendEvents pg c).flt = s.flt := by
  unfold Chip.sendEvents; exact Chip.each_keeps Chip.flt _ _ _ (fun s x => Chip.sendRecord_flt s _ _)
theorem Chip.msix_flt (s : Chip) (v : Nat) : (s.msix v).flt = s.flt := by
  unfold Chip.msix; split <;> [rfl; (split <;> rfl)]
theorem Chip.signalIfNew_flt (w : Bool) (s : Chip) (pg : Nat) : (s.signalIfNew w pg).flt = s.flt := by
  unfold Chip.signalIfNew
  split
  · simp only []
    split <;> split <;> simp only [Chip.sendEvents_flt, Chip.msix_flt]
  · rfl
@[simp] theorem Chip.raise_flt (s : Chip) (pg b : Nat) : (s.raise pg b).flt = s.flt := by
  unfold Chip.raise
  simp only []
  rw [Chip.signalIfNew_flt]
  split <;> split <;> simp only [Chip.sendEvents_flt, Chip.wr_flt]
theorem Chip.sendRecord_pwr (s : Chip) (id : Nat) (b : Bytes) : (s.sendRecord id b).pwr = s.pwr := by
  unfold Chip.sendRecord; split <;> rfl
theorem Chip.sendEvents_pwr (s : Chip) (pg c : Nat) : (s.sendEvents pg c).pwr = s.pwr := by
  unfold Chip.sendEvents; exact Chip.each_keeps Chip.pwr _ _ _ (fun s x => Chip.sendRecord_pwr s _ _)
theorem Chip.msix_pwr (s : Chip) (v : Nat) : (s.msix v).pwr = s.pwr := by
  unfold Chip.msix; split <;> [rfl; (split <;> rfl)]
theorem Chip.signalIfNew_pwr (w : Bool) (s : Chip) (pg : Nat) : (s.signalIfNew w pg).pwr = s.pwr := by
  unfold Chip.signalIfNew
  split
  · simp only []
    split <;> split <;> simp only [Chip.sendEvents_pwr, Chip.msix_pwr]
  · rfl
@[simp] theorem Chip.raise_pwr (s : Chip) (pg b : Nat) : (s.raise pg b).pwr = s.pwr := by
  unfold Chip.raise
  simp only []
  rw [Chip.signalIfNew_pwr]
  split <;> split <;> simp only [Chip.sendEvents_pwr, Chip.wr_pwr]
theorem Chip.sendRecord_vgl (s : Chip) (id : Nat) (b : Bytes) : (s.sendRecord id b).vgl = s.vgl := by
  unfold Chip.sendRecord; split <;> rfl
theorem Chip.sendEvents_vgl (s : Chip) (pg c : Nat) : (s.sendEvents pg c).vgl = s.vgl := by
  unfold Chip.sendEvents; exact Chip.each_keeps Chip.vgl _ _ _ (fun s x => Chip.sendRecord_vgl s _ _)
theorem Chip.msix_vgl (s : Chip) (v : Nat) : (s.msix v).vgl = s.vgl := by
  unfold Chip.msix; split <;> [rfl; (split <;> rfl)]
theorem Chip.signalIfNew_vgl (w : Bool) (s : Chip) (pg : Nat) : (s.signalIfNew w pg).vgl = s.vgl := by
  unfold Chip.signalIfNew
  split
  · simp only []
    split <;> split <;> simp only [Chip.sendEvents_vgl, Chip.msix_vgl]
  · rfl
@[simp] theorem Chip.raise_vgl (s : Chip) (pg b : Nat) : (s.raise pg b).vgl = s.vgl := by
  unfold Chip.raise
  simp only []
  rw [Chip.signalIfNew_vgl]
  split <;> split <;> simp only [Chip.sendEvents_vgl, Chip.wr_vgl]
theorem Chip.sendRecord_t3seen (s : Chip) (id : Nat) (b : Bytes) : (s.sendRecord id b).t3seen = s.t3seen := by
  unfold Chip.sendRecord; split <;> rfl
theorem Chip.sendEvents_t3seen (s : Chip) (pg c : Nat) : (s.sendEvents pg c).t3seen = s.t3seen := by
  unfold Chip.sendEvents; exact Chip.each_keeps Chip.t3seen _ _ _ (fun s x => Chip.sendRecord_t3seen s _ _)
theorem Chip.msix_t3seen (s : Chip) (v : Nat) : (s.msix v).t3seen = s.t3seen := by
  unfold Chip.msix; split <;> [rfl; (split <;> rfl)]
theorem Chip.signalIfNew_t3seen (w : Bool) (s : Chip) (pg : Nat) : (s.signalIfNew w pg).t3seen = s.t3seen := by
  unfold Chip.signalIfNew
  split
  · simp only []
    split <;> split <;> simp only [Chip.sendEvents_t3seen, Chip.msix_t3seen]
  · rfl
@[simp] theorem Chip.raise_t3seen (s : Chip) (pg b : Nat) : (s.raise pg b).t3seen = s.t3seen := by
  unfold Chip.raise
  simp only []
  rw [Chip.signalIfNew_t3seen]
  split <;> split <;> simp only [Chip.sendEvents_t3seen, Chip.wr_t3seen]
theorem Chip.sendRecord_free (s : Chip) (id : Nat) (b : Bytes) : (s.sendRecord id b).free = s.free := by
  unfold Chip.sendRecord; split <;> rfl
theorem Chip.sendEvents_free (s : Chip) (pg c : Nat) : (s.sendEvents pg c).free = s.free := by
  unfold Chip.sendEvents; exact Chip.each_keeps Chip.free _ _ _ (fun s x => Chip.sendRecord_free s _ _)
theorem Chip.msix_free (s : Chip) (v : Nat) : (s.msix v).free = s.free := by
  unfold Chip.msix; split <;> [rfl; (split <;> rfl)]
theorem Chip.signalIfNew_free (w : Bool) (s : Chip) (pg : Nat) : (s.signalIfNew w pg).free = s.free := by
  unfold Chip.signalIfNew
  split
  · simp only []
    split <;> split <;> simp only [Chip.sendEvents_free, Chip.msix_free]
  · rfl
@[simp] theorem Chip.raise_free (s : Chip) (pg b : Nat) : (s.raise pg b).free = s.free := by
  unfold Chip.raise
  simp only []
  rw [Chip.signalIfNew_free]
  split <;> split <;> simp only [Chip.sendEvents_free, Chip.wr_free]

theorem Chip.msix_touched (s : Chip) (v : Nat) : (s.msix v).cxl.touched = s.cxl.touched := by
  unfold Chip.msix; split <;> [rfl; (split <;> rfl)]

theorem Chip.signalIfNew_touched (w : Bool) (s : Chip) (pg : Nat) : (s.signalIfNew w pg).cxl.touched = s.cxl.touched := by
  unfold Chip.signalIfNew
  split
  · simp only []
    split <;> split <;> simp only [Chip.sendEvents_cxl, Chip.msix_touched]
  · rfl

@[simp] theorem Chip.raise_touched (s : Chip) (pg b : Nat) : (s.raise pg b).cxl.touched = s.cxl.touched := by
  unfold Chip.raise
  simp only []
  rw [Chip.signalIfNew_touched]
  split <;> split <;> simp only [Chip.sendEvents_cxl, Chip.wr_cxl]

/-! ## What leaves the chip calm -/

@[simp] theorem Chip.calm_wr (s : Chip) (a v : Nat) : (s.wr a v).calm = s.calm :=
  Chip.calm_congr (s.wr_xpt _ _ ) (by rw [s.wr_alm _ _ ]) (by rw [s.wr_cxl _ _ ])
@[simp] theorem Chip.calm_wf (s : Chip) (f : Fld) (v : Nat) : (s.wf f v).calm = s.calm :=
  Chip.calm_congr (s.wf_xpt _ _ ) (by rw [s.wf_alm _ _ ]) (by rw [s.wf_cxl _ _ ])
@[simp] theorem Chip.calm_wr64 (s : Chip) (a v : Nat) : (s.wr64 a v).calm = s.calm :=
  Chip.calm_congr (s.wr64_xpt _ _ ) (by rw [s.wr64_alm _ _ ]) (by rw [s.wr64_cxl _ _ ])
@[simp] theorem Chip.calm_add64 (s : Chip) (a n : Nat) : (s.add64 a n).calm = s.calm :=
  Chip.calm_congr (s.add64_xpt _ _ ) (by rw [s.add64_alm _ _ ]) (by rw [s.add64_cxl _ _ ])
@[simp] theorem Chip.calm_cntBy (s : Chip) (a n : Nat) : (s.cntBy a n).calm = s.calm :=
  Chip.calm_congr (s.cntBy_xpt _ _ ) (by rw [s.cntBy_alm _ _ ]) (by rw [s.cntBy_cxl _ _ ])
@[simp] theorem Chip.calm_cnt (s : Chip) (a : Nat) : (s.cnt a).calm = s.calm :=
  Chip.calm_congr (s.cnt_xpt _ ) (by rw [s.cnt_alm _ ]) (by rw [s.cnt_cxl _ ])
@[simp] theorem Chip.calm_sub (s : Chip) (a n : Nat) : (s.sub a n).calm = s.calm :=
  Chip.calm_congr (s.sub_xpt _ _ ) (by rw [s.sub_alm _ _ ]) (by rw [s.sub_cxl _ _ ])
@[simp] theorem Chip.calm_emit (s : Chip) (o : Out) : (s.emit o).calm = s.calm :=
  Chip.calm_congr (s.emit_xpt _ ) (by rw [s.emit_alm _ ]) (by rw [s.emit_cxl _ ])
@[simp] theorem Chip.calm_setFlt (s : Chip) (f : Flt → Flt) : (s.setFlt f).calm = s.calm :=
  Chip.calm_congr (s.setFlt_xpt _ ) (by rw [s.setFlt_alm _ ]) (by rw [s.setFlt_cxl _ ])
@[simp] theorem Chip.calm_setMemu (s : Chip) (f : Memu → Memu) : (s.setMemu f).calm = s.calm :=
  Chip.calm_congr (s.setMemu_xpt _ ) (by rw [s.setMemu_alm _ ]) (by rw [s.setMemu_cxl _ ])
@[simp] theorem Chip.calm_setSmv (s : Chip) (f : Smv → Smv) : (s.setSmv f).calm = s.calm :=
  Chip.calm_congr (s.setSmv_xpt _ ) (by rw [s.setSmv_alm _ ]) (by rw [s.setSmv_cxl _ ])
@[simp] theorem Chip.calm_setPart (s : Chip) (p : Nat) (f : Part → Part) : (s.setPart p f).calm = s.calm :=
  Chip.calm_congr (s.setPart_xpt _ _ ) (by rw [s.setPart_alm _ _ ]) (by rw [s.setPart_cxl _ _ ])
@[simp] theorem Chip.calm_setTile (s : Chip) (t : Nat) (f : Tile → Tile) : (s.setTile t f).calm = s.calm :=
  Chip.calm_congr (s.setTile_xpt _ _ ) (by rw [s.setTile_alm _ _ ]) (by rw [s.setTile_cxl _ _ ])
@[simp] theorem Chip.calm_setSdg (s : Chip) (st : Nat) (f : Sdg → Sdg) : (s.setSdg st f).calm = s.calm :=
  Chip.calm_congr (s.setSdg_xpt _ _ ) (by rw [s.setSdg_alm _ _ ]) (by rw [s.setSdg_cxl _ _ ])
@[simp] theorem Chip.calm_setPfx (s : Chip) (f : Pfx → Pfx) : (s.setPfx f).calm = s.calm :=
  Chip.calm_congr (s.setPfx_xpt _ ) (by rw [s.setPfx_alm _ ]) (by rw [s.setPfx_cxl _ ])
@[simp] theorem Chip.calm_setRtes (s : Chip) (m : SMap Rte) : (s.setRtes m).calm = s.calm :=
  Chip.calm_congr (s.setRtes_xpt _ ) (by rw [s.setRtes_alm _ ]) (by rw [s.setRtes_cxl _ ])
@[simp] theorem Chip.calm_setSch (s : Chip) (f : Sch → Sch) : (s.setSch f).calm = s.calm :=
  Chip.calm_congr (s.setSch_xpt _ ) (by rw [s.setSch_alm _ ]) (by rw [s.setSch_cxl _ ])
@[simp] theorem Chip.calm_setSec (s : Chip) (f : Sec → Sec) : (s.setSec f).calm = s.calm :=
  Chip.calm_congr (s.setSec_xpt _ ) (by rw [s.setSec_alm _ ]) (by rw [s.setSec_cxl _ ])
@[simp] theorem Chip.calm_updLink (s : Chip) (l : Nat) (f : Link → Link) : (s.updLink l f).calm = s.calm :=
  Chip.calm_congr (s.updLink_xpt _ _ ) (by rw [s.updLink_alm _ _ ]) (by rw [s.updLink_cxl _ _ ])
@[simp] theorem Chip.calm_updShp (s : Chip) (l : Nat) (f : Shp → Shp) : (s.updShp l f).calm = s.calm :=
  Chip.calm_congr (s.updShp_xpt _ _ ) (by rw [s.updShp_alm _ _ ]) (by rw [s.updShp_cxl _ _ ])
@[simp] theorem Chip.calm_raise (s : Chip) (pg b : Nat) : (s.raise pg b).calm = s.calm :=
  Chip.calm_congr (s.raise_xpt _ _) (by rw [s.raise_alm _ _]) (s.raise_touched _ _)

@[simp] theorem Chip.calm_logWrite (s : Chip) (w : Writer) (a v o : Nat) : (s.logWrite w a v o).calm = s.calm := by
  unfold Chip.logWrite
  simp only [Chip.calm_raise, Chip.calm_cnt]
  rfl

end Sys2Proof.Machine
end

