-- ==== Sys2Proof/Laws/Memory.lean ====
section
/-! SUPPORT. Memory: every operation keeps its canonical form, a byte reads as what was stored last, and a store leaves every other byte alone. -/

namespace Sys2Proof.Machine

open Sys2Proof

/-! ## The canonical form -/

theorem Memory.wf_iff (m : List Host.Cell) : Memory.wf m = true ↔ SMap.rising m = true ∧ ∀ c ∈ m, c.2 ≠ 0 := by
  simp [Memory.wf, List.all_eq_true]

theorem Memory.wf_nil : Memory.wf [] = true := rfl

theorem SMap.rising_append {α : Type} (m n : SMap α) :
    SMap.rising (m ++ n) = true ↔ SMap.rising m = true ∧ SMap.rising n = true ∧ ∀ x ∈ m, ∀ y ∈ n, x.1 < y.1 := by
  induction m with
  | nil => simp [SMap.rising]
  | cons h t ih =>
    obtain ⟨k, v⟩ := h
    rw [List.cons_append, SMap.rising_cons, SMap.rising_cons, ih]
    simp only [SMap.above, List.mem_append, List.mem_cons]
    constructor
    · rintro ⟨h1, h2, h3, h4⟩
      refine ⟨⟨fun x hx => h1 x (Or.inl hx), h2⟩, h3, ?_⟩
      rintro x (rfl | hx) y hy
      · exact h1 y (Or.inr hy)
      · exact h4 x hx y hy
    · rintro ⟨⟨h1, h2⟩, h3, h4⟩
      refine ⟨?_, h2, h3, fun x hx y hy => h4 x (Or.inr hx) y hy⟩
      rintro x (hx | hx)
      · exact h1 x hx
      · exact h4 (k, v) (Or.inl rfl) x hx

theorem SMap.rising_filter {α : Type} (m : SMap α) (p : Nat × α → Bool) (h : SMap.rising m = true) : SMap.rising (m.filter p) = true := by
  induction m with
  | nil => simp [SMap.rising]
  | cons c t ih =>
    obtain ⟨k, v⟩ := c
    obtain ⟨h1, h2⟩ := (SMap.rising_cons k v t).1 h
    rw [List.filter_cons]
    split
    · exact (SMap.rising_cons _ _ _).2 ⟨fun x hx => h1 x (List.mem_of_mem_filter hx), ih h2⟩
    · exact ih h2

/-- The cells that a run of bytes stores from an address. -/
def newCells (bs : Bytes) (a : Nat) : List Host.Cell := ((bs.zipIdx a).filter (fun p => p.1 != 0)).map (fun p => (p.2, p.1))

theorem memWrite_eq (m : List Host.Cell) (a : Nat) (bs : Bytes) :
    memWrite m a bs = m.filter (fun c => c.1 < a) ++ newCells bs a ++ m.filter (fun c => a + bs.length ≤ c.1) := rfl

theorem newCells_nil (a : Nat) : newCells [] a = [] := rfl

theorem newCells_cons (b : Byte) (bs : Bytes) (a : Nat) :
    newCells (b :: bs) a = (if b = 0 then [] else [(a, b)]) ++ newCells bs (a + 1) := by
  by_cases h : b = 0
  · subst h; rfl
  · have h' : (b != 0) = true := by simpa [bne_iff_ne] using h
    unfold newCells
    rw [List.zipIdx_cons, List.filter_cons, if_pos h', if_neg h]
    rfl

theorem mem_newCells (bs : Bytes) (a : Nat) (c : Host.Cell) (h : c ∈ newCells bs a) : a ≤ c.1 ∧ c.1 < a + bs.length ∧ c.2 ≠ 0 := by
  induction bs generalizing a with
  | nil => simp [newCells_nil] at h
  | cons b bs ih =>
    rw [newCells_cons, List.mem_append] at h
    rcases h with h | h
    · split at h
      · simp at h
      · rename_i hb
        simp only [List.mem_singleton] at h
        subst h
        exact ⟨le_refl _, by simp, hb⟩
    · obtain ⟨h1, h2, h3⟩ := ih (a + 1) h
      exact ⟨by omega, by simp only [List.length_cons]; omega, h3⟩

theorem rising_newCells (bs : Bytes) (a : Nat) : SMap.rising (newCells bs a) = true := by
  induction bs generalizing a with
  | nil => rfl
  | cons b bs ih =>
    rw [newCells_cons]
    split
    · simpa using ih (a + 1)
    · refine (SMap.rising_cons _ _ _).2 ⟨?_, ih (a + 1)⟩
      intro c hc
      have := (mem_newCells bs (a + 1) c hc).1
      omega

/-- A store keeps memory's canonical form. -/
theorem Memory.wf_memWrite (m : List Host.Cell) (a : Nat) (bs : Bytes) (h : Memory.wf m = true) : Memory.wf (memWrite m a bs) = true := by
  rw [Memory.wf_iff] at h ⊢
  rw [memWrite_eq]
  refine ⟨?_, ?_⟩
  · rw [SMap.rising_append, SMap.rising_append]
    refine ⟨⟨SMap.rising_filter _ _ h.1, rising_newCells _ _, ?_⟩, SMap.rising_filter _ _ h.1, ?_⟩
    · intro x hx y hy
      have h1 := List.of_mem_filter hx
      have h2 := (mem_newCells _ _ _ hy).1
      simp only [decide_eq_true_eq] at h1
      omega
    · intro x hx y hy
      have h2 := List.of_mem_filter hy
      simp only [decide_eq_true_eq] at h2
      rcases List.mem_append.1 hx with hx | hx
      · have h1 := List.of_mem_filter hx
        simp only [decide_eq_true_eq] at h1
        omega
      · have h1 := (mem_newCells _ _ _ hx).2.1
        omega
  · intro c hc
    rcases List.mem_append.1 hc with hc | hc
    · rcases List.mem_append.1 hc with hc | hc
      · exact h.2 c (List.mem_of_mem_filter hc)
      · exact (mem_newCells _ _ _ hc).2.2
    · exact h.2 c (List.mem_of_mem_filter hc)

/-! ## Bytes -/

theorem memGet_append (m n : List Host.Cell) (a : Nat) (h : ∀ c ∈ m, c.1 ≠ a) : memGet (m ++ n) a = memGet n a := by
  induction m with
  | nil => rfl
  | cons c t ih =>
    obtain ⟨k, v⟩ := c
    have h1 : k ≠ a := h (k, v) List.mem_cons_self
    simp only [List.cons_append, memGet, h1, if_false]
    exact ih (fun c hc => h c (List.mem_cons_of_mem _ hc))

theorem memGet_append_left (m n : List Host.Cell) (a : Nat) (h : ∀ c ∈ n, c.1 ≠ a) : memGet (m ++ n) a = memGet m a := by
  induction m with
  | nil =>
    induction n with
    | nil => rfl
    | cons c t ih =>
      obtain ⟨k, v⟩ := c
      have h1 : k ≠ a := h (k, v) List.mem_cons_self
      simp only [List.nil_append, memGet, h1, if_false] at ih ⊢
      exact ih (fun c hc => h c (List.mem_cons_of_mem _ hc))
  | cons c t ih =>
    obtain ⟨k, v⟩ := c
    by_cases h1 : k = a
    · simp [memGet, h1]
    · simpa [memGet, h1] using ih

theorem memGet_filter (m : List Host.Cell) (p : Host.Cell → Bool) (a : Nat) (h : ∀ c : Host.Cell, c.1 = a → p c = true) :
    memGet (m.filter p) a = memGet m a := by
  induction m with
  | nil => rfl
  | cons c t ih =>
    obtain ⟨k, v⟩ := c
    rw [List.filter_cons]
    by_cases h1 : k = a
    · rw [if_pos (h (k, v) h1)]
      simp [memGet, h1]
    · split
      · simp [memGet, h1, ih]
      · simp [memGet, h1, ih]

theorem memGet_newCells (bs : Bytes) (a b : Nat) : memGet (newCells bs a) b = if a ≤ b ∧ b < a + bs.length then bs.getD (b - a) 0 else 0 := by
  induction bs generalizing a with
  | nil => simp [newCells_nil, memGet]
  | cons x bs ih =>
    rw [newCells_cons]
    by_cases hb : b = a
    · subst hb
      by_cases hx : x = 0
      · simp [hx, ih]
      · rw [if_neg hx]
        simp [memGet]
    · have hg : memGet ((if x = 0 then [] else [(a, x)]) ++ newCells bs (a + 1)) b = memGet (newCells bs (a + 1)) b := by
        refine memGet_append _ _ _ ?_
        intro c hc
        split at hc
        · simp at hc
        · simp only [List.mem_singleton] at hc
          subst hc
          exact Ne.symm hb
      rw [hg, ih]
      by_cases h1 : a ≤ b ∧ b < a + (x :: bs).length
      · have h2 : a + 1 ≤ b ∧ b < a + 1 + bs.length := by simp only [List.length_cons] at h1; omega
        rw [if_pos h1, if_pos h2]
        have : b - a = (b - (a + 1)) + 1 := by omega
        rw [this]
        rfl
      · have h2 : ¬ (a + 1 ≤ b ∧ b < a + 1 + bs.length) := by simp only [List.length_cons] at h1; omega
        rw [if_neg h1, if_neg h2]

/-- A byte of memory after a store: of the bytes stored within the run, as before outside it. -/
theorem memGet_memWrite (m : List Host.Cell) (a b : Nat) (bs : Bytes) :
    memGet (memWrite m a bs) b = if a ≤ b ∧ b < a + bs.length then bs.getD (b - a) 0 else memGet m b := by
  rw [memWrite_eq]
  by_cases h : a ≤ b ∧ b < a + bs.length
  · rw [if_pos h, memGet_append_left, memGet_append, memGet_newCells, if_pos h]
    · intro c hc
      have := List.of_mem_filter hc
      simp only [decide_eq_true_eq] at this
      omega
    · intro c hc
      have := List.of_mem_filter hc
      simp only [decide_eq_true_eq] at this
      omega
  · rw [if_neg h]
    by_cases h1 : b < a
    · rw [memGet_append_left, memGet_append_left]
      · exact memGet_filter _ _ _ (fun c hc => by simp [hc, h1])
      · intro c hc
        have := (mem_newCells _ _ _ hc).1
        omega
      · intro c hc
        have := List.of_mem_filter hc
        simp only [decide_eq_true_eq] at this
        omega
    · rw [memGet_append]
      · exact memGet_filter _ _ _ (fun c hc => by simp [hc]; omega)
      · intro c hc
        rcases List.mem_append.1 hc with hc | hc
        · have := List.of_mem_filter hc
          simp only [decide_eq_true_eq] at this
          omega
        · have := (mem_newCells _ _ _ hc).2.1
          omega

theorem memRead_length (m : List Host.Cell) (a n : Nat) : (memRead m a n).length = n := by simp [memRead]

/-- A run of memory read: byte by byte. -/
theorem memRead_eq (m : List Host.Cell) (a n : Nat) : memRead m a n = (List.range n).map (fun i => memGet m (a + i)) := by
  unfold memRead
  apply List.map_congr_left
  intro i hi
  have hi' := List.mem_range.1 hi
  exact memGet_filter _ _ _ (fun c hc => by simp [hc]; omega)

/-! ## The chip's stores -/

theorem Chip.meetLines_mem (s : Chip) (w : Bool) (a n : Nat) : (s.meetLines w a n).mem = s.mem := by
  unfold Chip.meetLines
  simp only
  split <;> rfl

/-- What a store at a physical address leaves in memory. -/
theorem Chip.writePhys_mem (s : Chip) (sedge : Bool) (a : Nat) (bs : Bytes) : (s.writePhys sedge a bs).mem = memWrite s.mem a bs := rfl

/-- A store at a physical address keeps memory's canonical form. -/
theorem Chip.memOk_writePhys (s : Chip) (sedge : Bool) (a : Nat) (bs : Bytes) (h : s.memOk = true) : (s.writePhys sedge a bs).memOk = true :=
  Memory.wf_memWrite _ _ _ h

/-- Memory after reset is in its canonical form. -/
theorem State.reset_memOk : State.reset.chip.memOk = true := rfl

/-- The register file after reset is in its canonical form. -/
theorem State.reset_regsOk : State.reset.chip.regsOk = true := rfl

end Sys2Proof.Machine
end

