-- ==== Sys2Proof/WellFormed.lean ====
section
/-! DEFINITION. Which commands are well formed: every unit, partition, page and session number names one that can exist, every register value fits
its width, and every structure of a fixed size has that size. The meanings are total: on a command that is not well formed they do nothing, or
what its operands cut to their widths ask for. -/

namespace Sys2Proof

/-- The writer is the host or one of the eight principal slots (R477). -/
def Access.ok (a : Access) : Bool :=
  match a.writer with
  | .host => true
  | .slot n => n < 8

/-- Device and partition numbers of a message's source (R22, R362). -/
def MsgSrc.ok (m : MsgSrc) : Bool := decide (m.dev < 2 ^ 16) && decide (m.part < 8) && decide (m.dstPart < 8)

/-- The widths of a packet's header fields (R359). -/
def Packet.ok (k : Packet) : Bool :=
  decide (k.op < 16) && decide (k.tc < 8) && decide (k.srcPart < 8) && decide (k.dstPart < 8) && decide (k.srcDev < 2 ^ 16) && decide (k.dstDev < 2 ^ 16)
    && decide (k.svc < 256) && decide (k.psn < 2 ^ 32) && decide (k.payload.length ≤ 4096)

/-- The issuer of a Sedge command names a tile or a partition that can exist (R253). -/
def SedgeFrom.ok : SedgeFrom → Bool
  | .tile t => decide (t < 68)
  | .inlet p => decide (p < 8)
  | .mover p => decide (p < 8)
  | .host => true

/-- A unit that returns to service can exist (R505). -/
def RetUnit.ok : RetUnit → Bool
  | .tile t => decide (t < 68)
  | .halfBank st n => decide (st < 24) && decide (n < 4096)

/-- The link or device of a credential can exist. -/
def CredFor.ok : CredFor → Bool
  | .link l => decide (l < 48)
  | .pair dev => decide (dev < 2 ^ 16)

/-- The decoder's output for one codeword (R328): a 140-bit control field, and 625 bytes where it is correctable. -/
def CwIn.ok (c : CwIn) : Bool := decide (c.ctl < 2 ^ 140) && (match c.data with | some d => d.length == 625 | none => true)

/-- The issuers that stand in line beside a Sedge command can exist (R229). -/
def SedgeTurn.ok (t : SedgeTurn) : Bool := t.rivals.all (· < 19)

/-- The object of a packed region has a number, and its modes fill one byte (R284, R300). -/
def SlotOp.ok (o : SlotOp) : Bool := decide (o.obj < 2 ^ 12) && decide (o.modes < 256)

/-- A pass's blocks and the messages it awaits lie within their fields. -/
def PassRun.ok (r : PassRun) : Bool := r.draws.all SlotOp.ok && r.awaits.all (fun x => decide (x.1 < 2 ^ 16) && decide (x.2 < 2 ^ 16))

/-- A conversion's packed blocks lie within their fields. -/
def ConvOp.ok (o : ConvOp) : Bool := o.packs.all SlotOp.ok

/-- The fields of a Router run (R184, R187): widths of the dispatch list, and as many logits as experts for every token. -/
def RouterOp.ok (o : RouterOp) : Bool :=
  decide (o.layer < 2 ^ 16) && decide (o.mode ≤ 2) && decide (o.cap < 2 ^ 16) && o.logits.all (fun z => z.length == o.experts.length)

/-- A command is well formed. [log 14, DESIGN CHOICE] -/
def Instr.wellFormed : Instr → Bool
  | .almanacTick _ => true
  | .boundaryWindow _ => true
  | .computeStart _ => true
  | .exchangeStart _ => true
  | .settleStart => true
  | .smvCutoff => true
  | .planSwitch => true
  | .planArm acc => acc.ok
  | .planWithdraw acc => acc.ok
  | .almSyncTod acc value => acc.ok && decide (value < 2 ^ 32)
  | .almSyncEdge _ => true
  | .almSyncEdgeMissed => true
  | .holdoverTimeout => true
  | .announceSend => true
  | .almanacSyncSend _ => true
  | .delayRequestSend _ => true
  | .announce link _ => decide (link < 48)
  | .almanacSync link _ _ => decide (link < 48)
  | .delayRequest link _ _ _ => decide (link < 48)
  | .delayReply link _ _ => decide (link < 48)
  | .masterLost => true
  | .loRegisterRead addr _ => decide (addr < 2 ^ 27)
  | .submitRead queue desc => decide (queue < 64) && desc.length == 64
  | .cancelRead queue desc => decide (queue < 64) && desc.length == 64
  | .promptCopied _ _ => true
  | .anchorRecord src _ => src.ok
  | .anchorTimeout rid cand => decide (rid < 2 ^ 64) && decide (cand < 2 ^ 16)
  | .tokenRunRecord src _ => src.ok
  | .homeRecord src _ => src.ok
  | .endRecord src _ => src.ok
  | .acknowledgementRecord src _ => src.ok
  | .gangBarrier part _ _ => decide (part < 8)
  | .cancelRecord src _ => src.ok
  | .emitRecord src _ => src.ok
  | .finishRecord src _ => src.ok
  | .rtbPeekIdxWrite acc value => acc.ok && decide (value < 2 ^ 32)
  | .rtbSerialWrite acc value => acc.ok && decide (value < 2 ^ 32)
  | .lookup src _ => src.ok
  | .lookupReply src _ => src.ok
  | .lookupRelease src _ => src.ok
  | .pfxPin acc part => acc.ok && decide (part < 8)
  | .pfxUnpin acc part => acc.ok && decide (part < 8)
  | .open src _ => src.ok
  | .data src _ => src.ok
  | .seal src _ => src.ok
  | .intent src _ => src.ok
  | .commit src _ => src.ok
  | .abort src _ => src.ok
  | .query src _ => src.ok
  | .reply src _ _ => src.ok
  | .pull src _ => src.ok
  | .lost src _ => src.ok
  | .locate src _ => src.ok
  | .decideWaitExpiry dev seq => decide (dev < 2 ^ 16) && decide (seq < 2 ^ 32)
  | .smvOrdIssue acc => acc.ok
  | .pass tile _ _ run _ => decide (tile < 68) && run.ok
  | .conversion tile op _ => decide (tile < 68) && op.ok
  | .routerRun tile op _ => decide (tile < 68) && op.ok
  | .fence tile _ dev _ => decide (tile < 68) && decide (dev < 2 ^ 16)
  | .tileLoad tile _ _ => decide (tile < 68)
  | .tileStore tile _ _ => decide (tile < 68)
  | .exchangeEntry _ _ => true
  | .programLoad acc _ => acc.ok
  | .programUnload acc index => acc.ok && decide (index < 512)
  | .registerEntry acc _ => acc.ok
  | .deregister acc _ id' => acc.ok && decide (id' < 2 ^ 16)
  | .residencyLoad acc part _ id' => acc.ok && decide (part < 8) && decide (id' < 2 ^ 16)
  | .residencyEvict acc part _ id' => acc.ok && decide (part < 8) && decide (id' < 2 ^ 16)
  | .residencyPin acc part _ id' => acc.ok && decide (part < 8) && decide (id' < 2 ^ 16)
  | .residencyUnpin acc part _ id' => acc.ok && decide (part < 8) && decide (id' < 2 ^ 16)
  | .loadFinished part _ id' _ => decide (part < 8) && decide (id' < 2 ^ 16)
  | .acctRegister acc _ => acc.ok
  | .acctRemove acc => acc.ok
  | .acctClear acc => acc.ok
  | .sliceCommit acc => acc.ok
  | .bid src _ => src.ok
  | .offer src _ => src.ok
  | .void src _ => src.ok
  | .watchdogProbe _ => true
  | .watchdogExpiry tile => decide (tile < 68)
  | .attendMessage src _ _ _ => src.ok
  | .result src _ => src.ok
  | .append stack frm word _ turn _ => decide (stack < 24) && frm.ok && word.length == 16 && turn.ok
  | .summarise stack frm word turn _ => decide (stack < 24) && frm.ok && word.length == 16 && turn.ok
  | .sumwrite stack frm word turn _ => decide (stack < 24) && frm.ok && word.length == 16 && turn.ok
  | .score stack frm word _ turn _ => decide (stack < 24) && frm.ok && word.length == 16 && turn.ok
  | .attend stack frm word _ turn _ => decide (stack < 24) && frm.ok && word.length == 16 && turn.ok
  | .matvec stack frm word _ _ turn _ => decide (stack < 24) && frm.ok && word.length == 16 && turn.ok
  | .sedgeRead stack frm word turn _ => decide (stack < 24) && frm.ok && word.length == 16 && turn.ok
  | .sedgeWrite stack frm word _ turn _ => decide (stack < 24) && frm.ok && word.length == 16 && turn.ok
  | .init stack frm word _ turn _ => decide (stack < 24) && frm.ok && word.length == 16 && turn.ok
  | .nop stack frm word turn => decide (stack < 24) && frm.ok && word.length == 16 && turn.ok
  | .refresh stack _ => decide (stack < 24)
  | .dieSensorUpdate _ => true
  | .descriptorInstall acc _ => acc.ok
  | .descriptorMigrate acc _ => acc.ok
  | .descriptorFree acc object => acc.ok && decide (object < 2 ^ 12)
  | .migrationCopy _ _ => true
  | .migrationSwitch _ _ _ => true
  | .stackPoll stack _ => decide (stack < 24)
  | .stackRetrainAttempt stack => decide (stack < 24)
  | .stackRetrainDone stack _ _ => decide (stack < 24)
  | .hostMemRead hpa _ _ => hpa % 64 == 0
  | .hostMemWrite hpa bytes mask => hpa % 64 == 0 && bytes.length == 64 && decide (mask < 2 ^ 64)
  | .bisnpResponse line _ => line % 64 == 0
  | .h2dSnoop _ => true
  | .createQueuePair acc _ => acc.ok
  | .deleteQueuePair acc queue => acc.ok && decide (queue < 64)
  | .createEmitRing acc _ => acc.ok
  | .deleteEmitRing acc ring => acc.ok && decide (ring < 512)
  | .setProfile acc _ => acc.ok
  | .sqTailDoorbell acc queue tail => acc.ok && decide (queue < 64) && decide (tail < 2 ^ 12)
  | .cqHeadDoorbell acc queue head => acc.ok && decide (queue < 64) && decide (head < 2 ^ 12)
  | .emitHeadDoorbell acc ring head => acc.ok && decide (ring < 512) && decide (head < 2 ^ 16)
  | .coalesceTimeout _ number => decide (number < 512)
  | .emitStall ring => decide (ring < 512)
  | .cxlLinkDown => true
  | .hostLinkLost => true
  | .fatalLinksOff => true
  | .surpriseRemoval => true
  | .viralIn => true
  | .codeword link lane cw => decide (link < 48) && decide (lane < 4) && cw.ok
  | .laneSignalLoss link lane => decide (link < 48) && decide (lane < 4)
  | .dataFrame link _ => decide (link < 48)
  | .forwardedFrame link _ => decide (link < 48)
  | .negotiateCapability link _ => decide (link < 48)
  | .negotiateConfirm link _ => decide (link < 48)
  | .credentialFragment link _ => decide (link < 48)
  | .credentialVerified whose => whose.ok
  | .encapsulation link _ => decide (link < 48)
  | .keepaliveSend link => decide (link < 48)
  | .keepalive link _ => decide (link < 48)
  | .keepaliveTimeout link => decide (link < 48)
  | .admitPropose link _ => decide (link < 48)
  | .admitConfirm link _ => decide (link < 48)
  | .admitWithdraw link _ => decide (link < 48)
  | .test link seq _ => decide (link < 48) && decide (seq < 2 ^ 16)
  | .retire link _ => decide (link < 48)
  | .margin link _ => decide (link < 48)
  | .marginSend => true
  | .ageingMeasurement _ _ => true
  | .trainingStageDone link lanes => decide (link < 48) && decide (lanes < 16)
  | .trainingStageTimeout link => decide (link < 48)
  | .trainingRetry link => decide (link < 48)
  | .selftestEnd link => decide (link < 48)
  | .laneRetrainTimeout link lane => decide (link < 48) && decide (lane < 4)
  | .laneRetrainRetry link lane => decide (link < 48) && decide (lane < 4)
  | .lnkRetrain acc link => acc.ok && decide (link < 48)
  | .lnkRetire acc link => acc.ok && decide (link < 48)
  | .lnkReadmit acc link => acc.ok && decide (link < 48)
  | .engineFailed engine => decide (engine < 12)
  | .engineOvertemp engine _ => decide (engine < 12)
  | .msg pkt _ => pkt.ok
  | .ack pkt => pkt.ok
  | .nak pkt => pkt.ok
  | .sync pkt => pkt.ok
  | .syncAck pkt => pkt.ok
  | .load pkt _ => pkt.ok
  | .loadResp pkt => pkt.ok
  | .store pkt _ => pkt.ok
  | .skip pkt _ => pkt.ok
  | .ackTimer peer tc => decide (peer < 2 ^ 16) && decide (tc < 8)
  | .retryTimeout peer tc => decide (peer < 2 ^ 16) && decide (tc < 8)
  | .contextFetchDone ctx => decide (ctx < 2 ^ 20)
  | .reassemblyTimeout peer tc _ => decide (peer < 2 ^ 16) && decide (tc < 8)
  | .mapProposal acc _ => acc.ok
  | .vote src _ => src.ok
  | .voteDeadline => true
  | .exportOpen acc _ => acc.ok
  | .exportRevoke acc id => acc.ok && decide (id < 2 ^ 16)
  | .exportRevokeDone => true
  | .windowOpen acc _ => acc.ok
  | .windowClose acc window => acc.ok && decide (window < 2 ^ 16)
  | .contextFlush acc peer => acc.ok && decide (peer < 2 ^ 16)
  | .frameBoundary link => decide (link < 48)
  | .bucketRefill => true
  | .calendarCommit acc link => acc.ok && decide (link < 48)
  | .policerWrite acc link queue _ value => acc.ok && decide (link < 48) && decide (queue < 32) && decide (value < 2 ^ 32)
  | .sampler link => decide (link < 48)
  | .firmwareGo acc => acc.ok
  | .firmwareChecked _ _ => true
  | .fuseOwnerKey acc digest => acc.ok && digest.length == 64
  | .fuseManagementRoot acc digest => acc.ok && digest.length == 64
  | .raiseMinSvn acc => acc.ok
  | .pairCredential src _ => src.ok
  | .pairEncapsulation src _ => src.ok
  | .pairConfirm src _ => src.ok
  | .handshakeTimeout dev => decide (dev < 2 ^ 16)
  | .attestationRequest acc => acc.ok
  | .reportSigned => true
  | .hello _ => true
  | .nmpRecord _ _ => true
  | .sessionTimeout session => decide (session < 2 ^ 32)
  | .nmpRead session tag offset count => decide (session < 2 ^ 32) && decide (tag < 2 ^ 32) && decide (offset < 2 ^ 32) && decide (count < 2 ^ 16)
  | .nmpWrite session tag offset words _ => decide (session < 2 ^ 32) && decide (tag < 2 ^ 32) && decide (offset < 2 ^ 32) && words.all (· < 2 ^ 32)
  | .nmpColdReset session tag => decide (session < 2 ^ 32) && decide (tag < 2 ^ 32)
  | .nmpWarmReset session tag => decide (session < 2 ^ 32) && decide (tag < 2 ^ 32)
  | .nmpPurge session tag => decide (session < 2 ^ 32) && decide (tag < 2 ^ 32)
  | .purgeDone => true
  | .nmpReport session tag _ nonce => decide (session < 2 ^ 32) && decide (tag < 2 ^ 32) && nonce.length == 32
  | .getVersion => true
  | .getCapabilities => true
  | .unsupportedSpdmRequest code => decide (code < 256)
  | .spdmReport _ => true
  | .keyOpen _ => true
  | .keyMessage _ => true
  | .keyClose _ => true
  | .keySessionTimeout => true
  | .presenceSend dev => decide (dev < 2 ^ 16)
  | .presence src _ => src.ok
  | .departure src _ => src.ok
  | .peerTimeout dev => decide (dev < 2 ^ 16)
  | .repairHalfBank acc stack number _ => acc.ok && decide (stack < 24) && decide (number < 4096)
  | .retestTile acc tile => acc.ok && decide (tile < 68)
  | .selftestDone unit _ => unit.ok
  | .unitLoadDone tile _ => decide (tile < 68)
  | .vinRise => true
  | .modRstN lowNs => decide (5000 ≤ lowNs)
  | .perstAssert => true
  | .perstDeassert => true
  | .startupStageDone stage _ _ => decide (1 ≤ stage) && decide (stage ≤ 10)
  | .refclkLoss => true
  | .junctionTrip die _ => decide (die < 4)
  | .shutdown _ => true
  | .railsOff => true
  | .d3hotRequest => true
  | .d0Return => true
  | .vigilArm acc => acc.ok
  | .vigilNow acc => acc.ok
  | .vigilRelease acc => acc.ok
  | .vigilDisarm acc => acc.ok
  | .vigilMessage src _ => src.ok
  | .vigilLatch => true
  | .blkEnable acc page _ => acc.ok && decide (page < 284)
  | .blkDrain acc page _ => acc.ok && decide (page < 284)
  | .blkQuiesce acc page _ => acc.ok && decide (page < 284)
  | .blkReset acc page => acc.ok && decide (page < 284)
  | .rw1cWrite acc page _ value hw => acc.ok && decide (page < 284) && decide (value < 2 ^ 32) && decide (hw < 2 ^ 32)
  | .registerWrite acc addr size value _ => acc.ok && decide (addr < 2 ^ 27) && decide (value < 2 ^ (8 * size))
  | .cxlLinkUp width => decide (width = 1) || decide (width = 2)
  | .hdmDecoderCommit decoder _ _ _ => decide (decoder < 16)
  | .vectorUnmask _ => true
  | .attendSend tile dev part _ => decide (tile < 68) && decide (dev < 2 ^ 16) && decide (part < 8)
  | .inputVoltageExcursion _ _ => true
  | .inputPowerExcursion _ _ => true
  | .laserFault link lane _ _ => decide (link < 48) && decide (lane < 4)
  | .receivedPowerLow link lane _ => decide (link < 48) && decide (lane < 4)
  | .secSealDone => true
  | .descriptorInstallDone => true
  | .clearedByRead addr _ => decide (addr < 2 ^ 27)

end Sys2Proof
end

