-- ==== Sys2Proof/Tests/Slice0.lean ====
section
/-! SUPPORT. The package's own tests: a WellFormed smoke with an ill-formed command for each check, a named witness for each statement that has
hypotheses, and a few single steps whose results are written out from the spec. -/

namespace Sys2Proof.Tests

open Sys2Proof Sys2Proof.Machine

/-! ## WellFormed -/

/-- The host as a writer. -/
def okAcc : Access := ⟨.host, false⟩

/-- A well-formed source of a message. -/
def okSrc : MsgSrc := ⟨0, 0, 0, 0⟩

/-- A well-formed packet. -/
def okPkt : Packet := { op := 1, tc := 0, srcPart := 0, dstPart := 0, srcDev := 0, dstDev := 0, svc := 1, psn := 0, payload := [] }

/-- A conversion of nothing. -/
def okConv : ConvOp := { elem := .bf16, sr := false, values := [], dst := 0, scaleDst := 0 }

/-- The first block of a packed region of object 0. -/
def okSlot : SlotOp := ⟨0, 0, 1, 0, 0, 0, []⟩

/-- Each first command is well formed, and none of those beside it is. -/
def refusesEach (l : List (Instr × List Instr)) : Bool := l.all (fun x => x.1.wellFormed && x.2.all (fun c => !c.wellFormed))

set_option maxRecDepth 40000 in
/-- WellFormed smoke, planArm to rtbSerialWrite: each command is well formed, and each copy of it with one operand out of its range is refused. -/
theorem test_wf_planArm : refusesEach [
    (.planArm okAcc, [.planArm ⟨.slot 8, false⟩]),
    (.planWithdraw okAcc, [.planWithdraw ⟨.slot 8, false⟩]),
    (.almSyncTod okAcc 0, [.almSyncTod ⟨.slot 8, false⟩ 0,
      .almSyncTod okAcc (2 ^ 32)]),
    (.announce 0 [], [.announce 48 []]),
    (.almanacSync 0 [] ⟨0, 0⟩, [.almanacSync 48 [] ⟨0, 0⟩]),
    (.delayRequest 0 [] ⟨0, 0⟩ ⟨0, 0⟩, [.delayRequest 48 [] ⟨0, 0⟩ ⟨0, 0⟩]),
    (.delayReply 0 [] ⟨0, 0⟩, [.delayReply 48 [] ⟨0, 0⟩]),
    (.loRegisterRead 0 0, [.loRegisterRead (2 ^ 27) 0]),
    (.submitRead 0 (zeros 64), [.submitRead 64 (zeros 64),
      .submitRead 0 []]),
    (.cancelRead 0 (zeros 64), [.cancelRead 64 (zeros 64),
      .cancelRead 0 []]),
    (.anchorRecord okSrc [], [.anchorRecord ⟨65536, 0, 0, 0⟩ [],
      .anchorRecord ⟨0, 8, 0, 0⟩ [],
      .anchorRecord ⟨0, 0, 8, 0⟩ []]),
    (.anchorTimeout 0 0, [.anchorTimeout (2 ^ 64) 0,
      .anchorTimeout 0 (2 ^ 16)]),
    (.tokenRunRecord okSrc [], [.tokenRunRecord ⟨65536, 0, 0, 0⟩ [],
      .tokenRunRecord ⟨0, 8, 0, 0⟩ [],
      .tokenRunRecord ⟨0, 0, 8, 0⟩ []]),
    (.homeRecord okSrc [], [.homeRecord ⟨65536, 0, 0, 0⟩ [],
      .homeRecord ⟨0, 8, 0, 0⟩ [],
      .homeRecord ⟨0, 0, 8, 0⟩ []]),
    (.endRecord okSrc [], [.endRecord ⟨65536, 0, 0, 0⟩ [],
      .endRecord ⟨0, 8, 0, 0⟩ [],
      .endRecord ⟨0, 0, 8, 0⟩ []]),
    (.acknowledgementRecord okSrc [], [.acknowledgementRecord ⟨65536, 0, 0, 0⟩ [],
      .acknowledgementRecord ⟨0, 8, 0, 0⟩ [],
      .acknowledgementRecord ⟨0, 0, 8, 0⟩ []]),
    (.gangBarrier 0 [] false, [.gangBarrier 8 [] false]),
    (.cancelRecord okSrc [], [.cancelRecord ⟨65536, 0, 0, 0⟩ [],
      .cancelRecord ⟨0, 8, 0, 0⟩ [],
      .cancelRecord ⟨0, 0, 8, 0⟩ []]),
    (.emitRecord okSrc [], [.emitRecord ⟨65536, 0, 0, 0⟩ [],
      .emitRecord ⟨0, 8, 0, 0⟩ [],
      .emitRecord ⟨0, 0, 8, 0⟩ []]),
    (.finishRecord okSrc [], [.finishRecord ⟨65536, 0, 0, 0⟩ [],
      .finishRecord ⟨0, 8, 0, 0⟩ [],
      .finishRecord ⟨0, 0, 8, 0⟩ []]),
    (.rtbPeekIdxWrite okAcc 0, [.rtbPeekIdxWrite ⟨.slot 8, false⟩ 0,
      .rtbPeekIdxWrite okAcc (2 ^ 32)]),
    (.rtbSerialWrite okAcc 0, [.rtbSerialWrite ⟨.slot 8, false⟩ 0,
      .rtbSerialWrite okAcc (2 ^ 32)])] = true := by
  decide

set_option maxRecDepth 40000 in
/-- WellFormed smoke, lookup to fence: each command is well formed, and each copy of it with one operand out of its range is refused. -/
theorem test_wf_lookup : refusesEach [
    (.lookup okSrc [], [.lookup ⟨65536, 0, 0, 0⟩ [],
      .lookup ⟨0, 8, 0, 0⟩ [],
      .lookup ⟨0, 0, 8, 0⟩ []]),
    (.lookupReply okSrc [], [.lookupReply ⟨65536, 0, 0, 0⟩ [],
      .lookupReply ⟨0, 8, 0, 0⟩ [],
      .lookupReply ⟨0, 0, 8, 0⟩ []]),
    (.lookupRelease okSrc [], [.lookupRelease ⟨65536, 0, 0, 0⟩ [],
      .lookupRelease ⟨0, 8, 0, 0⟩ [],
      .lookupRelease ⟨0, 0, 8, 0⟩ []]),
    (.pfxPin okAcc 0, [.pfxPin ⟨.slot 8, false⟩ 0,
      .pfxPin okAcc 8]),
    (.pfxUnpin okAcc 0, [.pfxUnpin ⟨.slot 8, false⟩ 0,
      .pfxUnpin okAcc 8]),
    (.open okSrc [], [.open ⟨65536, 0, 0, 0⟩ [],
      .open ⟨0, 8, 0, 0⟩ [],
      .open ⟨0, 0, 8, 0⟩ []]),
    (.data okSrc [], [.data ⟨65536, 0, 0, 0⟩ [],
      .data ⟨0, 8, 0, 0⟩ [],
      .data ⟨0, 0, 8, 0⟩ []]),
    (.seal okSrc [], [.seal ⟨65536, 0, 0, 0⟩ [],
      .seal ⟨0, 8, 0, 0⟩ [],
      .seal ⟨0, 0, 8, 0⟩ []]),
    (.intent okSrc [], [.intent ⟨65536, 0, 0, 0⟩ [],
      .intent ⟨0, 8, 0, 0⟩ [],
      .intent ⟨0, 0, 8, 0⟩ []]),
    (.commit okSrc [], [.commit ⟨65536, 0, 0, 0⟩ [],
      .commit ⟨0, 8, 0, 0⟩ [],
      .commit ⟨0, 0, 8, 0⟩ []]),
    (.abort okSrc [], [.abort ⟨65536, 0, 0, 0⟩ [],
      .abort ⟨0, 8, 0, 0⟩ [],
      .abort ⟨0, 0, 8, 0⟩ []]),
    (.query okSrc [], [.query ⟨65536, 0, 0, 0⟩ [],
      .query ⟨0, 8, 0, 0⟩ [],
      .query ⟨0, 0, 8, 0⟩ []]),
    (.reply okSrc [] [], [.reply ⟨65536, 0, 0, 0⟩ [] [],
      .reply ⟨0, 8, 0, 0⟩ [] [],
      .reply ⟨0, 0, 8, 0⟩ [] []]),
    (.pull okSrc [], [.pull ⟨65536, 0, 0, 0⟩ [],
      .pull ⟨0, 8, 0, 0⟩ [],
      .pull ⟨0, 0, 8, 0⟩ []]),
    (.lost okSrc [], [.lost ⟨65536, 0, 0, 0⟩ [],
      .lost ⟨0, 8, 0, 0⟩ [],
      .lost ⟨0, 0, 8, 0⟩ []]),
    (.locate okSrc [], [.locate ⟨65536, 0, 0, 0⟩ [],
      .locate ⟨0, 8, 0, 0⟩ [],
      .locate ⟨0, 0, 8, 0⟩ []]),
    (.decideWaitExpiry 0 0, [.decideWaitExpiry (2 ^ 16) 0,
      .decideWaitExpiry 0 (2 ^ 32)]),
    (.smvOrdIssue okAcc, [.smvOrdIssue ⟨.slot 8, false⟩]),
    (.pass 0 ⟨.int8, []⟩ ⟨.int8, false, []⟩ { clear := false } [], [.pass 68 ⟨.int8, []⟩ ⟨.int8, false, []⟩ { clear := false } [],
      .pass 0 ⟨.int8, []⟩ ⟨.int8, false, []⟩ { clear := false, draws := [{ okSlot with obj := 4096 }] } [],
      .pass 0 ⟨.int8, []⟩ ⟨.int8, false, []⟩ { clear := false, draws := [{ okSlot with modes := 256 }] } [],
      .pass 0 ⟨.int8, []⟩ ⟨.int8, false, []⟩ { clear := false, awaits := [(2 ^ 16, 0)] } [],
      .pass 0 ⟨.int8, []⟩ ⟨.int8, false, []⟩ { clear := false, awaits := [(0, 2 ^ 16)] } []]),
    (.conversion 0 okConv [], [.conversion 68 okConv [],
      .conversion 0 { okConv with packs := [{ okSlot with obj := 4096 }] } [],
      .conversion 0 { okConv with packs := [{ okSlot with modes := 256 }] } []]),
    (.routerRun 0 ⟨0, 1, 0, false, 1, [], [], 0⟩ [], [.routerRun 68 ⟨0, 1, 0, false, 1, [], [], 0⟩ [],
      .routerRun 0 ⟨2 ^ 16, 1, 0, false, 1, [], [], 0⟩ [],
      .routerRun 0 ⟨0, 1, 3, false, 1, [], [], 0⟩ [],
      .routerRun 0 ⟨0, 1, 0, false, 2 ^ 16, [], [], 0⟩ [],
      .routerRun 0 ⟨0, 1, 0, false, 1, [], [[0]], 0⟩ []]),
    (.fence 0 0 0 none, [.fence 68 0 0 none,
      .fence 0 0 (2 ^ 16) none])] = true := by
  decide

set_option maxRecDepth 40000 in
/-- WellFormed smoke, tileLoad to append: each command is well formed, and each copy of it with one operand out of its range is refused. -/
theorem test_wf_tileLoad : refusesEach [
    (.tileLoad 0 0 0, [.tileLoad 68 0 0]),
    (.tileStore 0 0 [], [.tileStore 68 0 []]),
    (.programLoad okAcc [], [.programLoad ⟨.slot 8, false⟩ []]),
    (.programUnload okAcc 0, [.programUnload ⟨.slot 8, false⟩ 0,
      .programUnload okAcc 512]),
    (.registerEntry okAcc [], [.registerEntry ⟨.slot 8, false⟩ []]),
    (.deregister okAcc false 0, [.deregister ⟨.slot 8, false⟩ false 0,
      .deregister okAcc false (2 ^ 16)]),
    (.residencyLoad okAcc 0 false 0, [.residencyLoad ⟨.slot 8, false⟩ 0 false 0,
      .residencyLoad okAcc 8 false 0,
      .residencyLoad okAcc 0 false (2 ^ 16)]),
    (.residencyEvict okAcc 0 false 0, [.residencyEvict ⟨.slot 8, false⟩ 0 false 0,
      .residencyEvict okAcc 8 false 0,
      .residencyEvict okAcc 0 false (2 ^ 16)]),
    (.residencyPin okAcc 0 false 0, [.residencyPin ⟨.slot 8, false⟩ 0 false 0,
      .residencyPin okAcc 8 false 0,
      .residencyPin okAcc 0 false (2 ^ 16)]),
    (.residencyUnpin okAcc 0 false 0, [.residencyUnpin ⟨.slot 8, false⟩ 0 false 0,
      .residencyUnpin okAcc 8 false 0,
      .residencyUnpin okAcc 0 false (2 ^ 16)]),
    (.loadFinished 0 false 0 [], [.loadFinished 8 false 0 [],
      .loadFinished 0 false (2 ^ 16) []]),
    (.acctRegister okAcc false, [.acctRegister ⟨.slot 8, false⟩ false]),
    (.acctRemove okAcc, [.acctRemove ⟨.slot 8, false⟩]),
    (.acctClear okAcc, [.acctClear ⟨.slot 8, false⟩]),
    (.sliceCommit okAcc, [.sliceCommit ⟨.slot 8, false⟩]),
    (.bid okSrc [], [.bid ⟨65536, 0, 0, 0⟩ [],
      .bid ⟨0, 8, 0, 0⟩ [],
      .bid ⟨0, 0, 8, 0⟩ []]),
    (.offer okSrc [], [.offer ⟨65536, 0, 0, 0⟩ [],
      .offer ⟨0, 8, 0, 0⟩ [],
      .offer ⟨0, 0, 8, 0⟩ []]),
    (.void okSrc [], [.void ⟨65536, 0, 0, 0⟩ [],
      .void ⟨0, 8, 0, 0⟩ [],
      .void ⟨0, 0, 8, 0⟩ []]),
    (.watchdogExpiry 0, [.watchdogExpiry 68]),
    (.attendMessage okSrc [] {} [], [.attendMessage ⟨65536, 0, 0, 0⟩ [] {} [],
      .attendMessage ⟨0, 8, 0, 0⟩ [] {} [],
      .attendMessage ⟨0, 0, 8, 0⟩ [] {} []]),
    (.result okSrc [], [.result ⟨65536, 0, 0, 0⟩ [],
      .result ⟨0, 8, 0, 0⟩ [],
      .result ⟨0, 0, 8, 0⟩ []]),
    (.append 0 .host (zeros 16) [] { clocks := 0 } [], [.append 24 .host (zeros 16) [] { clocks := 0 } [],
      .append 0 (.tile 68) (zeros 16) [] { clocks := 0 } [],
      .append 0 (.inlet 8) (zeros 16) [] { clocks := 0 } [],
      .append 0 (.mover 8) (zeros 16) [] { clocks := 0 } [],
      .append 0 .host [] [] { clocks := 0 } [],
      .append 0 .host (zeros 16) [] { rivals := [19] } []])] = true := by
  decide

set_option maxRecDepth 40000 in
/-- WellFormed smoke, summarise to createEmitRing: each command is well formed, and each copy of it with one operand out of its range is refused. -/
theorem test_wf_summarise : refusesEach [
    (.summarise 0 .host (zeros 16) { clocks := 0 } [], [.summarise 24 .host (zeros 16) { clocks := 0 } [],
      .summarise 0 (.tile 68) (zeros 16) { clocks := 0 } [],
      .summarise 0 (.inlet 8) (zeros 16) { clocks := 0 } [],
      .summarise 0 (.mover 8) (zeros 16) { clocks := 0 } [],
      .summarise 0 .host [] { clocks := 0 } [],
      .summarise 0 .host (zeros 16) { rivals := [19] } []]),
    (.sumwrite 0 .host (zeros 16) { clocks := 0 } [], [.sumwrite 24 .host (zeros 16) { clocks := 0 } [],
      .sumwrite 0 (.tile 68) (zeros 16) { clocks := 0 } [],
      .sumwrite 0 (.inlet 8) (zeros 16) { clocks := 0 } [],
      .sumwrite 0 (.mover 8) (zeros 16) { clocks := 0 } [],
      .sumwrite 0 .host [] { clocks := 0 } [],
      .sumwrite 0 .host (zeros 16) { rivals := [19] } []]),
    (.score 0 .host (zeros 16) [] { clocks := 0 } [], [.score 24 .host (zeros 16) [] { clocks := 0 } [],
      .score 0 (.tile 68) (zeros 16) [] { clocks := 0 } [],
      .score 0 (.inlet 8) (zeros 16) [] { clocks := 0 } [],
      .score 0 (.mover 8) (zeros 16) [] { clocks := 0 } [],
      .score 0 .host [] [] { clocks := 0 } [],
      .score 0 .host (zeros 16) [] { rivals := [19] } []]),
    (.attend 0 .host (zeros 16) [] { clocks := 0 } [], [.attend 24 .host (zeros 16) [] { clocks := 0 } [],
      .attend 0 (.tile 68) (zeros 16) [] { clocks := 0 } [],
      .attend 0 (.inlet 8) (zeros 16) [] { clocks := 0 } [],
      .attend 0 (.mover 8) (zeros 16) [] { clocks := 0 } [],
      .attend 0 .host [] [] { clocks := 0 } [],
      .attend 0 .host (zeros 16) [] { rivals := [19] } []]),
    (.matvec 0 .host (zeros 16) [] .bf16 { clocks := 0 } [], [.matvec 24 .host (zeros 16) [] .bf16 { clocks := 0 } [],
      .matvec 0 (.tile 68) (zeros 16) [] .bf16 { clocks := 0 } [],
      .matvec 0 (.inlet 8) (zeros 16) [] .bf16 { clocks := 0 } [],
      .matvec 0 (.mover 8) (zeros 16) [] .bf16 { clocks := 0 } [],
      .matvec 0 .host [] [] .bf16 { clocks := 0 } [],
      .matvec 0 .host (zeros 16) [] .bf16 { rivals := [19] } []]),
    (.sedgeRead 0 .host (zeros 16) { clocks := 0 } [], [.sedgeRead 24 .host (zeros 16) { clocks := 0 } [],
      .sedgeRead 0 (.tile 68) (zeros 16) { clocks := 0 } [],
      .sedgeRead 0 (.inlet 8) (zeros 16) { clocks := 0 } [],
      .sedgeRead 0 (.mover 8) (zeros 16) { clocks := 0 } [],
      .sedgeRead 0 .host [] { clocks := 0 } [],
      .sedgeRead 0 .host (zeros 16) { rivals := [19] } []]),
    (.sedgeWrite 0 .host (zeros 16) [] { clocks := 0 } [], [.sedgeWrite 24 .host (zeros 16) [] { clocks := 0 } [],
      .sedgeWrite 0 (.tile 68) (zeros 16) [] { clocks := 0 } [],
      .sedgeWrite 0 (.inlet 8) (zeros 16) [] { clocks := 0 } [],
      .sedgeWrite 0 (.mover 8) (zeros 16) [] { clocks := 0 } [],
      .sedgeWrite 0 .host [] [] { clocks := 0 } [],
      .sedgeWrite 0 .host (zeros 16) [] { rivals := [19] } []]),
    (.init 0 .host (zeros 16) [] { clocks := 0 } [], [.init 24 .host (zeros 16) [] { clocks := 0 } [],
      .init 0 (.tile 68) (zeros 16) [] { clocks := 0 } [],
      .init 0 (.inlet 8) (zeros 16) [] { clocks := 0 } [],
      .init 0 (.mover 8) (zeros 16) [] { clocks := 0 } [],
      .init 0 .host [] [] { clocks := 0 } [],
      .init 0 .host (zeros 16) [] { rivals := [19] } []]),
    (.nop 0 .host (zeros 16) { clocks := 0 }, [.nop 24 .host (zeros 16) { clocks := 0 },
      .nop 0 (.tile 68) (zeros 16) { clocks := 0 },
      .nop 0 (.inlet 8) (zeros 16) { clocks := 0 },
      .nop 0 (.mover 8) (zeros 16) { clocks := 0 },
      .nop 0 .host [] { clocks := 0 },
      .nop 0 .host (zeros 16) { rivals := [19] }]),
    (.refresh 0 [], [.refresh 24 []]),
    (.descriptorInstall okAcc [], [.descriptorInstall ⟨.slot 8, false⟩ []]),
    (.descriptorMigrate okAcc [], [.descriptorMigrate ⟨.slot 8, false⟩ []]),
    (.descriptorFree okAcc 0, [.descriptorFree ⟨.slot 8, false⟩ 0,
      .descriptorFree okAcc (2 ^ 12)]),
    (.stackPoll 0 false, [.stackPoll 24 false]),
    (.stackRetrainAttempt 0, [.stackRetrainAttempt 24]),
    (.stackRetrainDone 0 false false, [.stackRetrainDone 24 false false]),
    (.hostMemRead 0 none [], [.hostMemRead 1 none []]),
    (.hostMemWrite 0 (zeros 64) 0, [.hostMemWrite 1 (zeros 64) 0,
      .hostMemWrite 0 [] 0,
      .hostMemWrite 0 (zeros 64) (2 ^ 64)]),
    (.bisnpResponse 0 none, [.bisnpResponse 1 none]),
    (.createQueuePair okAcc [], [.createQueuePair ⟨.slot 8, false⟩ []]),
    (.deleteQueuePair okAcc 0, [.deleteQueuePair ⟨.slot 8, false⟩ 0,
      .deleteQueuePair okAcc 64]),
    (.createEmitRing okAcc [], [.createEmitRing ⟨.slot 8, false⟩ []])] = true := by
  decide

set_option maxRecDepth 40000 in
/-- WellFormed smoke, deleteEmitRing to admitWithdraw: each command is well formed, and each copy of it with one operand out of its range is refused. -/
theorem test_wf_deleteEmitRing : refusesEach [
    (.deleteEmitRing okAcc 0, [.deleteEmitRing ⟨.slot 8, false⟩ 0,
      .deleteEmitRing okAcc 512]),
    (.setProfile okAcc [], [.setProfile ⟨.slot 8, false⟩ []]),
    (.sqTailDoorbell okAcc 0 0, [.sqTailDoorbell ⟨.slot 8, false⟩ 0 0,
      .sqTailDoorbell okAcc 64 0,
      .sqTailDoorbell okAcc 0 (2 ^ 12)]),
    (.cqHeadDoorbell okAcc 0 0, [.cqHeadDoorbell ⟨.slot 8, false⟩ 0 0,
      .cqHeadDoorbell okAcc 64 0,
      .cqHeadDoorbell okAcc 0 (2 ^ 12)]),
    (.emitHeadDoorbell okAcc 0 0, [.emitHeadDoorbell ⟨.slot 8, false⟩ 0 0,
      .emitHeadDoorbell okAcc 512 0,
      .emitHeadDoorbell okAcc 0 (2 ^ 16)]),
    (.coalesceTimeout false 0, [.coalesceTimeout false 512]),
    (.emitStall 0, [.emitStall 512]),
    (.codeword 0 0 ⟨0, none, 0⟩, [.codeword 48 0 ⟨0, none, 0⟩,
      .codeword 0 4 ⟨0, none, 0⟩,
      .codeword 0 0 ⟨2 ^ 140, none, 0⟩,
      .codeword 0 0 ⟨0, some (zeros 624), 0⟩]),
    (.laneSignalLoss 0 0, [.laneSignalLoss 48 0,
      .laneSignalLoss 0 4]),
    (.dataFrame 0 [], [.dataFrame 48 []]),
    (.forwardedFrame 0 [], [.forwardedFrame 48 []]),
    (.negotiateCapability 0 [], [.negotiateCapability 48 []]),
    (.negotiateConfirm 0 [], [.negotiateConfirm 48 []]),
    (.credentialFragment 0 [], [.credentialFragment 48 []]),
    (.credentialVerified (.link 0), [.credentialVerified (.link 48),
      .credentialVerified (.pair 65536)]),
    (.encapsulation 0 [], [.encapsulation 48 []]),
    (.keepaliveSend 0, [.keepaliveSend 48]),
    (.keepalive 0 [], [.keepalive 48 []]),
    (.keepaliveTimeout 0, [.keepaliveTimeout 48]),
    (.admitPropose 0 [], [.admitPropose 48 []]),
    (.admitConfirm 0 [], [.admitConfirm 48 []]),
    (.admitWithdraw 0 [], [.admitWithdraw 48 []])] = true := by
  decide

set_option maxRecDepth 40000 in
/-- WellFormed smoke, test to store: each command is well formed, and each copy of it with one operand out of its range is refused. -/
theorem test_wf_test : refusesEach [
    (.test 0 0 [], [.test 48 0 [],
      .test 0 (2 ^ 16) []]),
    (.retire 0 [], [.retire 48 []]),
    (.margin 0 [], [.margin 48 []]),
    (.trainingStageDone 0 0, [.trainingStageDone 48 0,
      .trainingStageDone 0 16]),
    (.trainingStageTimeout 0, [.trainingStageTimeout 48]),
    (.trainingRetry 0, [.trainingRetry 48]),
    (.selftestEnd 0, [.selftestEnd 48]),
    (.laneRetrainTimeout 0 0, [.laneRetrainTimeout 48 0,
      .laneRetrainTimeout 0 4]),
    (.laneRetrainRetry 0 0, [.laneRetrainRetry 48 0,
      .laneRetrainRetry 0 4]),
    (.lnkRetrain okAcc 0, [.lnkRetrain ⟨.slot 8, false⟩ 0,
      .lnkRetrain okAcc 48]),
    (.lnkRetire okAcc 0, [.lnkRetire ⟨.slot 8, false⟩ 0,
      .lnkRetire okAcc 48]),
    (.lnkReadmit okAcc 0, [.lnkReadmit ⟨.slot 8, false⟩ 0,
      .lnkReadmit okAcc 48]),
    (.engineFailed 0, [.engineFailed 12]),
    (.engineOvertemp 0 0, [.engineOvertemp 12 0]),
    (.msg okPkt [], [.msg { okPkt with op := 16 } [],
      .msg { okPkt with tc := 8 } [],
      .msg { okPkt with srcPart := 8 } [],
      .msg { okPkt with dstPart := 8 } [],
      .msg { okPkt with srcDev := 65536 } [],
      .msg { okPkt with dstDev := 65536 } [],
      .msg { okPkt with svc := 256 } [],
      .msg { okPkt with psn := 2 ^ 32 } [],
      .msg { okPkt with payload := zeros 4097 } []]),
    (.ack okPkt, [.ack { okPkt with op := 16 },
      .ack { okPkt with tc := 8 },
      .ack { okPkt with srcPart := 8 },
      .ack { okPkt with dstPart := 8 },
      .ack { okPkt with srcDev := 65536 },
      .ack { okPkt with dstDev := 65536 },
      .ack { okPkt with svc := 256 },
      .ack { okPkt with psn := 2 ^ 32 },
      .ack { okPkt with payload := zeros 4097 }]),
    (.nak okPkt, [.nak { okPkt with op := 16 },
      .nak { okPkt with tc := 8 },
      .nak { okPkt with srcPart := 8 },
      .nak { okPkt with dstPart := 8 },
      .nak { okPkt with srcDev := 65536 },
      .nak { okPkt with dstDev := 65536 },
      .nak { okPkt with svc := 256 },
      .nak { okPkt with psn := 2 ^ 32 },
      .nak { okPkt with payload := zeros 4097 }]),
    (.sync okPkt, [.sync { okPkt with op := 16 },
      .sync { okPkt with tc := 8 },
      .sync { okPkt with srcPart := 8 },
      .sync { okPkt with dstPart := 8 },
      .sync { okPkt with srcDev := 65536 },
      .sync { okPkt with dstDev := 65536 },
      .sync { okPkt with svc := 256 },
      .sync { okPkt with psn := 2 ^ 32 },
      .sync { okPkt with payload := zeros 4097 }]),
    (.syncAck okPkt, [.syncAck { okPkt with op := 16 },
      .syncAck { okPkt with tc := 8 },
      .syncAck { okPkt with srcPart := 8 },
      .syncAck { okPkt with dstPart := 8 },
      .syncAck { okPkt with srcDev := 65536 },
      .syncAck { okPkt with dstDev := 65536 },
      .syncAck { okPkt with svc := 256 },
      .syncAck { okPkt with psn := 2 ^ 32 },
      .syncAck { okPkt with payload := zeros 4097 }]),
    (.load okPkt [], [.load { okPkt with op := 16 } [],
      .load { okPkt with tc := 8 } [],
      .load { okPkt with srcPart := 8 } [],
      .load { okPkt with dstPart := 8 } [],
      .load { okPkt with srcDev := 65536 } [],
      .load { okPkt with dstDev := 65536 } [],
      .load { okPkt with svc := 256 } [],
      .load { okPkt with psn := 2 ^ 32 } [],
      .load { okPkt with payload := zeros 4097 } []]),
    (.loadResp okPkt, [.loadResp { okPkt with op := 16 },
      .loadResp { okPkt with tc := 8 },
      .loadResp { okPkt with srcPart := 8 },
      .loadResp { okPkt with dstPart := 8 },
      .loadResp { okPkt with srcDev := 65536 },
      .loadResp { okPkt with dstDev := 65536 },
      .loadResp { okPkt with svc := 256 },
      .loadResp { okPkt with psn := 2 ^ 32 },
      .loadResp { okPkt with payload := zeros 4097 }]),
    (.store okPkt [], [.store { okPkt with op := 16 } [],
      .store { okPkt with tc := 8 } [],
      .store { okPkt with srcPart := 8 } [],
      .store { okPkt with dstPart := 8 } [],
      .store { okPkt with srcDev := 65536 } [],
      .store { okPkt with dstDev := 65536 } [],
      .store { okPkt with svc := 256 } [],
      .store { okPkt with psn := 2 ^ 32 } [],
      .store { okPkt with payload := zeros 4097 } []])] = true := by
  decide

set_option maxRecDepth 40000 in
/-- WellFormed smoke, skip to pairEncapsulation: each command is well formed, and each copy of it with one operand out of its range is refused. -/
theorem test_wf_skip : refusesEach [
    (.skip okPkt [], [.skip { okPkt with op := 16 } [],
      .skip { okPkt with tc := 8 } [],
      .skip { okPkt with srcPart := 8 } [],
      .skip { okPkt with dstPart := 8 } [],
      .skip { okPkt with srcDev := 65536 } [],
      .skip { okPkt with dstDev := 65536 } [],
      .skip { okPkt with svc := 256 } [],
      .skip { okPkt with psn := 2 ^ 32 } [],
      .skip { okPkt with payload := zeros 4097 } []]),
    (.ackTimer 0 0, [.ackTimer (2 ^ 16) 0,
      .ackTimer 0 8]),
    (.retryTimeout 0 0, [.retryTimeout (2 ^ 16) 0,
      .retryTimeout 0 8]),
    (.contextFetchDone 0, [.contextFetchDone (2 ^ 20)]),
    (.reassemblyTimeout 0 0 0, [.reassemblyTimeout (2 ^ 16) 0 0,
      .reassemblyTimeout 0 8 0]),
    (.mapProposal okAcc [], [.mapProposal ⟨.slot 8, false⟩ []]),
    (.vote okSrc [], [.vote ⟨65536, 0, 0, 0⟩ [],
      .vote ⟨0, 8, 0, 0⟩ [],
      .vote ⟨0, 0, 8, 0⟩ []]),
    (.exportOpen okAcc [], [.exportOpen ⟨.slot 8, false⟩ []]),
    (.exportRevoke okAcc 0, [.exportRevoke ⟨.slot 8, false⟩ 0,
      .exportRevoke okAcc (2 ^ 16)]),
    (.windowOpen okAcc [], [.windowOpen ⟨.slot 8, false⟩ []]),
    (.windowClose okAcc 0, [.windowClose ⟨.slot 8, false⟩ 0,
      .windowClose okAcc (2 ^ 16)]),
    (.contextFlush okAcc 0, [.contextFlush ⟨.slot 8, false⟩ 0,
      .contextFlush okAcc (2 ^ 16)]),
    (.frameBoundary 0, [.frameBoundary 48]),
    (.calendarCommit okAcc 0, [.calendarCommit ⟨.slot 8, false⟩ 0,
      .calendarCommit okAcc 48]),
    (.policerWrite okAcc 0 0 false 0, [.policerWrite ⟨.slot 8, false⟩ 0 0 false 0,
      .policerWrite okAcc 48 0 false 0,
      .policerWrite okAcc 0 32 false 0,
      .policerWrite okAcc 0 0 false (2 ^ 32)]),
    (.sampler 0, [.sampler 48]),
    (.firmwareGo okAcc, [.firmwareGo ⟨.slot 8, false⟩]),
    (.fuseOwnerKey okAcc (zeros 64), [.fuseOwnerKey ⟨.slot 8, false⟩ (zeros 64),
      .fuseOwnerKey okAcc []]),
    (.fuseManagementRoot okAcc (zeros 64), [.fuseManagementRoot ⟨.slot 8, false⟩ (zeros 64),
      .fuseManagementRoot okAcc []]),
    (.raiseMinSvn okAcc, [.raiseMinSvn ⟨.slot 8, false⟩]),
    (.pairCredential okSrc [], [.pairCredential ⟨65536, 0, 0, 0⟩ [],
      .pairCredential ⟨0, 8, 0, 0⟩ [],
      .pairCredential ⟨0, 0, 8, 0⟩ []]),
    (.pairEncapsulation okSrc [], [.pairEncapsulation ⟨65536, 0, 0, 0⟩ [],
      .pairEncapsulation ⟨0, 8, 0, 0⟩ [],
      .pairEncapsulation ⟨0, 0, 8, 0⟩ []])] = true := by
  decide

set_option maxRecDepth 40000 in
/-- WellFormed smoke, pairConfirm to junctionTrip: each command is well formed, and each copy of it with one operand out of its range is refused. -/
theorem test_wf_pairConfirm : refusesEach [
    (.pairConfirm okSrc [], [.pairConfirm ⟨65536, 0, 0, 0⟩ [],
      .pairConfirm ⟨0, 8, 0, 0⟩ [],
      .pairConfirm ⟨0, 0, 8, 0⟩ []]),
    (.handshakeTimeout 0, [.handshakeTimeout (2 ^ 16)]),
    (.attestationRequest okAcc, [.attestationRequest ⟨.slot 8, false⟩]),
    (.sessionTimeout 0, [.sessionTimeout (2 ^ 32)]),
    (.nmpRead 0 0 0 0, [.nmpRead (2 ^ 32) 0 0 0,
      .nmpRead 0 (2 ^ 32) 0 0,
      .nmpRead 0 0 (2 ^ 32) 0,
      .nmpRead 0 0 0 (2 ^ 16)]),
    (.nmpWrite 0 0 0 [] [], [.nmpWrite (2 ^ 32) 0 0 [] [],
      .nmpWrite 0 (2 ^ 32) 0 [] [],
      .nmpWrite 0 0 (2 ^ 32) [] [],
      .nmpWrite 0 0 0 [2 ^ 32] []]),
    (.nmpColdReset 0 0, [.nmpColdReset (2 ^ 32) 0,
      .nmpColdReset 0 (2 ^ 32)]),
    (.nmpWarmReset 0 0, [.nmpWarmReset (2 ^ 32) 0,
      .nmpWarmReset 0 (2 ^ 32)]),
    (.nmpPurge 0 0, [.nmpPurge (2 ^ 32) 0,
      .nmpPurge 0 (2 ^ 32)]),
    (.nmpReport 0 0 false (zeros 32), [.nmpReport (2 ^ 32) 0 false (zeros 32),
      .nmpReport 0 (2 ^ 32) false (zeros 32),
      .nmpReport 0 0 false []]),
    (.unsupportedSpdmRequest 0, [.unsupportedSpdmRequest 256]),
    (.presenceSend 0, [.presenceSend (2 ^ 16)]),
    (.presence okSrc [], [.presence ⟨65536, 0, 0, 0⟩ [],
      .presence ⟨0, 8, 0, 0⟩ [],
      .presence ⟨0, 0, 8, 0⟩ []]),
    (.departure okSrc [], [.departure ⟨65536, 0, 0, 0⟩ [],
      .departure ⟨0, 8, 0, 0⟩ [],
      .departure ⟨0, 0, 8, 0⟩ []]),
    (.peerTimeout 0, [.peerTimeout (2 ^ 16)]),
    (.repairHalfBank okAcc 0 0 false, [.repairHalfBank ⟨.slot 8, false⟩ 0 0 false,
      .repairHalfBank okAcc 24 0 false,
      .repairHalfBank okAcc 0 4096 false]),
    (.retestTile okAcc 0, [.retestTile ⟨.slot 8, false⟩ 0,
      .retestTile okAcc 68]),
    (.selftestDone (.tile 0) .pass, [.selftestDone (.tile 68) .pass,
      .selftestDone (.halfBank 24 0) .pass,
      .selftestDone (.halfBank 0 4096) .pass]),
    (.unitLoadDone 0 false, [.unitLoadDone 68 false]),
    (.modRstN 5000, [.modRstN 4999]),
    (.startupStageDone 1 [] [], [.startupStageDone 0 [] [],
      .startupStageDone 11 [] []]),
    (.junctionTrip 0 0, [.junctionTrip 4 0])] = true := by
  decide

set_option maxRecDepth 40000 in
/-- WellFormed smoke, vigilArm to clearedByRead: each command is well formed, and each copy of it with one operand out of its range is refused. -/
theorem test_wf_vigilArm : refusesEach [
    (.vigilArm okAcc, [.vigilArm ⟨.slot 8, false⟩]),
    (.vigilNow okAcc, [.vigilNow ⟨.slot 8, false⟩]),
    (.vigilRelease okAcc, [.vigilRelease ⟨.slot 8, false⟩]),
    (.vigilDisarm okAcc, [.vigilDisarm ⟨.slot 8, false⟩]),
    (.vigilMessage okSrc [], [.vigilMessage ⟨65536, 0, 0, 0⟩ [],
      .vigilMessage ⟨0, 8, 0, 0⟩ [],
      .vigilMessage ⟨0, 0, 8, 0⟩ []]),
    (.blkEnable okAcc 0 false, [.blkEnable ⟨.slot 8, false⟩ 0 false,
      .blkEnable okAcc 284 false]),
    (.blkDrain okAcc 0 false, [.blkDrain ⟨.slot 8, false⟩ 0 false,
      .blkDrain okAcc 284 false]),
    (.blkQuiesce okAcc 0 false, [.blkQuiesce ⟨.slot 8, false⟩ 0 false,
      .blkQuiesce okAcc 284 false]),
    (.blkReset okAcc 0, [.blkReset ⟨.slot 8, false⟩ 0,
      .blkReset okAcc 284]),
    (.rw1cWrite okAcc 0 false 0 0, [.rw1cWrite ⟨.slot 8, false⟩ 0 false 0 0,
      .rw1cWrite okAcc 284 false 0 0,
      .rw1cWrite okAcc 0 false (2 ^ 32) 0,
      .rw1cWrite okAcc 0 false 0 (2 ^ 32)]),
    (.registerWrite okAcc 0 4 0 [], [.registerWrite ⟨.slot 8, false⟩ 0 4 0 [],
      .registerWrite okAcc (2 ^ 27) 4 0 [],
      .registerWrite okAcc 0 4 (2 ^ 32) []]),
    (.cxlLinkUp 2, [.cxlLinkUp 0,
      .cxlLinkUp 3]),
    (.hdmDecoderCommit 0 0 0 0, [.hdmDecoderCommit 16 0 0 0]),
    (.attendSend 0 0 0 [], [.attendSend 68 0 0 [],
      .attendSend 0 (2 ^ 16) 0 [],
      .attendSend 0 0 8 []]),
    (.laserFault 0 0 0 0, [.laserFault 48 0 0 0,
      .laserFault 0 4 0 0]),
    (.receivedPowerLow 0 0 0, [.receivedPowerLow 48 0 0,
      .receivedPowerLow 0 4 0]),
    (.clearedByRead 0 0, [.clearedByRead (2 ^ 27) 0])] = true := by
  decide
/-! ## Witnesses: states and operands that meet the hypotheses of the statements -/

/-- A state whose firmware runs, so that every page takes writes. -/
def st1 : State := { State.reset with chip := { State.reset.chip with pwr := { State.reset.chip.pwr with done := [8] } } }

/-- The same with a change to the module. -/
def st1With (f : Chip → Chip) : State := { st1 with chip := f st1.chip }

/-- StepRunsFrontCommand: a queue of one command, and an empty queue. -/
theorem witness_StepRunsFrontCommand : ({ State.reset with pending := [.settleStart] } : State).pending = .settleStart :: [] ∧ State.reset.pending = [] := by
  decide

/-- FusesOnlyRise: a step that answers a next state. -/
theorem witness_FusesOnlyRise : step State.reset = .next State.reset := rfl

/-- FusesChangeOnlyByFuseCommands: a command that is no fuse command, and its next state. -/
theorem witness_FusesChangeOnlyByFuseCommands : exec (.modRstN 0) State.reset = .next State.reset := rfl

/-- ObserversChangeNothing: an empty slot, and a slot that holds an observer. -/
theorem witness_ObserversChangeNothing :
    accessOf (.vigilNow ⟨.slot 0, false⟩) = some ⟨.slot 0, false⟩ ∧ st1.ready = true ∧ st1.chip.rank (.slot 0) = .none
      ∧ (st1With (fun c => c.wf F.SEC_PRIN_CFG_ROLE 3)).ready = true ∧ (st1With (fun c => c.wf F.SEC_PRIN_CFG_ROLE 3)).chip.rank (.slot 0) = .observer := by
  decide

/-- RailsOffModuleDoesNothing: a module without rails. -/
theorem witness_RailsOffModuleDoesNothing : (st1With (fun c => { c with pwr := { c.pwr with off := true } })).chip.pwr.off = true := by decide

/-- A module 1,000 ns into its first step. -/
def st1Later : State := st1With (fun c => c.setAlm (fun a => { a with now := 1000 }))

/-- QuietTickAddsTen: a tick at which no event is due. -/
theorem witness_QuietTickAddsTen :
    st1Later.ready = true ∧ (st1Later.chip.setAlm (fun a => { a with now := a.now + 10 })).alm.late = none
      ∧ (st1Later.chip.setAlm (fun a => { a with now := a.now + 10 })).atStart = false
      ∧ (st1Later.chip.setAlm (fun a => { a with now := a.now + 10 })).latchSources = []
      ∧ (st1Later.chip.setAlm (fun a => { a with now := a.now + 10 })).offset = 101
      ∧ (st1Later.chip.plan.w, st1Later.chip.plan.x, st1Later.chip.plan.s, st1Later.chip.cutoffAt) ≠ (101, 101, 101, 101) ∧ st1Later.chip.pwr.off = false := by
  decide

/-- StepNumberAndOffset: the first and the last tick of a step, on either side of each phase's start. -/
theorem witness_StepNumberAndOffset : ∀ k ∈ [0, 19999, 20000, 1999999],
    (st1.chip.setAlm (fun a => { a with now := 10 * k + 9 })).alm.late = none ∧ 0 < st1.chip.plan.c ∧ k < st1.chip.plan.c ∧ 9 < 10
      ∧ (st1.chip.setAlm (fun a => { a with now := 10 * k + 9 })).alm.now = st1.chip.rd64 Reg.ALM_BASE_TIME_LO + 10 * (0 * st1.chip.plan.c + k) + 9 := by
  decide

/-- A module that switches to its own plan once more, 100 ns into the step. -/
def stLate : State := st1With (fun c => c.setAlm (fun a => { a with late := some { moment := 100, plan := c.plan, baseTime := 0, baseStep := 0 } }))

/-- PhaseCommandsActAtTheirMoment: no moment of the step skipped, and each of them by a late plan; inside a step, and no late plan. -/
theorem witness_PhaseCommandsActAtTheirMoment :
    st1.runs = true ∧ st1.chip.alm.late = none ∧ 0 < st1Later.chip.plan.c ∧ st1Later.chip.rd64 Reg.ALM_BASE_TIME_LO ≤ st1Later.chip.alm.now ∧ st1Later.chip.atStart = false
      ∧ (∀ m ∈ [st1.chip.plan.w, st1.chip.plan.x, st1.chip.plan.s, st1.chip.cutoffAt], st1.chip.skipped m = false)
      ∧ stLate.runs = true ∧ (∀ m ∈ [stLate.chip.plan.w, stLate.chip.plan.x, stLate.chip.plan.s, stLate.chip.cutoffAt], stLate.chip.skipped m = true) := by
  decide

/-- PlansAreArmedWithdrawnAndSwitched: page ALM takes the host's write; no late plan, and one before the Exchange phase and after it. -/
theorem witness_PlansAreArmedWithdrawnAndSwitched :
    st1.ready = true ∧ st1.chip.accepts okAcc Pg.ALM false [] = true ∧ st1.chip.alm.late = none ∧ stLate.runs = true ∧ stLate.chip.alm.late.isSome = true
      ∧ (stLate.chip.exchangeStart []).alm.late = stLate.chip.alm.late := by
  decide

/-- SyncInputEdges: the input disabled, and enabled with a valid almanac. -/
theorem witness_SyncInputEdges :
    st1.ready = true ∧ st1.chip.accepts okAcc Pg.ALM false [] = true ∧ st1.chip.rf F.ALM_SYNC_CFG_EN = 0
      ∧ (st1With (fun c => (c.wf F.ALM_SYNC_CFG_EN 1).setAlm (fun a => { a with valid := true }))).ready = true
      ∧ ((st1With (fun c => (c.wf F.ALM_SYNC_CFG_EN 1).setAlm (fun a => { a with valid := true }))).chip.wf F.ALM_SYNC_STAT_PRESENT 1).rf F.ALM_SYNC_CFG_EN = 1
      ∧ ((st1With (fun c => (c.wf F.ALM_SYNC_CFG_EN 1).setAlm (fun a => { a with valid := true }))).chip.wf F.ALM_SYNC_STAT_PRESENT 1).alm.valid = true := by
  decide

/-- A module locked to a master on link 47, which is up with version 2. -/
def stUp : State := st1With (fun c => (((c.lnkWf 47 F.LNK_STAT_STATE 4).lnkWf 47 F.LNK_STAT_VERSION 2).wf F.ALM_STATE_LOCK 2).wf F.ALM_STATE_UPSTREAM 47)

/-- A record of the almanac of a type. -/
def almBytes (type : Nat) : Bytes := toLE 1 type ++ toLE 1 2 ++ zeros 46

/-- An Announce whose master has a serial number. -/
def almOf (serial : Nat) : Bytes := patch (almBytes 1) 8 (toLE 8 serial)

/-- AlmanacRecordsSent: a device with a master, fewer than 32 hops away, that is locked. -/
theorem witness_AlmanacRecordsSent : stUp.runs = true ∧ stUp.chip.hasMaster = true ∧ stUp.chip.rf F.ALM_STATE_HOPS < 32 ∧ stUp.chip.locked = true := by decide

/-- BadAlmanacRecordsAreDropped: bytes that are no record of any type. -/
theorem witness_BadAlmanacRecordsAreDropped : stUp.runs = true ∧ ∀ t ∈ [1, 2, 3, 4], (stUp.chip.takeCtl 47 2 []).almOk 47 t [] = false := by decide

/-- AlmanacRecordsTaken: a record of each type on link 47, an Announce of serial number 0 and one of 1, one of which is another device's, and a request
that waits for its reply. -/
theorem witness_AlmanacRecordsTaken :
    ((0 : Nat) ≠ ownSerial ∨ 1 ≠ ownSerial) ∧ (∀ n ∈ [0, 1], (stUp.chip.takeCtl 47 2 (almOf n)).almOk 47 1 (almOf n) = true ∧ (AlmRec.ofBytes (almOf n)).serial = n) ∧
    stUp.runs = true ∧ (∀ t ∈ [1, 2, 3, 4], (stUp.chip.takeCtl 47 2 (almBytes t)).almOk 47 t (almBytes t) = true)
      ∧ (((st1With (fun _ => stUp.chip.setAlm (fun a => { a with delayReq := [(47, (0, 5))] }))).chip.takeCtl 47 2 (almBytes 4)).alm.delayReq.find 47
          = some ((AlmRec.ofBytes (almBytes 4)).seq, 5))
      ∧ (stUp.chip.takeCtl 47 2 (almBytes 4)).lnkState 47 ≠ Ls.selftest := by
  refine ⟨by omega, ?_⟩
  decide

/-- RegisterReadsAnswerLatchAndClear: the host interface in D3hot; a size that is not served; and reads of 4 bytes (an almanac LO, PWR_PEAK_W, the
first and the last SDG_REF_STAT, the last word of a page) and of 8. -/
theorem witness_RegisterReadsAnswerLatchAndClear :
    st1.runs = true ∧ (st1With (fun c => c.wf F.PWR_STATE_POWER 2)).chip.d3hot = true ∧ st1.chip.d3hot = false ∧ served 2 2 = false
      ∧ (∀ a ∈ [Reg.ALM_BASE_TIME_LO, Reg.PWR_PEAK_W, 104 * 0x1000 + Reg.SDG_REF_STAT, 127 * 0x1000 + Reg.SDG_REF_STAT, 0xFFC],
          served a 4 = true ∧ st1.chip.pageUp (a / 0x1000) = true)
      ∧ served Reg.ALM_BASE_TIME_LO 8 = true := by
  decide

/-- BlockControlWrites: an ordinary page, page CXL, the last link's page and the first page whose reset is allowed. -/
theorem witness_BlockControlWrites :
    st1.ready = true ∧ (∀ p ∈ [Pg.RTB, Pg.CXL, Pg.lnk 47], (blkOf p).isSome = true ∧ st1.chip.accepts okAcc p false [] = true)
      ∧ blkOf Pg.RTB = some (.rtb, 0) ∧ (st1With (fun c => c.wf (F.BLK_STAT_QUIESCED.on Pg.RTB) 1)).ready = true := by
  decide

/-- WriteOneClears: all bits of a page's ERR_STAT and INT_STAT. -/
theorem witness_WriteOneClears : st1.ready = true ∧ blkOf Pg.RTB = some (.rtb, 0) ∧ st1.chip.accepts okAcc Pg.RTB false [] = true ∧ 2 ^ 32 - 1 < 2 ^ 32 := by
  decide

/-- EventBitSurvivesItsClear: the lowest and the highest bit. -/
theorem witness_EventBitSurvivesItsClear :
    st1.ready = true ∧ blkOf Pg.RTB = some (.rtb, 0) ∧ (∀ i ∈ [0, 31], i < 32 ∧ (2 ^ 31 + 1).testBit i = true)
      ∧ (st1.chip.rd (regAt Pg.RTB Reg.ERR_MASK)).testBit 31 = false := by
  decide

/-- RegisterWriteIsStoredAndReadBack: VGL_TIME_LO, and a size that is not served. -/
theorem witness_RegisterWriteIsStoredAndReadBack :
    st1.ready = true ∧ Reg.VGL_TIME_LO % 4 = 0 ∧ blkOf (Reg.VGL_TIME_LO / 0x1000) = some (.vgl, 0) ∧ 0x100 ≤ Reg.VGL_TIME_LO % 0x1000
      ∧ ((rowHere .vgl 0 (Reg.VGL_TIME_LO % 0x1000)).any (fun x => decide (x.1.soft < 2 ^ 32))) = true
      ∧ (st1.commandWrite okAcc Reg.VGL_TIME_LO 5 []).isNone = true ∧ (st1.chip.ruleOf Reg.VGL_TIME_LO 5).admin = false
      ∧ st1.chip.accepts okAcc (Reg.VGL_TIME_LO / 0x1000) (st1.chip.ruleOf Reg.VGL_TIME_LO 5).shared (st1.chip.ruleOf Reg.VGL_TIME_LO 5).parts = true
      ∧ served 2 2 = false ∧ st1.chip.d3hot = false := by
  decide

/-- RefusedWritesAreRecorded: an empty slot (4), and two writers in one cycle (3). -/
theorem witness_RefusedWritesAreRecorded :
    st1.ready = true ∧ ∀ p ∈ [Pg.ALM, Pg.XPT, Pg.VGL, Pg.lnk 47],
      st1.chip.reaches (.slot 0) p = true ∧ st1.chip.judge ⟨.slot 0, false⟩ p false [] = some 4 ∧ st1.chip.reaches .host p = true
        ∧ st1.chip.judge ⟨.host, true⟩ p false [] = some 3 := by
  decide

/-- ColdResetLosesAllButFuses and ExcursionsTripsAndPowerStates: the rails on, and the module calm. -/
theorem witness_ColdResetLosesAllButFuses : st1.chip.pwr.off = false := by decide

/-- The rails on, the module calm; a condition that shuts it down and one that does not. -/
theorem witness_ExcursionsTripsAndPowerStates :
    st1.chip.pwr.off = false ∧ st1.ready = true ∧ shutsDown (.inputMv 0 2000) = true ∧ shutsDown (.inputMv 54000 2000) = false ∧ st1.chip.rf F.FLT_STAT_FATAL = 0 := by
  decide

/-- A module whose stages below `n` are done, and which is locked. -/
def booted (n : Nat) : State :=
  { State.reset with chip := { State.reset.chip.wf F.ALM_STATE_LOCK 2 with pwr := { State.reset.chip.pwr with done := (List.range n).filter (· != 0) } } }

/-- PerstAndStartUpStages: each stage open; stages 7 and 11 that never finish so. -/
theorem witness_PerstAndStartUpStages :
    State.reset.chip.pwr.off = false ∧ (∀ n ∈ [1, 2, 3, 4, 8, 9, 10], (booted n).chip.pwr.off = false ∧ (booted n).chip.stageOpen n = true)
      ∧ State.reset.chip.stageOpen 10 = false ∧ (booted 8).chip.rf F.GLB_FW_STAT_STATE ≠ 1 := by
  decide

/-- A module that has been asked to latch now, inside a step. -/
def stNow : State := { st1Later with chip := { st1Later.chip with vgl := { st1Later.chip.vgl with now := true } } }

/-- VigilTriggers: SPREAD clear and set; nothing that latches; a trigger armed with a valid almanac. -/
theorem witness_VigilTriggers :
    st1.ready = true ∧ st1.chip.takes okAcc Pg.VGL false [] = true ∧ st1.chip.rf F.VGL_CFG_SPREAD = 0
      ∧ (st1With (fun c => c.wf F.VGL_CFG_SPREAD 1)).ready = true ∧ (st1With (fun c => c.wf F.VGL_CFG_SPREAD 1)).chip.rf F.VGL_CFG_SPREAD = 1
      ∧ (st1With (fun c => c.wf F.VGL_CFG_SPREAD 1)).chip.takes okAcc Pg.VGL false [] = true
      ∧ st1.chip.vgl.now = false ∧ st1.chip.vgl.fault = false ∧ st1.chip.vgl.armed = none
      ∧ stNow.ready = true ∧ stNow.chip.latchTick = some 1010 ∧ stNow.chip.vgl.now = true ∧ stNow.chip.vgl.fault = false ∧ stNow.chip.vgl.armed = none
      ∧ stNow.chip.rf F.VGL_STAT_HELD = 0 ∧ stNow.chip.alm.now + 10 < stNow.chip.nextStart := by
  decide

/-- HeldLatchIgnoresTriggers: HELD clear and set, and a release that is taken. -/
theorem witness_HeldLatchIgnoresTriggers :
    st1.chip.rf F.VGL_STAT_HELD = 0 ∧ (st1.chip.wf F.VGL_STAT_HELD 1).rf F.VGL_STAT_HELD = 1 ∧ st1.ready = true ∧ st1.chip.takes okAcc Pg.VGL false [] = true := by
  decide

/-- Link 47 in training, in a stage. -/
def inTraining (stage : Nat) : State := st1With (fun c => (c.lnkWf 47 F.LNK_STAT_STATE Ls.training).updLink 47 (fun k => { k with stage := stage }))

/-- Link 47 down and enabled. -/
def stDown : State := st1With (fun c => (c.lnkWf 47 F.LNK_STAT_STATE Ls.down).wf (F.LNK_CFG_EN.on (Pg.lnk 47)) 1)

/-- TrainingGoesThroughItsStages: the last link not in training, in stage 1 and in stage 6 of it, and down and enabled. -/
theorem witness_TrainingGoesThroughItsStages :
    st1.runs = true ∧ 47 < 48 ∧ st1.chip.lnkState 47 ≠ Ls.training ∧ st1.chip.lnkState 47 ≠ Ls.down
      ∧ (inTraining 1).chip.lnkState 47 = Ls.training ∧ ((inTraining 1).chip.link 47).stage ≠ 6 ∧ (inTraining 6).chip.lnkState 47 = Ls.training
      ∧ ((inTraining 6).chip.link 47).stage = 6 ∧ stDown.runs = true ∧ stDown.chip.lnkState 47 = Ls.down
      ∧ stDown.chip.active (Pg.lnk 47) (F.LNK_CFG_EN.on (Pg.lnk 47)) = true ∧ stDown.chip.flt.mute = false := by
  decide

/-- LinksAreTestedAndAdmitted and OpticsAndAgeing have no other hypotheses: the last link. -/
theorem witness_LinksAreTestedAndAdmitted : st1.runs = true ∧ 47 < 48 := by decide

/-- The last engine, link and lane. -/
theorem witness_OpticsAndAgeing : st1.runs = true ∧ 11 < 12 ∧ 47 < 48 ∧ 3 < 4 := by decide

/-- Link 47 in stage 6 of its training. -/
def inStage6 (f : Link → Link) : State := st1With (fun c => c.updLink 47 (fun k => f { k with stage := 6 }))

/-- LinksAgreeAndAuthenticate: another stage; stage 6 without LCK, with LCK and another LENGTH, and with LCK and LENGTH 72. -/
theorem witness_LinksAgreeAndAuthenticate :
    st1.runs = true ∧ ((st1.chip.takeCtl 47 1 (zeros 120)).link 47).stage ≠ 6
      ∧ (((inStage6 id).chip.takeCtl 47 1 (zeros 120)).link 47).stage = 6 ∧ (((inStage6 id).chip.takeCtl 47 1 (zeros 120)).link 47).lck = []
      ∧ (inStage6 (fun k => { k with lck := zeros 32 })).runs = true ∧ le (zeros 120) 2 2 ≠ 72
      ∧ (((inStage6 (fun k => { k with lck := zeros 32 })).chip.takeCtl 47 1 ([1, 0, 72, 0] ++ zeros 116)).link 47).lck ≠ []
      ∧ le ([1, 0, 72, 0] ++ zeros 116) 2 2 = 72 := by
  decide

/-- CredentialsAreVerified: 15 fragments, and all 16. -/
theorem witness_CredentialsAreVerified :
    ((inStage6 (fun k => { k with frags := (List.range 15).map (fun i => (i, [])) })).chip.link 47).frags.length < 16
      ∧ (inStage6 (fun k => { k with frags := (List.range 16).map (fun i => (i, [])) })).runs = true
      ∧ ((inStage6 (fun k => { k with frags := (List.range 16).map (fun i => (i, [])) })).chip.link 47).stage = 6
      ∧ 16 ≤ ((inStage6 (fun k => { k with frags := (List.range 16).map (fun i => (i, [])) })).chip.link 47).frags.length
      ∧ ((inStage6 (fun k => { k with frags := (List.range 16).map (fun i => (i, [])) })).chip.link 47).cred = [] := by
  decide

/-- A module whose link 47 is RETIRED. -/
def stRetired : State := st1With (fun c => c.lnkWf 47 F.LNK_STAT_STATE Ls.retired)

/-- LanesAndLinkOrders: the page of a link in service and of a RETIRED one takes the host's order. -/
theorem witness_LanesAndLinkOrders :
    stUp.runs = true ∧ stUp.chip.takes okAcc (Pg.lnk 47) false [] = true ∧ stUp.chip.lnkState 47 ≠ Ls.retired
      ∧ stRetired.runs = true ∧ stRetired.chip.takes okAcc (Pg.lnk 47) false [] = true ∧ stRetired.chip.lnkState 47 = Ls.retired := by
  decide

/-- A data frame of version 2 without payload, and its check. -/
def frame2 : Bytes := let h : Bytes := [0x21] ++ zeros 47; h ++ toLE 4 (crc32 0xEDB88320 h)

/-- What frame2 leaves of a module before its transport sees it. -/
def afterFrame2 (s : State) : Chip :=
  let c := s.chip.updLink 47 (fun k => { k with frames := k.frames.erase frame2 })
  ((c.add64 (regAt (Pg.lnk 47) Reg.LNK_FRAMES_RX_LO) 1).add64 (regAt (Pg.lnk 47) Reg.LNK_BYTES_RX_LO) frame2.length).updLink 47 (fun k => { k with rxSeq := 1 })

set_option maxRecDepth 40000 in
/-- CodewordsAndFrames: a link that is neither up nor in training, a RETIRED lane, training in stage 3, a link that is up; a frame on a link that is
down; a short frame; a frame whose check holds on an ADMITTED link. -/
theorem witness_CodewordsAndFrames :
    st1.runs = true ∧ st1.chip.lnkState 47 ≠ Ls.training ∧ st1.chip.linkUp 47 = false ∧ (st1.chip.setLane 47 3 5).laneState 47 3 = 5
      ∧ ((st1.chip.lnkWf 47 F.LNK_STAT_STATE Ls.training).updLink 47 (fun k => { k with stage := 3 })).lnkState 47 = Ls.training
      ∧ stUp.runs = true ∧ stUp.chip.linkUp 47 = true ∧ stUp.chip.laneState 47 3 ≠ 5
      ∧ frame2.length = 52 + le frame2 2 2 ∧ le frame2 2 2 ≤ 4096 ∧ crc32 0xEDB88320 (frame2.take (frame2.length - 4)) = le frame2 (frame2.length - 4) 4
      ∧ bits (le frame2 0 1) 3 0 = 1 ∧ bits (le frame2 0 1) 7 4 = (afterFrame2 stUp).lnkRf 47 F.LNK_STAT_VERSION ∧ (afterFrame2 stUp).lnkRf 47 F.LNK_STAT_VERSION ≠ 0 ∧ (afterFrame2 stUp).admitted 47 = true := by
  decide

/-- A module that is device 0, with the transport on. -/
def stXptWith (f : Xpt → Xpt) : State := st1With (fun c => ((c.wf F.XPT_CFG_EN 1).wf F.XPT_SELF_DEVICE 0).setXpt f)

/-- A packet of device 0, class 0, and PSN 0. -/
def pkt0 (op : Nat) (payload : Bytes) : Packet := { okPkt with op := op, payload := payload }

/-- ContextsSynchronise: a packet at a device whose transport is on; a context that is not being fetched, and one that is; room in the cache. -/
theorem witness_ContextsSynchronise :
    (stXptWith id).runs = true ∧ (stXptWith id).chip.xptOn = true ∧ ((stXptWith id).chip.setXpt (fun x => { x with rx := x.rx.erase (pkt0 4 []) })).xptOn = true
      ∧ 7 ∉ (stXptWith id).chip.xpt.fetching ∧ 7 ∈ (stXptWith (fun x => { x with fetching := [7] })).chip.xpt.fetching
      ∧ (stXptWith (fun x => { x with fetching := [7] })).chip.xpt.cached.length < 65536 := by
  decide

/-- A packet of operation `op` of message 0 in the store. -/
def sent0 (op : Nat) : TxPkt := { psn := 0, num := 0, op := op, frame := zeros 48 }

/-- Message 0 of operation `op`. -/
def msg0 (op : Nat) : TxMsg := { num := 0, op := op, svc := 7, srcPart := 0, dstPart := 0, bytes := zeros 16, base := some 0, sent := 1 }

/-- A module with a send context to device 0 in class 0. -/
def stTx (x : TxCtx) : State := stXptWith (fun y => { y with ctxs := [(0, .tx x)] })

/-- AcksNaksAndRetries: a context in RESET; active with a message whose packet a NAK names (REASON 8 and 3); active with a LOAD that its response
names; a retry timer at its first and at its last expiry, while synchronising and while active. -/
theorem witness_AcksNaksAndRetries :
    (stTx {}).chip.xptOn = true ∧ ((stTx {}).chip.tx 0).state ≠ .active
      ∧ (stTx { state := .active, msgs := [msg0 1], pkts := [sent0 1] }).runs = true
      ∧ ((stTx { state := .active, msgs := [msg0 1], pkts := [sent0 1] }).chip.tx 0).state = .active
      ∧ ((stTx { state := .active, msgs := [msg0 1], pkts := [sent0 1] }).chip.tx 0).pkts.find?
          (fun p => p.psn % 2 ^ 32 == le (pkt0 3 (zeros 8)).payload 0 4 && actsOn (pkt0 3 (zeros 8)).openKey p) = some (sent0 1)
      ∧ le (pkt0 3 ([0, 0, 0, 0, 8])).payload 4 1 = 8 ∧ le (pkt0 3 ([0, 0, 0, 0, 3])).payload 4 1 ∉ [1, 2, 8]
      ∧ ((stTx { state := .active, msgs := [msg0 1], pkts := [sent0 1] }).chip.tx 0).msgs.find? (fun m => m.num == (sent0 1).num && !m.skip) = some (msg0 1)
      ∧ ((stTx { state := .active, msgs := [msg0 6], pkts := [sent0 6] }).chip.tx 0).pkts.find? (fun p => p.op == 6 && p.psn % 2 ^ 32 == (pkt0 7 []).psn) = some (sent0 6)
      ∧ ((stTx { state := .active, msgs := [msg0 6], pkts := [sent0 6] }).chip.tx 0).msgs.find? (fun y => y.num == (sent0 6).num) = some (msg0 6)
      ∧ le (pkt0 7 (zeros 80)).payload 0 1 = 0
      ∧ ((stTx { state := .syncing, expiries := 6 }).chip.tx 0).expiries < 7 ∧ 7 ≤ ((stTx { state := .syncing, expiries := 7 }).chip.tx 0).expiries
      ∧ ((stTx { state := .active, pkts := [sent0 1] }).chip.tx 0).pkts ≠ [] := by
  decide

/-- NumberedPacketsAreTakenOnce: a device whose transport is on, and each operation. -/
theorem witness_NumberedPacketsAreTakenOnce :
    (stXptWith id).runs = true ∧ ((stXptWith id).chip.setXpt (fun x => { x with rx := x.rx.erase (pkt0 1 []) })).xptOn = true ∧ ∀ op ∈ [1, 6, 8, 9], op ∈ [1, 6, 8, 9] := by
  decide

/-- A frame to device 5 with `hops` hops left. -/
def frameTo5 (hops : Nat) : Bytes := zeros 12 ++ [5, 0, 0] ++ toLE 1 hops ++ zeros 36

/-- A device with a route to device 5 over link 47. -/
def stRoute : State := { stXptWith (fun x => { x with routes := [(5, 0x6F)] }) with
  chip := (stXptWith (fun x => { x with routes := [(5, 0x6F)] })).chip.lnkWf 47 F.LNK_STAT_STATE 4 }

/-- ForwardedFramesKeepTheirRoute: the transport off; no hop left; no route; one hop left over a route. -/
theorem witness_ForwardedFramesKeepTheirRoute :
    st1.chip.xptOn = false ∧ stRoute.runs = true ∧ stRoute.chip.xptOn = true ∧ stRoute.chip.flt.mute = false ∧ (packetOf (frameTo5 0)).hops = 0
      ∧ (stXptWith id).chip.route (packetOf (frameTo5 1)).dstDev (packetOf (frameTo5 1)).psn = none
      ∧ (st1With (fun c => c.setFlt (fun f => { f with mute := true }))).chip.flt.mute = true ∧ 0 < (packetOf (frameTo5 1)).hops ∧ stRoute.chip.route (packetOf (frameTo5 1)).dstDev (packetOf (frameTo5 1)).psn = some 47 := by
  decide

/-- An export of partition 0. -/
def export0 : Export := ⟨3, 0, true, 1, 1, 0, 0, 0, 64⟩

/-- A window of partition 0. -/
def window0 : Window := ⟨3, 0, 0, 1, 0, 5, 0, 4096⟩

/-- ExportsAndWindows: page XPT takes the commands, none busy and one busy; no export and window, and one of each. -/
theorem witness_ExportsAndWindows :
    (stXptWith id).runs = true ∧ (stXptWith id).chip.takes okAcc Pg.XPT true [0] = true ∧ (stXptWith id).chip.takes okAcc Pg.XPT true [] = true
      ∧ (stXptWith id).chip.rf F.XPT_WIN_STAT_RESULT ≠ 15 ∧ ((stXptWith id).chip.wf F.XPT_WIN_STAT_RESULT 15).rf F.XPT_WIN_STAT_RESULT = 15
      ∧ (stXptWith id).chip.xpt.exports.find 65535 = none
      ∧ (stXptWith (fun x => { x with exports := [(65535, export0)] })).chip.xpt.exports.find 65535 = some export0
      ∧ (stXptWith (fun x => { x with exports := [(65535, export0)] })).chip.takes okAcc Pg.XPT true [export0.part] = true
      ∧ (stXptWith (fun x => { x with windows := [(0, window0)] })).chip.xpt.windows.find 0 = some window0 := by
  decide

/-- The image of a map of composition 0 without members, from step `n`. -/
def mapImage (n : Nat) : Bytes :=
  toLE 1 1 ++ zeros 1 ++ toLE 2 0 ++ toLE 4 1 ++ toLE 8 n ++ zeros 4 ++ toLE 4 2000000 ++ toLE 4 20000 ++ toLE 4 1500000 ++ toLE 4 1800000 ++ zeros 92

/-- A module that is locked. -/
def st3 : State := st1With (fun c => c.wf F.ALM_STATE_LOCK 2)

set_option maxRecDepth 40000 in
/-- MapsAreProposedAndVotedOn: an image that is no map, a map that passes every check, and one whose step is too near. -/
theorem witness_MapsAreProposedAndVotedOn :
    st1.runs = true ∧ st1.chip.takes okAcc Pg.XPT false [] = true ∧ mapOfBytes (zeros 128) = none ∧ (mapOfBytes (mapImage 2)).isSome = true
      ∧ mapWhole (zeros 128) = false ∧ st3.runs = true ∧ st3.chip.takes okAcc Pg.XPT false [] = true
      ∧ (mapOfBytes (mapImage 2)).map (fun m => st3.chip.checkMap m (prevDigest (mapImage 2))) = some 0
      ∧ (mapOfBytes (mapImage 1)).map (fun m => st1.chip.checkMap m (prevDigest (mapImage 1))) = some 3 ∧ mapWhole (mapImage 1) = true
      ∧ (let s := st1With (fun c => c.wr64 Reg.XPT_MAP_ADDR_LO t3Base)
         s.chip.image (s.chip.rd64 Reg.XPT_MAP_ADDR_LO) 128 (mapImage 2) = mapImage 2) := by
  decide

/-- Link 47 in a state, with the module locked. -/
def stLink (state : Nat) : State := st1With (fun c => (c.lnkWf 47 F.LNK_STAT_STATE state).wf F.ALM_STATE_LOCK 2)

/-- A module whose queue 24 of link 47 holds a frame. -/
def stQueued : State := { stLink 4 with chip := (stLink 4).chip.updShp 47 (fun x => { x with queues := [(24, [{ bytes := zeros 52, since := 0 }])] }) }

/-- A module that samples queue 31 of link 47. -/
def stSampling : State :=
  st1With (fun c => ((c.wr (regAt (Pg.shp 47) Reg.SHP_SMP_INT) 1).wr (regAt (Pg.shp 47) Reg.SHP_SMP_SIZE) 16).wr (regAt (Pg.shp 47) Reg.SHP_SMP_MASK) (2 ^ 31))

set_option maxRecDepth 40000 in
/-- QueuesShapersAndSamplers: a link that is down; one with a control frame; in self-test; up and not admitted; admitted with nothing to send, and with
a frame queued; the calendar's and the policer's pages; a sampler off and on. -/
theorem witness_QueuesShapersAndSamplers :
    st1.runs = true ∧ (st1.chip.noteCross 47).linkUp 47 = false ∧ (st1.chip.noteCross 47).lnkState 47 ≠ Ls.training
      ∧ ((((stLink 4).chip.updLink 47 (fun k => { k with ctl := [(3, zeros 16)] })).noteCross 47).link 47).ctl = (3, zeros 16) :: []
      ∧ ((stLink Ls.selftest).chip.noteCross 47).lnkState 47 = Ls.selftest ∧ ((stLink Ls.selftest).chip.noteCross 47).linkUp 47 = true
      ∧ (((stLink Ls.selftest).chip.noteCross 47).link 47).ctl = [] ∧ ((stLink 2).chip.noteCross 47).admitted 47 = false
      ∧ ((stLink 4).chip.noteCross 47).admitted 47 = true ∧ ((stLink 4).chip.noteCross 47).locked = true
      ∧ ((stLink 4).chip.noteCross 47).choose 47 (((stLink 4).chip.noteCross 47).gate 47) = none
      ∧ (stQueued.chip.noteCross 47).choose 47 ((stQueued.chip.noteCross 47).gate 47) = some 24
      ∧ ((((stQueued.chip.noteCross 47).noteWaits 47 ((stQueued.chip.noteCross 47).gate 47)).shp 47).frames 24).length = 1
      ∧ st1.chip.takes okAcc (Pg.cal 47) false [] = true ∧ st1.chip.accepts okAcc (Pg.shp 47) false [] = true ∧ 31 < 32
      ∧ st1.chip.rd (regAt (Pg.shp 47) Reg.SHP_SMP_INT) = 0 ∧ stSampling.chip.rd (regAt (Pg.shp 47) Reg.SHP_SMP_INT) ≠ 0
      ∧ ringSizeOk (stSampling.chip.rd (regAt (Pg.shp 47) Reg.SHP_SMP_SIZE)) = true
      ∧ (List.range 32).filter (fun q => bit (stSampling.chip.rd (regAt (Pg.shp 47) Reg.SHP_SMP_MASK)) q) = [31] ∧ (stSampling.chip.shp 47).stopped = false := by
  decide

/-- A module that a decoder of 256 MiB maps from host address 0 to device address 0. -/
def stCxl (f : Cxl → Cxl) : State := st1With (fun c => (c.wf F.CXL_CFG_EN 1).setCxl f)

/-- A module whose memory is active, with an object that the host may read and write, mapped from host address 0. -/
def stHostLine : State :=
  { stCxl (fun c => { c with hdm := [(0, ⟨0, 2 ^ 28, 0⟩)] }) with
    chip := let c := (stCxl (fun c => { c with hdm := [(0, ⟨0, 2 ^ 28, 0⟩)] })).chip
            { c with pwr := { c.pwr with active := true }
                     memu := { c.memu with descs := [(0, ⟨1, 1, 0, 2, 0, 0, 0, 32767, 2 ^ 28, 1⟩)] } } }

/-- HostMemoryAccesses: no decoder; memory that is not active; decoders refused and committed; two lines snooped. -/
theorem witness_HostMemoryAccesses :
    st1.runs = true ∧ st1.chip.d3hot = false ∧ st1.chip.rf F.CXL_STAT_VIRAL_OUT ≠ 1 ∧ (st1With (fun c => { c with pwr := { c.pwr with active := true } })).chip.pwr.active = true ∧ st1.chip.hostLine 0 false = none ∧ st1.chip.hostLine 0 true = none
      ∧ st1.chip.pwr.active = false ∧ st1.chip.cxl.hdm = [] ∧ 2 ^ 28 % 2 ^ 28 = 0 ∧ 2 ^ 28 + 2 ^ 28 ≤ 4080 * 2 ^ 36
      ∧ stHostLine.chip.pwr.active = true ∧ (stHostLine.chip.hostLine 63 false).isSome = true ∧ (stHostLine.chip.hostLine (2 ^ 28 - 1) true).isSome = true
      ∧ stHostLine.chip.hostLine (2 ^ 28) false = none ∧ stHostLine.chip.cxl.filter.length < 1048576
      ∧ (stHostLine.chip.access 3 ((stHostLine.chip.hostLine 63 false).getD 0) 64 []).2 = true
      ∧ (((stHostLine.chip.access 3 ((stHostLine.chip.hostLine 63 false).getD 0) 64 []).1.setCxl (fun c => { c with touched := [] })).readPhys
          ((stHostLine.chip.hostLine 63 false).getD 0) 64) = some (zeros 64)
      ∧ st1.chip.d3hot = false ∧ 64 ∈ (stCxl (fun c => { c with snooped := [64, 128] })).chip.cxl.snooped ∧ 64 ≠ 128 := by
  decide

/-- The image of a queue pair at T3. -/
def qpImage : Bytes := [1, 0, 63, 0, 16, 0, 16, 0] ++ zeros 24

/-- A queue pair whose tail is one beyond its head. -/
def qp0 : QueuePair := { partition := 0, sqEntries := 16, cqEntries := 16, sqBase := 0, cqBase := 0, vector := 1, coalCount := 0, coalUsec := 0, sqTail := 1 }

/-- An emit ring. -/
def ring0 : EmitRing := { partition := 0, entries := 64, base := 0, vector := 1, coalCount := 0, coalUsec := 0, head := 0, tail := 0, unsig := 0, abandoned := false, lastFlags := [] }

/-- QueuesRingsAndProfiles: page CXL takes the host's command, for an address outside T3 and inside; no queue or ring, and one of each. -/
theorem witness_QueuesRingsAndProfiles :
    st1.runs = true ∧ st1.chip.rf F.CXL_CFG_STAT_RESULT ≠ 15 ∧ st1.chip.takes okAcc Pg.CXL false [le qpImage 1 1] = true ∧ st1.chip.takes okAcc Pg.CXL false [] = true
      ∧ inT3 (st1.chip.rd64 Reg.CXL_CFG_ADDR_LO) = false ∧ inT3 ((st1With (fun c => c.wr64 Reg.CXL_CFG_ADDR_LO t3Base)).chip.rd64 Reg.CXL_CFG_ADDR_LO) = true
      ∧ (st1With (fun c => c.wr64 Reg.CXL_CFG_ADDR_LO t3Base)).chip.takes okAcc Pg.CXL false [] = true
      ∧ st1.chip.cxl.qps.find 63 = none ∧ st1.chip.ring 511 = none ∧ (stCxl (fun c => { c with qps := [(63, qp0)] })).chip.cxl.qps.find 63 = some qp0
      ∧ (stCxl (fun c => { c with rings := [(511, ring0)] })).chip.ring 511 = some ring0
      ∧ (stCxl (fun c => { c with qps := [(63, qp0)] })).chip.takes okAcc Pg.CXL false [qp0.partition] = true := by
  decide

/-- A submission. -/
def sub0 : Submission := ⟨0, 0, 1, 0, 0, 0, 0, 0, 1, 1, 0, 0, 0, 0, 0, none, []⟩

/-- A queue whose next descriptor is read, with a request that is known and a submission that waits. -/
def stCancel : State :=
  let c := (stCxl (fun c => { c with qps := [(0, qp0)], subs := [sub0] })).chip
  { st1 with chip := { c with rtb := { c.rtb with locators := [(0, { rid := 0, device := 0, part := 0, state := 1, partner := 0 })] } } }

/-- DescriptorsAndDoorbells: a queue that may not be read and one that may; a Submit with bad lengths and with good ones; a Cancel. -/
theorem witness_DescriptorsAndDoorbells :
    (stCxl (fun c => { c with qps := [(0, qp0)] })).runs = true ∧ (stCxl (fun c => { c with qps := [(0, { qp0 with sqTail := 0 })] })).chip.mayRead 0 = false
      ∧ (stCxl (fun c => { c with qps := [(0, qp0)] })).chip.mayRead 0 = true ∧ le ([1] ++ zeros 63) 0 1 ≠ 2 ∧ badLengths 0 0 = true ∧ badLengths 1 1 = false
      ∧ (stCxl id).chip.stageUsed + 4 * 1 ≤ 2 ^ 29 ∧ le ([2] ++ zeros 63) 0 1 = 2 ∧ bit (le ([2] ++ zeros 63) 1 1) 0 = false ∧ (stCxl id).chip.locator 0 = none
      ∧ (stCxl id).chip.takes okAcc Pg.CXL false [] = true ∧ stCancel.runs = true ∧ stCancel.chip.mayRead 0 = true ∧ stCancel.chip.cxl.qps.find 0 = some qp0
      ∧ (stCancel.chip.locator 0).map (·.state) = some 1 ∧ bit (le ([2, 1] ++ zeros 62) 1 1) 0 = true
      ∧ stCancel.chip.cxl.subs.find? (fun b => b.qid == 0 && b.hostTag == le ([2, 1] ++ zeros 62) 40 8) = some sub0 := by
  decide

/-- HostLinkComesAndGoes and PeersAreWatched have no other hypotheses. -/
theorem witness_HostLinkComesAndGoes : st1.runs = true := by decide

/-- The same module. -/
theorem witness_PeersAreWatched : st1.runs = true := by decide

/-- A module with a unit on its return to service. -/
def stReturn (u : Chan) (g : Stage) : State := st1With (fun c => c.setFlt (fun f => { f with returns := [⟨u, g⟩] }))

/-- UnitsReturnToService: the last tile, stack and half-bank; the repair taken from the host; a unit that awaits nothing, its self-test, its load. -/
theorem witness_UnitsReturnToService :
    st1.runs = true ∧ 67 < 68 ∧ 23 < 24 ∧ 4095 < 4096 ∧ st1.chip.takes okAcc Pg.FLT false (st1.chip.cgOwner 23 (groupOf 4095)).toList = true
      ∧ st1.chip.rf F.FLT_REPAIR_STAT_RESULT ≠ 15 ∧ st1.chip.takes okAcc Pg.FLT false [] = true ∧ st1.chip.returning (.halfBank 23 4095) ≠ some .selfTest
      ∧ (stReturn (.halfBank 23 4095) .selfTest).chip.returning (.halfBank 23 4095) = some .selfTest ∧ st1.chip.returning (.tile 67) ≠ some .load
      ∧ (stReturn (.tile 67) .load).chip.returning (.tile 67) = some .load := by
  decide

set_option maxRecDepth 40000 in
/-- PartnersKeepJournals: a record too short, and one whole record of each TYPE. -/
theorem witness_PartnersKeepJournals :
    st1.runs = true ∧ ([1] ++ zeros 126).length < recordSize ([1] ++ zeros 126) ∧ recordSize ([1] ++ zeros 127) ≤ ([1] ++ zeros 127).length ∧ le ([1] ++ zeros 127) 0 1 = 1
      ∧ recordSize ([2] ++ zeros 15) ≤ ([2] ++ zeros 15).length ∧ le ([2] ++ zeros 15) 0 1 = 2 ∧ recordSize ([4] ++ zeros 15) ≤ ([4] ++ zeros 15).length
      ∧ le ([4] ++ zeros 15) 0 1 = 4 := by
  decide

/-- A module with a request at its partition 0, a locator entry and an emit ring. -/
def stRequest : State :=
  st1With (fun c => ({ c with rtb := { c.rtb with rtes := [(0, { rid := 0, state := .generating, partition := 0, jrnPartner := 0 })],
                                                  locators := [(0, { rid := 0, device := 0, part := 0, state := 1, partner := 0 })] } } : Chip).setCxl (fun x => { x with rings := [(0, ring0)] }))

/-- HomesAndOriginsHearRecords: an Acknowledgement from a request's partner; a Home record without journals; a Cancel; an Emit and a Finish of a RID
unknown, at a position emitted, and beyond it; the host's access to page RTB. -/
theorem witness_HomesAndOriginsHearRecords :
    st1.runs = true ∧ stRequest.runs = true ∧ recordSize ([5] ++ zeros 15) ≤ ([5] ++ zeros 15).length ∧ (stRequest.chip.take 2 okSrc ([5] ++ zeros 15)).rtb.offers = []
      ∧ (stRequest.chip.take 2 okSrc ([5] ++ zeros 15)).rtb.lateAcks = []
      ∧ (stRequest.chip.take 2 okSrc ([5] ++ zeros 15)).findRid 0 = some (0, { rid := 0, state := .generating, partition := 0, jrnPartner := 0 })
      ∧ okSrc.dev = 0 ∧ RState.generating ≠ RState.forward ∧ (st1.chip.take 2 okSrc ([3] ++ zeros 31)).rtb.journals = []
      ∧ recordSize ([3] ++ zeros 31) ≤ 32 ∧ recordSize ([8] ++ zeros 15) ≤ 16 ∧ recordSize ([6] ++ zeros 31) ≤ 32 ∧ recordSize ([7] ++ zeros 31) ≤ 32
      ∧ (st1.chip.take 2 okSrc ([6] ++ zeros 31)).locator 0 = none ∧ (stRequest.chip.take 2 okSrc ([6] ++ zeros 31)).locator 0 ≠ none
      ∧ le ([6] ++ zeros 31) 24 4 ≤ (stRequest.chip.take 2 okSrc ([6] ++ zeros 31)).emitted 0
      ∧ (stRequest.chip.take 2 okSrc ([6] ++ zeros 23 ++ [1] ++ zeros 7)).emitted 0 < le ([6] ++ zeros 23 ++ [1] ++ zeros 7) 24 4
      ∧ (stRequest.chip.take 2 okSrc ([6] ++ zeros 23 ++ [1] ++ zeros 7)).ringGone 0 = false ∧ le ([7] ++ zeros 31) 1 1 ≠ 8
      ∧ st1.chip.accepts okAcc Pg.RTB false [] = true := by
  decide

/-- A module of one partition that keeps the journal of request 0, one that this device is not the origin of. -/
def stJournal : State :=
  st1With (fun c => let d := ((c.wf F.SMV_CFG_EN 1).wr Reg.GLB_PART_CUR 1).wf F.XPT_SELF_DEVICE 9
                    { d with rtb := { d.rtb with journals := [{ rid := 0, anchor := zeros 128, units := 1 }] } })

/-- An offer of request 7 to device 5, not yet accepted. -/
def offer0 : Offer := { sub := sub0, rid := 7, partition := 0, candidate := 5, idx := 0, rte := { rid := 7, state := .admitted, partition := 0, jrnPartner := 5 } }

/-- A module whose partition 0 has a role, with that offer, in row `row` of a Boundary window. -/
def stOffer (role : Role) (row : Nat) : State :=
  st1With (fun c => let d := (c.setPart 0 (fun y => { y with role := role })).setAlm (fun a => { a with row := row })
                    { d with rtb := { d.rtb with offers := [offer0] } })

set_option maxRecDepth 40000 in
/-- The offers of HomesAndOriginsHearRecords: none; one that is acknowledged; its timeout outside row 11 and in it, where its partition takes nothing
new and where it does, without and with another candidate; a Home record of a journal kept for another origin. -/
theorem witness_HomesAndOriginsHearRecords_offers :
    st1.chip.rtb.offers = [] ∧ ((stOffer .prompt 0).chip.take 2 { okSrc with dev := 5 } ([5] ++ zeros 15)).rtb.offers = [offer0]
      ∧ recordSize ([5] ++ zeros 7 ++ [7] ++ zeros 7) ≤ 16 ∧ le ([5] ++ zeros 7 ++ [7] ++ zeros 7) 8 8 = offer0.rid ∧ (stOffer .prompt 0).runs = true
      ∧ (stOffer .prompt 0).chip.alm.row ≠ 11 ∧ (stOffer .prompt 11).chip.alm.row = 11 ∧ (stOffer .generation 11).chip.takesNew 0 = false
      ∧ (stOffer .prompt 11).chip.takesNew 0 = true ∧ (stOffer .prompt 11).chip.partnerCands 0 (ridComp 7) [5] = []
      ∧ (stJournal.chip.take 2 okSrc ([3] ++ zeros 31)).rtb.journals.find? (fun j => j.rid == le ([3] ++ zeros 31) 8 8) = some { rid := 0, anchor := zeros 128, units := 1 }
      ∧ ridOrigin (le ([3] ++ zeros 31) 8 8) ≠ (stJournal.chip.take 2 okSrc ([3] ++ zeros 31)).selfDev := by
  decide

/-- PrefixMessagesAndPins: a Lookup of 1,025 blocks and one of none; a Lookup reply cut short and a whole one, of a RID unknown and of one known. -/
theorem witness_PrefixMessagesAndPins :
    st1.runs = true ∧ 1024 < le ([1, 0, 1, 4] ++ zeros 28) 2 2 ∧ le ([1] ++ zeros 31) 0 1 = 1 ∧ le ([1] ++ zeros 31) 2 2 ≤ 1024
      ∧ 32 + 32 * le ([1] ++ zeros 31) 2 2 ≤ ([1] ++ zeros 31).length ∧ ([2] ++ zeros 46).length < 48 ∧ le ([2] ++ zeros 47) 0 1 = 2 ∧ 48 ≤ ([2] ++ zeros 47).length
      ∧ (st1.chip.take 3 okSrc ([2] ++ zeros 47)).findKnown 0 = none ∧ (stRequest.chip.take 3 okSrc ([2] ++ zeros 47)).findKnown 0 ≠ none ∧ 7 < 8
      ∧ st1.chip.takes okAcc Pg.PFX false [7] = true := by
  decide

/-- A State Mover message of a TYPE and KIND. -/
def smvMsg (type kind : Nat) : Bytes := [BitVec.ofNat 8 type, BitVec.ofNat 8 kind] ++ zeros (smvSize type - 2)

/-- A transfer that this device receives. -/
def xfer0 (d : DstState) : DstXfer := { hdr := SHdr.ofBytes (smvMsg 1 1), body := zeros 320, state := d }

/-- A module that receives it. -/
def stXfer (d : DstState) : State := st1With (fun c => (c.wf F.SMV_CFG_EN 1).setSmv (fun m => { m with dsts := [xfer0 d] }))

set_option maxRecDepth 40000 in
/-- TransfersAtTheDestination: a bad message of each TYPE; a good Open of a transfer in progress, and of none; a good Seal, Commit and Abort. -/
theorem witness_TransfersAtTheDestination :
    st1.runs = true ∧ (∀ t ∈ [1, 2, 3, 5, 6], badMessage [] t = true) ∧ badMessage (smvMsg 1 1) 1 = false ∧ le (smvMsg 1 1) 1 1 ≠ 0
      ∧ ((stXfer .ready).chip.take 1 okSrc (smvMsg 1 1)).dstX 0 0 ≠ none ∧ (SHdr.ofBytes (smvMsg 1 5)).kind ∈ [1, 2, 3, 4, 5] ∧ le (smvMsg 1 5) 1 1 = (SHdr.ofBytes (smvMsg 1 5)).kind
      ∧ (st1.chip.take 1 okSrc (smvMsg 1 1)).dstX 0 0 = none ∧ (st1.chip.take 1 okSrc (smvMsg 1 1)).doneOutcome 0 0 = none
      ∧ badMessage (smvMsg 3 1) 3 = false ∧ badMessage (smvMsg 5 1) 5 = false ∧ ((stXfer .inDoubt).chip.take 1 okSrc (smvMsg 5 1)).dstX 0 0 = some (xfer0 .inDoubt)
      ∧ badMessage (smvMsg 6 1) 6 = false ∧ ¬ ((7, 0) = ((SHdr.ofBytes (smvMsg 6 1)).dstDev, (SHdr.ofBytes (smvMsg 6 1)).dstPart)) := by
  decide

/-- An Open of a journal's copy in MXFP8. -/
def openJournal : Bytes := patch (smvMsg 1 5) (32 + 11) [1]

set_option maxRecDepth 40000 in
/-- The Open of TransfersAtTheDestination that is taken: of a journal that this device keeps. -/
theorem witness_TransfersAtTheDestination_open :
    let c := stJournal.chip.take 1 okSrc openJournal
    let h := SHdr.ofBytes openJournal
    let o := OpenBody.ofBytes (openJournal.drop 32)
    badMessage openJournal 1 = false ∧ h.kind ∈ [1, 2, 3, 4, 5] ∧ le openJournal 1 1 = h.kind ∧ c.dstX h.srcDev h.seq = none ∧ c.doneOutcome h.srcDev h.seq = none
      ∧ c.smvOn = true ∧ c.quiet Pg.SMV = false ∧ c.ctxUsed < 4096 ∧ c.openTaking h o = true ∧ c.openResident h o = true ∧ c.openBusy h = false ∧ ¬ h.kind ≤ 2
      ∧ (c.reserve h o { hdr := h, body := (openJournal.drop 32).take 320, rteIdx := none, partner := (openRte h.kind o).jrnPartner }).isSome = true := by
  decide

/-- A Data message of one record. -/
def dataMsg : Bytes := [2, 1] ++ zeros 30 ++ [1, 0, 1, 0] ++ zeros 12

set_option maxRecDepth 40000 in
/-- The Data messages of TransfersAtTheDestination: one with one record for no transfer, and for one that receives. -/
theorem witness_TransfersAtTheDestination_data :
    badMessage dataMsg 2 = false ∧ 0 < le dataMsg 34 2 ∧ le dataMsg 34 2 ≤ 64 ∧ (st1.chip.take 1 okSrc dataMsg).dstX 0 0 = none
      ∧ ((stXfer .receiving).chip.take 1 okSrc dataMsg).dstX 0 0 = some (xfer0 .receiving) ∧ le dataMsg 36 4 ∉ (xfer0 .receiving).msgs
      ∧ (xfer0 .receiving).pages.any (stXfer .receiving).chip.stackDown = false := by
  decide

/-- TransfersElsewhere: good messages of each TYPE; a locator entry that is live and one that is not; the host's order for a request unknown and known. -/
theorem witness_TransfersElsewhere :
    st1.runs = true ∧ badMessage (smvMsg 4 1) 4 = false ∧ badMessage (smvMsg 7 1) 7 = false ∧ le (smvMsg 7 1) 32 1 = 0 ∧ badMessage (smvMsg 9 1) 9 = false
      ∧ badMessage (smvMsg 0x0A 1) 0x0A = false ∧ badMessage (smvMsg 0x0B 1) 0x0B = false ∧ (st1.chip.take 1 okSrc (smvMsg 0x0B 1)).locator 0 = none
      ∧ (stRequest.chip.take 1 okSrc (smvMsg 0x0B 1)).locator 0 = some { rid := 0, device := 0, part := 0, state := 1, partner := 0 } ∧ le (smvMsg 0x0B 1) 35 1 ≠ 1
      ∧ badMessage (smvMsg 8 1) 8 = false ∧ st1.chip.cxl.touched = [] ∧ st1.chip.findKnown (st1.chip.rd64 Reg.SMV_ORD_RID_LO) = none
      ∧ stRequest.chip.findKnown (stRequest.chip.rd64 Reg.SMV_ORD_RID_LO) ≠ none ∧ stRequest.chip.takes okAcc Pg.SMV false [0] = true
      ∧ st1.chip.takes okAcc Pg.SMV false [] = true := by
  decide

/-- A NOP word for slot 0 of half-bank 0. -/
def nopWord : Bytes := [0x3F] ++ zeros 15

/-- A program without passes, whose only sequence is a NOP on the last stack. -/
def prog0 : Prog := { progOfBytes (zeros 256) with seqs := [(23, [⟨20000, [nopWord]⟩])] }

/-- A module in its Compute phase whose last tile, logical tile 63, runs that program for partition 0, a prompt partition that owns it and column group 0
of the last stack. -/
def stTile : State := st1With (fun c =>
  (((((((c.setTileState 67 1).wf (F.TIL_MAP_LOGICAL.on (Pg.til 67)) 63).wr (Reg.GLB_LT_OWN_CUR + 60) 0x80000000).wr (regAt (Pg.mem 23) Reg.MEM_CG_CUR) 0x80).wf
    (F.SDG_CFG_EN.on (Pg.sdg 23)) 1).setPart 0 (fun y => { y with role := .prompt })).setTile 67 (fun x => { x with prog := 1 })).setSch (fun x => { x with progs := [(0, prog0)] })
    |>.setAlm (fun a => { a with now := 200000 }))

/-- A block of 32 elements of one code. -/
def block0 (e : Nat) : MxBlock := ⟨127, List.replicate 32 e⟩

/-- Operand A of 64 rows of two blocks, and operand B of 64 columns of two. -/
def passA : PassMat := ⟨.int8, List.replicate 64 [block0 1, block0 0]⟩

/-- Operand B of 64 columns of two blocks. -/
def passB : PassB := ⟨.int8, false, List.replicate 64 [(block0 2, 0), (block0 3, 0)]⟩

set_option maxRecDepth 40000 in
/-- TilesCompute: the last tile executes, with no scratchpad error, and waits for a message or none; operands that may meet and that may not; results that
fit and that do not; an address that is no window's; an exchange entry of its own tiles. -/
theorem witness_TilesCompute :
    stTile.runs = true ∧ stTile.chip.tileRuns 67 = true ∧ (stTile.chip.scratchErrs 67 []).2 = true ∧ (stTile.chip.scratchErrs 67 []).1.arrived 67 [(0, 1)] = false
      ∧ (stTile.chip.scratchErrs 67 []).1.arrived 67 [] = true ∧ ((stTile.chip.scratchErrs 67 []).1.each [] (fun x r => x.expandSlot 67 r)).tileRuns 67 = true
      ∧ passOk passA { passB with elem := .bf16 } = false ∧ passOk passA passB = true ∧ convFits okConv = true ∧ convFits { okConv with values := [0], dst := 2 ^ 32 } = false
      ∧ ((stTile.chip.scratchErrs 67 []).1.tile 67).overflow = false ∧ routerOk ⟨0, 1, 0, false, 1, [⟨0, 0, 0, 0⟩], [[0]], 0⟩ = true ∧ inScratch 0 (64 + 16 + 8) = true
      ∧ inScratch (2 ^ 32) 64 = false ∧ stTile.chip.windowFor 67 0 false = none ∧ stTile.chip.windowFor 67 0 true = none ∧ stTile.chip.skipped 2000 = false
      ∧ (stTile.chip.toOffset (le (zeros 32) 20 4)).tileRuns 67 = true ∧ stTile.chip.inOwnTiles 0 (le (zeros 32) 8 8) (le (zeros 32) 16 4) = true := by
  decide

/-- ProgramsRegistryAndAccounts: page SCH takes the host's command; a load in progress and none; an image that is no program. -/
theorem witness_ProgramsRegistryAndAccounts :
    st1.runs = true ∧ st1.chip.takes okAcc Pg.SCH false [] = true ∧ (st1With (fun c => c.wf F.SCH_LOAD_STAT_RESULT 15)).chip.rf F.SCH_LOAD_STAT_RESULT = 15
      ∧ st1.chip.rf F.SCH_LOAD_STAT_RESULT ≠ 15 ∧ st1.chip.loadCheck [] ≠ 0 ∧ 511 < 512 ∧ 65535 < 65536 := by
  decide

/-- ResidencyBidsAndBarriers: a partition that does not exist and one that does; a load that is awaited and one that is not; messages of each TYPE. -/
theorem witness_ResidencyBidsAndBarriers :
    st1.runs = true ∧ 7 < 8 ∧ st1.chip.takes okAcc Pg.SCH false [7] = true ∧ st1.chip.rf F.SCH_RES_STAT_RESULT ≠ 15
      ∧ (st1With (fun c => c.wr Reg.GLB_PART_CUR 128)).chip.partExists 7 = true ∧ (st1With (fun c => c.wr Reg.GLB_PART_CUR 1)).chip.partExists 7 = false
      ∧ (st1With (fun c => c.wr Reg.GLB_PART_CUR 128)).chip.takes okAcc Pg.SCH false [7] = true ∧ ¬ (7, true, 0) ∈ st1.chip.sch.loads
      ∧ (7, true, 0) ∈ (st1With (fun c => c.setSch (fun x => { x with loads := [(7, true, 0)] }))).chip.sch.loads
      ∧ (∀ t ∈ [1, 2, 3], le ([BitVec.ofNat 8 t] ++ zeros 31) 0 1 = t ∧ ([BitVec.ofNat 8 t] ++ zeros 31).length = 32) ∧ (zeros 31).length ≠ 32 := by
  decide

set_option maxRecDepth 40000 in
/-- SedgeGroupsRun: each opcode of the query inlet's may run in its group's Compute phase and stays inside it; the tile's NOP stands in its program; a word of
another opcode; a Result of no items and one of another type; an Attend message of no items and a bad one; the last stack. -/
theorem witness_SedgeGroupsRun :
    stTile.runs = true ∧ 23 < 24 ∧ (∀ t, SedgeFrom.inlet 0 ≠ .tile t)
      ∧ (∀ op ∈ [1, 2, 3, 4, 5, 6, 7, 8, 9, 0x3F], stTile.chip.sedgeIssues 23 (.inlet 0) ([BitVec.ofNat 8 op] ++ zeros 15) = true
          ∧ (SedgeCmd.ofBytes ([BitVec.ofNat 8 op] ++ zeros 15)).opcode = op ∧ stTile.chip.sedgeOutside 23 (.inlet 0) (SedgeCmd.ofBytes ([BitVec.ofNat 8 op] ++ zeros 15)) = false
          ∧ (stTile.chip.sedgeMay 23 (.inlet 0) (SedgeCmd.ofBytes ([BitVec.ofNat 8 op] ++ zeros 15))).isSome = true)
      ∧ stTile.chip.sedgeIssues 23 (.tile 67) nopWord = true ∧ (SedgeCmd.ofBytes nopWord).opcode ≠ 1
      ∧ stTile.chip.tileRuns 67 = true ∧ (AttendHdr.ofBytes (zeros 32)).type ≠ 2 ∧ (AttendHdr.ofBytes ([2] ++ zeros 31)).type = 2
      ∧ ([2] ++ zeros 31).length = 32 + (AttendHdr.ofBytes ([2] ++ zeros 31)).count * (AttendHdr.ofBytes ([2] ++ zeros 31)).resultSize
      ∧ (AttendHdr.ofBytes ([1] ++ zeros 31)).type = 1 ∧ ([1] ++ zeros 31).length = 32 + (AttendHdr.ofBytes ([1] ++ zeros 31)).count * (AttendHdr.ofBytes ([1] ++ zeros 31)).itemSize := by
  refine ⟨by decide, by decide, fun _ h => SedgeFrom.noConfusion h, ?_⟩
  decide

/-- A descriptor of one unit. -/
def desc0 : Desc := { kind := 1, tier := 2, partition := 0, host := 0, use := 0, id := 0, slotFirst := 0, slotLast := 0, size := 16384, mask := 1 }

/-- A module with that descriptor as object 4,079, and its migration. -/
def stMem : State := st1With (fun c => c.setMemu (fun m =>
  { m with descs := [(4079, desc0)], migs := [(4079, { desc := desc0, copied := [0] })], install := some (4079, desc0), remaps := [(0, 16384)], backs := [(0, 0)] }))

set_option maxRecDepth 40000 in
/-- DescriptorsMigrationAndStacks: no command busy and one busy; an object, its migration and its install; a remapped slot; a stack in fault on its
return to service. -/
theorem witness_DescriptorsMigrationAndStacks :
    st1.runs = true ∧ st1.chip.rf (F.MEM_DESC_STAT_RESULT.on (Pg.mem 0)) ≠ 15 ∧ st1.chip.takes okAcc (Pg.mem 0) false [0] = true
      ∧ (st1With (fun c => c.wf (F.MEM_DESC_STAT_RESULT.on (Pg.mem 0)) 15)).chip.rf (F.MEM_DESC_STAT_RESULT.on (Pg.mem 0)) = 15
      ∧ stMem.chip.memu.descs.find 4079 = some desc0 ∧ st1.chip.memu.install = none ∧ stMem.chip.memu.install = some (4079, desc0)
      ∧ stMem.chip.memu.migs.find 4079 = some { desc := desc0, copied := [0] } ∧ stMem.chip.memu.remaps.find? (fun r => r.1 == 0) = some (0, 16384) ∧ stMem.chip.memu.backs.find 0 = some 0
      ∧ stMem.chip.stackDown 0 = false ∧ (st1With (fun c => c.setAlm (fun a => { a with now := 200000 }))).chip.phase ≠ 0 ∧ st1.chip.cxl.touched = [] ∧ stMem.chip.phase = 0
      ∧ (stMem.chip.touchObject 4079).memu.descs.find 4079 = some desc0 ∧ 0 < desc0.units ∧ desc0.units ≤ (List.range 1).length
      ∧ (st1With (fun c => c.wf (F.MEM_STAT_STATE.on (Pg.mem 23)) 2)).chip.stackState 23 = 2
      ∧ ((stReturn (.stack 23) .selfTest).chip.wf (F.MEM_STAT_STATE.on (Pg.mem 23)) 3).stackState 23 = 3
      ∧ ((stReturn (.stack 23) .selfTest).chip.wf (F.MEM_STAT_STATE.on (Pg.mem 23)) 3).returning (.stack 23) = some .selfTest := by
  decide

/-- FirmwareAndFuses: the pages take the host's commands; a check that is awaited and one that is not; a writer who is an administrator and one who is
not; fuses not yet blown and blown. -/
theorem witness_FirmwareAndFuses :
    st1.runs = true ∧ st1.chip.takes okAcc Pg.GLB true [] = true ∧ st1.chip.rf F.GLB_FW_STAT_STATE ≠ 2
      ∧ (st1With (fun c => c.wf F.GLB_FW_STAT_STATE 2)).chip.rf F.GLB_FW_STAT_STATE = 2 ∧ st1.chip.takes okAcc Pg.SEC false [] = true ∧ st1.chip.rank .host = .admin
      ∧ (st1With (fun c => c.wf F.SEC_PRIN_CFG_ROLE 2)).chip.takes ⟨.slot 0, false⟩ Pg.SEC false [] = true
      ∧ (st1With (fun c => c.wf F.SEC_PRIN_CFG_ROLE 2)).chip.rank (.slot 0) ≠ .admin ∧ st1.fuses.ownerKey = none ∧ st1.fuses.mgmtRoot = none
      ∧ ({ st1 with fuses := { st1.fuses with ownerKey := some [] } } : State).fuses.ownerKey ≠ none := by
  decide

/-- A module in a handshake with device 5. -/
def stShake : State := st1With (fun c => c.setSec (fun x => { x with shakes := [{ dev := 5, hid := 0, own := false, start := 0 }], running := zeros 256 }))

/-- HandshakesReportsAndSessions: firmware that runs and none; no handshake and one; no signing, sealing, and each of them. -/
theorem witness_HandshakesReportsAndSessions :
    st1.runs = true ∧ (st1.chip.take 8 { okSrc with dev := 5 } []).sec.running = [] ∧ (stShake.chip.take 8 { okSrc with dev := 5 } []).sec.running ≠ [] ∧ 5 ≠ stShake.chip.selfDev
      ∧ (st1.chip.take 8 { okSrc with dev := 5 } []).shake 5 = none ∧ (stShake.chip.take 8 { okSrc with dev := 5 } []).shake 5 ≠ none
      ∧ st1.chip.takes okAcc Pg.SEC true [] = true ∧ st1.chip.sec.sealing = none ∧ st1.chip.sec.signing = none
      ∧ (st1With (fun c => c.setSec (fun x => { x with sealing := some ⟨0, 0, [], 0⟩ }))).chip.memu.descs.find 0 = none
      ∧ (st1With (fun c => c.setSec (fun x => { x with signing := some (.host t3Base .host, []) }))).chip.sec.signing = some (.host t3Base .host, []) := by
  decide

/-- A shake whose credential is accepted and whose encapsulation has come. -/
def shake1 : Shake := { dev := 5, hid := 0, own := false, start := 0, accepted := true, peerCt := [1] }

set_option maxRecDepth 40000 in
/-- The encapsulation and the reports of HandshakesReportsAndSessions: an encapsulation of the handshake, and a report signed for the mailbox and for a
session. -/
theorem witness_HandshakesReportsAndSessions_keys :
    (zeros 1584).length = 1584 ∧ le (zeros 1584) 8 8 = 0 ∧ (((stShake.chip.shake 5).map (·.peerCt)) = some [])
      ∧ (st1With (fun c => c.setSec (fun x => { x with shakes := [shake1] }))).chip.shake 5 = some shake1 ∧ shake1.accepted = true ∧ shake1.peerCt ≠ [] ∧ shake1.pmk = []
      ∧ (st1With (fun c => c.setSec (fun x => { x with signing := some (.spdm, []) }))).chip.sec.signing = some (.spdm, [])
      ∧ ((st1With (fun c => c.setSec (fun x => { x with sessions := [{ id := 1, up := [], dn := [] }] }))).chip.session 1).isSome = true := by
  decide

/-- A module with a session of the administrator in slot 0. -/
def stSession : State := st1With (fun c => (c.wf F.SEC_PRIN_CFG_ROLE 1).setSec (fun x => { x with sessions := [{ id := 1, up := zeros 32, dn := zeros 32 }] }))

/-- ManagementCommandsAreRanked: no session and one; a SEQ that is not replayed; a purge that runs. -/
theorem witness_ManagementCommandsAreRanked :
    st1.runs = true ∧ st1.chip.session 1 = none ∧ stSession.runs = true ∧ stSession.chip.session 1 = some { id := 1, up := zeros 32, dn := zeros 32 }
      ∧ stSession.chip.sessionRank 1 = .admin ∧ replayed 64 0 [] 0 = false ∧ replayed 64 1 [0] 0 = true ∧ st1.chip.pwr.purging = none
      ∧ (st1With (fun c => { c with pwr := { c.pwr with purging := some (1, 9) } })).chip.pwr.purging = some (1, 9) := by
  decide

/-- A module whose configuration space is up. -/
def stDoe : State := st1With (fun c => { c with pwr := { c.pwr with config := true, done := [3, 8] } })

/-- DoeMailboxAnswers: the mailbox is up; no key session and one. -/
theorem witness_DoeMailboxAnswers :
    stDoe.runs = true ∧ stDoe.chip.doeUp = true ∧ stDoe.chip.sec.keySess = none
      ∧ ({ stDoe with chip := stDoe.chip.setSec (fun x => { x with keySess := some { id := 1, up := [], dn := [] } }) } : State).chip.sec.keySess = some { id := 1, up := [], dn := [] } := by
  decide

/-! ## Worked examples of the spec and single steps -/

/-- The example after R176 (06): six values of a block to MXFP4 under RNE, with scale code 0x7F, one saturated. -/
theorem test_mxfp4_example :
    toMx .e2m1 (fun _ => .rne) ([0x40FCCCCD, 0x40A9999A, 0x40200000, 0xBFA00000, 0x3F333333, 0x3E800000].map of32)
      = ⟨⟨0x7F, [0x7, 0x7, 0x4, 0xA, 0x1, 0x0]⟩, 1, false⟩ := by
  decide

/-- A module at the time of the example of 02. -/
def stAlm : State := st1With (fun c => (c.wr64 Reg.ALM_BASE_TIME_LO 1780000000000000000).setAlm (fun a => { a with now := 1780000000123456780 }))

/-- The example after R48 (02): step 6, offset 345,678, Compute; a step begins 20 ms after the one before. -/
theorem test_almanac_example : stAlm.chip.step = 6 ∧ stAlm.chip.offset = 345678 ∧ stAlm.chip.phase = 1 ∧ stAlm.chip.stepTime 500 = 1780000010000000000 := by
  decide

/-- The example after R72 (03). -/
theorem test_rid_example :
    ridComp 0x0007001200002A41 = 0x0007 ∧ ridOrigin 0x0007001200002A41 = 0x0012 ∧ ridSerial 0x0007001200002A41 = 0x00002A41 := by
  decide

/-- The examples of the step's R21 (00), of a journal's units (03) and of a prompt run of 1,020 tokens. -/
theorem test_sizes_of_examples :
    ceilDiv (128 + 4 * 3400) 4096 = 4 ∧ recordSize ([2, 0] ++ toLE 2 1020) = 4096 ∧ recordSize ([2, 0] ++ toLE 2 960) = 3856 ∧ recordSize ([2, 0] ++ toLE 2 1) = 32 := by
  decide

/-- The example of 18: SHP_QCFG_5 of link LK17. -/
theorem test_register_address_example : regAt (Pg.shp 17) (Reg.SHP_QCFG + 16 * 5) = 0x000FD258 := by decide

/-- A module at level `l` with P_lim 2,400 W. -/
def stPower (l : Nat) : State := st1With (fun c => (c.wr Reg.PWR_LIMIT 2400).wf F.PWR_STATE_LEVEL l)

/-- The example after R528 (17): level 1 becomes 4 at 2,530 W, and 4 becomes 3 at 2,300 W. -/
theorem test_power_level_example : (stPower 1).chip.nextLevel 2530 96 84 = 4 ∧ levelMHz 4 = 820 ∧ (stPower 4).chip.nextLevel 2300 95 84 = 3 := by decide

/-- The same example: prefill program A does not fit, B does. -/
theorem test_program_fit_example :
    (stPower 4).chip.timeFits { progOfBytes (zeros 256) with kind := 2, compute := 1300000 } = false
      ∧ (stPower 4).chip.computeTicks { progOfBytes (zeros 256) with kind := 2, compute := 1000000 } = 1146342
      ∧ (stPower 4).chip.timeFits { progOfBytes (zeros 256) with kind := 2, compute := 1000000 } = true := by
  decide

set_option maxRecDepth 40000 in
/-- R303's and R334's checks over the digits 1 to 9: the check values that both polynomials are published with. -/
theorem test_crc_check_values :
    crc32 0xEDB88320 [0x31, 0x32, 0x33, 0x34, 0x35, 0x36, 0x37, 0x38, 0x39] = 0xCBF43926
      ∧ crc32c [0x31, 0x32, 0x33, 0x34, 0x35, 0x36, 0x37, 0x38, 0x39] = 0xE3069283 := by
  decide

/-- A module whose management root is fused, in step 77,012, after a host write of 25,000 to ALM_BW_LEN. -/
def ownLogAfter : List (Nat × Bytes) :=
  let s := st1With (fun c => ((c.wf F.SEC_STAT_MGMT_FUSED 1).wr64 Reg.ALM_BASE_STEP_LO 77012))
  match exec (.registerWrite ⟨.host, false⟩ Reg.ALM_BW_LEN 4 25000 []) s with
  | .next t => t.chip.glb.ownLog
  | _ => []

/-- The example after R558 (18): OFFSET 0x0000_2124, WRITER 0x10, OUTCOME 1, DATA 25,000 (77,012 is 0x1_2CD4). -/
theorem test_own_log_example :
    ownLogAfter = [(0, [0x24, 0x21, 0, 0, 0x10, 1, 0xD4, 0x2C, 0xA8, 0x61, 0, 0, 0, 0, 0, 0])] := by
  decide

end Sys2Proof.Tests
end

section
/-! The writes of plain registers (R16, R544, R546–R548): what an RW1C write, an error event and a plain write leave in a register, and what a
register reads after a cold reset. -/

namespace Sys2Proof.Machine

open Sys2Proof

/-! ## Bits of masked numbers -/

/-- Numbers that share no bit add as they join. -/
theorem add_eq_or_of_and_eq_zero (x y : Nat) (h : x &&& y = 0) : x + y = x ||| y := by
  have hxy : x + y < 2 ^ (x + y) := Nat.lt_two_pow_self
  have hx : x < 2 ^ (x + y) := by omega
  have hy : y < 2 ^ (x + y) := by omega
  have hdisj : BitVec.ofNat (x + y) x &&& BitVec.ofNat (x + y) y = 0#(x + y) := by rw [← BitVec.ofNat_and, h]
  have hsum := congrArg BitVec.toNat (BitVec.add_eq_or_of_and_eq_zero _ _ hdisj)
  rwa [BitVec.toNat_add, BitVec.toNat_or, BitVec.toNat_ofNat, BitVec.toNat_ofNat, Nat.mod_eq_of_lt hx, Nat.mod_eq_of_lt hy,
    Nat.mod_eq_of_lt hxy] at hsum

/-- Taking away the bits of a mask clears them and keeps the others. -/
theorem sub_and_eq_ldiff (v m : Nat) : v - (v &&& m) = v.ldiff m := by
  have hdisj : v.ldiff m &&& (v &&& m) = 0 := by
    apply Nat.eq_of_testBit_eq
    intro i
    cases h : m.testBit i <;> simp [Nat.testBit_ldiff, h]
  have hjoin : v.ldiff m ||| (v &&& m) = v := by
    apply Nat.eq_of_testBit_eq
    intro i
    cases h : m.testBit i <;> simp [Nat.testBit_ldiff, h]
  have hsum := add_eq_or_of_and_eq_zero _ _ hdisj
  omega

theorem testBit_sub_and (v m i : Nat) : (v - (v &&& m)).testBit i = (v.testBit i && !m.testBit i) := by
  rw [sub_and_eq_ldiff, Nat.testBit_ldiff]

/-- Replacing the bits of a mask by those of `x`. -/
theorem testBit_replace_masked (v m x i : Nat) :
    (v - (v &&& m) + (x &&& m)).testBit i = if m.testBit i then x.testBit i else v.testBit i := by
  have hdisj : v.ldiff m &&& (x &&& m) = 0 := by
    apply Nat.eq_of_testBit_eq
    intro j
    cases h : m.testBit j <;> simp [Nat.testBit_ldiff, h]
  rw [sub_and_eq_ldiff, add_eq_or_of_and_eq_zero _ _ hdisj]
  cases h : m.testBit i <;> simp [Nat.testBit_ldiff, h]

theorem replace_masked_lt {v m : Nat} (x : Nat) (hv : v < 2 ^ 32) (hm : m < 2 ^ 32) : v - (v &&& m) + (x &&& m) < 2 ^ 32 := by
  apply Nat.lt_pow_two_of_testBit
  intro i hi
  have hpow : 2 ^ 32 ≤ 2 ^ i := Nat.pow_le_pow_right (by norm_num) hi
  simp [testBit_replace_masked, Nat.testBit_lt_two_pow (hv.trans_le hpow), Nat.testBit_lt_two_pow (hm.trans_le hpow)]

/-! ## Stored and cleared bits of a register -/

/-- A register write depends on the low 32 bits alone, so a write is one of the value that reads back. -/
theorem Chip.wr_rd_wr_same (s : Chip) (a v : Nat) : s.wr a ((s.wr a v).rd a) = s.wr a v := by
  have hval : BitVec.ofNat 32 (v % 2 ^ 32) = BitVec.ofNat 32 v := by
    apply BitVec.eq_of_toNat_eq
    simp
  rw [Chip.rd_wr_same]
  unfold Chip.wr
  rw [hval]

theorem Chip.testBit_rd_clearBits (s : Chip) (a val i : Nat) :
    ((s.clearBits a val).rd a).testBit i = ((s.rd a).testBit i && !val.testBit i) := by
  have hlt : s.rd a - (s.rd a &&& val) < 2 ^ 32 := (Nat.sub_le _ _).trans_lt (s.rd_lt a)
  rw [Chip.clearBits, Chip.rd_wr_same, Nat.mod_eq_of_lt hlt, testBit_sub_and]

theorem Chip.testBit_rd_storeBits (s : Chip) (a val i : Nat) {mask : Nat} (hm : mask < 2 ^ 32) :
    ((s.storeBits a mask val).rd a).testBit i = if mask.testBit i then val.testBit i else (s.rd a).testBit i := by
  rw [Chip.storeBits, Chip.rd_wr_same, Nat.mod_eq_of_lt (replace_masked_lt val (s.rd_lt a) hm), testBit_replace_masked]

@[simp] theorem Chip.calm_clearBits (s : Chip) (a val : Nat) : (s.clearBits a val).calm = s.calm := s.calm_wr _ _

@[simp] theorem Chip.calm_storeBits (s : Chip) (a mask val : Nat) : (s.storeBits a mask val).calm = s.calm := s.calm_wr _ _

@[simp] theorem Chip.calm_writeOneClear (s : Chip) (pg : Nat) (int : Bool) (val keep : Nat) : (s.writeOneClear pg int val keep).calm = s.calm :=
  s.calm_clearBits _ _

/-! ## Error events: bits only rise -/

/-- Joining bits to one register clears no bit of any. -/
theorem Chip.testBit_rd_wr_or (s : Chip) {a i : Nat} (b m : Nat) (h : (s.rd a).testBit i = true) :
    ((s.wr b (s.rd b ||| m)).rd a).testBit i = true := by
  by_cases hab : a = b
  · subst hab
    have hi : i < 32 := by
      by_contra hge
      have hpow : 2 ^ 32 ≤ 2 ^ i := Nat.pow_le_pow_right (by norm_num) (by omega)
      rw [Nat.testBit_lt_two_pow ((s.rd_lt a).trans_le hpow)] at h
      exact absurd h (by decide)
    simp [Nat.testBit_mod_two_pow, hi, h, -Nat.reducePow]
  · rwa [Chip.rd_wr_other s _ hab]

theorem Chip.testBit_rd_wr_or_same (s : Chip) (a : Nat) {b : Nat} (hb : b < 32) : ((s.wr a (s.rd a ||| 2 ^ b)).rd a).testBit b = true := by
  simp [Nat.testBit_mod_two_pow, hb, -Nat.reducePow]

/-- The registers that an error event writes: ERR_STAT, and INT_STAT unless ERR_MASK holds it back (R544). -/
def Chip.noteEvent (s : Chip) (pg b : Nat) : Chip :=
  let s := s.wr (regAt pg Reg.ERR_STAT) (s.rd (regAt pg Reg.ERR_STAT) ||| 2 ^ b)
  if bit (s.rd (regAt pg Reg.ERR_MASK)) b then s else s.wr (regAt pg Reg.INT_STAT) (s.rd (regAt pg Reg.INT_STAT) ||| 2 ^ b)

/-- What else raising an error does, vectors and Events, writes no register. -/
theorem Chip.rd_raise (s : Chip) (pg b a : Nat) : (s.raise pg b).rd a = (s.noteEvent pg b).rd a := by
  apply Chip.rd_of_regs
  unfold Chip.raise Chip.noteEvent
  simp only [Chip.signalIfNew_regs]
  split
  · exact Chip.sendEvents_regs _ _ _
  · rfl

theorem Chip.rd_raise_other (s : Chip) (pg b : Nat) {a : Nat} (he : a ≠ regAt pg Reg.ERR_STAT) (hi : a ≠ regAt pg Reg.INT_STAT) :
    (s.raise pg b).rd a = s.rd a := by
  rw [Chip.rd_raise]
  unfold Chip.noteEvent
  dsimp only
  split
  · exact s.rd_wr_other _ he
  · rw [Chip.rd_wr_other _ _ hi, Chip.rd_wr_other _ _ he]

theorem Chip.rd_errMask_raise (s : Chip) (pg b : Nat) : (s.raise pg b).rd (regAt pg Reg.ERR_MASK) = s.rd (regAt pg Reg.ERR_MASK) :=
  s.rd_raise_other pg b (by simp [regAt]) (by simp [regAt])

theorem Chip.testBit_rd_raise (s : Chip) {a i : Nat} (pg b : Nat) (h : (s.rd a).testBit i = true) : ((s.raise pg b).rd a).testBit i = true := by
  rw [Chip.rd_raise]
  unfold Chip.noteEvent
  dsimp only
  split
  · exact s.testBit_rd_wr_or _ _ h
  · exact Chip.testBit_rd_wr_or _ _ _ (s.testBit_rd_wr_or _ _ h)

theorem Chip.testBit_rd_errStat_raise (s : Chip) (pg : Nat) {b : Nat} (hb : b < 32) :
    ((s.raise pg b).rd (regAt pg Reg.ERR_STAT)).testBit b = true := by
  rw [Chip.rd_raise]
  unfold Chip.noteEvent
  dsimp only
  split
  · exact s.testBit_rd_wr_or_same _ hb
  · exact Chip.testBit_rd_wr_or _ _ _ (s.testBit_rd_wr_or_same _ hb)

theorem Chip.testBit_rd_intStat_raise (s : Chip) (pg : Nat) {b : Nat} (hb : b < 32) (hm : (s.rd (regAt pg Reg.ERR_MASK)).testBit b = false) :
    ((s.raise pg b).rd (regAt pg Reg.INT_STAT)).testBit b = true := by
  rw [Chip.rd_raise]
  unfold Chip.noteEvent
  dsimp only
  rw [Chip.rd_wr_other _ _ (by simp [regAt] : regAt pg Reg.ERR_MASK ≠ regAt pg Reg.ERR_STAT), bit, hm, if_neg Bool.false_ne_true]
  exact Chip.testBit_rd_wr_or_same _ _ hb

/-- The record of a write that was not accepted clears no bit of any register but the count of the log. -/
theorem Chip.testBit_rd_logWrite (s : Chip) {a i : Nat} (w : Writer) (addr val o : Nat) (ha : a ≠ Reg.GLB_OWN_COUNT) (h : (s.rd a).testBit i = true) :
    ((s.logWrite w addr val o).rd a).testBit i = true := by
  unfold Chip.logWrite
  apply Chip.testBit_rd_raise
  unfold Chip.cnt Chip.cntBy
  rw [Chip.rd_wr_other _ _ ha]
  exact h

/-! ## When a module is ready -/

theorem State.runs_iff (s : State) : s.runs = true ↔ s.chip.pwr.off = false ∧ s.chip.pwr.purged = false := by
  simp [State.runs]

theorem State.ready_iff (s : State) : s.ready = true ↔ s.runs = true ∧ s.chip.calm = true := Bool.and_eq_true_iff

/-! ## Writes under the rule of a page -/

/-- All that a write can do: nothing, the record of a refusal, or what it is for. -/
theorem Chip.write_cases (s : Chip) (acc : Access) (pg off val : Nat) (shared : Bool) (parts : List Nat) (run : Chip → Chip) :
    s.write acc pg off val shared parts run = s ∨ (∃ o, s.write acc pg off val shared parts run = s.logWrite acc.writer (regAt pg off) val o)
      ∨ s.write acc pg off val shared parts run = run s := by
  cases hr : s.reaches acc.writer pg with
  | false => exact .inl (s.write_unreached acc pg off val shared parts run hr)
  | true =>
    cases hj : s.judge acc pg shared parts with
    | some o => exact .inr (.inl ⟨o, s.write_refused acc pg off val shared parts run o hr hj⟩)
    | none => exact .inr (.inr (s.write_accepted acc pg off val shared parts run ((s.accepts_iff acc pg shared parts).2 ⟨hr, hj⟩)))

theorem Chip.calm_write (s : Chip) (acc : Access) (pg off val : Nat) (shared : Bool) (parts : List Nat) (run : Chip → Chip)
    (h : (run s).calm = s.calm) : (s.write acc pg off val shared parts run).calm = s.calm := by
  obtain hnone | ⟨o, hlog⟩ | hrun := s.write_cases acc pg off val shared parts run
  · rw [hnone]
  · rw [hlog, Chip.calm_logWrite]
  · rw [hrun, h]

/-- A write that is accepted and needs no admin principal does what it is for. -/
theorem Chip.ruled_accepted (s : Chip) (acc : Access) (a val : Nat) (run : Chip → Chip) (hadm : (s.ruleOf a val).admin = false)
    (hacc : s.accepts acc (a / 0x1000) (s.ruleOf a val).shared (s.ruleOf a val).parts = true) : s.ruled acc a val run = run s := by
  unfold Chip.ruled
  simp only [hadm, Bool.false_and, Bool.or_false, Bool.false_eq_true, if_false]
  exact s.write_accepted _ _ _ _ _ _ _ hacc

/-! ## RW1C_WRITE -/

/-- The error events of a cycle, in ascending order. -/
def Chip.raiseAll (s : Chip) (pg hw : Nat) : Chip := s.each (below 32 (fun i => bit hw i)) (fun c i => c.raise pg i)

/-- The register that an RW1C write names. -/
abbrev statAt (pg : Nat) (int : Bool) : Nat := regAt pg (if int then Reg.INT_STAT else Reg.ERR_STAT)

/-- An RW1C write after the error events of its cycle. -/
def Chip.rw1cWrite (s : Chip) (acc : Access) (pg : Nat) (int : Bool) (val hw : Nat) : Chip :=
  s.write acc pg (if int then Reg.INT_STAT else Reg.ERR_STAT) val false [] (fun c => c.writeOneClear pg int val (s.eventBits pg int hw))

@[simp] theorem Chip.raiseAll_zero (s : Chip) (pg : Nat) : s.raiseAll pg 0 = s := by
  have hnone : below 32 (fun i => bit 0 i) = [] := by decide
  rw [Chip.raiseAll, hnone, Chip.each_nil]

@[simp] theorem Chip.calm_raiseAll (s : Chip) (pg hw : Nat) : (s.raiseAll pg hw).calm = s.calm :=
  Chip.each_keeps Chip.calm _ _ _ (fun c i => c.calm_raise pg i)

@[simp] theorem Chip.calm_rw1cWrite (s : Chip) (acc : Access) (pg : Nat) (int : Bool) (val hw : Nat) : (s.rw1cWrite acc pg int val hw).calm = s.calm :=
  s.calm_write _ _ _ _ _ _ _ (s.calm_writeOneClear _ _ _ _)

/-- With nothing waiting, an RW1C write is the error events of its cycle and then the write. -/
theorem exec_rw1cWrite_ready (s : State) (acc : Access) (pg inst : Nat) (b : Blk) (int : Bool) (val hw : Nat) (hr : s.ready = true)
    (hb : blkOf pg = some (b, inst)) :
    exec (.rw1cWrite acc pg int val hw) s = .next { s with chip := (s.chip.raiseAll pg hw).rw1cWrite acc pg int val hw } := by
  obtain ⟨hruns, hcalm⟩ := s.ready_iff.1 hr
  have hexec : exec (.rw1cWrite acc pg int val hw) s
      = s.run (fun c => (c.raiseAll pg hw).rw1cWrite acc pg int val hw) := by
    show execRw1cWrite acc pg int val hw s = _
    unfold execRw1cWrite
    simp only [hb]
    rfl
  rw [hexec, State.run_runs s _ hruns, Chip.settle_calm _ (by simpa using hcalm)]

/-- What every step of a repetition keeps true, the repetition keeps true. -/
theorem Chip.each_preserves {α : Type} {P : Chip → Prop} {f : Chip → α → Chip} (hP : ∀ s y, P s → P (f s y)) (l : List α) (s : Chip) (hs : P s) :
    P (s.each l f) := by
  induction l generalizing s with
  | nil => exact hs
  | cons y l ih => exact ih (f s y) (hP s y hs)

/-- Repeating a step for every element of a list establishes what the step for one of them establishes and the others keep. -/
theorem Chip.each_establishes {α : Type} {Q P : Chip → Prop} {f : Chip → α → Chip} {x : α} (hQ : ∀ s y, Q s → Q (f s y))
    (hP : ∀ s y, P s → P (f s y)) (hx : ∀ s, Q s → P (f s x)) (l : List α) (hl : x ∈ l) (s : Chip) (hs : Q s) : P (s.each l f) := by
  induction l generalizing s with
  | nil => exact absurd hl List.not_mem_nil
  | cons y l ih =>
    rcases List.mem_cons.1 hl with rfl | hl
    · exact Chip.each_preserves hP l _ (hx s hs)
    · exact ih hl _ (hQ s y hs)

theorem mem_below_bit {hw i : Nat} (hi : i < 32) (h : hw.testBit i = true) : i ∈ below 32 (fun i => bit hw i) :=
  List.mem_filter.2 ⟨List.mem_range.2 hi, h⟩

/-- Every event of the cycle shows in ERR_STAT, and in INT_STAT where ERR_MASK does not hold it back. -/
theorem Chip.testBit_rd_statAt_raiseAll (s : Chip) (pg : Nat) (int : Bool) {hw i : Nat} (hi : i < 32) (hbit : hw.testBit i = true)
    (hm : int = true → (s.rd (regAt pg Reg.ERR_MASK)).testBit i = false) : ((s.raiseAll pg hw).rd (statAt pg int)).testBit i = true := by
  cases int with
  | false =>
    exact Chip.each_establishes (Q := fun _ => True) (P := fun c => (c.rd (regAt pg Reg.ERR_STAT)).testBit i = true) (fun _ _ h => h)
      (fun c j h => c.testBit_rd_raise pg j h) (fun c _ => c.testBit_rd_errStat_raise pg hi) _ (mem_below_bit hi hbit) s trivial
  | true =>
    exact Chip.each_establishes (Q := fun c => (c.rd (regAt pg Reg.ERR_MASK)).testBit i = false)
      (P := fun c => (c.rd (regAt pg Reg.INT_STAT)).testBit i = true) (fun c j h => by rw [Chip.rd_errMask_raise]; exact h)
      (fun c j h => c.testBit_rd_raise pg j h) (fun c h => c.testBit_rd_intStat_raise pg hi h) _ (mem_below_bit hi hbit) s (hm rfl)

theorem Chip.rd_errMask_raiseAll (s : Chip) (pg hw : Nat) : (s.raiseAll pg hw).rd (regAt pg Reg.ERR_MASK) = s.rd (regAt pg Reg.ERR_MASK) :=
  Chip.each_keeps (fun c => c.rd (regAt pg Reg.ERR_MASK)) _ _ _ (fun c i => c.rd_errMask_raise pg i)

theorem Chip.testBit_eventBits (s : Chip) (pg : Nat) (int : Bool) {hw i : Nat} (hbit : hw.testBit i = true)
    (hm : int = true → (s.rd (regAt pg Reg.ERR_MASK)).testBit i = false) : (s.eventBits pg int hw).testBit i = true := by
  cases int with
  | false => exact hbit
  | true => simp [Chip.eventBits, testBit_sub_and, hbit, hm rfl]

theorem statAt_ne_ownCount (pg : Nat) (int : Bool) : statAt pg int ≠ Reg.GLB_OWN_COUNT := by
  cases int <;> simp only [statAt, regAt, pageBase, Reg.GLB_OWN_COUNT, Reg.ERR_STAT, Reg.INT_STAT, Bool.false_eq_true, if_false, if_true] <;> omega

/-- R18: the write does not clear a bit that an event of its cycle has set, accepted or not. -/
theorem Chip.testBit_rd_rw1cWrite_event (s : Chip) (acc : Access) (pg : Nat) (int : Bool) (val : Nat) {hw i : Nat}
    (hset : (s.rd (statAt pg int)).testBit i = true) (hev : (s.eventBits pg int hw).testBit i = true) :
    ((s.rw1cWrite acc pg int val hw).rd (statAt pg int)).testBit i = true := by
  unfold Chip.rw1cWrite
  obtain hnone | ⟨o, hlog⟩ | hrun := s.write_cases acc pg (if int then Reg.INT_STAT else Reg.ERR_STAT) val false []
    (fun c => c.writeOneClear pg int val (s.eventBits pg int hw))
  · rwa [hnone]
  · rw [hlog]
    exact s.testBit_rd_logWrite _ _ _ _ (statAt_ne_ownCount pg int) hset
  · rw [hrun, Chip.writeOneClear, Chip.testBit_rd_clearBits, testBit_sub_and, hset, hev]
    simp

/-- An RW1C write that is accepted, in a cycle without error events, clears the bits written 1 and does nothing else. -/
theorem Chip.rw1cWrite_accepted (s : Chip) (acc : Access) (pg : Nat) (int : Bool) (val : Nat) (hacc : s.accepts acc pg false [] = true) :
    s.rw1cWrite acc pg int val 0 = s.clearBits (statAt pg int) val := by
  have hev : s.eventBits pg int 0 = 0 := by cases int <;> simp [Chip.eventBits]
  rw [Chip.rw1cWrite, s.write_accepted acc pg _ val false [] _ hacc, hev]
  simp [Chip.writeOneClear]

/-- Settles O18: the accepted write is `clearBits` of the register, and nothing follows it. -/
theorem writeOneClears : Obligations.WriteOneClears := by
  intro s acc pg inst val b int hr hb hacc _
  refine ⟨s.chip.clearBits (statAt pg int) val, ?_, ?_, fun i => s.chip.testBit_rd_clearBits _ _ _⟩
  · rw [exec_rw1cWrite_ready s acc pg inst b int val 0 hr hb, Chip.raiseAll_zero, Chip.rw1cWrite_accepted s.chip acc pg int val hacc]
  · exact (s.chip.wr_rd_wr_same _ _).symm

/-- An event of the cycle shows in the register that an RW1C write names, whatever the write does. -/
theorem exists_exec_rw1cWrite_event (s : State) (acc : Access) (pg inst : Nat) (b : Blk) (int : Bool) (val : Nat) {hw i : Nat} (hr : s.ready = true)
    (hb : blkOf pg = some (b, inst)) (hi : i < 32) (hbit : hw.testBit i = true)
    (hm : int = true → (s.chip.rd (regAt pg Reg.ERR_MASK)).testBit i = false) :
    ∃ t, exec (.rw1cWrite acc pg int val hw) s = .next t ∧ (t.chip.rd (statAt pg int)).testBit i = true := by
  refine ⟨_, exec_rw1cWrite_ready s acc pg inst b int val hw hr hb, ?_⟩
  apply Chip.testBit_rd_rw1cWrite_event
  · exact s.chip.testBit_rd_statAt_raiseAll pg int hi hbit hm
  · exact Chip.testBit_eventBits _ pg int hbit (by rwa [Chip.rd_errMask_raiseAll])

/-- Settles O19: the events are raised before the write, and the write keeps their bits. -/
theorem eventBitSurvivesItsClear : Obligations.EventBitSurvivesItsClear := by
  intro s acc pg inst val hw i b hr hb hi hbit
  exact ⟨exists_exec_rw1cWrite_event s acc pg inst b false val hr hb hi hbit (fun h => absurd h Bool.false_ne_true),
    fun hm => exists_exec_rw1cWrite_event s acc pg inst b true val hr hb hi hbit (fun _ => hm)⟩

/-! ## REGISTER_WRITE -/

/-- The blocks whose own registers are stored as written and set nothing off. -/
def plainBlks : List Blk := [.pwr, .smv, .sch, .flt, .vgl, .til, .sdg, .opt, .cal]

theorem regAt_div_mod (a : Nat) : regAt (a / 0x1000) (a % 0x1000) = a := Nat.div_add_mod a 0x1000

theorem Chip.storeOwn_plain (s : Chip) (w : Writer) {b : Blk} (pg inst off soft val : Nat) (hb : b ∈ plainBlks) :
    s.storeOwn w b pg inst off soft val = s.storeBits (regAt pg off) soft val := by
  simp only [plainBlks, List.mem_cons, List.not_mem_nil, or_false] at hb
  rcases hb with rfl | rfl | rfl | rfl | rfl | rfl | rfl | rfl | rfl <;> rfl

/-- An accepted write of a plain block's own register stores its writable bits. -/
theorem Chip.storeReg_plain (s : Chip) (f : Fuses) (acc : Access) (a val : Nat) {inst n : Nat} {b : Blk} {r : RegRow}
    (hblk : blkOf (a / 0x1000) = some (b, inst)) (hb : b ∈ plainBlks) (hoff : 0x100 ≤ a % 0x1000) (hrow : rowHere b inst (a % 0x1000) = some (r, n))
    (hadm : (s.ruleOf a val).admin = false) (hacc : s.accepts acc (a / 0x1000) (s.ruleOf a val).shared (s.ruleOf a val).parts = true) :
    s.storeReg f acc a val = s.storeBits a r.soft val := by
  unfold Chip.storeReg
  simp only [hblk, Nat.not_lt.2 hoff, if_false, hrow]
  rw [Chip.ruled_accepted s acc a val _ hadm hacc, Chip.storeOwn_plain s _ _ _ _ _ _ hb, regAt_div_mod]

/-- Where no record has been added to the log, the record of the last write stays as it is. -/
theorem Chip.showWritten_of_logged_le (s : Chip) {n : Nat} (val : Nat) (h : s.glb.logged ≤ n) : s.showWritten n val = s := if_pos h

theorem exec_registerWrite_runs (s : State) (acc : Access) (a size val : Nat) (t3 : List (Nat × Bytes)) (h : s.runs = true) :
    exec (.registerWrite acc a size val t3) s = .next (s.regWrite acc a size val t3) := by
  obtain ⟨hoff, hpurged⟩ := s.runs_iff.1 h
  show execRegisterWrite acc a size val t3 s = _
  simp [execRegisterWrite, hoff, hpurged]

/-- A write that names no command stores the register, and what follows that is shown. -/
theorem State.writeWord_of_no_command (s : State) (acc : Access) (a : Nat) {val : Nat} (t3 : List (Nat × Bytes)) (hruns : s.runs = true)
    (hval : val < 2 ^ 32) (hcmd : s.commandWrite acc a val t3 = none) :
    s.writeWord acc a val t3 = { s with chip := (s.chip.storeReg s.fuses acc a val).settle.showWritten s.chip.glb.logged val } := by
  unfold State.writeWord
  simp only [Nat.mod_eq_of_lt hval, hcmd, State.run_runs s _ hruns, nextOf]

theorem served_four {a : Nat} (h : a % 4 = 0) : served a 4 = true := by simp [served, h]

theorem State.regWrite_four (s : State) (acc : Access) {a : Nat} (val : Nat) (t3 : List (Nat × Bytes)) (h : a % 4 = 0) :
    s.regWrite acc a 4 val t3 = s.writeWord acc a val t3 := by
  simp [State.regWrite, served_four h]

theorem State.regWrite_unserved (s : State) (acc : Access) (a size val : Nat) (t3 : List (Nat × Bytes)) (hruns : s.runs = true)
    (hs : served a size = false) (hd : s.chip.d3hot = false) :
    s.regWrite acc a size val t3 = { s with chip := s.chip.logWrite acc.writer a (val % 2 ^ 32) 5 } := by
  obtain ⟨hoff, hpurged⟩ := s.runs_iff.1 hruns
  simp [State.regWrite, hs, State.onChip, hoff, hpurged, hd, nextOf]

/-- An accepted write of a plain block's own register does nothing but store its writable bits. -/
theorem State.regWrite_plain (s : State) (acc : Access) {a val inst n : Nat} {b : Blk} {r : RegRow} (t3 : List (Nat × Bytes)) (hr : s.ready = true)
    (ha : a % 4 = 0) (hval : val < 2 ^ 32) (hblk : blkOf (a / 0x1000) = some (b, inst)) (hb : b ∈ plainBlks) (hoff : 0x100 ≤ a % 0x1000)
    (hrow : rowHere b inst (a % 0x1000) = some (r, n)) (hcmd : s.commandWrite acc a val t3 = none) (hadm : (s.chip.ruleOf a val).admin = false)
    (hacc : s.chip.accepts acc (a / 0x1000) (s.chip.ruleOf a val).shared (s.chip.ruleOf a val).parts = true) :
    s.regWrite acc a 4 val t3 = { s with chip := s.chip.storeBits a r.soft val } := by
  obtain ⟨hruns, hcalm⟩ := s.ready_iff.1 hr
  rw [State.regWrite_four s acc val t3 ha, State.writeWord_of_no_command s acc a t3 hruns hval hcmd,
    Chip.storeReg_plain s.chip s.fuses acc a val hblk hb hoff hrow hadm hacc, Chip.settle_calm _ (by simpa using hcalm),
    Chip.showWritten_of_logged_le _ val (by simp [Chip.storeBits])]

/-- Settles O20: a plain write is `storeBits` of the register; one that BAR0 does not serve is the record with OUTCOME 5. -/
theorem registerWriteIsStoredAndReadBack : Obligations.RegisterWriteIsStoredAndReadBack := by
  constructor
  · intro s acc a val inst b r n t3 hr ha hval hblk hb hoff hrow hsoft hcmd hadm hacc
    have hruns : s.runs = true := (s.ready_iff.1 hr).1
    refine ⟨s.chip.storeBits a r.soft val, ?_, (s.chip.wr_rd_wr_same _ _).symm, fun i => s.chip.testBit_rd_storeBits a val i hsoft⟩
    rw [exec_registerWrite_runs s acc a 4 val t3 hruns, State.regWrite_plain s acc t3 hr ha hval hblk hb hoff hrow hcmd hadm hacc]
  · intro s acc a size val t3 hruns hs hd
    rw [exec_registerWrite_runs s acc a size val t3 hruns, State.regWrite_unserved s acc a size val t3 hruns hs hd]

/-! ## After a cold reset -/

/-- After a cold reset every register reads as the reset value of its table (R17). -/
theorem State.rd_reset (a : Nat) : State.reset.chip.rd a = (resetWord a).toNat := rfl

theorem State.rf_reset (f : Fld) : State.reset.chip.rf f = bits (resetWord f.reg).toNat f.hi f.lo := rfl

/-- Settles O7: nothing is listed, so each register named reads as the reset value of its table. -/
theorem resetLeavesReadableValues : Obligations.ResetLeavesReadableValues := by
  refine ⟨rfl, rfl, rfl, rfl, ?_⟩
  simp only [State.rd_reset, State.rf_reset]
  decide

end Sys2Proof.Machine
end

section
/-! Almanac time (R41–R69, R579) and reads by the host (R546, R561): step and offset, the phases of a step, plans, the ALM_SYNC input, and the
almanac records sent and heard. -/

namespace Sys2Proof.Machine

open Sys2Proof

/-! ## Running a command -/

/-- A command of a module that runs: what it does to the chip, and what follows. -/
theorem State.run_to (s : State) {f : Chip → Chip} {t : Chip} (h : s.runs = true) (ht : f s.chip = t) :
    s.run f = .next { s with chip := t.settle } := by
  rw [State.run_runs s f h, ht]

/-- The same for a command that names a unit of the module. -/
theorem State.runOn_to (s : State) {f : Chip → Chip} {t : Chip} {p : Prop} [Decidable p] (h : s.runs = true) (hp : p) (ht : f s.chip = t) :
    s.runOn (decide p) f = .next { s with chip := t.settle } := by
  rw [State.runOn_runs s _ f h (decide_eq_true hp), ht]

/-- With nothing waiting, a command that leaves nothing waiting is followed by nothing. -/
theorem State.run_calm (s : State) {f : Chip → Chip} {t : Chip} (h : s.ready = true) (ht : f s.chip = t) (hcalm : t.calm = s.chip.calm) :
    s.run f = .next { s with chip := t } := by
  obtain ⟨hruns, hs⟩ := s.ready_iff.1 h
  rw [State.run_to s hruns ht, Chip.settle_calm t (hcalm.trans hs)]

/-- A command that nothing follows. -/
theorem State.onChip_runs (s : State) (f : Chip → Chip) (h : s.runs = true) : s.onChip f = .next { s with chip := f s.chip } := by
  obtain ⟨hoff, hpurged⟩ := s.runs_iff.1 h
  simp [State.onChip, hoff, hpurged]

/-! ## Time (R41, R43, R45) -/

@[simp] theorem Chip.late_advance (s : Chip) (t : Nat) : (s.advance t).alm.late = s.alm.late := rfl

/-- Without a plan adopted late the step number follows from the ticks since the base time. -/
theorem Chip.step_of_late_none (s : Chip) (h : s.alm.late = none) : s.step = s.rd64 Reg.ALM_BASE_STEP_LO + s.ticks / max 1 s.plan.c := by
  unfold Chip.step
  rw [h]

/-- R45: the step and the offset at an almanac time given by whole steps, ticks and the rest of a tick. -/
theorem Chip.step_offset_of_now (s : Chip) {n k r : Nat} (hlate : s.alm.late = none) (hk : k < s.plan.c) (hr : r < 10)
    (hnow : s.alm.now = s.rd64 Reg.ALM_BASE_TIME_LO + 10 * (n * s.plan.c + k) + r) :
    s.step = s.rd64 Reg.ALM_BASE_STEP_LO + n ∧ s.offset = k := by
  have hmax : max 1 s.plan.c = s.plan.c := by omega
  have hticks : s.ticks = n * s.plan.c + k := by
    unfold Chip.ticks
    omega
  have hdiv : (n * s.plan.c + k) / s.plan.c = n := by
    rw [Nat.mul_comm, Nat.mul_add_div (by omega), Nat.div_eq_of_lt hk, Nat.add_zero]
  have hstep : s.step = s.rd64 Reg.ALM_BASE_STEP_LO + n := by
    rw [s.step_of_late_none hlate, hmax, hticks, hdiv]
  refine ⟨hstep, ?_⟩
  unfold Chip.offset
  rw [hstep, hticks, hmax, Nat.add_sub_cancel_left, Nat.add_sub_cancel_left]

/-- Settles O9: the ticks since the base time are n × C + k. -/
theorem stepNumberAndOffset : Obligations.StepNumberAndOffset := by
  intro s n k r hlate _ hk hr hnow
  obtain ⟨hstep, hoff⟩ := s.step_offset_of_now hlate hk hr hnow
  refine ⟨hstep, hoff, ?_⟩
  unfold Chip.phase Plan.phase
  rw [hoff]

/-- Ten ns are one tick, which takes at most 100 fs off an offset that the tick rate corrects. -/
theorem Chip.advance_tick (s : Chip) : s.advance (s.alm.now + 10)
    = s.setAlm (fun a => { a with now := a.now + 10, slew := if a.slew < 0 then min 0 (a.slew + 100) else max 0 (a.slew - 100) }) := by
  have hnow : max s.alm.now (s.alm.now + 10) = s.alm.now + 10 := by omega
  have hone : (s.alm.now + 10 - s.alm.now) / 10 = 1 := by omega
  simp only [Chip.advance, Chip.setAlm, slewAfter, hnow, hone]
  rfl

theorem Chip.latchDue_of_none (s : Chip) (h : s.latchSources = []) : s.latchDue = s := by
  unfold Chip.latchDue
  rw [h]
  rfl

/-- At an offset of no phase's start and not of the cutoff nothing of the step is due. -/
theorem Chip.dueHere_of_ne (s : Chip) (x : StepInput) (hw : s.offset ≠ s.plan.w) (hx : s.offset ≠ s.plan.x) (hs : s.offset ≠ s.plan.s)
    (hc : s.offset ≠ s.cutoffAt) : s.dueHere x = s := by
  simp [Chip.dueHere, hw, hx, hs, hc]

/-- A tick inside a step that no plan adopted late disturbs: triggers latch, and what falls on the offset is taken. -/
theorem Chip.tick_within_step (s : Chip) (x : StepInput) (hlate : s.alm.late = none) (hstart : (s.advance (s.alm.now + 10)).atStart = false) :
    s.tick x = (s.advance (s.alm.now + 10)).latchDue.dueHere x := by
  unfold Chip.tick
  simp [hlate, hstart]

/-- Settles O8: inside a step the tick is the passing of 10 ns, then the latch and the events of the offset, of which there are none. -/
theorem quietTickAddsTen : Obligations.QuietTickAddsTen := by
  constructor
  · intro s x t hr ht hlate hstart hlatch hw hx hs hc
    obtain ⟨hruns, hcalm⟩ := s.ready_iff.1 hr
    obtain ⟨hoff, _⟩ := s.runs_iff.1 hruns
    have hadv : s.chip.advance (s.chip.alm.now + 10) = t := s.chip.advance_tick.trans ht.symm
    have htick : s.chip.tick x = t := by
      rw [← hadv] at hlate hstart
      rw [s.chip.tick_within_step x hlate hstart, hadv, t.latchDue_of_none hlatch, t.dueHere_of_ne x hw hx hs hc]
    have hstill : t.calm = true := by
      rw [ht]
      exact hcalm
    show s.onMgmt (fun c => (c.tick x).settle) = _
    rw [State.onMgmt_on s _ hoff, htick, t.settle_calm hstill]
  · intro s x hoff
    show s.onMgmt (fun c => (c.tick x).settle) = _
    exact State.onMgmt_on s _ hoff

/-! ## Phases of a step (R62, R65, R579) -/

theorem Chip.atMoment_due (s : Chip) (off : Nat) (f : Chip → Chip) (h : s.skipped off = false) : s.atMoment off f = f (s.toOffset off) := by
  simp [Chip.atMoment, h]

theorem Chip.atMoment_skipped (s : Chip) (off : Nat) (f : Chip → Chip) (h : s.skipped off = true) : s.atMoment off f = s := by
  simp [Chip.atMoment, h]

theorem Chip.planSwitch_of_late_none (s : Chip) (h : s.alm.late = none) : s.planSwitch = s := by
  unfold Chip.planSwitch
  rw [h]

theorem Chip.endOldStep_of_late_none (s : Chip) (l : List Nat) (h : s.alm.late = none) : s.endOldStep l = s := by
  simp [Chip.endOldStep, h]

/-- Without a plan adopted late, a window that is still to be opened later opens with the next step. -/
theorem Chip.nextStart_within_step (s : Chip) (hlate : s.alm.late = none) (hstart : s.atStart = false) : s.nextStart = s.stepTime (s.step + 1) := by
  unfold Chip.nextStart
  simp [hlate, hstart]

/-- The next step's first tick is its step's offset 0. -/
theorem Chip.step_offset_nextStart (s : Chip) (hlate : s.alm.late = none) (hc : 0 < s.plan.c) (hbase : s.rd64 Reg.ALM_BASE_TIME_LO ≤ s.alm.now)
    (hstart : s.atStart = false) : (s.advance s.nextStart).step = s.step + 1 ∧ (s.advance s.nextStart).offset = 0 := by
  have hstep := s.step_of_late_none hlate
  have hmax : max 1 s.plan.c = s.plan.c := by omega
  rw [hmax] at hstep
  have hlt : s.ticks < (s.ticks / s.plan.c + 1) * s.plan.c := Nat.lt_mul_of_div_lt (Nat.lt_succ_self _) hc
  have htime : s.nextStart = s.rd64 Reg.ALM_BASE_TIME_LO + 10 * ((s.ticks / s.plan.c + 1) * s.plan.c) := by
    rw [s.nextStart_within_step hlate hstart, Chip.stepTime, hstep, Nat.add_assoc, Nat.add_sub_cancel_left]
    ring
  have hnow : (s.advance s.nextStart).alm.now = s.rd64 Reg.ALM_BASE_TIME_LO + 10 * ((s.ticks / s.plan.c + 1) * s.plan.c + 0) + 0 := by
    show max s.alm.now s.nextStart = _
    rw [htime]
    unfold Chip.ticks at hlt ⊢
    omega
  obtain ⟨hnext, hoff⟩ := (s.advance s.nextStart).step_offset_of_now (n := s.ticks / s.plan.c + 1) hlate hc (by omega) hnow
  exact ⟨by rw [hnext, hstep, Nat.add_assoc]; rfl, hoff⟩

/-- A step that no plan adopted late begins opens its window on a locked device, with the proposals that lapse first. -/
theorem Chip.beginStep_of_late_none (s : Chip) (r : PowerReading) (t3 : List (Nat × Bytes)) {o a n t : Chip} (hlate : s.alm.late = none)
    (ho : o = ({ s with t3seen := t3.foldl (fun m (x : Nat × Bytes) => SMap.put m x.1 x.2) s.t3seen } : Chip).closeWindow)
    (ha : a = o.setAlm (fun y => { y with stepTaken := some o.step }))
    (hn : n = ((a.each a.shps.keys Chip.switchCal).capping r).takeBuckets.clearBinding.clearMerges.setXpt (fun x => { x with exchanged := [] }))
    (ht : t = n.freshTiles) : s.beginStep r t3 = if t.locked then t.lapseDue.openWindow else t := by
  subst ho ha hn ht
  unfold Chip.beginStep
  rw [s.planSwitch_of_late_none hlate]

/-- The hashes that are due are computed, or dropped while the index is disabled. -/
theorem Chip.computeHashes_eq_each (s : Chip) : s.computeHashes
    = s.each ((s.rtb.rtes.filter (fun x => x.2.hashDue && x.2.state.live)).map (·.1))
        (fun c i => if s.pfxOn then c.hashAndLook i else c.updRte i (fun r => { r with hashDue := false })) := by
  unfold Chip.computeHashes
  cases s.pfxOn <;> rfl

/-- Queued orders, journal moves and rebuilds are each tried, or held while the State Mover opens none. -/
theorem Chip.settleOpens_eq_each (s : Chip) {a b : Chip} (ha : a = s.endStaleOrders)
    (hb : b = a.each a.rebuildOrders (fun c _ => (c.cnt Reg.SMV_REBUILDS).raise Pg.SMV 4)) : s.settleOpens
    = (b.setSmv (fun m => { m with orders := [] })).each (b.smv.orders ++ b.journalOrders ++ a.rebuildOrders)
        (if b.smvOn && !b.quiet Pg.SMV then Chip.tryOrder else Chip.holdOrder) := by
  have hon : (b.setSmv (fun m => { m with orders := [] })).smvOn = b.smvOn := rfl
  have hquiet : (b.setSmv (fun m => { m with orders := [] })).quiet Pg.SMV = b.quiet Pg.SMV := rfl
  unfold Chip.settleOpens
  dsimp only
  rw [← ha, ← hb, hon, hquiet]
  exact (apply_ite (Chip.each _ _) _ _ _).symm

/-- Each generation partition of a whole gang keeps its own Bid, sends it to its peers, and sends its Offer. -/
theorem Chip.sendBids_eq (b : Chip) : b.sendBids = if b.schOn = false then b
    else b.each (below 8 b.inGang) (fun c p => if c.gangWhole p = false then c
      else
        let n := (c.bidCount p).1
        let ctx := (c.bidCount p).2
        let m := c.gangModel p
        let d := c.setSch (fun x => { x with bids := x.bids ++ [{ step := c.step + 1, dev := c.selfDev, part := p, dst := p, count := n, ctx := ctx, model := m }] })
        (d.each (d.gangPeers p) (fun f q => f.send 4 q.1 q.2 p
          (bidMsg p f.selfDev n (f.step + 1) ctx (f.gangModel p) ((c.gang p).findIdx (fun y => y == (c.selfDev, p)))))).sendOffer p n) := by
  unfold Chip.sendBids
  simp only [Bool.not_eq_true']

/-- At its cutoff the State Mover ends what is not prepared, and the Bids and Offers go out. -/
theorem Chip.cutoff_eq (a : Chip) {b : Chip} (hb : b = a.each (a.smv.srcs.filter (fun x => x.state.unprepared)) (fun c x => c.abortSrc x St.late true)) :
    a.cutoff = b.sendBids := by
  rw [hb]
  rfl

/-- Settles O10: each command is its phase's start at the moment it names, or nothing where that moment is skipped. -/
theorem phaseCommandsActAtTheirMoment : Obligations.PhaseCommandsActAtTheirMoment := by
  intro s hruns
  refine ⟨?_, s.chip.step_offset_nextStart, ?_, ?_, ?_, ?_, ?_, ?_, ?_, ?_, ?_⟩
  · intro x c o a n t hlate hc ho ha hn ht
    have hlate' : c.alm.late = none := by rw [hc]; exact hlate
    show execBoundaryWindow x s = _
    refine s.run_to hruns ?_
    rw [← hc, c.endOldStep_of_late_none _ hlate', Chip.boundary,
      Chip.beginStep_of_late_none (c.advance c.nextStart) x.reading x.t3 hlate' ho ha hn ht]
    rfl
  · intro seeds a b d e hdue ha hb hd he
    show execComputeStart seeds s = _
    refine s.run_to hruns ?_
    rw [Chip.atMoment_due _ _ _ hdue, ← e.computeHashes_eq_each, he, hd, hb, ha]
    rfl
  · intro l a b d hdue ha hb hd
    show execExchangeStart l s = _
    refine s.run_to hruns ?_
    rw [if_neg (by simp [hdue]), Chip.atMoment_due _ _ _ hdue, hd, hb, ha]
    rfl
  · intro a b hdue ha hb
    show execSettleStart s = _
    refine s.run_to hruns ?_
    rw [Chip.atMoment_due _ _ _ hdue, Chip.settleOpens_eq_each _ ha hb]
  · intro c hdue hc
    show execVoteDeadline s = _
    refine s.run_to hruns ?_
    rw [Chip.atMoment_due _ _ _ hdue, ← hc, Chip.voteDeadline]
  · intro a b hdue ha hb
    show execSmvCutoff s = _
    refine s.run_to hruns ?_
    rw [Chip.atMoment_due _ _ _ hdue, ← ha, a.cutoff_eq hb, b.sendBids_eq]
  · intro seeds hskip
    show execComputeStart seeds s = _
    exact s.run_to hruns (Chip.atMoment_skipped _ _ _ hskip)
  · intro l hskip
    show execExchangeStart l s = _
    exact s.run_to hruns (if_pos hskip)
  · intro hskip
    constructor
    · show execSettleStart s = _
      exact s.run_to hruns (Chip.atMoment_skipped _ _ _ hskip)
    · show execVoteDeadline s = _
      exact s.run_to hruns (Chip.atMoment_skipped _ _ _ hskip)
  · intro hskip
    show execSmvCutoff s = _
    exact s.run_to hruns (Chip.atMoment_skipped _ _ _ hskip)

/-! ## Plans (R46, R48, R579) -/

/-- Withdrawing and arming a plan write registers and raise errors: nothing comes to wait. -/
@[simp] theorem Chip.calm_armPlan (s : Chip) : s.armPlan.calm = s.calm := by
  unfold Chip.armPlan
  split
  · rfl
  · split <;> simp

@[simp] theorem Chip.calm_withdrawPlan (s : Chip) : s.withdrawPlan.calm = s.calm := by
  unfold Chip.withdrawPlan
  split
  · rfl
  · simp

/-- An accepted write of a command that leaves nothing waiting is that command, with nothing waiting before. -/
theorem State.run_write_calm (s : State) (acc : Access) (pg off val : Nat) {run : Chip → Chip} (hr : s.ready = true)
    (hacc : s.chip.accepts acc pg false [] = true) (hcalm : (run s.chip).calm = s.chip.calm) :
    s.run (fun c => c.write acc pg off val false [] run) = .next { s with chip := run s.chip } :=
  s.run_calm hr (s.chip.write_accepted acc pg off val false [] run hacc) hcalm

/-- What offset X would have ended ends first where a plan adopted late switches at or before it. -/
theorem Chip.endOldStep_of_late (s : Chip) {l : LatePlan} (unfinished : List Nat) (h : s.alm.late = some l) :
    s.endOldStep unfinished = if l.moment ≤ s.atOffset s.plan.x then s.exchangeStart unfinished else s := by
  simp [Chip.endOldStep, Chip.skipped, h]

theorem Chip.planSwitch_of_late (s : Chip) {l : LatePlan} (h : s.alm.late = some l) :
    s.planSwitch = ((s.advance l.moment).setAlm (fun a => { a with late := none })).takePlan l.plan l.baseTime l.baseStep := by
  unfold Chip.planSwitch
  rw [h]

/-- Settles O11: an accepted write is its command; a late plan switches after what offset X would have ended, where its moment comes first. -/
theorem plansAreArmedWithdrawnAndSwitched : Obligations.PlansAreArmedWithdrawnAndSwitched := by
  constructor
  · intro s acc hr hacc
    constructor
    · show execPlanArm acc s = _
      exact s.run_write_calm acc Pg.ALM _ 1 hr hacc s.chip.calm_armPlan
    · show execPlanWithdraw acc s = _
      exact s.run_write_calm acc Pg.ALM _ 0 hr hacc s.chip.calm_withdrawPlan
  · intro s hruns
    constructor
    · intro hlate
      show execPlanSwitch s = _
      refine s.run_to hruns ?_
      rw [s.chip.endOldStep_of_late_none [] hlate, s.chip.planSwitch_of_late_none hlate]
    · intro l c d hlate hc hlate' hd
      show execPlanSwitch s = _
      refine s.run_to hruns ?_
      rw [s.chip.endOldStep_of_late [] hlate, ← hc, c.planSwitch_of_late hlate', ← hd, Chip.takePlan]

/-! ## The ALM_SYNC input (R59–R61, R69) -/

/-- A difference limited to 16 bits, as ALM_SYNC_STAT.DIFF shows it. -/
theorem limit_eq_max_min (d : Int) : (if d < -32767 then -32767 else if 32767 < d then 32767 else d) = max (-32767) (min 32767 d) := by
  split
  · omega
  · split <;> omega

/-- While the input is disabled, an edge shows that it is present. -/
theorem Chip.syncEdge_disabled (s : Chip) (own : Nat) (h : s.rf F.ALM_SYNC_CFG_EN = 0) : s.syncEdge own = s.wf F.ALM_SYNC_STAT_PRESENT 1 := by
  have hen : (s.wf F.ALM_SYNC_STAT_PRESENT 1).rf F.ALM_SYNC_CFG_EN = 0 := by
    rw [s.rf_wf_reg _ _ _ (by decide), h]
  unfold Chip.syncEdge
  simp only [hen, if_pos]

/-- An edge at an enabled input of a device whose time is valid: bad without a time written for it, or too far from it. -/
theorem Chip.syncEdge_valid (s c : Chip) (own : Nat) {diff : Int} (hc : c = s.wf F.ALM_SYNC_STAT_PRESENT 1) (hen : c.rf F.ALM_SYNC_CFG_EN = 1)
    (hvalid : c.alm.valid = true) (hdiff : diff = (c.rd64 Reg.ALM_SYNC_TOD_LO * 1000000000 + c.rf F.ALM_SYNC_CFG_DELAY : Nat) - (own : Int)) :
    s.syncEdge own = if c.rf F.ALM_SYNC_STAT_TOD_PENDING ≠ 1 then (c.wf F.ALM_SYNC_STAT_TOD_PENDING 0).badEdge
      else
        let d := (c.wf F.ALM_SYNC_STAT_TOD_PENDING 0).wf F.ALM_SYNC_STAT_DIFF (ofSigned 16 (max (-32767) (min 32767 diff)))
        if 1000 < diff.natAbs then d.badEdge else d.goodEdge diff := by
  have hoff : ¬ c.rf F.ALM_SYNC_CFG_EN = 0 := by omega
  unfold Chip.syncEdge
  dsimp only
  rw [← hc, if_neg hoff, ← hdiff, limit_eq_max_min]
  by_cases hpend : c.rf F.ALM_SYNC_STAT_TOD_PENDING = 1
  · simp [hpend, hvalid]
  · simp [hpend]

/-- Settles O12, by the cases of an edge: input disabled, or enabled with a valid almanac. -/
theorem syncInputEdges : Obligations.SyncInputEdges := by
  intro s hr
  have hruns : s.runs = true := (s.ready_iff.1 hr).1
  refine ⟨?_, ?_, ?_, ?_, ?_⟩
  · intro acc value hacc
    show execAlmSyncTod acc value s = _
    exact s.run_write_calm acc Pg.ALM _ _ hr hacc (by simp)
  · intro own hen
    show execAlmSyncEdge own s = _
    exact s.run_to hruns (s.chip.syncEdge_disabled own hen)
  · intro own c diff hc hen hvalid hdiff
    show execAlmSyncEdge own s = _
    exact s.run_to hruns (s.chip.syncEdge_valid c own hc hen hvalid hdiff)
  · show execAlmSyncEdgeMissed s = _
    exact s.run_to hruns rfl
  · show execHoldoverTimeout s = _
    refine s.run_to hruns ?_
    simp only [Bool.and_eq_true, decide_eq_true_eq]

/-! ## Almanac records sent (R49, R51, R53) -/

/-- A device with a master fewer than 32 hops away announces it on every link that is up. -/
theorem Chip.announceSend_of_master (s : Chip) {c : Chip} (hc : c = if s.hasMaster then s else s.elect) (hm : c.hasMaster = true)
    (hhops : c.rf F.ALM_STATE_HOPS < 32) :
    s.announceSend = c.each c.linksUp (fun c l => (c.nextSeq l 1).1.sendAlm l ((c.nextSeq l 1).1.masterRec 1 (c.nextSeq l 1).2)) := by
  unfold Chip.announceSend
  dsimp only
  rw [← hc, hm, decide_eq_true hhops]
  rfl

/-- Settles O13: each command is the sending of its records on the links it names. -/
theorem almanacRecordsSent : Obligations.AlmanacRecordsSent := by
  intro s hruns
  refine ⟨?_, ?_, ?_, ?_⟩
  · intro c hc hm hhops
    show execAnnounceSend s = _
    exact s.run_to hruns (s.chip.announceSend_of_master hc hm hhops)
  · intro t _
    show execAlmanacSyncSend t s = _
    exact s.run_to hruns rfl
  · intro t
    show execDelayRequestSend t s = _
    exact s.run_to hruns rfl
  · show execMasterLost s = _
    exact s.run_to hruns rfl

/-! ## Almanac records heard (R49, R51, R52, R54) -/

theorem Chip.announceIn_bad (s : Chip) (l : Nat) (b : Bytes) (h : (s.takeCtl l 2 b).almOk l 1 b = false) : s.announceIn l b = s.takeCtl l 2 b := by
  simp [Chip.announceIn, h]

/-- A device's own Announce that comes back to it is no candidate. -/
theorem Chip.announceIn_own (s : Chip) (l : Nat) (b : Bytes) (h : (AlmRec.ofBytes b).serial = ownSerial) : s.announceIn l b = s.takeCtl l 2 b := by
  simp [Chip.announceIn, h]

theorem Chip.syncRecIn_bad (s : Chip) (l : Nat) (b : Bytes) (rx : Stamp) (h : (s.takeCtl l 2 b).almOk l 2 b = false) :
    s.syncRecIn l b rx = s.takeCtl l 2 b := by
  simp [Chip.syncRecIn, h]

theorem Chip.delayIn_bad (s : Chip) (l : Nat) (b : Bytes) (rx tx : Stamp) (h : (s.takeCtl l 2 b).almOk l 3 b = false) :
    s.delayIn l b rx tx = s.takeCtl l 2 b := by
  simp [Chip.delayIn, h]

theorem Chip.delayReplyIn_bad (s : Chip) (l : Nat) (b : Bytes) (rx : Stamp) (h : (s.takeCtl l 2 b).almOk l 4 b = false) :
    s.delayReplyIn l b rx = s.takeCtl l 2 b := by
  simp [Chip.delayReplyIn, h]

/-- Settles O14: each record is taken from its link before it is looked at. -/
theorem badAlmanacRecordsAreDropped : Obligations.BadAlmanacRecordsAreDropped := by
  intro s l b rx tx hruns hl
  refine ⟨?_, ?_, ?_, ?_⟩
  · intro hbad
    show execAnnounce l b s = _
    exact s.runOn_to hruns hl (s.chip.announceIn_bad l b hbad)
  · intro hbad
    show execAlmanacSync l b rx s = _
    exact s.runOn_to hruns hl (s.chip.syncRecIn_bad l b rx hbad)
  · intro hbad
    show execDelayRequest l b rx tx s = _
    exact s.runOn_to hruns hl (s.chip.delayIn_bad l b rx tx hbad)
  · intro hbad
    show execDelayReply l b rx s = _
    exact s.runOn_to hruns hl (s.chip.delayReplyIn_bad l b rx hbad)

/-- What a device makes of a candidate `k` heard on link `l` (R52, R53): it elects where it has no master, follows its own master's news or a
shorter way to it, and counts a better master. -/
def Chip.rankCand (d : Chip) (l : Nat) (k : Cand) : Chip :=
  if d.hasMaster = false then d.elect
  else if d.upstream = l ∧ k.serial = d.curMaster.serial then (d.follow k (some l)).reviewOwn
  else if k.serial = d.curMaster.serial then
    (if d.isMaster = false ∧ (k.hops + 1 < d.rf F.ALM_STATE_HOPS ∨ (k.hops + 1 = d.rf F.ALM_STATE_HOPS ∧ l < d.upstream)) then d.follow k (some l) else d)
  else if k.before d.curMaster then d.countBetter k
  else d

/-- A candidate's Announce goes on to every other link where it is the master's, came from upstream, and is below 32 hops (R52). -/
def Chip.forwardAnnounce (e : Chip) (l : Nat) (r : AlmRec) (k : Cand) : Chip :=
  if e.upstream = l ∧ k.serial = e.curMaster.serial ∧ k.hops + 1 < 32 then
    e.each (e.linksUp.filter (· != l)) (fun f o => (f.nextSeq o 1).1.sendAlm o { r with hops := k.hops + 1, seq := (f.nextSeq o 1).2 })
  else e

/-- A good Announce of another device is kept as its link's candidate, ranked and forwarded. -/
theorem Chip.announceIn_good (s : Chip) {l : Nat} {b : Bytes} {c : Chip} {r : AlmRec} {k : Cand} (hc : c = s.takeCtl l 2 b) (hr : r = AlmRec.ofBytes b)
    (hok : c.almOk l 1 b = true) (hother : r.serial ≠ ownSerial) (hk : k = ⟨r.cls, r.prio, r.serial, r.device, r.hops, c.alm.now⟩) :
    s.announceIn l b = ((c.setAlm (fun a => { a with heard := a.heard.put l k })).rankCand l k).forwardAnnounce l r k := by
  subst hc hr hk
  refine (if_neg (by simp [hok, hother])).trans ?_
  simp only [Chip.rankCand, Chip.forwardAnnounce, Bool.not_eq_true', Bool.and_eq_true, Bool.or_eq_true, decide_eq_true_eq, and_assoc]

/-- A good Sync from upstream gives the offset; one from another link does nothing. -/
theorem Chip.syncRecIn_good (s : Chip) {l : Nat} {b : Bytes} {c : Chip} (rx : Stamp) (hc : c = s.takeCtl l 2 b) (hok : c.almOk l 2 b = true) :
    s.syncRecIn l b rx = if c.upstream = l then
      c.takeOffset ((rx.total : Int) - (AlmRec.ofBytes b).time.total
        - (toSigned 32 (c.rd (Reg.ALM_LNK_DELAY + 4 * l)) + toSigned 32 (c.rd (Reg.ALM_LNK_ASYM + 4 * l)) / 2)) else c := by
  unfold Chip.syncRecIn
  dsimp only
  rw [← hc, hok, Bool.true_and]
  simp only [decide_eq_true_eq]

/-- A good Delay request is answered. -/
theorem Chip.delayIn_good (s : Chip) {l : Nat} {b : Bytes} {c : Chip} (rx tx : Stamp) (hc : c = s.takeCtl l 2 b) (hok : c.almOk l 3 b = true) :
    s.delayIn l b rx tx =
      let d := if c.lnkState l = Ls.selftest then c else c.setAlm (fun a => { a with downs := a.downs.put l a.now })
      d.sendAlm l { d.masterRec 4 (le b 16 4) with time := rx, echo := tx } := by
  unfold Chip.delayIn
  dsimp only
  rw [← hc, if_pos hok]

/-- A good Delay reply to the request that is open gives the delay of its link, which is not in SELFTEST. -/
theorem Chip.delayReplyIn_good (s : Chip) {l t1 : Nat} {b : Bytes} {c : Chip} (rx : Stamp) (hc : c = s.takeCtl l 2 b) (hok : c.almOk l 4 b = true)
    (hreq : c.alm.delayReq.find l = some ((AlmRec.ofBytes b).seq, t1)) (htest : c.lnkState l ≠ Ls.selftest) :
    s.delayReplyIn l b rx = (c.setAlm (fun a => { a with delayReq := a.delayReq.del l })).wr (Reg.ALM_LNK_DELAY + 4 * l)
      (ofSigned 32 ((((rx.total : Int) - t1) - (((AlmRec.ofBytes b).echo.total : Int) - (AlmRec.ofBytes b).time.total)) / 2)) := by
  unfold Chip.delayReplyIn
  dsimp only
  rw [← hc, hok, hreq]
  simp only [if_true, if_neg htest]

/-- Settles O15, by what a good record of each type does. -/
theorem almanacRecordsTaken : Obligations.AlmanacRecordsTaken := by
  intro s l b c hruns hl hc
  refine ⟨?_, ?_, ?_, ?_, ?_⟩
  · intro r k d e hr hok hother hk hd he
    show execAnnounce l b s = _
    refine s.runOn_to hruns hl ?_
    rw [s.chip.announceIn_good hc hr hok hother hk, ← hd, Chip.rankCand, ← he, Chip.forwardAnnounce]
  · intro hown
    show execAnnounce l b s = _
    exact s.runOn_to hruns hl ((s.chip.announceIn_own l b hown).trans hc.symm)
  · intro rx hok
    show execAlmanacSync l b rx s = _
    exact s.runOn_to hruns hl (s.chip.syncRecIn_good rx hc hok)
  · intro rx tx hok
    show execDelayRequest l b rx tx s = _
    exact s.runOn_to hruns hl (s.chip.delayIn_good rx tx hc hok)
  · intro rx t1 hok hreq htest
    show execDelayReply l b rx s = _
    exact s.runOn_to hruns hl (s.chip.delayReplyIn_good rx hc hok hreq htest)

/-! ## Reads by the host (R68, R274, R546, R561) -/

/-- Both commands of a host read are that read. -/
theorem exec_hostReads (s : State) (a size : Nat) {t : Chip} (hruns : s.runs = true) (h : s.chip.hostRegRead a size = t) :
    exec (.loRegisterRead a size) s = .next { s with chip := t } ∧ exec (.clearedByRead a size) s = .next { s with chip := t } := by
  have hread : s.onChip (fun c => c.hostRegRead a size) = .next { s with chip := t } := by
    rw [State.onChip_runs s _ hruns, h]
  exact ⟨hread, hread⟩

theorem Chip.hostRegRead_d3hot (s : Chip) (a size : Nat) (h : s.d3hot = true) : s.hostRegRead a size = s := by
  simp [Chip.hostRegRead, h]

theorem Chip.hostRegRead_unserved (s : Chip) (a size : Nat) (hd : s.d3hot = false) (hs : served a size = false) :
    s.hostRegRead a size = (s.logWrite .host a 0 5).emit (.regData 0) := by
  simp [Chip.hostRegRead, hd, hs]

theorem Chip.hostRegRead_four (s : Chip) (a : Nat) (hd : s.d3hot = false) (hs : served a 4 = true) :
    s.hostRegRead a 4 = (s.afterRead a).emit (.regData (s.readValue a)) := by
  simp [Chip.hostRegRead, hd, hs, Chip.readRegs, Chip.readReg]

theorem Chip.hostRegRead_eight (s : Chip) (a : Nat) (hd : s.d3hot = false) (hs : served a 8 = true) : s.hostRegRead a 8
    = ((s.afterRead a).afterRead (a + 4)).emit (.regData (s.readValue a + (s.afterRead a).readValue (a + 4) * 2 ^ 32)) := by
  simp [Chip.hostRegRead, hd, hs, Chip.readRegs, Chip.readReg]

/-- What a read of a page that is up leaves: the HI register latched, a report cleared, or everything as it was. -/
theorem Chip.afterRead_of_pageUp (s : Chip) {a : Nat} (hup : s.pageUp (a / 0x1000) = true) : s.afterRead a
    = if a ∈ almLo then s.setAlm (fun x => { x with loLatch := x.loLatch.put (a + 4) (s.view (a + 4)) })
      else if a = Reg.PWR_PEAK_W then s.wr a 0
      else if a % 0x1000 = Reg.SDG_REF_STAT ∧ 104 ≤ a / 0x1000 ∧ a / 0x1000 < 128 then s.wf (F.SDG_REF_STAT_MAXC.on (a / 0x1000)) 0
      else s := by
  simp only [Chip.afterRead, hup, Bool.not_true, Bool.false_eq_true, if_false, List.contains_iff_mem, Bool.and_eq_true, decide_eq_true_eq, and_assoc]
  rfl

/-- The HI register of an almanac LO register lies on the same page. -/
theorem almLo_page {a : Nat} (h : a ∈ almLo) : (a + 4) / 0x1000 = a / 0x1000 :=
  (by decide : ∀ a ∈ almLo, (a + 4) / 0x1000 = a / 0x1000) a h

/-- A HI register that is latched reads as its latched value. -/
theorem Chip.readValue_latched (s : Chip) {a : Nat} (v : Nat) (hup : s.pageUp (a / 0x1000) = true) :
    (s.setAlm (fun x => { x with loLatch := x.loLatch.put a v })).readValue a = v := by
  have hup' : (s.setAlm (fun x => { x with loLatch := x.loLatch.put a v })).pageUp (a / 0x1000) = true := hup
  simp [Chip.readValue, hup']

/-- Settles O16, by the cases of a host read: D3hot, not served, one word, two words. -/
theorem registerReadsAnswerLatchAndClear : Obligations.RegisterReadsAnswerLatchAndClear := by
  intro s a size hruns
  refine ⟨?_, ?_, ?_, ?_⟩
  · intro hd
    exact exec_hostReads s a size hruns (s.chip.hostRegRead_d3hot a size hd)
  · intro hd hs
    exact exec_hostReads s a size hruns (s.chip.hostRegRead_unserved a size hd hs)
  · intro hd hs hup t ht
    have hread : s.chip.hostRegRead a 4 = t.emit (.regData (s.chip.readValue a)) := by
      rw [s.chip.hostRegRead_four a hd hs, s.chip.afterRead_of_pageUp hup, ht]
    obtain ⟨hlo, hclear⟩ := exec_hostReads s a 4 hruns hread
    refine ⟨hlo, hclear, fun hmem => ?_⟩
    rw [ht, if_pos hmem]
    exact s.chip.readValue_latched _ (by rwa [almLo_page hmem])
  · intro hd hs
    exact (exec_hostReads s a 8 hruns (s.chip.hostRegRead_eight a hd hs)).1

end Sys2Proof.Machine
end

section
/-! Request state (R72–R106) and the queues of the host (R435–R446): the descriptors, doorbells and vectors of the host, the journals that a partner
keeps, and what a home and an origin make of the records they hear. -/

namespace Sys2Proof.Machine

open Sys2Proof

/-! ## Command registers (R545) -/

theorem Chip.takes_iff (s : Chip) (a : Access) (pg : Nat) (shared : Bool) (parts : List Nat) :
    s.takes a pg shared parts = true ↔ s.accepts a pg shared parts = true ∧ s.draining pg = false := by
  simp [Chip.takes]

/-- A write that a command register takes is its command. -/
theorem Chip.command_taken (s : Chip) {a : Access} {pg : Nat} {shared : Bool} {parts : List Nat} (off val : Nat) (excluded run : Chip → Chip)
    (h : s.takes a pg shared parts = true) : s.command a pg off val shared parts excluded run = run s := by
  obtain ⟨hacc, hdrain⟩ := (s.takes_iff a pg shared parts).1 h
  exact s.command_accepted a pg off val shared parts excluded run hacc hdrain

/-! ## Descriptors (R437, R439) -/

/-- A descriptor that is refused as a Submit (R437): its OPCODE is not 1, or its lengths break R81. -/
abbrev badSubmit (d : Bytes) : Prop := le d 0 1 ≠ 1 ∨ badLengths (le d 16 4) (le d 20 4) = true

/-- The submission that a descriptor read from queue `q` makes, refused with code `r` or not yet. -/
def Chip.submission (s : Chip) (q : Nat) (d : Bytes) (r : Option Nat) : Submission :=
  { num := s.cxl.subNum, qid := q, dclass := le d 2 1 % 16, profile := le d 3 1, model := le d 4 2, adapter := le d 6 2, ring := le d 8 2
    tenant := le d 12 4, promptLen := le d 16 4, maxNew := le d 20 4, addr := le d 24 8, deadline := le d 32 8, hostTag := le d 40 8
    seed := le d 48 8, time := s.alm.now, refusal := r, tokens := [] }

/-- Reading a descriptor of a queue that exists moves its head on and reserves a CQ entry. -/
theorem Chip.descRead_of_find (s : Chip) {q : Nat} {x : QueuePair} (h : s.cxl.qps.find q = some x) : s.descRead q
    = (s.setCxl (fun c => { c with qps := c.qps.put q { x with sqHead := x.sqHead + 1, reserved := x.reserved + 1 } })).cnt Reg.CXL_SUBMITS := by
  unfold Chip.descRead
  rw [h]

/-- A queue that may not be read, a Cancel, and a good prompt that the staging store has no room for leave the descriptor where it is. -/
theorem Chip.submitRead_waits (s : Chip) {q : Nat} {d : Bytes}
    (h : s.mayRead q = false ∨ le d 0 1 = 2 ∨ (¬ badSubmit d ∧ 2 ^ 29 < s.stageUsed + 4 * le d 16 4)) : s.submitRead q d = s := by
  unfold Chip.submitRead
  refine if_pos ?_
  simpa [badSubmit, or_assoc] using h

/-- A Submit that is read joins the submissions, refused with code 6 where it is bad. -/
theorem Chip.submitRead_joins (s : Chip) {q : Nat} {d : Bytes} (hmay : s.mayRead q = true) (hop : le d 0 1 ≠ 2)
    (hroom : ¬ badSubmit d → s.stageUsed + 4 * le d 16 4 ≤ 2 ^ 29) : s.submitRead q d
      = (s.descRead q).setCxl (fun c => { c with subs := c.subs ++ [s.submission q d (if badSubmit d then some 6 else none)], subNum := c.subNum + 1 }) := by
  have hread : ¬ (s.mayRead q = false ∨ le d 0 1 = 2 ∨ (¬ badSubmit d ∧ 2 ^ 29 < s.stageUsed + 4 * le d 16 4)) := by
    rintro (hno | htwo | ⟨hgood, hfull⟩)
    · exact absurd hmay (by simp [hno])
    · exact hop htwo
    · exact absurd (hroom hgood) (by omega)
  unfold Chip.submitRead
  refine (if_neg (by simpa [badSubmit, or_assoc] using hread)).trans ?_
  simp [Chip.submission, badSubmit]

/-- A queue that may not be read and another descriptor than a Cancel leave everything as it is. -/
theorem Chip.cancelRead_waits (s : Chip) {q : Nat} {d : Bytes} (h : s.mayRead q = false ∨ le d 0 1 ≠ 2) : s.cancelRead q d = s := by
  unfold Chip.cancelRead
  refine if_pos ?_
  simpa using h

section cancel

variable (s : Chip) {q : Nat} {d : Bytes} {c : Chip} (hmay : s.mayRead q = true) (hop : le d 0 1 = 2) (hc : s.descRead q = c)
include hmay hop hc

/-- A Cancel by RID that finds no locator entry is answered not found. -/
theorem Chip.cancelRead_unknown (hrid : bit (le d 1 1) 0 = false) (hloc : c.locator (le d 48 8) = none) :
    s.cancelRead q d = c.cqWrite q 2 1 (le d 40 8) (le d 48 8) := by
  simp [Chip.cancelRead, hmay, hop, hc, hrid, hloc]

/-- A Cancel by the RID of a live request goes to its home. -/
theorem Chip.cancelRead_live {l : Locator} (hrid : bit (le d 1 1) 0 = false) (hloc : c.locator (le d 48 8) = some l) (hlive : l.state = 1) :
    s.cancelRead q d = (c.sendCancel l (((c.cxl.qps.find q).map (·.partition)).getD 0)).cqWrite q 2 0 (le d 40 8) (le d 48 8) := by
  simp [Chip.cancelRead, hmay, hop, hc, hrid, hloc, hlive]

/-- A Cancel by HOST_TAG takes the submission away with any offer of it, and completes both. -/
theorem Chip.cancelRead_tagged {b : Submission} (htag : bit (le d 1 1) 0 = true)
    (hsub : c.cxl.subs.find? (fun b => b.qid == q && b.hostTag == le d 40 8) = some b) : s.cancelRead q d
      = (((c.each (c.rtb.offers.filter (fun o => o.sub.num == b.num)) Chip.dropOffer).dropSub b).cqWrite q 1 3 (le d 40 8) 0).cqWrite q 2 0 (le d 40 8) (le d 48 8) := by
  simp [Chip.cancelRead, hmay, hop, hc, htag, hsub]

end cancel

/-! ## Doorbells and vectors (R441, R446) -/

/-- A doorbell write that the page takes is its doorbell. -/
theorem Chip.doorbell_taken (s : Chip) {acc : Access} (off val : Nat) (run : Chip → Chip) (h : s.takes acc Pg.CXL false [] = true) :
    s.doorbell acc off val run = run s := s.command_taken off val id run h

theorem Chip.sqTail_eq (s : Chip) (n i : Nat) : s.sqTail n i = match s.cxl.qps.find n with
    | none => s.raise Pg.CXL 2
    | some x =>
      if x.sqEntries ≤ i ∨ x.sqEntries < ringCount x.sqTail x.sqEntries i - x.sqHead then s.raise Pg.CXL 2
      else s.setCxl (fun c => { c with qps := c.qps.put n { x with sqTail := ringCount x.sqTail x.sqEntries i } }) := by
  unfold Chip.sqTail
  cases s.cxl.qps.find n with
  | none => rfl
  | some x => simp [Chip.doorbellBad]

theorem Chip.cqHead_eq (s : Chip) (n i : Nat) : s.cqHead n i = match s.cxl.qps.find n with
    | none => s.raise Pg.CXL 2
    | some x =>
      if x.cqEntries ≤ i ∨ x.cqTail < ringCount x.cqHead x.cqEntries i then s.raise Pg.CXL 2
      else s.setCxl (fun c => { c with qps := c.qps.put n { x with cqHead := ringCount x.cqHead x.cqEntries i } }) := by
  unfold Chip.cqHead
  cases s.cxl.qps.find n with
  | none => rfl
  | some x => simp [Chip.doorbellBad]

theorem Chip.emitHead_eq (s : Chip) (n i : Nat) : s.emitHead n i = match s.ring n with
    | none => s.raise Pg.CXL 2
    | some x =>
      if x.entries ≤ i ∨ x.tail < ringCount x.head x.entries i then s.raise Pg.CXL 2
      else (s.setRing n { x with head := ringCount x.head x.entries i }).drain := by
  unfold Chip.emitHead
  cases s.ring n with
  | none => rfl
  | some x => simp [Chip.doorbellBad]

/-- COAL_USEC of an emit ring signals the records that it has not signalled yet. -/
theorem Chip.coalesceExpired_ring (s : Chip) (n : Nat) : s.coalesceExpired true n = match s.ring n with
    | some x => if x.unsig ≠ 0 ∧ x.coalUsec ≠ 0 then (s.setRing n { x with unsig := 0 }).msix x.vector else s
    | none => s := by
  refine (if_pos rfl).trans ?_
  cases s.ring n with
  | none => rfl
  | some x => simp only [Bool.and_eq_true, decide_eq_true_eq]

/-- COAL_USEC of a CQ does the same. -/
theorem Chip.coalesceExpired_cq (s : Chip) (n : Nat) : s.coalesceExpired false n = match s.cxl.qps.find n with
    | some x =>
      if x.unsig ≠ 0 ∧ x.coalUsec ≠ 0 then (s.setCxl (fun c => { c with qps := c.qps.put n { x with unsig := 0 } })).msix x.vector else s
    | none => s := by
  refine (if_neg Bool.false_ne_true).trans ?_
  cases s.cxl.qps.find n with
  | none => rfl
  | some x => simp only [Bool.and_eq_true, decide_eq_true_eq]

/-- Settles O43, by the commands in turn. -/
theorem descriptorsAndDoorbells : Obligations.DescriptorsAndDoorbells := by
  intro s hruns
  refine ⟨?_, ?_, ?_, ?_, ?_, ?_⟩
  · intro q d x hq bad read
    have hread : s.chip.descRead q = read := s.chip.descRead_of_find hq
    refine ⟨?_, ?_, ?_, ?_, ?_, ?_⟩
    · intro h
      show execSubmitRead q d s = _
      exact s.run_to hruns (s.chip.submitRead_waits h)
    · intro r hmay hop hbad hgood
      have hr : r = if badSubmit d then some 6 else none := by
        split
        · next h => exact hbad h
        · next h => exact (hgood h).1
      show execSubmitRead q d s = _
      refine s.run_to hruns ?_
      rw [s.chip.submitRead_joins hmay hop (fun h => (hgood h).2), hread, ← hr]
      rfl
    · intro h
      show execCancelRead q d s = _
      exact s.run_to hruns (s.chip.cancelRead_waits h)
    · intro hmay hop hrid hloc
      show execCancelRead q d s = _
      exact s.run_to hruns (s.chip.cancelRead_unknown hmay hop hread hrid hloc)
    · intro l hmay hop hrid hloc hlive
      show execCancelRead q d s = _
      exact s.run_to hruns (s.chip.cancelRead_live hmay hop hread hrid hloc hlive)
    · intro b hmay hop htag hsub
      show execCancelRead q d s = _
      exact s.run_to hruns (s.chip.cancelRead_tagged hmay hop hread htag hsub)
  · intro num tokens
    show execPromptCopied num tokens s = _
    refine s.run_to hruns ?_
    simp only [Chip.promptCopied, Bool.and_eq_true, decide_eq_true_eq, Option.isNone_iff_eq_none]
  · intro acc n i htakes
    refine ⟨?_, ?_, ?_⟩
    · show execSqTailDoorbell acc n i s = _
      exact s.run_to hruns ((s.chip.doorbell_taken _ i _ htakes).trans (s.chip.sqTail_eq n i))
    · show execCqHeadDoorbell acc n i s = _
      exact s.run_to hruns ((s.chip.doorbell_taken _ i _ htakes).trans (s.chip.cqHead_eq n i))
    · show execEmitHeadDoorbell acc n i s = _
      exact s.run_to hruns ((s.chip.doorbell_taken _ i _ htakes).trans (s.chip.emitHead_eq n i))
  · intro n
    constructor
    · show execCoalesceTimeout true n s = _
      exact s.run_to hruns (s.chip.coalesceExpired_ring n)
    · show execCoalesceTimeout false n s = _
      exact s.run_to hruns (s.chip.coalesceExpired_cq n)
  · intro v
    show execVectorUnmask (some v) s = _
    exact s.run_to hruns rfl
  · show execVectorUnmask none s = _
    exact s.run_to hruns rfl

/-! ## Journal records (R91) -/

theorem badRecord_iff (b : Bytes) (type : Nat) : badRecord b type = true ↔ le b 0 1 ≠ type ∨ b.length < recordSize b := by
  simp [badRecord]

/-- A record of its TYPE that arrived whole can be read. -/
theorem badRecord_of_whole {b : Bytes} {type : Nat} (hsize : recordSize b ≤ b.length) (htype : le b 0 1 = type) : badRecord b type = false := by
  simp [badRecord, hsize, htype]

/-- A command on a module that runs that takes a journal record from those delivered. -/
theorem State.run_record (s : State) {src : MsgSrc} {b : Bytes} {c t : Chip} (f : Chip → Chip) (hruns : s.runs = true) (hc : c = s.chip.take 2 src b)
    (ht : f c = t) : s.run (fun x => f (x.take 2 src b)) = .next { s with chip := t.settle } := by
  refine s.run_to hruns ?_
  rw [← hc, ht]

/-! ## The journal partner (R92, R93, R98) -/

theorem Chip.anchorRecord_bad (s : Chip) (src : MsgSrc) {b : Bytes} (h : badRecord b 1 = true) : s.anchorRecord src b = s.raise Pg.RTB 2 := if_pos h

theorem Chip.tokenRunRecord_bad (s : Chip) (src : MsgSrc) {b : Bytes} (h : badRecord b 2 = true) : s.tokenRunRecord src b = s.raise Pg.RTB 2 := if_pos h

theorem Chip.endRecordIn_bad (s : Chip) (src : MsgSrc) {b : Bytes} (h : badRecord b 4 = true) : s.endRecordIn src b = s.raise Pg.RTB 2 := if_pos h

/-- The partner's answer to an anchor that it can read: where it has journaled the request, or whether it can. -/
theorem Chip.anchorRecord_whole (s : Chip) (src : MsgSrc) {b : Bytes} (h : badRecord b 1 = false) : s.anchorRecord src b
    = if s.isPartner = false then s.ackJournal src 3 0xFFFFFFFF (le b 8 8)
      else match s.journal (le b 8 8) with
      | some j => s.ackJournal src 0 j.position (le b 8 8)
      | none =>
        let u := ceilDiv (128 + 4 * anchorMax b) 4096
        if u ≤ s.jrnFree then
          ({ s with rtb := { s.rtb with journals := s.rtb.journals ++ [{ rid := le b 8 8, anchor := padTo 128 b, tokens := [], units := u }] } } : Chip).ackJournal
            src 0 0xFFFFFFFF (le b 8 8)
        else s.ackJournal src 1 0xFFFFFFFF (le b 8 8) := by
  refine (if_neg (by simp [h])).trans ?_
  dsimp only
  cases s.isPartner with
  | false => rfl
  | true =>
    cases s.journal (le b 8 8) with
    | some j => rfl
    | none =>
      by_cases hroom : ceilDiv (128 + 4 * anchorMax b) 4096 ≤ s.jrnFree
      · simp [Chip.reserveJournal, hroom]
      · simp [Chip.reserveJournal, hroom]

/-- The partner's answer to a token run that it can read. -/
theorem Chip.tokenRunRecord_whole (s : Chip) (src : MsgSrc) {b : Bytes} (h : badRecord b 2 = false) : s.tokenRunRecord src b
    = if s.isPartner = false then s.ackJournal src 3 0xFFFFFFFF (le b 8 8)
      else match s.journal (le b 8 8) with
      | none => s.ackJournal src 2 0xFFFFFFFF (le b 8 8)
      | some j =>
        if anchorMax j.anchor < le b 4 4 + le b 2 2 then s.ackJournal src 1 j.position (le b 8 8)
        else (s.updJournal (le b 8 8) (fun x => x.store b)).ackJournal src 0 (j.store b).position (le b 8 8) := by
  refine (if_neg (by simp [h])).trans ?_
  dsimp only
  cases s.isPartner with
  | false => rfl
  | true =>
    cases s.journal (le b 8 8) with
    | none => rfl
    | some j => simp [Journal.beyond]

/-- The partner's answer to an End record that it can read. -/
theorem Chip.endRecordIn_whole (s : Chip) (src : MsgSrc) {b : Bytes} (h : badRecord b 4 = false) : s.endRecordIn src b
    = if s.isPartner = false then s.ackJournal src 3 0xFFFFFFFF (le b 8 8)
      else match s.journal (le b 8 8) with
      | none => s.ackJournal src 2 0xFFFFFFFF (le b 8 8)
      | some j => (s.updJournal (le b 8 8) (fun x => { x with ended := true, endedStep := s.step })).ackJournal src 0 j.position (le b 8 8) := by
  refine (if_neg (by simp [h])).trans ?_
  dsimp only
  cases s.isPartner with
  | false => rfl
  | true => cases s.journal (le b 8 8) <;> rfl

/-- Settles O47, by what the partner makes of a record it cannot read and of one that it can. -/
theorem partnersKeepJournals : Obligations.PartnersKeepJournals := by
  intro s src b c rid hruns hc hrid
  subst hrid
  refine ⟨?_, ?_, ?_, ?_⟩
  · intro hbad
    show execAnchorRecord src b s = _
    exact s.run_record (fun c => c.anchorRecord src b) hruns hc (c.anchorRecord_bad src ((badRecord_iff b 1).2 hbad))
  · intro hbad
    show execTokenRunRecord src b s = _
    exact s.run_record (fun c => c.tokenRunRecord src b) hruns hc (c.tokenRunRecord_bad src ((badRecord_iff b 2).2 hbad))
  · intro hbad
    show execEndRecord src b s = _
    exact s.run_record (fun c => c.endRecordIn src b) hruns hc (c.endRecordIn_bad src ((badRecord_iff b 4).2 hbad))
  · intro hsize
    refine ⟨?_, ?_, ?_⟩
    · intro htype
      show execAnchorRecord src b s = _
      exact s.run_record (fun c => c.anchorRecord src b) hruns hc (c.anchorRecord_whole src (badRecord_of_whole hsize htype))
    · intro htype
      show execTokenRunRecord src b s = _
      exact s.run_record (fun c => c.tokenRunRecord src b) hruns hc (c.tokenRunRecord_whole src (badRecord_of_whole hsize htype))
    · intro htype
      show execEndRecord src b s = _
      exact s.run_record (fun c => c.endRecordIn src b) hruns hc (c.endRecordIn_whole src (badRecord_of_whole hsize htype))

/-! ## Acknowledgements at the home (R90, R94–R96) -/

/-- An Acknowledgement with status 0 of an anchor on offer marks its offer accepted. -/
theorem Chip.ackRecordIn_accepts (s : Chip) (src : MsgSrc) {b : Bytes} {o : Offer} (hok : badRecord b 5 = false) (hstatus : le b 1 1 = 0)
    (hoffer : s.rtb.offers.find? (fun o => o.rid == le b 8 8 && o.candidate == src.dev && !o.accepted && !o.carried) = some o) : s.ackRecordIn src b
      = { s with rtb := { s.rtb with offers := s.rtb.offers.map (fun x => if x.rid = o.rid then { x with accepted := true } else x) } } := by
  simp [Chip.ackRecordIn, hok, hoffer, Chip.offerAnswered, hstatus]

/-- With no anchor on offer and none that counted as refused, an Acknowledgement is its partner's answer to the home of a request. -/
theorem Chip.ackRecordIn_partner (s : Chip) (src : MsgSrc) {b : Bytes} {i : Nat} {r : Rte} (hok : badRecord b 5 = false) (hoffers : s.rtb.offers = [])
    (hlate : s.rtb.lateAcks = []) (hknown : s.findRid (le b 8 8) = some (i, r)) (hpartner : r.jrnPartner = src.dev) (hhome : r.state ≠ RState.forward) :
    s.ackRecordIn src b = s.partnerAnswered i r (le b 1 1) (le b 4 4) := by
  simp [Chip.ackRecordIn, hok, hoffers, hlate, hknown, hpartner, hhome]

/-! ## Home records (R98, R103) -/

/-- A partner that is not the request's origin takes a Home record into its journal. -/
theorem Chip.homeRecordIn_held (s : Chip) (src : MsgSrc) {b : Bytes} {j : Journal} (hok : badRecord b 3 = false) (hheld : s.journal (le b 8 8) = some j)
    (horigin : ridOrigin (le b 8 8) ≠ (s.homeAtPartner b).selfDev) : s.homeRecordIn src b = s.homeAtPartner b := by
  simp [Chip.homeRecordIn, hok, hheld, horigin]

/-- Without a journal of it, a Home record is its origin's, or is answered as R93 says. -/
theorem Chip.homeRecordIn_unheld (s : Chip) (src : MsgSrc) {b : Bytes} (hok : badRecord b 3 = false) (hnone : s.journal (le b 8 8) = none) : s.homeRecordIn src b
    = if ridOrigin (le b 8 8) = s.selfDev then s.homeAtOrigin src b
      else s.ackJournal src (if s.isPartner then 2 else 3) 0xFFFFFFFF (le b 8 8) := by
  simp [Chip.homeRecordIn, hok, hnone]

/-- The origin puts the new home into the locator entry that it has, and sends a pending cancellation there. -/
theorem Chip.homeAtOrigin_eq (s : Chip) (src : MsgSrc) (b : Bytes) : s.homeAtOrigin src b = match s.locator (le b 8 8) with
    | none => s
    | some l =>
      let d : Chip := { s with rtb := { s.rtb with locators := s.rtb.locators.put (locIdx (le b 8 8)) { l with device := le b 2 2, part := le b 1 1 } } }
      match d.locator (le b 8 8) with
      | some l => if l.cancel then d.sendCancel l src.dstPart else d
      | none => d := by
  unfold Chip.homeAtOrigin Chip.updLocator
  dsimp only
  cases h : s.locator (le b 8 8) with
  | none => simp only [h]
  | some l => rfl

/-! ## Cancel records (R99) -/

/-- What a Cancel record does to a request: unknown, a stub, live, or ended. -/
theorem Chip.cancelRecordIn_whole (s : Chip) (src : MsgSrc) {b : Bytes} (hok : badRecord b 8 = false) : s.cancelRecordIn src b
    = match s.findKnown (le b 8 8) with
      | none => s.replyCommand (le b 8 8) 8 src none
      | some (i, r) =>
        if r.state = RState.forward then s.replyCommand (le b 8 8) 8 src (some r)
        else if r.state.live then (s.putRte i { r with flags := { r.flags with cancelReq := true } }).endNow i 3
        else s :=
  if_neg (by simp [hok])

/-! ## Emit and Finish records at the origin (R443) -/

theorem Chip.emitRecordIn_whole (s : Chip) {b : Bytes} (hok : badRecord b 6 = false) : s.emitRecordIn b
    = s.takeEmit { finish := false, ring := le b 2 2, flags := le b 1 1, token := le b 4 4, hostTag := le b 8 8, rid := le b 16 8, position := le b 24 4
                   stepLo := le b 28 4 } := if_neg (by simp [hok])

theorem Chip.finishRecordIn_whole (s : Chip) {b : Bytes} (hok : badRecord b 7 = false) : s.finishRecordIn b
    = s.takeFinish { finish := true, ring := le b 2 2, flags := le b 1 1, token := 0, hostTag := le b 8 8, rid := le b 16 8, position := le b 4 4
                     stepLo := le b 24 4 } := if_neg (by simp [hok])

theorem Chip.takeEmit_orphan (s : Chip) {h : HeldEmit} (hloc : s.locator h.rid = none) : s.takeEmit h = (s.cnt Reg.CXL_EMIT_ORPHAN).raise Pg.CXL 4 := by
  simp [Chip.takeEmit, hloc]

theorem Chip.takeEmit_duplicate (s : Chip) {h : HeldEmit} (hloc : s.locator h.rid ≠ none) (hpos : h.position ≤ s.emitted h.rid) :
    s.takeEmit h = s.cnt Reg.CXL_EMIT_DUP := by
  obtain ⟨l, hl⟩ := Option.ne_none_iff_exists'.1 hloc
  simp [Chip.takeEmit, hl, hpos]

/-- An Emit beyond the emitted position is written where its turn has come, and else held. -/
theorem Chip.takeEmit_new (s : Chip) {h : HeldEmit} {l : Locator} (hloc : s.locator h.rid = some l) (hpos : s.emitted h.rid < h.position)
    (hring : s.ringGone h.ring = false) : s.takeEmit h = if s.heldReady h then (s.writeEmit h).drain else s.holdEmit h := by
  simp [Chip.takeEmit, hloc, Nat.not_le.2 hpos, hring]

theorem Chip.takeFinish_orphan (s : Chip) {h : HeldEmit} (hloc : s.locator h.rid = none) : s.takeFinish h = s.cnt Reg.CXL_EMIT_ORPHAN := by
  simp [Chip.takeFinish, hloc]

/-- A Finish of a status other than 8 is written where its turn has come, and else held. -/
theorem Chip.takeFinish_new (s : Chip) {h : HeldEmit} {l : Locator} (hloc : s.locator h.rid = some l) (hring : s.ringGone h.ring = false)
    (hstatus : h.flags ≠ 8) : s.takeFinish h
      = if s.heldReady h then s.writeCompletion h else (s.updLocator h.rid (fun l => { l with state := 2 })).holdEmit h := by
  simp [Chip.takeFinish, hloc, hring, hstatus]

/-! ## Anchors on offer (R90) -/

/-- An anchor that is not on offer to the candidate has no timeout. -/
theorem Chip.anchorTimeout_none (s : Chip) {rid cand : Nat}
    (h : s.rtb.offers.find? (fun o => o.rid == rid && o.candidate == cand && !o.accepted && !o.carried) = none) : s.anchorTimeout rid cand = s := by
  simp [Chip.anchorTimeout, h]

/-- The candidate of an offer counts as refusing, and its late answer is remembered. -/
def Chip.expectLate (s : Chip) (o : Offer) : Chip := { s with rtb := { s.rtb with lateAcks := s.rtb.lateAcks ++ [(o.rid, o.candidate)] } }

/-- The offer is off the list. -/
def Chip.takeOffer (s : Chip) (o : Offer) : Chip := { s with rtb := { s.rtb with offers := s.rtb.offers.filter (fun x => x.rid != o.rid) } }

/-- The offer with its candidate among those tried. -/
def Offer.refused (o : Offer) : Offer := { o with tried := o.tried ++ [o.candidate] }

section timeout

variable (s : Chip) {rid cand : Nat} {o : Offer}
  (hoffer : s.rtb.offers.find? (fun o => o.rid == rid && o.candidate == cand && !o.accepted && !o.carried) = some o)
include hoffer

/-- Outside row 11 the offer waits for the next one. -/
theorem Chip.anchorTimeout_carries (hrow : s.alm.row ≠ 11) : s.anchorTimeout rid cand
    = let c := s.expectLate o
      { c with rtb := { c.rtb with offers := c.rtb.offers.map (fun x => if x.rid = o.rid then { o.refused with carried := true } else x) } } := by
  simp [Chip.anchorTimeout, hoffer, Chip.candidateRefuses, hrow, Chip.expectLate, Offer.refused]

/-- In row 11 it is offered again at once. -/
theorem Chip.anchorTimeout_offersAgain (hrow : s.alm.row = 11) : s.anchorTimeout rid cand = (s.expectLate o).offerAgain o.refused := by
  simp [Chip.anchorTimeout, hoffer, Chip.candidateRefuses, hrow, Chip.expectLate, Offer.refused]

end timeout

/-- An offer of a partition that takes no new request is given up with code 7. -/
theorem Chip.offerAgain_refused (s : Chip) (o : Offer) (h : s.takesNew o.partition = false) :
    s.offerAgain o = ((s.takeOffer o).freeObjs o.partition o.rid).refuseSub o.sub 7 := if_pos (by simp [h])

theorem Chip.offerAgain_takesNew (s : Chip) (o : Offer) (h : s.takesNew o.partition = true) : s.offerAgain o = (s.takeOffer o).offerNext o :=
  if_neg (by simp [h])

theorem Chip.offerNext_of_nil (s : Chip) (o : Offer) (h : s.partnerCands o.partition (ridComp o.rid) o.tried = []) :
    s.offerNext o = (s.freeObjs o.partition o.rid).refuseSub o.sub 5 := by
  simp [Chip.offerNext, h]

theorem Chip.offerNext_of_cons (s : Chip) (o : Offer) {q : Nat} {qs : List Nat} {r : Rte}
    (h : s.partnerCands o.partition (ridComp o.rid) o.tried = q :: qs) (hr : r = { o.rte with jrnPartner := q, admitStep := s.step }) :
    s.offerNext o = ({ s with rtb := { s.rtb with offers := s.rtb.offers ++ [{ o with candidate := q, rte := r, carried := false }] } } : Chip).toPartner r
      (anchorOf r s.selfDev) := by
  subst hr
  simp only [Chip.offerNext, h]
  rfl

/-! ## Registers that act when written (R72, R85, R106) -/

theorem Chip.serialWrite_accepted (s : Chip) {acc : Access} (v : Nat) (h : s.accepts acc Pg.RTB false [] = true) :
    s.serialWrite acc v = (s.wr Reg.RTB_SERIAL (v % 2 ^ 32)).wf F.RTB_CFG_SERIAL_VALID 1 :=
  s.write_accepted acc Pg.RTB _ v false [] _ h

theorem b2n_mul (x : Bool) (n : Nat) : b2n x * n = if x then n else 0 := by
  cases x <;> simp [b2n]

/-- May a writer not name the partition whose range holds an index? -/
def Chip.peekDenied (s : Chip) (w : Writer) (i : Nat) : Bool :=
  match s.rangeOwner i with
  | some p => !s.mayName w p
  | none => false

theorem Chip.peekIdxWrite_accepted (s : Chip) {acc : Access} (v : Nat) (h : s.accepts acc Pg.RTB false [] = true) : s.peekIdxWrite acc v
    = ({ s with rtb := { s.rtb with peek := if s.peekDenied acc.writer (bits v 17 0) then [] else ((s.rte (bits v 17 0)).map Rte.toBytes).getD [] } } : Chip).wr
        Reg.RTB_PEEK_IDX (bits v 17 0 + (if s.peekDenied acc.writer (bits v 17 0) then 2 ^ 31 else 0)) := by
  refine (s.write_accepted acc Pg.RTB _ v false [] _ h).trans ?_
  rw [← b2n_mul]
  rfl

/-- Settles O48, by the commands in turn. -/
theorem homesAndOriginsHearRecords : Obligations.HomesAndOriginsHearRecords := by
  intro s hruns
  refine ⟨?_, ?_, ?_, ?_⟩
  · intro src b c hc hsize
    have hok : ∀ {type : Nat}, le b 0 1 = type → badRecord b type = false := badRecord_of_whole hsize
    refine ⟨?_, ?_, ?_, ?_, ?_, ?_, ?_, ?_, ?_⟩
    · intro htype i r hoffers hlate hknown hpartner hhome
      show execAcknowledgementRecord src b s = _
      exact s.run_record (fun c => c.ackRecordIn src b) hruns hc (c.ackRecordIn_partner src (hok htype) hoffers hlate hknown hpartner hhome)
    · intro htype hstatus o hoffer
      show execAcknowledgementRecord src b s = _
      exact s.run_record (fun c => c.ackRecordIn src b) hruns hc (c.ackRecordIn_accepts src (hok htype) hstatus hoffer)
    · intro htype hheld d e hd he horigin
      obtain ⟨j, hj⟩ := hheld
      have hhome : c.homeAtPartner b = e := by rw [he, hd]; rfl
      show execHomeRecord src b s = _
      exact s.run_record (fun c => c.homeRecordIn src b) hruns hc ((c.homeRecordIn_held src (hok htype) hj (by rwa [hhome])).trans hhome)
    · intro htype hnone
      have hnojrn : c.journal (le b 8 8) = none := by simp [Chip.journal, hnone]
      show execHomeRecord src b s = _
      refine s.run_record (fun c => c.homeRecordIn src b) hruns hc ?_
      rw [c.homeRecordIn_unheld src (hok htype) hnojrn, c.homeAtOrigin_eq]
      rfl
    · intro htype
      show execCancelRecord src b s = _
      exact s.run_record (fun c => c.cancelRecordIn src b) hruns hc (c.cancelRecordIn_whole src (hok htype))
    · intro htype
      constructor
      · intro hloc
        show execEmitRecord src b s = _
        exact s.run_record (fun c => c.emitRecordIn b) hruns hc ((c.emitRecordIn_whole (hok htype)).trans (c.takeEmit_orphan hloc))
      · intro hloc hpos
        show execEmitRecord src b s = _
        exact s.run_record (fun c => c.emitRecordIn b) hruns hc ((c.emitRecordIn_whole (hok htype)).trans (c.takeEmit_duplicate hloc hpos))
    · intro htype hloc
      show execFinishRecord src b s = _
      exact s.run_record (fun c => c.finishRecordIn b) hruns hc ((c.finishRecordIn_whole (hok htype)).trans (c.takeFinish_orphan hloc))
    · intro htype l h hloc hring hstatus hh
      subst hh
      show execFinishRecord src b s = _
      exact s.run_record (fun c => c.finishRecordIn b) hruns hc ((c.finishRecordIn_whole (hok htype)).trans (c.takeFinish_new hloc hring hstatus))
    · intro htype l h hloc hpos hring hh
      subst hh
      show execEmitRecord src b s = _
      exact s.run_record (fun c => c.emitRecordIn b) hruns hc ((c.emitRecordIn_whole (hok htype)).trans (c.takeEmit_new hloc hpos hring))
  · intro rid cand hnone
    show execAnchorTimeout rid cand s = _
    exact s.run_to hruns (s.chip.anchorTimeout_none hnone)
  · intro rid cand o p c d hoffer hc hp hd
    subst hp
    have hlate : s.chip.expectLate o = c := hc.symm
    have htake : c.takeOffer o.refused = d := hd.symm
    have hagain := s.chip.anchorTimeout_offersAgain hoffer
    rw [hlate] at hagain
    refine ⟨?_, ?_, ?_, ?_⟩
    · intro hrow
      show execAnchorTimeout rid cand s = _
      refine s.run_to hruns ((s.chip.anchorTimeout_carries hoffer hrow).trans ?_)
      rw [hlate]
      rfl
    · intro hrow hno
      show execAnchorTimeout rid cand s = _
      refine s.run_to hruns ((hagain hrow).trans ((c.offerAgain_refused o.refused hno).trans ?_))
      rw [htake]
      rfl
    · intro hrow htakes hnil
      show execAnchorTimeout rid cand s = _
      refine s.run_to hruns ((hagain hrow).trans ((c.offerAgain_takesNew o.refused htakes).trans ?_))
      rw [htake]
      exact d.offerNext_of_nil o.refused hnil
    · intro q qs r hrow htakes hcons hr
      show execAnchorTimeout rid cand s = _
      refine s.run_to hruns ((hagain hrow).trans ((c.offerAgain_takesNew o.refused htakes).trans ?_))
      rw [htake]
      exact d.offerNext_of_cons o.refused hcons hr
  · intro acc v hacc
    constructor
    · show execRtbSerialWrite acc v s = _
      exact s.run_to hruns (s.chip.serialWrite_accepted v hacc)
    · show execRtbPeekIdxWrite acc v s = _
      exact s.run_to hruns (s.chip.peekIdxWrite_accepted v hacc)

end Sys2Proof.Machine
end

section
/-! Lookups (R118–R121, R130) and pins (R128): what a shard and a home make of the messages of the PFX page, and what a pin marks there. -/

namespace Sys2Proof.Machine

open Sys2Proof

/-- A command on a module that runs that takes a message of the PFX page from those delivered. -/
theorem State.run_prefixMessage (s : State) {src : MsgSrc} {b : Bytes} {c t : Chip} (f : Chip → Chip) (hruns : s.runs = true)
    (hc : c = s.chip.take 3 src b) (ht : f c = t) : s.run (fun x => f (x.take 3 src b)) = .next { s with chip := t.settle } := by
  refine s.run_to hruns ?_
  rw [← hc, ht]

/-! ## Lookups at the shard (R118, R119) -/

/-- A Lookup that R118 discards: another TYPE, more than 1,024 hashes, or fewer bytes than its COUNT requires. -/
abbrev badLookup (b : Bytes) : Prop := le b 0 1 ≠ 1 ∨ 1024 < le b 2 2 ∨ b.length < 32 + 32 * le b 2 2

/-- The hashes of a Lookup, FIRST_BLOCK first. -/
def lookupHashes (b : Bytes) : List Bytes := (List.range (le b 2 2)).map (fun k => slice b (32 + 32 * k) 32)

/-- The answer to a Lookup goes back where it came from, from the partition that it names. -/
def Chip.answerLookup (s : Chip) (src : MsgSrc) (b : Bytes) (status matched lease spans pps : Nat) : Chip :=
  s.send 3 src.dev src.part (le b 16 1) (lookupReply status matched (le b 4 4) (le b 8 8) (src.step + 2) lease spans pps)

/-- SPANS and PAGES_PER_SPAN of an entry. -/
def Chip.entryShape (s : Chip) (i : Nat) : Nat × Nat := ((s.pfx.table.find i).map (fun e => (e.spans, e.pps))).getD (0, 0)

/-- The answer of a shard that has matched the entries `got`: zeros for none, else their count, under a new lease. -/
def Chip.answerMatched (s : Chip) (src : MsgSrc) (b : Bytes) : List Nat → Chip
  | [] => s.answerLookup src b 0 0 0 0 0
  | i :: rest =>
    let y := s.takeLease src (le b 8 8) (le b 16 1) (i :: rest)
    y.1.answerLookup src b 0 (rest.length + 1) y.2 (s.entryShape i).1 (s.entryShape i).2

theorem Chip.lookupIn_bad (s : Chip) (src : MsgSrc) {b : Bytes} (h : badLookup b) : s.lookupIn src b = s.raise Pg.PFX 3 :=
  if_pos (by simpa [badLookup, or_assoc] using h)

/-- A good Lookup is answered 1 where its partition is no shard, 2 without a table, and else with what matched. -/
theorem Chip.lookupIn_good (s : Chip) (src : MsgSrc) {b : Bytes} (h : ¬ badLookup b) : s.lookupIn src b
    = if s.isShard (le b 16 1) = false then s.answerLookup src b 1 0 0 0 0
      else if s.hasTable = false then s.answerLookup src b 2 0 0 0 0
      else (Chip.matchRun (le b 16 1) (le b 1 1) (lookupHashes b) s []).1.answerMatched src b
        (Chip.matchRun (le b 16 1) (le b 1 1) (lookupHashes b) s []).2 := by
  refine (if_neg (by simpa [badLookup, or_assoc] using h)).trans ?_
  dsimp only
  cases s.isShard (le b 16 1) with
  | false => rfl
  | true =>
    cases s.hasTable with
    | false => rfl
    | true =>
      simp only [lookupHashes]
      generalize Chip.matchRun (le b 16 1) (le b 1 1) _ s [] = x
      obtain ⟨t, got⟩ := x
      cases got with
      | nil => rfl
      | cons i rest => rfl

/-! ## Replies at the home (R120, R121, R130) -/

/-- A reply that R118 discards: another TYPE, or too short. -/
abbrev badLookupReply (b : Bytes) : Prop := le b 0 1 ≠ 2 ∨ b.length < 48

/-- A request waits for the reply of a device: its lookup is out, its shard is there, and it lives. -/
abbrev Rte.awaitsReply (r : Rte) (dev : Nat) : Prop := r.lookup = 1 ∧ r.shard.1 = dev ∧ r.state.live = true

/-- A reply that no request waits for is answered with a Release of the lease that it names. -/
def Chip.releaseReplied (s : Chip) (src : MsgSrc) (b : Bytes) : Chip := s.send 3 src.dev src.part src.dstPart (releaseMsg (le b 24 4) (le b 8 8))

theorem Chip.lookupReplyIn_bad (s : Chip) (src : MsgSrc) {b : Bytes} (h : badLookupReply b) : s.lookupReplyIn src b = s.raise Pg.PFX 3 :=
  if_pos (by simpa [badLookupReply] using h)

theorem Chip.lookupReplyIn_unknown (s : Chip) (src : MsgSrc) {b : Bytes} (h : ¬ badLookupReply b) (hrid : s.findKnown (le b 8 8) = none) :
    s.lookupReplyIn src b = s.releaseReplied src b := by
  refine (if_neg (by simpa [badLookupReply] using h)).trans ?_
  simp only [hrid]
  rfl

/-- A reply that names a request known here is that request's answer where it waits for it, and else is answered with a Release. -/
theorem Chip.lookupReplyIn_known (s : Chip) (src : MsgSrc) {b : Bytes} {i : Nat} {r : Rte} (h : ¬ badLookupReply b)
    (hrid : s.findKnown (le b 8 8) = some (i, r)) : s.lookupReplyIn src b
    = if r.awaitsReply src.dev then s.lookupAnswered i r (le b 1 1) (le b 2 2) (le b 24 4) else s.releaseReplied src b := by
  refine (if_neg (by simpa [badLookupReply] using h)).trans ?_
  simp only [hrid, Bool.and_eq_true, decide_eq_true_eq, and_assoc]
  rfl

/-! ## Releases at the shard (R119) -/

/-- A Release is discarded where R118 says so, and else ends the lease that it names, if that is held. -/
theorem Chip.releaseIn_eq (s : Chip) (b : Bytes) : s.releaseIn b
    = if le b 0 1 ≠ 3 ∨ b.length < 16 then s.raise Pg.PFX 3
      else match s.pfx.leases.find? (fun l => l.id == le b 4 4) with
      | some l => (s.unref l.entries).setPfx (fun x => { x with leases := x.leases.filter (fun y => y.id != le b 4 4) })
      | none => s := by
  simp only [Chip.releaseIn, Bool.or_eq_true, decide_eq_true_eq]
  rfl

/-! ## Pins (R128) -/

/-- A write of PFX_PIN_CTRL that the page takes pins or unpins on the partition that it names. -/
theorem Chip.pinCommand_taken (s : Chip) {acc : Access} {part : Nat} (on : Bool) (hpart : part < 8)
    (h : s.takes acc Pg.PFX false [part] = true) : s.pinCommand acc part on = s.pinEntries part on := by
  unfold Chip.pinCommand
  rw [Nat.mod_eq_of_lt hpart]
  exact s.command_taken _ _ _ _ h

/-- Settles O49, by the message or command: a Lookup, a Reply, a Release, a pin. -/
theorem prefixMessagesAndPins : Obligations.PrefixMessagesAndPins := by
  intro s hruns
  constructor
  · intro src b c hc
    refine ⟨?_, ?_, ?_, ?_, ?_⟩
    · intro hbad
      show execLookup src b s = _
      exact s.run_prefixMessage (fun c => c.lookupIn src b) hruns hc (c.lookupIn_bad src hbad)
    · intro htype hcount hsize part answer hpart hanswer
      subst hpart hanswer
      have hgood : ¬ badLookup b := by simp [badLookup, htype, hcount, hsize]
      show execLookup src b s = _
      exact s.run_prefixMessage (fun c => c.lookupIn src b) hruns hc (c.lookupIn_good src hgood)
    · intro hbad
      show execLookupReply src b s = _
      exact s.run_prefixMessage (fun c => c.lookupReplyIn src b) hruns hc (c.lookupReplyIn_bad src hbad)
    · intro htype hsize
      have hgood : ¬ badLookupReply b := by simp [badLookupReply, htype, hsize]
      constructor
      · intro hrid
        show execLookupReply src b s = _
        exact s.run_prefixMessage (fun c => c.lookupReplyIn src b) hruns hc (c.lookupReplyIn_unknown src hgood hrid)
      · intro i r hrid
        show execLookupReply src b s = _
        exact s.run_prefixMessage (fun c => c.lookupReplyIn src b) hruns hc (c.lookupReplyIn_known src hgood hrid)
    · show execLookupRelease src b s = _
      exact s.run_prefixMessage (fun c => c.releaseIn b) hruns hc (c.releaseIn_eq b)
  · intro acc part pin hpart htakes hpin
    subst hpin
    constructor
    · show execPfxPin acc part s = _
      exact s.run_to hruns (s.chip.pinCommand_taken true hpart htakes)
    · show execPfxUnpin acc part s = _
      exact s.run_to hruns (s.chip.pinCommand_taken false hpart htakes)

end Sys2Proof.Machine
end

section
/-! The messages of the State Mover at the destination of a transfer (R142–R147, R150, R580), and the wait for its Commit. -/

namespace Sys2Proof.Machine

open Sys2Proof

/-- A command on a module that runs that takes a message of service `svc` from those delivered. -/
theorem State.run_message (s : State) {svc : Nat} {src : MsgSrc} {b : Bytes} {c t : Chip} (f : Chip → Chip) (hruns : s.runs = true)
    (hc : c = s.chip.take svc src b) (ht : f c = t) : s.run (fun x => f (x.take svc src b)) = .next { s with chip := t.settle } := by
  refine s.run_to hruns ?_
  rw [← hc, ht]

/-! ## What R142 turns away -/

theorem Chip.takeSeal_bad (s : Chip) (src : MsgSrc) {b : Bytes} (h : badMessage b 3 = true) : s.takeSeal src b = s.malformed src b := if_pos h

theorem Chip.takeCommit_bad (s : Chip) (src : MsgSrc) {b : Bytes} (h : badMessage b 5 = true) : s.takeCommit src b = s.malformed src b := if_pos h

theorem Chip.takeAbort_bad (s : Chip) (src : MsgSrc) {b : Bytes} (h : badMessage b 6 = true) : s.takeAbort src b = s.malformed src b := if_pos h

theorem Chip.takeData_bad (s : Chip) (src : MsgSrc) {b : Bytes} (h : badMessage b 2 = true) : s.takeData src b = s.malformed src b := by
  simp [Chip.takeData, h]

/-- An Open that R142 turns away counts as refused where its header is whole. -/
theorem Chip.takeOpen_bad (s : Chip) (src : MsgSrc) {b : Bytes} (h : badMessage b 1 = true ∨ le b 1 1 = 0) : s.takeOpen src b
    = if b.length < 32 then s.raise Pg.SMV 3
      else (((s.cnt Reg.SMV_REFUSED).raise Pg.SMV 0).raise Pg.SMV 3).reply (SHdr.ofBytes b) src { status := St.malformed, replyTo := le b 0 1 } := by
  refine (if_pos (by simpa using h)).trans ?_
  by_cases hshort : b.length < 32
  · simp [Chip.malformed, hshort]
  · simp [Chip.malformed, hshort]

/-! ## Open (R580) -/

/-- An Open is refused: it counts, the page reports it, and the source hears why. -/
def Chip.refuseOpen (s : Chip) (h : SHdr) (src : MsgSrc) (status outcome : Nat) : Chip :=
  ((s.cnt Reg.SMV_REFUSED).raise Pg.SMV 0).reply h src { status := status, replyTo := 1, outcome := outcome }

/-- The context that an Open of a KIND other than 6 asks for. -/
def Chip.opened (s : Chip) (b : Bytes) : DstXfer :=
  let h := SHdr.ofBytes b
  { hdr := h, body := (b.drop 32).take 320, rteIdx := if h.kind ≤ 2 then s.freeRte h.dstPart else none
    partner := (openRte h.kind (OpenBody.ofBytes (b.drop 32))).jrnPartner }

/-- An accepted context is kept, and its RTE goes into the cache. -/
def Chip.keepOpened (s : Chip) (x : DstXfer) : Chip :=
  match x.rteIdx with
  | some i => (s.setSmv (fun m => { m with dsts := m.dsts ++ [x] })).touch i
  | none => s.setSmv (fun m => { m with dsts := m.dsts ++ [x] })

theorem Chip.takeOpen_held (s : Chip) (src : MsgSrc) {b : Bytes} (hgood : badMessage b 1 = false) (hkind : le b 1 1 ≠ 0)
    (hheld : s.dstX (SHdr.ofBytes b).srcDev (SHdr.ofBytes b).seq ≠ none) : s.takeOpen src b = s.refuseOpen (SHdr.ofBytes b) src St.duplicate 3 := by
  refine (if_neg (by simp [hgood, hkind])).trans ?_
  exact if_pos (Option.isSome_iff_ne_none.2 hheld)

/-- An Open of KIND 1 to 5 passes every check of R580, the space that it asks for apart. -/
structure Chip.OpenPasses (s : Chip) (h : SHdr) (o : OpenBody) : Prop where
  kind : h.kind ∈ [1, 2, 3, 4, 5]
  notHeld : s.dstX h.srcDev h.seq = none
  notEnded : s.doneOutcome h.srcDev h.seq = none
  on : s.smvOn = true
  notQuiet : s.quiet Pg.SMV = false
  room : s.ctxUsed < 4096
  taking : s.openTaking h o = true
  resident : s.openResident h o = true
  notBusy : s.openBusy h = false
  rte : h.kind ≤ 2 → s.freeRte h.dstPart ≠ none

/-- Of the kinds 1 to 5, those that take an RTE are 1 and 2. -/
theorem takesRte_eq {k : Nat} (hk : k ∈ [1, 2, 3, 4, 5]) : (k = 1 || k = 2 || k = 6) = decide (k ≤ 2) := by
  fin_cases hk <;> rfl

/-- An Open of KIND 1 to 5 that passes every check of R580 has its context kept and is answered OK. -/
theorem Chip.takeOpen_accepted (s t : Chip) (src : MsgSrc) {b : Bytes} {x : DstXfer} (hgood : badMessage b 1 = false)
    (hpass : s.OpenPasses (SHdr.ofBytes b) (OpenBody.ofBytes (b.drop 32)))
    (hreserve : s.reserve (SHdr.ofBytes b) (OpenBody.ofBytes (b.drop 32)) (s.opened b) = some (t, x)) :
    s.takeOpen src b = (t.keepOpened x).reply (SHdr.ofBytes b) src { status := St.ok, replyTo := 1 } := by
  have hk := hpass.kind
  have hnot0 : le b 1 1 ≠ 0 := fun h0 => by
    have : (SHdr.ofBytes b).kind = 0 := h0
    simp [this] at hk
  have hnot6 : (SHdr.ofBytes b).kind ≠ 6 := fun h6 => by simp [h6] at hk
  have hslot : ¬ ((SHdr.ofBytes b).kind ≤ 2 ∧ s.freeRte (SHdr.ofBytes b).dstPart = none) := fun h => hpass.rte h.1 h.2
  have hopened :
      ({ hdr := SHdr.ofBytes b
         body := (b.drop 32).take 320
         rteIdx := if (SHdr.ofBytes b).kind = 1 || (SHdr.ofBytes b).kind = 2 || (SHdr.ofBytes b).kind = 6 then s.freeRte (SHdr.ofBytes b).dstPart else none
         partner := if (SHdr.ofBytes b).kind = 6 then (SHdr.ofBytes b).srcDev
           else (openRte (SHdr.ofBytes b).kind (OpenBody.ofBytes (b.drop 32))).jrnPartner } : DstXfer) = s.opened b := by
    rw [takesRte_eq hk]
    simp [Chip.opened, hnot6]
  refine (if_neg (by simp [hgood, hnot0])).trans ?_
  dsimp only
  rw [hopened, hreserve, takesRte_eq hk]
  simp [hnot6, hpass.notHeld, hpass.notEnded, hpass.on, hpass.notQuiet, Nat.not_le.2 hpass.room, hpass.taking, hpass.resident, hpass.notBusy, hslot]
  rfl

/-! ## Data and Seal (R145) -/

/-- A Seal of a transfer without a context is answered by what it came to; of one with a context it is kept, and judged. -/
theorem Chip.takeSeal_good (s : Chip) (src : MsgSrc) {b : Bytes} (h : badMessage b 3 = false) : s.takeSeal src b
    = match s.dstX (SHdr.ofBytes b).srcDev (SHdr.ofBytes b).seq with
      | none => s.noContext (SHdr.ofBytes b) src 3
      | some _ => (s.updDst (SHdr.ofBytes b).srcDev (SHdr.ofBytes b).seq
          (fun x => { x with sealed := some (le b 32 4, le b 36 4, le b 40 8) })).checkSeal (SHdr.ofBytes b).srcDev (SHdr.ofBytes b).seq :=
  if_neg (by simp [h])

/-- The records of a Data message unpacked in turn, until a damage check fails; `own` where they come from this device. -/
def Chip.unpackAll (s : Chip) (x : DstXfer) (sec : Nat) (own : Bool) (rs : List (Bytes × Bytes)) : Chip × Option (List DRec) :=
  rs.foldl (fun (st : Chip × Option (List DRec)) (r : Bytes × Bytes) => match st.2 with
    | none => st
    | some l => match st.1.unpackRecord ((x.pages.head?.map (fun a => stackOf a / 6)).getD 0) sec own r.1 r.2 with
      | (t, some r) => (t, some (l ++ [r]))
      | (t, none) => (t, none)) (s, some [])

/-- A context with the records of a Data message. -/
def DstXfer.store (x : DstXfer) (b : Bytes) (count : Nat) (l : List DRec) : DstXfer :=
  { x with recs := x.recs ++ l, msgs := x.msgs ++ [le b 36 4], recCount := x.recCount + count, bytes := x.bytes + b.length }

/-- Where a record fails its damage check the transfer is aborted; else the records are stored in its context, and its Seal is judged. -/
def Chip.storeData (b : Bytes) (x : DstXfer) (count : Nat) (got : Chip × Option (List DRec)) : Chip :=
  let s := got.1.add64 Reg.SMV_BYTES_IN_LO b.length
  match got.2 with
  | none => (s.abortDst x St.damaged).raise Pg.SMV 6
  | some l =>
    let y := s.publishFill (x.store b count l)
    (y.1.updDst (SHdr.ofBytes b).srcDev (SHdr.ofBytes b).seq (fun _ => y.2)).checkSeal (SHdr.ofBytes b).srcDev (SHdr.ofBytes b).seq

section data

variable (s : Chip) (src : MsgSrc) {b : Bytes} {rs : List (Bytes × Bytes)} (hgood : badMessage b 2 = false) (hpos : 0 < le b 34 2)
  (hmax : le b 34 2 ≤ 64) (hsplit : splitData (le b 34 2) (le b 32 1) (b.drop 48) = some rs)
include hgood hpos hmax hsplit

theorem Chip.takeData_noContext (hnone : s.dstX (SHdr.ofBytes b).srcDev (SHdr.ofBytes b).seq = none) :
    s.takeData src b = s.noContext (SHdr.ofBytes b) src 2 := by
  simp [Chip.takeData, hgood, hpos.ne', Nat.not_lt.2 hmax, hsplit, hnone]

/-- A new Data message of a transfer that receives, with its stacks up, has its records unpacked and stored. -/
theorem Chip.takeData_receiving {x : DstXfer} (hx : s.dstX (SHdr.ofBytes b).srcDev (SHdr.ofBytes b).seq = some x)
    (hstate : x.state = .receiving) (hnew : le b 36 4 ∉ x.msgs) (hup : x.pages.any s.stackDown = false) : s.takeData src b
      = Chip.storeData b x rs.length (s.unpackAll x (le b 32 1) ((SHdr.ofBytes b).srcDev == s.selfDev) rs) := by
  have hgo : (x.state ≠ .receiving || x.msgs.contains (le b 36 4) || x.pages.any s.stackDown) = false := by simp [hstate, hnew, hup]
  simp only [Chip.takeData, hgood, hpos.ne', Nat.not_lt.2 hmax, hsplit, hx, hgo]
  rfl

end data

/-! ## Commit, Abort and the wait for a Commit (R145, R149, R150) -/

theorem Chip.takeCommit_good (s : Chip) (src : MsgSrc) {b : Bytes} {x : DstXfer} (hgood : badMessage b 5 = false)
    (hx : s.dstX (SHdr.ofBytes b).srcDev (SHdr.ofBytes b).seq = some x) : s.takeCommit src b
    = if x.state = DstState.ready then
        s.updDst (SHdr.ofBytes b).srcDev (SHdr.ofBytes b).seq (fun y => { y with commit := true, replyTo := some (src.dev, src.part) })
      else if x.state = DstState.inDoubt then
        s.updDst (SHdr.ofBytes b).srcDev (SHdr.ofBytes b).seq (fun y => { y with outcome := 1, asked := 0, replyTo := some (src.dev, src.part) })
      else s.noContext (SHdr.ofBytes b) src 5 := by
  refine (if_neg (by simp [hgood])).trans ?_
  simp only [hx]
  cases x.state <;> rfl

/-- An Abort that its destination did not send resolves a transfer IN_DOUBT, ends any other that is held here, and is answered OK. -/
theorem Chip.takeAbort_atDestination (s : Chip) (src : MsgSrc) {b : Bytes} {x : DstXfer} (hgood : badMessage b 6 = false)
    (hfrom : ¬ (src.dev = (SHdr.ofBytes b).dstDev ∧ src.part = (SHdr.ofBytes b).dstPart))
    (hx : (s.noteErr (le b 32 2) (SHdr.ofBytes b).kind 6 src.dev (SHdr.ofBytes b).rid).dstX (SHdr.ofBytes b).srcDev (SHdr.ofBytes b).seq = some x) :
    s.takeAbort src b
      = let d := s.noteErr (le b 32 2) (SHdr.ofBytes b).kind 6 src.dev (SHdr.ofBytes b).rid
        ((if x.state = DstState.inDoubt then d.updDst (SHdr.ofBytes b).srcDev (SHdr.ofBytes b).seq (fun y => { y with outcome := 2, asked := 0 })
          else (((d.unreserve x).dropDst x 2).cnt Reg.SMV_ABORTED).raise Pg.SMV 1).dropIntent (SHdr.ofBytes b)).reply
          (SHdr.ofBytes b) src { status := St.ok, replyTo := 6 } := by
  have hnot : (src.dev == (SHdr.ofBytes b).dstDev && src.part == (SHdr.ofBytes b).dstPart) = false := by simpa using hfrom
  refine (if_neg (by simp [hgood])).trans ?_
  simp [hnot, hx]

/-- The wait for a Commit ends in doubt where the transfer is READY and none has come. -/
theorem Chip.decideExpired_eq (s : Chip) (dev seq : Nat) : s.decideExpired dev seq
    = match s.dstX dev seq with
      | some x =>
        if x.state = DstState.ready ∧ x.commit = false then
          ((s.updDst dev seq (fun y => { y with state := .inDoubt })).raise Pg.SMV 2).doubtAsk { x with state := .inDoubt }
        else s
      | none => s := by
  unfold Chip.decideExpired
  cases s.dstX dev seq with
  | none => rfl
  | some x => simp only [Bool.and_eq_true, decide_eq_true_eq, Bool.not_eq_true']

/-- Settles O50, by the message and what the destination holds of its transfer. -/
theorem transfersAtTheDestination : Obligations.TransfersAtTheDestination := by
  constructor
  · intro s src b c h bad hruns hc hh hbad
    subst hbad hh
    refine ⟨?_, ?_, ?_, ?_, ?_, ?_, ?_, ?_, ?_, ?_, ?_, ?_⟩
    · intro hturned
      show execOpen src b s = _
      exact s.run_message (fun c => c.takeOpen src b) hruns hc (c.takeOpen_bad src hturned)
    · intro hturned
      show execSeal src b s = _
      exact s.run_message (fun c => c.takeSeal src b) hruns hc (c.takeSeal_bad src hturned)
    · intro hturned
      show execData src b s = _
      exact s.run_message (fun c => c.takeData src b) hruns hc (c.takeData_bad src hturned)
    · intro hturned
      show execCommit src b s = _
      exact s.run_message (fun c => c.takeCommit src b) hruns hc (c.takeCommit_bad src hturned)
    · intro hturned
      show execAbort src b s = _
      exact s.run_message (fun c => c.takeAbort src b) hruns hc (c.takeAbort_bad src hturned)
    · intro hgood hkind hheld
      show execOpen src b s = _
      exact s.run_message (fun c => c.takeOpen src b) hruns hc (c.takeOpen_held src hgood hkind hheld)
    · intro t x hgood hk _ hnone hdone o hon hquiet hroom htaking hresident hbusy hrte hreserve
      show execOpen src b s = _
      exact s.run_message (fun c => c.takeOpen src b) hruns hc
        (c.takeOpen_accepted t src hgood ⟨hk, hnone, hdone, hon, hquiet, hroom, htaking, hresident, hbusy, hrte⟩ hreserve)
    · intro hgood
      show execSeal src b s = _
      exact s.run_message (fun c => c.takeSeal src b) hruns hc (c.takeSeal_good src hgood)
    · intro rs hgood hpos hmax hsplit hnone
      show execData src b s = _
      exact s.run_message (fun c => c.takeData src b) hruns hc (c.takeData_noContext src hgood hpos hmax hsplit hnone)
    · intro rs x l t y hgood hpos hmax hsplit hx hstate hnew hup hunpack hy
      subst hy
      show execData src b s = _
      exact s.run_message (fun c => c.takeData src b) hruns hc (c.takeData_receiving src hgood hpos hmax hsplit hx hstate hnew hup |>.trans (congrArg _ hunpack))
    · intro hgood x hx
      show execCommit src b s = _
      exact s.run_message (fun c => c.takeCommit src b) hruns hc (c.takeCommit_good src hgood hx)
    · intro x d hgood hd hfrom hx
      subst hd
      show execAbort src b s = _
      exact s.run_message (fun c => c.takeAbort src b) hruns hc (c.takeAbort_atDestination src hgood hfrom hx)
  · intro s dev seq hruns
    show execDecideWaitExpiry dev seq s = _
    exact s.run_to hruns (s.chip.decideExpired_eq dev seq)

end Sys2Proof.Machine
end

section
/-! The messages of the State Mover elsewhere (R140, R144, R145, R150, R153, R154, R158, R582): at the journal partner, a shard, the origin and the
source; and the host's runtime orders (R136, R162). -/

namespace Sys2Proof.Machine

open Sys2Proof

/-! ## At the journal partner: Intent and Lost (R145, R154) -/

/-- The Intent that a message carries. -/
abbrev intentOf (b : Bytes) : Intent :=
  { hdr := SHdr.ofBytes b, oldDev := le b 32 2, oldPart := le b 34 1, newDev := le b 36 2, newPart := le b 35 1, step := le b 40 8 }

/-- An Intent is kept where the journal's anchor names the old home, and is else answered NO_ANCHOR. -/
theorem Chip.takeIntent_good (s : Chip) (src : MsgSrc) {b : Bytes} (h : badMessage b 4 = false) : s.takeIntent src b
    = match s.journal (SHdr.ofBytes b).rid with
      | some j =>
        if le j.anchor 88 2 = le b 32 2 ∧ le j.anchor 90 1 = le b 34 1 then
          (s.setSmv (fun m => { m with intents := m.intents ++ [intentOf b] })).reply (SHdr.ofBytes b) src { status := St.ok, replyTo := 4 }
        else s.reply (SHdr.ofBytes b) src { status := St.noAnchor, replyTo := 4 }
      | none => s.reply (SHdr.ofBytes b) src { status := St.noAnchor, replyTo := 4 } := by
  refine (if_neg (by simp [h])).trans ?_
  dsimp only
  cases s.journal (SHdr.ofBytes b).rid with
  | none => rfl
  | some j => simp only [Bool.and_eq_true, decide_eq_true_eq]

/-- A Lost is answered UNKNOWN_REQUEST without a journal, and else teaches the partner that the home of a request not ended is lost. -/
theorem Chip.takeLost_good (s : Chip) (src : MsgSrc) {b : Bytes} (h : badMessage b 0x0A = false) : s.takeLost src b
    = match s.journal (SHdr.ofBytes b).rid with
      | some j => if j.ended then s else s.learnLost (SHdr.ofBytes b).rid
      | none => s.reply (SHdr.ofBytes b) src { status := St.unknown, replyTo := 0x0A } :=
  if_neg (by simp [h])

/-! ## Query and Pull (R153, R582) -/

/-- A Query with ASK 0 is answered with the OUTCOME here. -/
theorem Chip.takeQuery_outcome (s : Chip) (src : MsgSrc) {b : Bytes} (h : badMessage b 7 = false) (hask : le b 32 1 = 0) :
    s.takeQuery src b = s.reply (SHdr.ofBytes b) src { status := St.ok, replyTo := 7, outcome := s.outcomeHere (SHdr.ofBytes b) } := by
  refine (if_neg (by simp [h])).trans ?_
  simp only [hask]

/-- A Pull of a lease that is held queues the delivery; another is answered UNKNOWN_REQUEST. -/
theorem Chip.takePull_good (s : Chip) (src : MsgSrc) {b : Bytes} (h : badMessage b 9 = false) : s.takePull src b
    = match s.pfx.leases.find? (fun l => l.id == le b 32 4) with
      | some l => s.queueOrder { kind := 3, rid := (SHdr.ofBytes b).rid, srcPart := l.shardPart, dst := (src.dev, src.part), lease := l.id
                                 first := le b 36 4, count := le b 40 4 }
      | none => s.reply (SHdr.ofBytes b) src { status := St.unknown, replyTo := 9 } :=
  if_neg (by simp [h])

/-! ## Locate at the origin (R158) -/

/-- The locator entry of a RID is absent or not live. -/
abbrev Chip.notLive (s : Chip) (rid : Nat) : Prop := ∀ l, s.locator rid = some l → l.state ≠ 1

theorem Chip.updLocator_of_some (s : Chip) {rid : Nat} {l : Locator} (f : Locator → Locator) (h : s.locator rid = some l) :
    s.updLocator rid f = { s with rtb := { s.rtb with locators := s.rtb.locators.put (locIdx rid) (f l) } } := by
  simp [Chip.updLocator, h]

/-- A locator entry with the new home that a Locate names. -/
abbrev Locator.movedTo (l : Locator) (b : Bytes) : Locator := { l with device := le b 32 2, part := le b 34 1, partner := le b 36 2 }

/-- The origin judges a Locate once a rebuild that asks has counted for its tenant: a live locator entry takes the new home, and who asks is answered. -/
def Chip.locateHome (s : Chip) (src : MsgSrc) (b : Bytes) (ask : Bool) : Chip :=
  match s.locator (SHdr.ofBytes b).rid with
  | some l =>
    if l.state = 1 then
      let t := s.updLocator (SHdr.ofBytes b).rid (fun l => l.movedTo b)
      if ask then t.reply (SHdr.ofBytes b) src { status := St.ok, replyTo := 0x0B, value := t.emitted (SHdr.ofBytes b).rid } else t
    else if ask then s.reply (SHdr.ofBytes b) src { status := St.unknown, replyTo := 0x0B } else s
  | none => if ask then s.reply (SHdr.ofBytes b) src { status := St.unknown, replyTo := 0x0B } else s

theorem Chip.takeLocate_asks (s : Chip) (src : MsgSrc) {b : Bytes} (h : badMessage b 0x0B = false) (hask : le b 35 1 = 1) :
    s.takeLocate src b = (s.acct (le b 40 4) (fun e => { e with failedOver := e.failedOver + 1 })).locateHome src b true := by
  refine (if_neg (by simp [h])).trans ?_
  simp only [hask]
  rfl

theorem Chip.takeLocate_tells (s : Chip) (src : MsgSrc) {b : Bytes} (h : badMessage b 0x0B = false) (hask : le b 35 1 ≠ 1) :
    s.takeLocate src b = s.locateHome src b false := by
  have hno : (le b 35 1 == 1) = false := by simp [hask]
  refine (if_neg (by simp [h])).trans ?_
  simp only [hno]
  rfl

theorem Chip.locateHome_live (s : Chip) (src : MsgSrc) {b : Bytes} {l : Locator} (ask : Bool) (hloc : s.locator (SHdr.ofBytes b).rid = some l)
    (hlive : l.state = 1) : s.locateHome src b ask
    = let t : Chip := { s with rtb := { s.rtb with locators := s.rtb.locators.put (locIdx (SHdr.ofBytes b).rid) (l.movedTo b) } }
      if ask then t.reply (SHdr.ofBytes b) src { status := St.ok, replyTo := 0x0B, value := t.emitted (SHdr.ofBytes b).rid } else t := by
  simp [Chip.locateHome, s.updLocator_of_some _ hloc, hloc, hlive]

theorem Chip.locateHome_notLive (s : Chip) (src : MsgSrc) {b : Bytes} (ask : Bool) (hloc : s.notLive (SHdr.ofBytes b).rid) :
    s.locateHome src b ask = if ask then s.reply (SHdr.ofBytes b) src { status := St.unknown, replyTo := 0x0B } else s := by
  unfold Chip.locateHome
  cases hl : s.locator (SHdr.ofBytes b).rid with
  | none => rfl
  | some l => simp [hloc l hl]

/-! ## The Reply to an Intent (R145) -/

/-- A unit's command that meets no line of the snoop filter runs. -/
theorem Chip.devAccess_unmet (s : Chip) (i : Instr) (f : Chip → Chip) (h : (f s).cxl.touched = []) : s.devAccess i f = f s := by
  simp [Chip.devAccess, h]

/-- The Reply OK to the Intent of a transfer that is INTENDING makes it PREPARED. -/
theorem Chip.takeReply_intentOk (s : Chip) (src : MsgSrc) {b : Bytes} {x : SrcXfer} (ecc : List WordErr) (hgood : badMessage b 8 = false)
    (hok : (ReplyBody.ofBytes b).status = 0) (hto : (ReplyBody.ofBytes b).replyTo = 4) (hself : (SHdr.ofBytes b).srcDev = s.selfDev)
    (hx : s.srcX (SHdr.ofBytes b).seq = some x) (hstate : x.state = .intending) :
    s.takeReply src b ecc = s.updSrc x.hdr.seq (fun y => { y with state := .prepared }) := by
  refine (if_neg (by simp [hgood])).trans ?_
  simp [hok, hto, hself, hx, hstate, Chip.intentAnswered]

/-- On the chip, such a Reply is taken at once where nothing waits for the host. -/
theorem Chip.doReply_intentOk (s : Chip) {src : MsgSrc} {b : Bytes} {c : Chip} {x : SrcXfer} (ecc : List WordErr) (hc : c = s.take 1 src b)
    (hx : c.takeReply src b ecc = c.updSrc x.hdr.seq (fun y => { y with state := .prepared })) (hmet : c.cxl.touched = []) :
    s.doReply src b ecc = c.updSrc x.hdr.seq (fun y => { y with state := .prepared }) := by
  subst hc
  refine (s.devAccess_unmet _ _ ?_).trans hx
  rw [hx]
  exact hmet

/-! ## Runtime orders (R136, R162) -/

/-- An order that the page takes for a request that is not known here. -/
theorem Chip.issueOrder_unknown (s : Chip) {acc : Access} (hnone : s.findKnown (s.rd64 Reg.SMV_ORD_RID_LO) = none)
    (htakes : s.takes acc Pg.SMV false [] = true) : s.issueOrder acc = s.ordResult St.unknown := by
  simp only [Chip.issueOrder, hnone]
  exact s.command_taken _ _ _ _ htakes

/-- An order that the page takes for the partition of a request that is known here: a stub's home is elsewhere, 64 orders are the most that wait. -/
theorem Chip.issueOrder_known (s : Chip) {acc : Access} {i : Nat} {r : Rte} (hknown : s.findKnown (s.rd64 Reg.SMV_ORD_RID_LO) = some (i, r))
    (htakes : s.takes acc Pg.SMV false [r.partition] = true) : s.issueOrder acc
    = if r.state = RState.forward then s.ordResult St.unknown
      else if 64 ≤ s.runtimeQueued then s.ordResult 0xFF
      else
        (s.queueOrder { kind := 1, rid := s.rd64 Reg.SMV_ORD_RID_LO, srcPart := r.partition, runtime := true
                        dst := (s.rf F.SMV_ORD_DST_DEVICE, s.rf F.SMV_ORD_DST_PARTITION) }).ordResult 0xFE := by
  simp only [Chip.issueOrder, hknown]
  exact s.command_taken _ _ _ _ htakes

/-- Settles O51, by the message, and for an order by whether its request is known here. -/
theorem transfersElsewhere : Obligations.TransfersElsewhere := by
  constructor
  · intro s src b c h hruns hc hh
    subst hh
    refine ⟨?_, ?_, ?_, ?_, ?_, ?_, ?_, ?_⟩
    · intro hgood
      show execIntent src b s = _
      exact s.run_message (fun c => c.takeIntent src b) hruns hc (c.takeIntent_good src hgood)
    · intro hgood hask
      show execQuery src b s = _
      exact s.run_message (fun c => c.takeQuery src b) hruns hc (c.takeQuery_outcome src hgood hask)
    · intro hgood
      show execPull src b s = _
      exact s.run_message (fun c => c.takePull src b) hruns hc (c.takePull_good src hgood)
    · intro hgood
      show execLost src b s = _
      exact s.run_message (fun c => c.takeLost src b) hruns hc (c.takeLost_good src hgood)
    · intro hgood hask hloc
      show execLocate src b s = _
      exact s.run_message (fun c => c.takeLocate src b) hruns hc ((c.takeLocate_tells src hgood hask).trans (c.locateHome_notLive src false hloc))
    · intro d hgood hask hd
      have hasks : c.takeLocate src b = d.locateHome src b true := hd ▸ c.takeLocate_asks src hgood hask
      constructor
      · intro hloc
        show execLocate src b s = _
        exact s.run_message (fun c => c.takeLocate src b) hruns hc (hasks.trans (d.locateHome_notLive src true hloc))
      · intro l f hloc hlive hf
        subst hf
        show execLocate src b s = _
        exact s.run_message (fun c => c.takeLocate src b) hruns hc (hasks.trans (d.locateHome_live src true hloc hlive))
    · intro l hgood hloc hlive hask
      show execLocate src b s = _
      exact s.run_message (fun c => c.takeLocate src b) hruns hc ((c.takeLocate_tells src hgood hask).trans (c.locateHome_live src false hloc hlive))
    · intro x ecc hgood hok hto hself hx hstate hmet
      show execReply src b ecc s = _
      exact s.run_to hruns (s.chip.doReply_intentOk ecc hc (c.takeReply_intentOk src ecc hgood hok hto hself hx hstate) hmet)
  · intro s acc rid hruns hrid
    subst hrid
    constructor
    · intro hnone htakes
      show execSmvOrdIssue acc s = _
      exact s.run_to hruns (s.chip.issueOrder_unknown hnone htakes)
    · intro i r hknown htakes
      show execSmvOrdIssue acc s = _
      exact s.run_to hruns (s.chip.issueOrder_known hknown htakes)

end Sys2Proof.Machine
end

section
/-! The instructions of a tile (R164–R192, R202, R378–R386): passes, conversions, Router runs, fences, operations on windows, and the entries of
the exchange plan. -/

namespace Sys2Proof.Machine

open Sys2Proof

/-! ## Scratch words (R167) -/

/-- On a tile that executes, where no word that an instruction reads is uncorrectable, the instruction runs on what the reads leave. -/
theorem Chip.onTile_executes (s : Chip) {t : Nat} {ecc : List WordErr} {c : Chip} (f : Chip → Chip) (hexec : s.tileRuns t = true)
    (hread : s.scratchErrs t ecc = (c, true)) : s.onTile t ecc f = f c := by
  simp [Chip.onTile, hexec, hread]

/-- An instruction that reads scratch words, on a module that runs and a tile that executes. -/
theorem State.run_onTile (s : State) {t : Nat} {ecc : List WordErr} {c d : Chip} (f : Chip → Chip) (hruns : s.runs = true)
    (hexec : s.chip.tileRuns t = true) (hread : s.chip.scratchErrs t ecc = (c, true)) (hf : f c = d) :
    s.run (fun x => x.onTile t ecc f) = .next { s with chip := d.settle } :=
  s.run_to hruns ((s.chip.onTile_executes f hexec hread).trans hf)

/-! ## Passes (R165, R166, R183) -/

theorem Chip.drawPass_notArrived (s : Chip) {t : Nat} (a : PassMat) (b : PassB) {run : PassRun} (hwait : s.arrived t run.awaits = false) :
    s.drawPass t a b run = s.stopTile t := by
  simp [Chip.drawPass, hwait]

theorem Chip.drawPass_arrived (s : Chip) {t : Nat} (a : PassMat) (b : PassB) {run : PassRun} {e : Chip} (harrived : s.arrived t run.awaits = true)
    (he : e = s.each run.draws (fun x r => x.expandSlot t r)) (hexec : e.tileRuns t = true) :
    s.drawPass t a b run = e.runPass t a b run.clear run.stall := by
  subst he
  simp [Chip.drawPass, harrived, hexec]

theorem Chip.runPass_notOk (s : Chip) (t : Nat) {a : PassMat} {b : PassB} (clear : Bool) (stall : Nat) (hbad : passOk a b = false) :
    s.runPass t a b clear stall = s.seqFault t (s.tile t).part false := by
  simp [Chip.runPass, hbad]

/-- What every pass leaves: its accumulators, and the counts of its clocks and of the blocks skipped. -/
def Chip.passDone (s : Chip) (t : Nat) (a : PassMat) (b : PassB) (clear : Bool) (stall : Nat) : Chip :=
  (((s.setTile t (fun x => { x with acc := passResult a b (if clear = true then [] else (s.tile t).acc) })).cntBy
    (regAt (Pg.til t) Reg.TIL_EXP_STALL) stall).add64 (regAt (Pg.til t) Reg.TIL_MXE_BUSY_LO) (passClocks a b)).add64
    (regAt (Pg.til t) Reg.TIL_MXE_SKIP_LO) ((a.rows.map (fun r => (r.filter (·.skipped a.elem)).length)).foldl (· + ·) 0)

/-- Illegal groups of operand B (R182). -/
def passBadGroups (b : PassB) : Nat := (b.cols.map (fun c => (c.map (fun x => badGroups x.2)).foldl (· + ·) 0)).foldl (· + ·) 0

/-- A dense pass counts no groups; a sparse one counts itself, and its illegal groups raise ERR_STAT bit [0]. -/
theorem Chip.runPass_ok (s : Chip) (t : Nat) {a : PassMat} {b : PassB} (clear : Bool) (stall : Nat) (hok : passOk a b = true) :
    s.runPass t a b clear stall
    = if b.sparse = false then s.passDone t a b clear stall
      else if passBadGroups b = 0 then (s.passDone t a b clear stall).cnt (regAt (Pg.til t) Reg.TIL_SPARSE_PASSES)
      else (((s.passDone t a b clear stall).cnt (regAt (Pg.til t) Reg.TIL_SPARSE_PASSES)).cntBy
        (regAt (Pg.til t) Reg.TIL_SPARSE_BADMETA) (passBadGroups b)).raise (Pg.til t) 0 := by
  refine (if_neg (by simp [hok])).trans ?_
  cases hsparse : b.sparse with
  | false => simp [Chip.passDone]
  | true =>
    simp only [Bool.true_eq_false, if_false, if_true, Chip.passDone, passBadGroups]
    congr! 1

/-! ## Conversions (R174, R175) -/

theorem Chip.runConversion_unfit (s : Chip) (t : Nat) {o : ConvOp} (hunfit : convFits o = false) :
    s.runConversion t o = s.seqFault t (s.tile t).part false := by
  simp [Chip.runConversion, hunfit]

theorem Chip.runConversion_guarded (s : Chip) {t : Nat} {o : ConvOp} (hfits : convFits o = true) (hguarded : o.guarded = true)
    (hover : (s.tile t).overflow = true) : s.runConversion t o = s := by
  simp [Chip.runConversion, hfits, hguarded, hover]

theorem Chip.runConversion_stores (s : Chip) {t : Nat} {o : ConvOp} (hfits : convFits o = true)
    (hclear : (o.guarded && (s.tile t).overflow) = false) :
    s.runConversion t o = (s.setTile t (fun x => { x with overflow := convOverflows o x.overflow })).storeResults t o := by
  simp [Chip.runConversion, hfits, hclear]

theorem Chip.storeResults_fp32 (s : Chip) (t : Nat) {o : ConvOp} (hfp32 : o.fp32 = true) :
    s.storeResults t o = (s.setTile t (fun x => { x with srCount := x.srCount + 0 })).writeScratch t o.dst ((convResults o).flatMap (toLE 4)) := by
  simp [Chip.storeResults, hfp32]

/-- The chip after a conversion to a shorter type has drawn its random integers (R175). -/
def Chip.drawRounding (s : Chip) (t : Nat) (o : ConvOp) : Chip :=
  s.setTile t (fun x => { x with srCount := x.srCount + (if o.sr = true then (convResults o).length else 0) })

theorem Chip.storeResults_bf16 (s : Chip) (t : Nat) {o : ConvOp} (hfp32 : o.fp32 = false) (hbf16 : o.elem = .bf16) :
    s.storeResults t o = (s.drawRounding t o).writeScratch t o.dst
      ((convResults o).zipIdx.flatMap (fun v => toLE 2 (bf16.encode (s.roundingAt t o.sr v.2) (of32 v.1)))) := by
  simp [Chip.storeResults, Chip.drawRounding, hfp32, hbf16]

/-- MX blocks go to the address of the elements and their scales to that of the scales; saturated elements and NaN blocks count. -/
theorem Chip.storeResults_mx (s : Chip) (t : Nat) {o : ConvOp} {cs : List Conv} (hfp32 : o.fp32 = false) (hmx : o.elem ≠ .bf16)
    (hcs : cs = (chunksOf 32 (convResults o)).zipIdx.map (fun b => toMx o.elem (fun i => s.roundingAt t o.sr (32 * b.2 + i)) (b.1.map of32))) :
    s.storeResults t o
    = ((((s.drawRounding t o).writeScratch t o.dst (cs.flatMap (fun c => packElems o.elem.width c.block.elems))).writeScratch t o.scaleDst
        (cs.map (fun c => BitVec.ofNat 8 c.block.scale))).cntBy (regAt (Pg.til t) Reg.TIL_CONV_SAT) ((cs.map (·.sat)).foldl (· + ·) 0)).cntBy
        (regAt (Pg.til t) Reg.TIL_CONV_NAN) ((cs.filter (·.nan)).length) := by
  subst hcs
  simp [Chip.storeResults, Chip.drawRounding, hfp32, hmx]

/-- A conversion on a tile that executes: what it does, and then the blocks that its program packs. -/
theorem State.run_conversion (s : State) {t : Nat} {o : ConvOp} {ecc : List WordErr} {c d : Chip} (hruns : s.runs = true)
    (hexec : s.chip.tileRuns t = true) (hread : s.chip.scratchErrs t ecc = (c, true)) (hd : c.runConversion t o = d) :
    execConversion t o ecc s = .next { s with chip := (d.each o.packs (fun x r => x.packSlot t r)).settle } :=
  s.run_onTile _ hruns hexec hread (congrArg (Chip.each · o.packs _) hd)

/-! ## Router runs (R184–R187) -/

@[simp] theorem length_toLE (n v : Nat) : (toLE n v).length = n := by
  induction n generalizing v with
  | zero => rfl
  | succ n ih => simp [toLE, ih]

@[simp] theorem length_insertBy {α : Type} (le : α → α → Bool) (x : α) (l : List α) : (insertBy le x l).length = l.length + 1 := by
  induction l with
  | nil => rfl
  | cons y l ih =>
    simp only [insertBy]
    split
    · rfl
    · simp [ih]

@[simp] theorem length_sortBy {α : Type} (le : α → α → Bool) (l : List α) : (sortBy le l).length = l.length := by
  induction l with
  | nil => rfl
  | cons x l ih => exact (length_insertBy le x (sortBy le l)).trans (congrArg (· + 1) ih)

@[simp] theorem length_zeros (n : Nat) : (zeros n).length = n := List.length_replicate

/-- Entries of `k` bytes for groups that are each sorted: as many as the groups hold. -/
theorem length_flatMap_sortedGroups {α β : Type} (le : α → α → Bool) (g : β → List α) (l : List β) {f : α → Bytes} {k : Nat}
    (hf : ∀ c, (f c).length = k) : ((l.map (fun e => sortBy le (g e))).flatten.flatMap f).length = k * (l.flatMap g).length := by
  induction l with
  | nil => rfl
  | cons e l ih =>
    have hgroup : ((sortBy le (g e)).flatMap f).length = k * (g e).length := by simp [List.length_flatMap, hf, Nat.mul_comm]
    rw [List.map_cons, List.flatten_cons, List.flatMap_append, List.length_append, hgroup, ih, List.flatMap_cons, List.length_append, Nat.mul_add]

/-- NaN tokens are the same counted with their places. -/
theorem length_filter_zipIdx_nanToken (l : List (List Nat)) : (l.zipIdx.filter (fun x => nanToken x.1)).length = (l.filter nanToken).length := by
  conv_rhs => rw [← List.zipIdx_map_fst 0 l, List.filter_map, List.length_map]
  rfl

/-- The choices of the tokens without a NaN, in rank order. -/
def routerChoices (o : RouterOp) : List Choice :=
  (List.range o.k).flatMap (fun r =>
    (o.logits.zipIdx.flatMap (fun x => if nanToken x.1 = true then [] else choicesOf o x.2 x.1)).filter (fun c => c.rank == r))

/-- Bytes of the dispatch list of the choices kept: the header, an entry for each expert and one for each choice of an expert (R187). -/
def routerListSize (o : RouterOp) (kept : List Choice) : Nat :=
  64 + 16 * o.experts.length + 8 * ((List.range o.experts.length).flatMap (fun e => kept.filter (fun c => c.expert == e))).length

/-- A legal run whose list fits writes it, and counts tokens and drops; NaN tokens count and raise ERR_STAT bit [2]. -/
theorem Chip.runRouter_counts (s : Chip) (t : Nat) {o : RouterOp} {kept : List Choice} (hok : routerOk o = true)
    (hkept : kept = keepChoices o.cap (routerChoices o)) (hfits : inScratch o.dst (routerListSize o kept) = true) :
    ∃ bytes, s.runRouter t o
      = let d := ((s.writeScratch t o.dst bytes).cntBy (regAt (Pg.til t) Reg.TIL_ROUTE_TOKENS) o.logits.length).cntBy
          (regAt (Pg.til t) Reg.TIL_ROUTE_DROP) ((routerChoices o).length - kept.length)
        if (o.logits.filter nanToken).length = 0 then d
        else (d.cntBy (regAt (Pg.til t) Reg.TIL_ROUTE_NAN) (o.logits.filter nanToken).length).raise (Pg.til t) 2 := by
  subst hkept
  rw [← length_filter_zipIdx_nanToken]
  refine ⟨_, if_neg ?_⟩
  have hsize : ∀ n, n = routerListSize o (keepChoices o.cap (routerChoices o)) → ¬ (!routerOk o || !inScratch o.dst n) = true := by
    rintro _ rfl
    simp [hok, hfits]
  refine hsize _ ?_
  rw [List.length_append, length_flatMap_sortedGroups _ _ _ (k := 8) (fun c => by simp)]
  simp [routerListSize, routerChoices, Nat.mul_comm, ← Nat.add_assoc]

/-! ## Fences (R378) -/

/-- A fence is over the packets not yet acknowledged in the classes that it names. -/
theorem Chip.issueFence_eq (s : Chip) (t id dev : Nat) {tc : Option Nat} {cs : List Nat}
    (hcs : cs = ((List.range 8).filter (fun k => tc = none ∨ tc = some k)).map (ctxNo 0 dev)) :
    s.issueFence t id dev tc
    = (s.setXpt (fun x => { x with fences := x.fences ++ [({ id := id, tile := t, lost := cs.any (fun k => (s.tx k).state == .error)
                                                             psns := cs.flatMap (fun k => ((s.tx k).pkts.filter (fun p => !p.acked)).map (fun p => (k, p.psn, p.num))) } : Fence)] })).settleFences := by
  subst hcs
  cases tc with
  | none => simp [Chip.issueFence]
  | some k => simp [Chip.issueFence, beq_eq_decide]

/-! ## Operations on windows (R386) -/

/-- A LOAD to a place outside scratch is a sequencer fault, whatever its address. -/
theorem Chip.tileOp_load_outside (s : Chip) {t : Nat} (addr : Nat) {dst : Nat} (hexec : s.tileRuns t = true) (hout : inScratch dst 64 = false) :
    s.tileOp t addr none dst = s.seqFault t (s.tile t).part false := by
  simp [Chip.tileOp, hexec, hout]

/-- An access that no window serves is a sequencer fault of the partition that owns the tile. -/
theorem Chip.tileOp_unserved (s : Chip) {t addr dst : Nat} {data : Option Bytes} (hexec : s.tileRuns t = true)
    (hplace : data.isSome = true ∨ inScratch dst 64 = true) (hnone : s.windowFor t addr data.isSome = none) :
    s.tileOp t addr data dst = s.seqFault t (((s.logicalOf t).bind s.ltOwner).getD (s.tile t).part) false := by
  cases data with
  | none =>
    have hin : inScratch dst 64 = true := by simpa using hplace
    simp only [Option.isSome_none] at hnone
    simp [Chip.tileOp, hexec, hin, hnone]
  | some d =>
    simp only [Option.isSome_some] at hnone
    simp [Chip.tileOp, hexec, hnone]

theorem Chip.tileOp_load (s : Chip) {t addr dst : Nat} {w : Window} (hexec : s.tileRuns t = true) (hin : inScratch dst 64 = true)
    (hw : s.windowFor t addr false = some w) :
    s.tileOp t addr none dst
    = (s.setTile t (fun x => { x with loads := x.loads ++ [(s.xpt.nextNum, dst)] })).transmitIn w.tc w.dev
      { num := 0, op := 6, svc := 7, srcPart := w.part, dstPart := w.peerPart, bytes := opHead w (addr % 2 ^ 32), tile := t } := by
  simp [Chip.tileOp, hexec, hin, hw]

theorem Chip.tileOp_store (s : Chip) {t addr : Nat} (data : Bytes) (dst : Nat) {w : Window} (hexec : s.tileRuns t = true)
    (hw : s.windowFor t addr true = some w) :
    s.tileOp t addr (some data) dst
    = s.transmitIn w.tc w.dev
      { num := 0, op := 8, svc := 7, srcPart := w.part, dstPart := w.peerPart, bytes := opHead w (addr % 2 ^ 32) ++ padTo 64 data, tile := t } := by
  simp [Chip.tileOp, hexec, hw]

/-! ## Entries of the exchange plan (R379) -/

/-- An entry with MODES 0 is sent as it stands in memory. -/
theorem Chip.exchMessage_plain (s : Chip) (t p : Nat) {e : Bytes} (data : Bytes) (hplain : le e 4 1 = 0) :
    s.exchMessage t p e data = (s, exchHeader e ++ data) := by
  simp [Chip.exchMessage, hplain]

theorem Chip.sendExchange_plain (s : Chip) (x : ExchOp) {ecc : List WordErr} {c : Chip} {p : Nat} (hexec : s.tileRuns x.tile = true)
    (hread : s.scratchErrs x.tile ecc = (c, true)) (hplain : le x.bytes 4 1 = 0) (hp : p = (c.tile x.tile).part)
    (hown : c.inOwnTiles p (le x.bytes 8 8) (le x.bytes 16 4) = true) :
    s.sendExchange x ecc
    = let g := c.gangEntry p (le x.bytes 2 1)
      let msg := exchHeader x.bytes ++ memRead c.mem (le x.bytes 8 8) (le x.bytes 16 4)
      let u := if g.1 = c.selfDev then c.deliver 6 ⟨c.selfDev, p, g.2, c.step⟩ msg
        else c.transmitIn (bits (le x.bytes 3 1) 2 0) g.1 { num := 0, svc := 6, srcPart := p, dstPart := g.2, bytes := msg }
      if bit (le x.bytes 3 1) 7 = true then u.issueFence x.tile (le x.bytes 0 2) g.1 (some (bits (le x.bytes 3 1) 2 0)) else u := by
  subst hp
  simp [Chip.sendExchange, hexec, hread, hown, Chip.exchMessage_plain _ _ _ _ hplain]

/-- Settles O52, by the instruction: each runs on what the reads of its scratch words leave, and has one of its lemmas' outcomes. -/
theorem tilesCompute : Obligations.TilesCompute := by
  intro s tile hruns hexec
  refine ⟨?_, ?_, ?_, ?_, ?_, ?_, ?_, ?_⟩
  · intro ecc c hread
    refine ⟨?_, ?_, ?_, ?_, ?_⟩
    · intro a b run
      constructor
      · intro hwait
        show execPass tile a b run ecc s = _
        exact s.run_onTile _ hruns hexec hread (c.drawPass_notArrived a b hwait)
      · intro e harrived he hexecE
        have hdraw := c.drawPass_arrived a b harrived he hexecE
        constructor
        · intro hbad
          show execPass tile a b run ecc s = _
          exact s.run_onTile _ hruns hexec hread (hdraw.trans (e.runPass_notOk tile _ _ hbad))
        · rintro hok d bad rfl rfl
          show execPass tile a b run ecc s = _
          exact s.run_onTile _ hruns hexec hread (hdraw.trans (e.runPass_ok tile _ _ hok))
    · intro o hunfit
      exact s.run_conversion hruns hexec hread (c.runConversion_unfit tile hunfit)
    · intro o hfits hguarded hover
      exact s.run_conversion hruns hexec hread (c.runConversion_guarded hfits hguarded hover)
    · rintro o e vs hfits hclear rfl he
      have hstores : c.runConversion tile o = e.storeResults tile o := he ▸ c.runConversion_stores hfits hclear
      refine ⟨fun hfp32 => ?_, fun hfp32 hbf16 => ?_, fun cs hfp32 hmx hcs => ?_⟩
      · exact s.run_conversion hruns hexec hread (hstores.trans (e.storeResults_fp32 tile hfp32))
      · exact s.run_conversion hruns hexec hread (hstores.trans (e.storeResults_bf16 tile hfp32 hbf16))
      · exact s.run_conversion hruns hexec hread (hstores.trans (e.storeResults_mx tile hfp32 hmx hcs))
    · rintro o all kept nans rfl rfl hkept hok hfits
      obtain ⟨bytes, hbytes⟩ := c.runRouter_counts tile hok hkept hfits
      refine ⟨bytes, ?_⟩
      show execRouterRun tile o ecc s = _
      exact s.run_onTile _ hruns hexec hread hbytes
  · intro num dev tc cs hcs
    show execFence tile num dev tc s = _
    exact s.run_to hruns ((if_pos hexec).trans (s.chip.issueFence_eq tile num dev hcs))
  · intro addr dst hnone hin
    show execTileLoad tile addr dst s = _
    exact s.run_to hruns (s.chip.tileOp_unserved hexec (.inr hin) hnone)
  · intro addr dst hout
    show execTileLoad tile addr dst s = _
    exact s.run_to hruns (s.chip.tileOp_load_outside addr hexec hout)
  · intro addr data hnone
    show execTileStore tile addr data s = _
    exact s.run_to hruns (s.chip.tileOp_unserved hexec (.inl rfl) hnone)
  · intro addr dst w hw hin
    show execTileLoad tile addr dst s = _
    exact s.run_to hruns (s.chip.tileOp_load hexec hin hw)
  · intro addr data w hw
    show execTileStore tile addr data s = _
    exact s.run_to hruns (s.chip.tileOp_store data 0 hexec hw)
  · rintro op ecc c d p rfl hdue rfl hexecD hread hplain hp hown
    show execExchangeEntry op ecc s = _
    exact s.run_to hruns ((s.chip.atMoment_due _ _ hdue).trans (congrArg Chip.exchanges (Chip.sendExchange_plain _ op hexecD hread hplain hp hown)))

end Sys2Proof.Machine
end

section
/-! Step programs, the registry, accounts and slices (R195–R200, R226, R230): the commands of page SCH that name no partition. -/

namespace Sys2Proof.Machine

open Sys2Proof

/-- A command of a module that runs, at a register of page SCH that takes the write. -/
theorem State.run_schCommand (s : State) {acc : Access} {off val : Nat} {run : Chip → Chip} {t : Chip} (hruns : s.runs = true)
    (htakes : s.chip.takes acc Pg.SCH false [] = true) (ht : run s.chip = t) :
    s.run (fun c => c.command acc Pg.SCH off val false [] id run) = .next { s with chip := t.settle } :=
  s.run_to hruns ((s.chip.command_taken off val id run htakes).trans ht)

/-! ## Programs (R200) -/

theorem Chip.loadProgram_busy (s : Chip) (image : Bytes) (h : s.rf F.SCH_LOAD_STAT_RESULT = 15) : s.loadProgram image = s := if_pos h

theorem Chip.unloadProgram_busy (s : Chip) (i : Nat) (h : s.rf F.SCH_LOAD_STAT_RESULT = 15) : s.unloadProgram i = s := if_pos h

/-- The program of a good container takes the lowest free index, which INDEX and the count of programs show. -/
def Chip.keepProgram (s : Chip) (g : Prog) : Chip :=
  let i := firstFree 512 0 s.sch.progs.keys
  let c := s.setSch (fun x => { x with progs := x.progs.put i g })
  ((c.wr Reg.SCH_PROGS c.sch.progs.length).wf F.SCH_LOAD_STAT_RESULT 0).wf F.SCH_LOAD_STAT_INDEX i

/-! The address `a` and the container `b` stay variables: written out, they would be evaluated as far as the check of the container looks. -/

section load

variable (s : Chip) {image : Bytes} {a : Nat} {b : Bytes} (hidle : s.rf F.SCH_LOAD_STAT_RESULT ≠ 15) (ha : a = s.rd64 Reg.SCH_LOAD_ADDR_LO)
  (hb : b = s.image a (max 256 (le (s.image a 256 image) 80 8)) image)
include hidle ha hb

theorem Chip.loadProgram_refused (hbad : s.loadCheck b ≠ 0) : s.loadProgram image = s.wf F.SCH_LOAD_STAT_RESULT (s.loadCheck b) := by
  unfold Chip.loadProgram
  rw [if_neg hidle, ← ha]
  dsimp only
  rw [← hb]
  cases hcheck : s.loadCheck b with
  | zero => exact absurd hcheck hbad
  | succ k => rfl

theorem Chip.loadProgram_accepted (hgood : s.loadCheck b = 0) : s.loadProgram image = s.keepProgram (progOfBytes b) := by
  unfold Chip.loadProgram
  rw [if_neg hidle, ← ha]
  dsimp only
  rw [← hb, hgood]
  rfl

end load

/-- An unload of a forced program or of an empty index is refused with 7; any other marks its program for the next row 12. -/
theorem Chip.unloadProgram_idle (s : Chip) {i : Nat} (hidle : s.rf F.SCH_LOAD_STAT_RESULT ≠ 15) : s.unloadProgram i
    = if (∃ p ∈ List.range 8, s.schPart p F.SCH_PART_CFG_FORCE_EN = 1 ∧ s.schPart p F.SCH_PART_CFG_FORCE = i) ∨ s.prog i = none then
        s.wf F.SCH_LOAD_STAT_RESULT 7
      else (s.updProg i (fun g => { g with unload := true })).wf F.SCH_LOAD_STAT_RESULT 0 := by
  refine (if_neg hidle).trans ?_
  simp only [Bool.or_eq_true, List.any_eq_true, Bool.and_eq_true, beq_iff_eq, Option.isNone_iff_eq_none]

/-! ## The registry (R195, R196) -/

/-- The result of a registry command. -/
abbrev Chip.regResult (s : Chip) (k : Nat) : Chip := s.wf F.SCH_REG_STAT_RESULT k

/-- What becomes of a model of an image (R196). -/
theorem Chip.registerImage_model (s : Chip) {b : Bytes} (h : le b 0 1 = 1) : s.registerImage b
    = if badId s.sch.models (le b 2 2) = true then s.regResult 1
      else if (modelOfBytes b).kvFormat = 0 ∨ 3 < (modelOfBytes b).kvFormat ∨ (modelOfBytes b).headDim % 32 ≠ 0 ∨ (modelOfBytes b).headDim < 32
        ∨ 256 < (modelOfBytes b).headDim then s.regResult 2
      else if (modelOfBytes b).u = 0 ∨ 8 < (modelOfBytes b).u then s.regResult 3
      else if (modelOfBytes b).fallbackId ≠ 0xFFFF ∧ s.model (modelOfBytes b).fallbackId = none then s.regResult 4
      else if 256 ≤ s.registered then s.regResult 5
      else (s.setSch (fun x => { x with models := x.models.put (le b 2 2) (modelOfBytes b) })).regResult 0 := by
  simp only [Chip.registerImage, h, Bool.or_eq_true, Bool.and_eq_true, decide_eq_true_eq, Option.isNone_iff_eq_none, or_assoc]

/-- What becomes of an adapter of an image (R196). -/
theorem Chip.registerImage_adapter (s : Chip) {b : Bytes} (h : le b 0 1 = 2) : s.registerImage b
    = if badId s.sch.adapters (le b 2 2) = true then s.regResult 1
      else if s.model (le b 4 2) = none then s.regResult 4
      else if 256 ≤ s.registered then s.regResult 5
      else (s.setSch (fun x => { x with
        adapters := x.adapters.put (le b 2 2) { model := le b 4 2, tag := slice b 16 16, weightBytes := le b 32 8 } })).regResult 0 := by
  simp only [Chip.registerImage, h, Option.isNone_iff_eq_none]

theorem Chip.registerImage_other (s : Chip) {b : Bytes} (hmodel : le b 0 1 ≠ 1) (hadapter : le b 0 1 ≠ 2) : s.registerImage b = s.regResult 7 := by
  unfold Chip.registerImage
  dsimp only
  split
  · next h => exact absurd h hmodel
  · next h => exact absurd h hadapter
  · rfl

/-- A deregistration of an unknown ID, of one in use, and of another. -/
theorem Chip.deregister_eq (s : Chip) (adapter : Bool) (i : Nat) : s.deregister adapter i
    = if (if adapter = true then s.sch.adapters.find i = none else s.model i = none) then s.regResult 1
      else if s.regInUse adapter i = true then s.regResult 6
      else (s.setSch (fun x => if adapter = true then { x with adapters := x.adapters.del i } else { x with models := x.models.del i })).regResult 0 := by
  cases adapter with
  | false => simp [Chip.deregister]
  | true => simp [Chip.deregister]

/-! ## Accounts (R230) -/

/-- A command of SCH_ACCT_CTRL that page SCH takes is for the tenant in SCH_ACCT_TENANT. -/
theorem State.run_acctCommand (s : State) {acc : Access} {op : Nat} {ride : Bool} {run : Nat → Chip → Chip} {t : Chip} (hruns : s.runs = true)
    (htakes : s.chip.takes acc Pg.SCH false [] = true) (ht : run (s.chip.rd Reg.SCH_ACCT_TENANT) s.chip = t) :
    s.run (fun c => c.acctCommand acc op ride run) = .next { s with chip := t.settle } :=
  s.run_schCommand (run := fun c => run (c.rd Reg.SCH_ACCT_TENANT) c) hruns htakes ht

theorem Chip.acctRegister_eq (s : Chip) (ride : Bool) (t : Nat) : Chip.acctRegister ride t s
    = if s.acctOf t = none then s.setSch (fun x => { x with acct := x.acct.put (t % 4096) { tenant := t, ride := ride } })
      else s.acct t (fun e => { e with ride := ride }) := by
  unfold Chip.acctRegister
  cases s.acctOf t <;> rfl

theorem Chip.acctRemove_eq (s : Chip) (t : Nat) : Chip.acctRemove t s
    = if s.acctOf t = none then s else s.setSch (fun x => { x with acct := x.acct.del (t % 4096) }) := by
  unfold Chip.acctRemove
  cases s.acctOf t <;> rfl

/-- Settles O53, by the command: each is taken, and has the outcome of its lemma. -/
theorem programsRegistryAndAccounts : Obligations.ProgramsRegistryAndAccounts := by
  rintro s acc res hruns htakes rfl
  refine ⟨?_, ?_, ?_, ?_, ?_, ?_, ?_⟩
  · intro hbusy
    constructor
    · intro image
      show execProgramLoad acc image s = _
      exact s.run_schCommand hruns htakes (s.chip.loadProgram_busy image hbusy)
    · intro i
      show execProgramUnload acc i s = _
      exact s.run_schCommand hruns htakes (s.chip.unloadProgram_busy _ hbusy)
  · intro image a b hidle ha hb
    constructor
    · intro hbad
      show execProgramLoad acc image s = _
      exact s.run_schCommand hruns htakes (s.chip.loadProgram_refused hidle ha hb hbad)
    · intro hgood
      show execProgramLoad acc image s = _
      exact s.run_schCommand hruns htakes (s.chip.loadProgram_accepted hidle ha hb hgood)
  · intro i hidle hi
    show execProgramUnload acc i s = _
    refine s.run_schCommand hruns htakes ?_
    rw [Nat.mod_eq_of_lt hi]
    exact s.chip.unloadProgram_idle hidle
  · rintro image b rfl
    show execRegisterEntry acc image s = _
    refine s.run_schCommand hruns htakes ?_
    split
    · next hmodel => exact s.chip.registerImage_model hmodel
    · next hmodel =>
      split
      · next hadapter => exact s.chip.registerImage_adapter hadapter
      · next hadapter => exact s.chip.registerImage_other hmodel hadapter
  · intro adapter i hi
    show execDeregister acc adapter i s = _
    refine s.run_schCommand hruns htakes ?_
    rw [Nat.mod_eq_of_lt hi]
    exact s.chip.deregister_eq adapter i
  · rintro t rfl
    refine ⟨fun ride => ?_, ?_, ?_⟩
    · show execAcctRegister acc ride s = _
      exact s.run_acctCommand hruns htakes (s.chip.acctRegister_eq ride _)
    · show execAcctRemove acc s = _
      exact s.run_acctCommand hruns htakes (s.chip.acctRemove_eq _)
    · show execAcctClear acc s = _
      exact s.run_acctCommand hruns htakes rfl
  · show execSliceCommit acc s = _
    exact s.run_schCommand hruns htakes rfl

end Sys2Proof.Machine
end

section
/-! Residency (R223–R225, R473), the messages between schedulers (R203, R206, R207, R218) and the gang barrier (R203). -/

namespace Sys2Proof.Machine

open Sys2Proof

/-! ## Commands of SCH_RES_CTRL (R223) -/

section command

variable (s : State) {acc : Access} {op p i : Nat} {adapter : Bool} {run : Nat → Nat → Chip → Chip} (hruns : s.runs = true) (hp : p < 8)
  (hi : i < 65536) (htakes : s.chip.takes acc Pg.SCH false [p] = true) (hidle : s.chip.rf F.SCH_RES_STAT_RESULT ≠ 15)
include hruns hp hi htakes hidle

/-- A command that the register takes for a partition that does not exist ends with 7. -/
theorem State.run_resCommand_noPartition (hno : s.chip.partExists p = false) :
    s.run (fun c => c.resCommand acc op (p % 8) adapter (i % 65536) (run (p % 8) (i % 65536)))
      = .next { s with chip := (s.chip.resResult p adapter i 7).settle } := by
  rw [Nat.mod_eq_of_lt hp, Nat.mod_eq_of_lt hi]
  refine s.run_to hruns ((s.chip.command_taken _ _ _ _ htakes).trans ?_)
  simp only [if_neg hidle, hno, Bool.not_false, if_true]

/-- A command that the register takes for a partition that exists is done. -/
theorem State.run_resCommand {t : Chip} (hpart : s.chip.partExists p = true) (ht : run p i s.chip = t) :
    s.run (fun c => c.resCommand acc op (p % 8) adapter (i % 65536) (run (p % 8) (i % 65536))) = .next { s with chip := t.settle } := by
  rw [Nat.mod_eq_of_lt hp, Nat.mod_eq_of_lt hi]
  refine s.run_to hruns ((s.chip.command_taken _ _ _ _ htakes).trans ?_)
  simp only [if_neg hidle, hpart, Bool.not_true, Bool.false_eq_true, if_false, ht]

end command

/-! ## Loads (R223, R224) -/

section residency

variable (s : Chip) {p i : Nat} {adapter : Bool}

theorem Chip.resLoad_unregistered (hw : s.weightOf adapter i = none) : s.resLoad p adapter i = s.resResult p adapter i 1 := by
  simp only [Chip.resLoad, hw]

theorem Chip.resLoad_known {size : Nat} {r : Residency} (hw : s.weightOf adapter i = some size) (hr : s.residency p adapter i = some r) :
    s.resLoad p adapter i = s.resResult p adapter i (if r.resident = true then 0 else 4) := by
  simp only [Chip.resLoad, hw, hr]

/-- A load with room is started: its entry is LOADING, and its bundle awaited. -/
theorem Chip.startLoad_of_weight {size : Nat} (hw : s.weightOf adapter i = some size) : s.startLoad p adapter i
    = (s.setSch (fun x => { x with
        res := x.res ++ [({ part := p, adapter := adapter, id := i, size := size } : Residency)], loads := x.loads ++ [(p, adapter, i)] })).resResult
        p adapter i 0 := by
  simp only [Chip.startLoad, hw, Option.getD_some]

/-- The eviction of victims that stands before a load. -/
def evictFor (p : Nat) (v : List Residency) (adapter : Bool) (i : Nat) : EvictCmd :=
  { part := p, victims := v.map (fun r => (r.adapter, r.id)), load := some (adapter, i) }

section absent

variable {size : Nat} (hw : s.weightOf adapter i = some size) (hr : s.residency p adapter i = none)
include hw hr

theorem Chip.resLoad_fits (hroom : s.resUsed p + size ≤ s.rd (Reg.SCH_RES_QUOTA + 4 * p) * 2 ^ 20) :
    s.resLoad p adapter i = s.startLoad p adapter i := by
  simp only [Chip.resLoad, hw, hr, if_pos hroom]

theorem Chip.resLoad_evicts {v : List Residency} (hroom : ¬ s.resUsed p + size ≤ s.rd (Reg.SCH_RES_QUOTA + 4 * p) * 2 ^ 20)
    (hv : s.victimsFor p (s.resUsed p + size - s.rd (Reg.SCH_RES_QUOTA + 4 * p) * 2 ^ 20) = some v) : s.resLoad p adapter i
      = (s.setSch (fun x => { x with evicts := x.evicts ++ [evictFor p v adapter i] })).resResult p adapter i 15 := by
  simp only [Chip.resLoad, hw, hr, if_neg hroom, hv, evictFor]

theorem Chip.resLoad_noRoom (hroom : ¬ s.resUsed p + size ≤ s.rd (Reg.SCH_RES_QUOTA + 4 * p) * 2 ^ 20)
    (hv : s.victimsFor p (s.resUsed p + size - s.rd (Reg.SCH_RES_QUOTA + 4 * p) * 2 ^ 20) = none) :
    s.resLoad p adapter i = s.resResult p adapter i 3 := by
  simp only [Chip.resLoad, hw, hr, if_neg hroom, hv]

end absent

/-! ## Evictions and pins (R224, R225) -/

theorem Chip.resEvict_unregistered (hw : s.weightOf adapter i = none) (hr : s.residency p adapter i = none) :
    s.resEvict p adapter i = s.resResult p adapter i 1 := by
  simp only [Chip.resEvict, hw, hr]

theorem Chip.resEvict_absent {size : Nat} (hw : s.weightOf adapter i = some size) (hr : s.residency p adapter i = none) :
    s.resEvict p adapter i = s.resResult p adapter i 2 := by
  simp only [Chip.resEvict, hw, hr]

/-- An entry that loads is not evicted, nor one that is in use; the eviction of another waits for row 7. -/
theorem Chip.resEvict_known {r : Residency} (hr : s.residency p adapter i = some r) : s.resEvict p adapter i
    = if r.resident = false then s.resResult p adapter i 2
      else if s.evictableRes r = true then
        (s.setSch (fun x => { x with evicts := x.evicts ++ [({ part := p, victims := [(adapter, i)] } : EvictCmd)] })).resResult p adapter i 15
      else s.resResult p adapter i 4 := by
  cases hw : s.weightOf adapter i <;> simp only [Chip.resEvict, hw, hr, Bool.not_eq_true']

theorem Chip.resPin_unregistered (on : Bool) (hw : s.weightOf adapter i = none) (hr : s.residency p adapter i = none) :
    s.resPin on p adapter i = s.resResult p adapter i 1 := by
  simp only [Chip.resPin, hw, hr]

theorem Chip.resPin_absent (on : Bool) {size : Nat} (hw : s.weightOf adapter i = some size) (hr : s.residency p adapter i = none) :
    s.resPin on p adapter i = s.resResult p adapter i 2 := by
  simp only [Chip.resPin, hw, hr]

theorem Chip.resPin_known (on : Bool) {r : Residency} (hr : s.residency p adapter i = some r) : s.resPin on p adapter i
    = if r.resident = true then (s.updRes p adapter i (fun r => { r with pinned := on })).resResult p adapter i 0
      else s.resResult p adapter i 2 := by
  cases hw : s.weightOf adapter i <;> simp only [Chip.resPin, hw, hr]

end residency

/-! ## The end of a load (R473) -/

theorem Chip.loadFinished_unawaited (s : Chip) {p i : Nat} {adapter : Bool} (b : Bytes) (hno : ¬ (p, adapter, i) ∈ s.sch.loads) :
    s.loadFinished p adapter i b = s := by
  unfold Chip.loadFinished
  exact if_pos (by simpa using hno)

section finished

variable (s : Chip) {p i : Nat} {adapter : Bool} {b : Bytes} {c : Chip} (hload : (p, adapter, i) ∈ s.sch.loads)
  (hc : c = s.setSch (fun x => { x with loads := x.loads.erase (p, adapter, i) }))
include hload hc

/-- A bundle that fails one of checks 1 to 6 is refused with its number. -/
theorem Chip.loadFinished_refused (hbad : c.bundleReason p adapter i b ≠ 0) :
    s.loadFinished p adapter i b = c.bundleRefused p adapter i (c.bundleReason p adapter i b) := by
  unfold Chip.loadFinished
  rw [if_neg (by simpa using hload), ← hc]
  dsimp only
  cases hreason : c.bundleReason p adapter i b with
  | zero => exact absurd hreason hbad
  | succ k => rfl

/-- The chunks of a bundle that passes go to the weights' places, or zeros where check 7 fails. -/
theorem Chip.loadFinished_unwrapped {wsk : Bytes} {good : List Bytes} (hgood : c.bundleReason p adapter i b = 0) (hwsk : c.unwrap b = some wsk)
    (hchunks : good = goodChunks b wsk (le b 36 4) 0) : s.loadFinished p adapter i b
      = if good.length = le b 36 4 then
          ((Chip.writeImage (c.imageUnits (c.weightObjects p adapter i)) good.flatten
            ((c.wf F.SEC_BUNDLE_STAT_REASON 0).wf F.SEC_BUNDLE_STAT_PARTITION p)).updRes p adapter i (fun r => { r with loaded := true })).resResult p adapter i 0
        else (Chip.writeImage (c.imageUnits (c.weightObjects p adapter i)) (zeros good.flatten.length) c).bundleRefused p adapter i 7 := by
  unfold Chip.loadFinished
  rw [if_neg (by simpa using hload), ← hc]
  dsimp only
  rw [hgood, hwsk, hchunks]
  rfl

end finished

/-! ## Messages between schedulers (R203, R206, R218) -/

theorem badSched_iff (b : Bytes) (type : Nat) : badSched b type = true ↔ le b 0 1 ≠ type ∨ b.length ≠ 32 := by
  simp [badSched]

theorem badSched_of_whole {b : Bytes} {type : Nat} (hsize : b.length = 32) (htype : le b 0 1 = type) : badSched b type = false := by
  simp [badSched, hsize, htype]

theorem Chip.bidIn_bad (s : Chip) (src : MsgSrc) {b : Bytes} (h : badSched b 1 = true) : s.bidIn src b = s.raise Pg.SCH 4 := if_pos h

theorem Chip.offerIn_bad (s : Chip) (src : MsgSrc) {b : Bytes} (h : badSched b 2 = true) : s.offerIn src b = s.raise Pg.SCH 4 := if_pos h

theorem Chip.voidIn_bad (s : Chip) (src : MsgSrc) {b : Bytes} (h : badSched b 3 = true) : s.voidIn src b = s.raise Pg.SCH 4 := if_pos h

/-- The Bid of a message. -/
def bidOfBytes (src : MsgSrc) (b : Bytes) : BidRec :=
  { step := le b 8 8, dev := le b 2 2, part := le b 1 1, dst := src.dstPart, count := le b 4 4, ctx := le b 16 4, model := le b 20 2 }

/-- The Offer of a message. -/
def offerOfBytes (src : MsgSrc) (b : Bytes) : OfferRec :=
  { step := le b 8 8, dev := le b 2 2, part := le b 1 1, dst := src.dstPart, room := le b 4 4, model := le b 16 2 }

theorem Chip.bidIn_whole (s : Chip) (src : MsgSrc) {b : Bytes} (h : badSched b 1 = false) :
    s.bidIn src b = s.setSch (fun x => { x with bids := x.bids ++ [bidOfBytes src b] }) := if_neg (by simp [h])

theorem Chip.offerIn_whole (s : Chip) (src : MsgSrc) {b : Bytes} (h : badSched b 2 = false) :
    s.offerIn src b = s.setSch (fun x => { x with offers := x.offers ++ [offerOfBytes src b] }) := if_neg (by simp [h])

@[simp] theorem Chip.step_setSch (s : Chip) (f : Sch → Sch) : (s.setSch f).step = s.step := rfl

/-- A Void is noted, and voids the step that it names where that is the one that runs. -/
theorem Chip.voidIn_whole (s : Chip) (src : MsgSrc) {b : Bytes} {d : Chip} (h : badSched b 3 = false)
    (hd : d = s.setSch (fun x => { x with voids := x.voids ++ [(le b 8 8, src.dstPart, le b 2 2)] })) :
    s.voidIn src b = if le b 8 8 = s.step then d.voidStep src.dstPart else d := by
  unfold Chip.voidIn
  rw [if_neg (by simp [h]), ← hd]
  dsimp only
  rw [hd, Chip.step_setSch]

theorem Chip.voidStep_unselected (s : Chip) {p : Nat} (h : s.sel p = none) : s.voidStep p = s := by
  simp only [Chip.voidStep, h]

/-- A selection that has neither run nor been voided is voided, and counted. -/
theorem Chip.voidStep_selected (s : Chip) {p : Nat} {x : Sel} (h : s.sel p = some x) : s.voidStep p
    = if x.voided = true ∨ x.ran = true then s
      else ((s.updSel p (fun y => { y with voided := true })).cnt Reg.SCH_VOID).raise Pg.SCH 1 := by
  simp only [Chip.voidStep, h, Bool.or_eq_true]

/-! ## The gang barrier (R203) -/

/-- A bound generation request whose items did not fail takes U tokens. -/
theorem Chip.stepGen_eq (s : Chip) (samples : List (Nat × List (List (Nat × Nat)))) (barred : List Nat) (i : Nat) : s.stepGen samples barred i
    = if (s.rte i).any (fun r => r.state == .generating && r.flags.bound && !barred.contains r.rid) = true then
        s.sampleTokens i (logitsFor samples ((s.rte i).elim 0 (·.rid))) ((s.rte i).elim 1 s.uOf)
      else s := by
  cases h : s.rte i with
  | none => simp [Chip.stepGen, h]
  | some r => simp [Chip.stepGen, h]

/-- A bound prefill request that stays short of its prompt's end advances. -/
theorem Chip.stepPrefill_advances (s : Chip) (samples : List (Nat × List (List (Nat × Nat)))) {barred : List Nat} {i n : Nat} {r : Rte}
    (hr : s.rte i = some r) (hstate : r.state = .prefill ∨ r.state = .rebuilding) (hbound : r.flags.bound = true) (hmay : ¬ r.rid ∈ barred)
    (hshort : r.cursor + n < r.len) : s.stepPrefill samples barred i n = s.putRte i { r with prefilled := r.cursor + n } := by
  have hstep : (!(r.state == .prefill || r.state == .rebuilding) || !r.flags.bound || barred.contains r.rid) = false := by
    simpa [hbound, hmay, or_iff_not_imp_left] using hstate
  simp only [Chip.stepPrefill, hr, hstep, Bool.false_eq_true, if_false, if_pos hshort]

section barrier

variable (s : Chip) {p : Nat} (samples : List (Nat × List (List (Nat × Nat)))) {missing : Bool}

theorem Chip.barrier_unselected (h : s.sel p = none) : s.barrier p samples missing = s := by
  simp only [Chip.barrier, h]

variable {x : Sel} (hx : s.sel p = some x)
include hx

theorem Chip.barrier_over (hover : x.ran = true ∨ x.voided = true) : s.barrier p samples missing = s := by
  simp only [Chip.barrier, hx]
  exact if_pos (by simpa using hover)

variable (hran : x.ran = false) (hvoided : x.voided = false)
include hran hvoided

/-- A member that is missing, or a Void that has come, voids the step. -/
theorem Chip.barrier_voids (hvoid : missing = true ∨ s.sch.voids.any (fun v => v.1 == s.step && v.2.1 == p) = true) :
    s.barrier p samples missing = ((s.updSel p (fun y => { y with voided := true })).cnt Reg.SCH_VOID).raise Pg.SCH 1 := by
  have hstep : (missing || s.sch.voids.any (fun v => v.1 == s.step && v.2.1 == p)) = true := by simpa using hvoid
  simp only [Chip.barrier, hx, hran, hvoided, Bool.or_self, Bool.false_eq_true, if_false, hstep, if_true, Chip.voidStep_selected s hx, or_self]

/-- Otherwise the program has run: its requests take their tokens, then those that ride along or fill its places. -/
theorem Chip.barrier_runs {c : Chip} {g : Prog} (hmissing : missing = false)
    (hvoids : s.sch.voids.any (fun v => v.1 == s.step && v.2.1 == p) = false) (hc : c = s.updSel p (fun y => { y with ran := true }))
    (hg : c.prog x.prog = some g) : s.barrier p samples missing
      = (if g.kind = 1 then c.each (x.bound.map (fun q => q.1)) (fun d i => d.stepGen samples x.unanswered i)
          else c.each x.bound (fun d b => d.stepPrefill samples x.unanswered b.1 b.2)).each (x.ride ++ x.back)
          (fun d b => d.stepPrefill samples x.unanswered b.1 b.2) := by
  simp only [Chip.barrier, hx, hran, hvoided, hmissing, hvoids, Bool.or_self, Bool.false_eq_true, if_false, ← hc, hg]

end barrier

/-- Settles O54, by the command or message: each has the outcome of its lemma. -/
theorem residencyBidsAndBarriers : Obligations.ResidencyBidsAndBarriers := by
  intro s hruns
  refine ⟨?_, ?_, ?_, ?_⟩
  · rintro acc p adapter i res hp hi htakes hidle rfl
    constructor
    · intro hno
      refine ⟨?_, ?_, ?_, ?_⟩
      · show execResidencyLoad acc p adapter i s = _
        exact s.run_resCommand_noPartition (run := fun p i c => c.resLoad p adapter i) hruns hp hi htakes hidle hno
      · show execResidencyEvict acc p adapter i s = _
        exact s.run_resCommand_noPartition (run := fun p i c => c.resEvict p adapter i) hruns hp hi htakes hidle hno
      · show execResidencyPin acc p adapter i s = _
        exact s.run_resCommand_noPartition (run := fun p i c => c.resPin true p adapter i) hruns hp hi htakes hidle hno
      · show execResidencyUnpin acc p adapter i s = _
        exact s.run_resCommand_noPartition (run := fun p i c => c.resPin false p adapter i) hruns hp hi htakes hidle hno
    · intro hpart
      refine ⟨?_, ?_, ?_⟩
      · rintro room used rfl rfl
        show execResidencyLoad acc p adapter i s = _
        refine s.run_resCommand (run := fun p i c => c.resLoad p adapter i) hruns hp hi htakes hidle hpart ?_
        cases hw : s.chip.weightOf adapter i with
        | none => exact s.chip.resLoad_unregistered hw
        | some size =>
          cases hr : s.chip.residency p adapter i with
          | some r => exact s.chip.resLoad_known hw hr
          | none =>
            dsimp only
            split
            · next hroom => exact (s.chip.resLoad_fits hw hr hroom).trans (s.chip.startLoad_of_weight hw)
            · next hroom =>
              split
              · next v hv => exact s.chip.resLoad_evicts hw hr hroom hv
              · next hv => exact s.chip.resLoad_noRoom hw hr hroom hv
      · show execResidencyEvict acc p adapter i s = _
        refine s.run_resCommand (run := fun p i c => c.resEvict p adapter i) hruns hp hi htakes hidle hpart ?_
        cases hr : s.chip.residency p adapter i with
        | some r =>
          refine (s.chip.resEvict_known hr).trans ?_
          cases s.chip.weightOf adapter i <;> rfl
        | none =>
          cases hw : s.chip.weightOf adapter i with
          | none => exact s.chip.resEvict_unregistered hw hr
          | some size => exact s.chip.resEvict_absent hw hr
      · intro pin hpin
        have hresPin : ∀ on, s.chip.resPin on p adapter i = pin on := by
          intro on
          rw [hpin]
          cases hr : s.chip.residency p adapter i with
          | some r =>
            refine (s.chip.resPin_known on hr).trans ?_
            cases s.chip.weightOf adapter i <;> rfl
          | none =>
            cases hw : s.chip.weightOf adapter i with
            | none => exact s.chip.resPin_unregistered on hw hr
            | some size => exact s.chip.resPin_absent on hw hr
        constructor
        · show execResidencyPin acc p adapter i s = _
          exact s.run_resCommand (run := fun p i c => c.resPin true p adapter i) hruns hp hi htakes hidle hpart (hresPin true)
        · show execResidencyUnpin acc p adapter i s = _
          exact s.run_resCommand (run := fun p i c => c.resPin false p adapter i) hruns hp hi htakes hidle hpart (hresPin false)
  · intro p adapter i b
    constructor
    · intro hno
      show execLoadFinished p adapter i b s = _
      exact s.run_to hruns (s.chip.loadFinished_unawaited b hno)
    · intro hload c hc
      constructor
      · intro hbad
        show execLoadFinished p adapter i b s = _
        exact s.run_to hruns (s.chip.loadFinished_refused hload hc hbad)
      · intro wsk good hgood hwsk hchunks
        have hend := s.chip.loadFinished_unwrapped hload hc hgood hwsk hchunks
        constructor
        · intro hall
          show execLoadFinished p adapter i b s = _
          exact s.run_to hruns (hend.trans (if_pos hall))
        · intro hfail
          show execLoadFinished p adapter i b s = _
          exact s.run_to hruns (hend.trans (if_neg hfail))
  · intro src b c hc
    refine ⟨?_, ?_, ?_, ?_, ?_, ?_⟩
    · intro hbad
      show execBid src b s = _
      exact s.run_message (fun x => x.bidIn src b) hruns hc (c.bidIn_bad src ((badSched_iff b 1).2 hbad))
    · intro hbad
      show execOffer src b s = _
      exact s.run_message (fun x => x.offerIn src b) hruns hc (c.offerIn_bad src ((badSched_iff b 2).2 hbad))
    · intro hbad
      show execVoid src b s = _
      exact s.run_message (fun x => x.voidIn src b) hruns hc (c.voidIn_bad src ((badSched_iff b 3).2 hbad))
    · intro hsize htype
      show execBid src b s = _
      exact s.run_message (fun x => x.bidIn src b) hruns hc (c.bidIn_whole src (badSched_of_whole hsize htype))
    · intro hsize htype
      show execOffer src b s = _
      exact s.run_message (fun x => x.offerIn src b) hruns hc (c.offerIn_whole src (badSched_of_whole hsize htype))
    · intro hsize htype d hd
      have hvoid := c.voidIn_whole src (badSched_of_whole hsize htype) hd
      constructor
      · intro hno
        show execVoid src b s = _
        refine s.run_message (fun x => x.voidIn src b) hruns hc (hvoid.trans ?_)
        obtain hother | hnone := hno
        · exact if_neg hother
        · rw [d.voidStep_unselected hnone, ite_self]
      · intro x hnow hx
        show execVoid src b s = _
        exact s.run_message (fun x => x.voidIn src b) hruns hc (hvoid.trans ((if_pos hnow).trans (d.voidStep_selected hx)))
  · intro p samples missing hp
    have hexec : ∀ t, s.chip.barrier p samples missing = t → exec (.gangBarrier p samples missing) s = .next { s with chip := t.settle } := by
      intro t ht
      show execGangBarrier p samples missing s = _
      exact s.run_to hruns (by rw [Nat.mod_eq_of_lt hp, ht])
    refine ⟨fun hnone => hexec _ (s.chip.barrier_unselected samples hnone), ?_⟩
    intro x hx
    refine ⟨?_, ?_, ?_⟩
    · intro hover
      exact hexec _ (s.chip.barrier_over samples hx hover)
    · intro hran hvoided hvoid
      exact hexec _ (s.chip.barrier_voids samples hx hran hvoided hvoid)
    · intro hran hvoided hmissing hvoids c g hc hg
      have hbarrier := s.chip.barrier_runs samples hx hran hvoided hmissing hvoids hc hg
      refine ⟨?_, ?_, ?_⟩
      · intro hgen
        refine hexec _ (hbarrier.trans ?_)
        simp only [if_pos hgen, Chip.stepGen_eq]
      · intro hprefill
        exact hexec _ (hbarrier.trans (by rw [if_neg hprefill]))
      · intro i n r hprefill hbound hrest hr hstate hflag hmay hshort
        refine hexec _ (hbarrier.trans ?_)
        rw [if_neg hprefill, hbound, hrest]
        exact c.stepPrefill_advances samples hr hstate hflag hmay hshort

end Sys2Proof.Machine
end

section
/-! Sedge commands (R251, R253, R254, R261–R263, R268): the turn at the inlet, the refusals, and the work of each opcode. -/

namespace Sys2Proof.Machine

open Sys2Proof

/-! ## Units that wait for the host (R431) -/

/-- A unit's command that meets lines of the snoop filter asks the host for them, and waits. -/
theorem Chip.devAccess_met (s : Chip) (i : Instr) (f : Chip → Chip) (h : (f s).cxl.touched ≠ []) :
    s.devAccess i f = (s.each (f s).cxl.touched Chip.backInvalidate).setCxl (fun x => { x with heldCmds := x.heldCmds ++ [i] }) := by
  simp [Chip.devAccess, h]

/-- The answer of a unit's command `i` whose work gives the chip `d`: that chip where the work meets no line that the host holds; where it meets
some, the command waits for them and does nothing else. -/
def State.RunsOrWaits (s : State) (i : Instr) (d : Chip) (answer : Host.Outcome State Fault Refusal) : Prop :=
  (d.cxl.touched = [] → answer = .next { s with chip := d.settle })
  ∧ (d.cxl.touched ≠ [] → answer = .next { s with chip :=
      ((s.chip.each d.cxl.touched Chip.backInvalidate).setCxl (fun x => { x with heldCmds := x.heldCmds ++ [i] })).settle })

/-- On a module that runs, a unit's command does its work or waits. -/
theorem State.run_devAccess (s : State) (i : Instr) {f : Chip → Chip} {d : Chip} (hruns : s.runs = true) (hd : f s.chip = d) :
    s.RunsOrWaits i d (s.run (fun c => c.devAccess i f)) := by
  subst hd
  constructor
  · intro hfree
    exact s.run_to hruns (s.chip.devAccess_unmet i f hfree)
  · intro hmet
    exact s.run_to hruns (s.chip.devAccess_met i f hmet)

/-- A command that names a unit of the module is a command. -/
theorem State.runOn_named (s : State) {p : Prop} [Decidable p] (f : Chip → Chip) (hp : p) : s.runOn (decide p) f = s.run f := by
  simp [State.runOn, hp]

/-! ## The inlet (R229, R251, R253, R254) -/

/-- The tile that issues a command, if one does. -/
def issuingTile : SedgeFrom → Option Nat
  | .tile t => some t
  | _ => none

/-- The turn of a command, from the moment it comes to the inlet: that of its static sequence for a tile's, else the present. -/
theorem Chip.sedgeTurn_eq (s : Chip) {stack : Nat} {frm : SedgeFrom} {word : Bytes} {turn : SedgeTurn} {tile : Option Nat} {c₀ c : Chip}
    (htile : ∀ t, frm = .tile t → tile = some t ∧ c₀ = s.toOffset ((s.staticStart stack t word).getD 0))
    (hother : (∀ t, frm ≠ .tile t) → tile = none ∧ c₀ = s)
    (hc : c = if arbWait 19 c₀.sch.rot (c₀.requester frm) turn.rivals ≤ c₀.rd Reg.SCH_ARB_MAXWAIT then c₀
      else c₀.wr Reg.SCH_ARB_MAXWAIT (arbWait 19 c₀.sch.rot (c₀.requester frm) turn.rivals)) :
    tile = issuingTile frm ∧ c = s.sedgeTurn stack frm word turn := by
  cases frm with
  | tile t =>
    obtain ⟨rfl, rfl⟩ := htile t rfl
    exact ⟨rfl, hc⟩
  | inlet p =>
    obtain ⟨rfl, rfl⟩ := hother (fun _ => SedgeFrom.noConfusion)
    exact ⟨rfl, hc⟩
  | mover p =>
    obtain ⟨rfl, rfl⟩ := hother (fun _ => SedgeFrom.noConfusion)
    exact ⟨rfl, hc⟩
  | host =>
    obtain ⟨rfl, rfl⟩ := hother (fun _ => SedgeFrom.noConfusion)
    exact ⟨rfl, hc⟩

/-- A refusal is a sequencer fault of the tile that issued the command; without one, an error of the stack's page. -/
theorem Chip.sedgeRefused_eq (s : Chip) (stack : Nat) (frm : SedgeFrom) : s.sedgeRefused stack frm
    = (issuingTile frm).elim (s.raise (Pg.sdg stack) 4) (fun t => s.seqFault t (((s.logicalOf t).bind s.ltOwner).getD (s.tile t).part) false) := by
  cases frm <;> rfl

/-- A command that an issuer may issue finds its stack up, so a READ runs as the others do (R502). -/
theorem Chip.sedgeFor_issued (s : Chip) {stack : Nat} {frm : SedgeFrom} {word : Bytes} (f : Chip → Chip)
    (hissues : s.sedgeIssues stack frm word = true) : s.sedgeFor stack frm f = f s := by
  have hup : s.rf (F.MEM_STAT_STATE.on (Pg.mem stack)) ≠ 3 := by
    simp only [Chip.sedgeIssues, Chip.sedgeUp, Bool.and_eq_true, bne_iff_ne] at hissues
    exact hissues.1.2.2
  cases frm with
  | tile t => simp [Chip.sedgeFor, hup]
  | _ => rfl

/-- The work of a command that may run now: its operands are placed, the words in error met, and the bank's segment noted. -/
def Chip.sedgeRan (c : Chip) (stack : Nat) (frm : SedgeFrom) (word : Bytes) (turn : SedgeTurn) (ecc : List WordErr) (ends : Nat) (data : Bytes)
    (run : Chip → Chip) : Chip :=
  let was := (if data = [] then c else c.setOpnd stack (SedgeCmd.ofBytes word).opnd data).each ecc (fun x e => x.meetWord (sedgeReader frm) e)
  (run was).noteCommand stack ((was.sedgeParty frm).getD 0) (issuingTile frm) (SedgeCmd.ofBytes word) turn.clocks (ceilDiv data.length 32) ends (was.sdgAt stack)

section inlet

variable {s c : Chip} {stack op ends : Nat} {frm : SedgeFrom} {word data : Bytes} {turn : SedgeTurn} {ecc : List WordErr}
  (run : Chip → SedgeCmd → Chip) (hissues : s.sedgeIssues stack frm word = true) (hc : c = s.sedgeTurn stack frm word turn)
include hissues hc

/-- A command whose opcode is not its row's, or that names a place outside its own, is refused. -/
theorem Chip.sedgeCommand_refused (hbad : (SedgeCmd.ofBytes word).opcode ≠ op ∨ c.sedgeOutside stack frm (SedgeCmd.ofBytes word) = true) :
    s.sedgeCommand stack op frm word data turn ecc run = c.sedgeRefused stack frm := by
  have hrefused : (decide ((SedgeCmd.ofBytes word).opcode ≠ op) || c.sedgeOutside stack frm (SedgeCmd.ofBytes word)) = true := by simpa using hbad
  subst hc
  refine (if_neg (by simp [hissues])).trans ?_
  exact if_pos hrefused

/-- A command that may run now does its work. -/
theorem Chip.sedgeCommand_runs (hop : (SedgeCmd.ofBytes word).opcode = op) (hin : c.sedgeOutside stack frm (SedgeCmd.ofBytes word) = false)
    (hmay : c.sedgeMay stack frm (SedgeCmd.ofBytes word) = some ends) : s.sedgeCommand stack op frm word data turn ecc run
      = c.sedgeRan stack frm word turn ecc ends data (fun x => run x (SedgeCmd.ofBytes word)) := by
  have hgood : ¬ (decide ((SedgeCmd.ofBytes word).opcode ≠ op) || c.sedgeOutside stack frm (SedgeCmd.ofBytes word)) = true := by simp [hop, hin]
  subst hc
  refine (if_neg (by simp [hissues])).trans ((if_neg hgood).trans ?_)
  simp only [hmay, List.isEmpty_iff]
  cases frm <;> rfl

end inlet

section issued

variable (s : State) {c d : Chip} {stack op ends : Nat} {frm : SedgeFrom} {word data : Bytes} {turn : SedgeTurn} {ecc : List WordErr}
  (run : Chip → SedgeCmd → Chip) (hruns : s.runs = true) (hstack : stack < 24) (hissues : s.chip.sedgeIssues stack frm word = true)
  (hc : c = s.chip.sedgeTurn stack frm word turn)
include hruns hstack hissues hc

/-- On a module that runs, a command that may run now does its work, or waits for the lines that the host holds. -/
theorem State.run_sedgeCommand (i : Instr) (hin : c.sedgeOutside stack frm (SedgeCmd.ofBytes word) = false)
    (hmay : c.sedgeMay stack frm (SedgeCmd.ofBytes word) = some ends) (hop : (SedgeCmd.ofBytes word).opcode = op)
    (hd : d = c.sedgeRan stack frm word turn ecc ends data (fun x => run x (SedgeCmd.ofBytes word))) {f : Chip → Chip}
    (hf : f s.chip = s.chip.sedgeCommand stack op frm word data turn ecc run) :
    s.RunsOrWaits i d (s.runOn (decide (stack < 24)) (fun c => c.devAccess i f)) := by
  rw [s.runOn_named _ hstack]
  exact s.run_devAccess i hruns (hf.trans ((Chip.sedgeCommand_runs run hissues hc hop hin hmay).trans hd.symm))

/-- A command that is refused waits for nothing. -/
theorem State.run_sedgeRefused (i : Instr)
    (hbad : (SedgeCmd.ofBytes word).opcode ≠ op ∨ c.sedgeOutside stack frm (SedgeCmd.ofBytes word) = true)
    (hd : d = c.sedgeRefused stack frm) (hfree : d.cxl.touched = []) {f : Chip → Chip}
    (hf : f s.chip = s.chip.sedgeCommand stack op frm word data turn ecc run) :
    s.runOn (decide (stack < 24)) (fun c => c.devAccess i f) = .next { s with chip := d.settle } := by
  rw [s.runOn_named _ hstack]
  exact (s.run_devAccess i hruns (hf.trans ((Chip.sedgeCommand_refused run hissues hc hbad).trans hd.symm))).1 hfree

end issued

end Sys2Proof.Machine
end

section
/-! Attention at home (R255–R259), refreshes and die sensors (R264, R292, R485), and the obligation on the Sedge groups. -/

namespace Sys2Proof.Machine

open Sys2Proof

/-! ## Attend and Result (R256–R259) -/

/-- A Result of another type, step or length is dropped. -/
theorem Chip.takeResult_dropped (s : Chip) (src : MsgSrc) {b : Bytes} {h : AttendHdr} (hh : h = AttendHdr.ofBytes b)
    (hbad : h.type ≠ 2 ∨ h.step ≠ s.step ∨ b.length ≠ 32 + h.count * h.resultSize) : s.takeResult src b = s := by
  subst hh
  exact if_pos (by simpa [or_assoc] using hbad)

/-- The items of a Result of this step are taken in turn. -/
theorem Chip.takeResult_items (s : Chip) (src : MsgSrc) {b : Bytes} {h : AttendHdr} (hh : h = AttendHdr.ofBytes b) (htype : h.type = 2)
    (hstep : h.step = s.step) (hsize : b.length = 32 + h.count * h.resultSize) : s.takeResult src b
      = s.each ((List.range h.count).map (fun k => slice b (32 + k * h.resultSize) 16)) (fun d i => d.takeResultItem src.dstPart h.layer i) := by
  subst hh
  exact if_neg (by simp [htype, hstep, hsize])

/-- An Attend of another type or length is an error of its gather page. -/
theorem Chip.serveAttend_bad (s : Chip) (src : MsgSrc) {b : Bytes} {h : AttendHdr} (turn : InletTurn) (ecc : List WordErr)
    (hh : h = AttendHdr.ofBytes b) (hbad : h.type ≠ 1 ∨ b.length ≠ 32 + h.count * h.itemSize) :
    s.serveAttend src b turn ecc = s.raise (s.gatherPage src.dstPart h) 4 := by
  subst hh
  exact if_pos (by simpa using hbad)

/-- The inlet as it begins on an Attend: in the partition's slice unless the Attend is late, the words in error met and the stops noted. -/
def Chip.attendBegins (s : Chip) (p : Nat) (h : AttendHdr) (turn : InletTurn) (ecc : List WordErr) : Chip :=
  ((if s.attendLate p h = true then s else s.toOffset (s.serveMoment p h)).each ecc (fun x k => x.meetWord 1 k)).each
    ((turn.stops.map (·.2)).filter (fun st => decide (st < 24))) Chip.inletStopped

/-- The items of an Attend as they are served from chip `e`, in ascending POSITION. -/
def Chip.attendItems (s e : Chip) (p : Nat) (h : AttendHdr) (turn : InletTurn) (ecc : List WordErr) (b : Bytes) : Chip × List (Nat × Bytes) :=
  Chip.serveItems p h ((e.progsFor p).find? (e.progMatches h)) (s.attendLate p h) (turn.stops.map (·.1)) ecc
    (sortBy (fun (x y : Nat × Bytes) => decide (le x.2 8 4 ≤ le y.2 8 4)) ((List.range h.count).map (fun k => (k, slice b (32 + k * h.itemSize) h.itemSize)))) e

/-- A whole Attend is served, and answered in its own order. -/
theorem Chip.serveAttend_served (s : Chip) (src : MsgSrc) {b : Bytes} {h : AttendHdr} {turn : InletTurn} {ecc : List WordErr} {e f : Chip}
    {l : List (Nat × Bytes)} (hh : h = AttendHdr.ofBytes b) (htype : h.type = 1) (hsize : b.length = 32 + h.count * h.itemSize)
    (he : e = s.attendBegins src.dstPart h turn ecc) (hserved : s.attendItems e src.dstPart h turn ecc b = (f, l)) :
    s.serveAttend src b turn ecc = (f.inletWork src.dstPart turn.work).send 5 src.dev src.part src.dstPart
      (({ h with type := 2, scale := 0, srcDev := (f.inletWork src.dstPart turn.work).selfDev, srcPart := src.dstPart, dstPart := src.part } : AttendHdr).toBytes
        ++ (sortBy (fun (x y : Nat × Bytes) => decide (x.1 ≤ y.1)) l).flatMap (·.2)) := by
  obtain ⟨rfl, rfl⟩ := Prod.mk.inj hserved.symm
  subst he hh
  exact if_neg (by simp [htype, hsize])

/-! ## Refresh (R264–R266, R292) -/

/-- The credits of the banks after a refresh, as they are kept: those that are not 0. -/
theorem map_filter_credits (old new : Nat → Int) (l : List Nat) :
    ((l.map (fun b => (b, old b + 1, new b))).filter (fun x => x.2.2 != 0)).map (fun x => (x.1, x.2.2))
      = (l.filter (fun b => new b != 0)).map (fun b => (b, new b)) := by
  rw [List.filter_map, List.map_map]
  rfl

/-- A refresh: `old` are the credits before it and `new` those after it. -/
theorem Chip.refreshStack_eq (s : Chip) {stack : Nat} {ecc : List WordErr} {c d m : Chip} {g : Sdg} {old new : Nat → Int} (hg : g = s.sdgAt stack)
    (hm : m = s.itemRuns stack 20) (hold : old = fun b => g.credit.getD b 0)
    (hnew : new = fun b => creditAfter (s.rf (F.SDG_CFG_REF_AHEAD.on (Pg.sdg stack)) = 1) ((g.running.find b).isSome) (old b))
    (hc : c = (m.wf (F.SDG_REF_STAT_MAXC.on (Pg.sdg stack))
      (max (((List.range 2048).map (fun b => (old b + 1).toNat)).foldl max 0) (m.rf (F.SDG_REF_STAT_MAXC.on (Pg.sdg stack))))).setSdg stack
      (fun y => { y with credit := ((List.range 2048).filter (fun b => new b != 0)).map (fun b => (b, new b)) }))
    (hd : d = c.each (g.running.filter (fun x => decide (8 ≤ old x.1 + 1))) (fun x k => x.forceStop stack k.1 k.2)) :
    s.refreshStack stack ecc = if d.rf (F.MEM_CFG_SCRUB_EN.on (Pg.mem stack)) = 1 then
        (d.scrubbed stack ((List.range 2048).map (fun b => (b, (old b + 1 - new b).toNat)))).each ecc (fun x e => x.meetWord 4 e)
      else d := by
  rw [← map_filter_credits old new] at hc
  subst hd hc hnew hold hm hg
  simp only [Chip.refreshStack, List.map_map, Function.comp_def]

/-- Settles O55, by the command or message: each has the outcome of its lemma. -/
theorem sedgeGroupsRun : Obligations.SedgeGroupsRun := by
  unfold Obligations.SedgeGroupsRun
  refine ⟨?_, ?_, ?_, ?_⟩
  · rintro s stack frm word data turn ecc w ends a tile c₀ c elem note ran held hruns hstack rfl rfl hissues htile hother hc hnote hran rfl
    obtain ⟨rfl, hturn⟩ := s.chip.sedgeTurn_eq htile hother hc
    have hnoted : ∀ was d n, note was d n = d.noteCommand stack ((was.sedgeParty frm).getD 0) (issuingTile frm) (SedgeCmd.ofBytes word) turn.clocks n ends
        (was.sdgAt stack) := by
      intro was d n
      simp only [hnote, Chip.noteCommand, Bool.or_eq_true, decide_eq_true_eq]
    have hworks : ∀ data run, ran data run = c.sedgeRan stack frm word turn ecc ends data run := by
      intro data run
      simp only [hran, hnoted, Chip.sedgeRan]
    constructor
    · intro i op hrow hbad d hd hfree
      have hrefused := hd.trans (c.sedgeRefused_eq stack frm).symm
      have hrefuses : ∀ {i run data ecc} {f : Chip → Chip}, f s.chip = s.chip.sedgeCommand stack op frm word data turn ecc run →
          s.runOn (decide (stack < 24)) (fun c => c.devAccess i f) = .next { s with chip := d.settle } :=
        fun hf => s.run_sedgeRefused _ hruns hstack hissues hturn _ hbad hrefused hfree hf
      simp only [List.mem_cons, List.not_mem_nil, or_false, Prod.mk.injEq] at hrow
      obtain ⟨rfl, rfl⟩ | ⟨rfl, rfl⟩ | ⟨rfl, rfl⟩ | ⟨rfl, rfl⟩ | ⟨rfl, rfl⟩ | ⟨rfl, rfl⟩ | ⟨rfl, rfl⟩ | ⟨rfl, rfl⟩ | ⟨rfl, rfl⟩ | ⟨rfl, rfl⟩ := hrow
      · exact hrefuses rfl
      · exact hrefuses rfl
      · exact hrefuses rfl
      · exact hrefuses rfl
      · exact hrefuses rfl
      · exact hrefuses rfl
      · exact hrefuses (s.chip.sedgeFor_issued _ hissues)
      · exact hrefuses rfl
      · exact hrefuses rfl
      · show execNop stack frm word turn s = _
        exact s.runOn_to hruns hstack ((Chip.sedgeCommand_refused _ hissues hturn hbad).trans hrefused.symm)
    · intro hin hmay
      have hdoes : ∀ {i op data d} {f : Chip → Chip} (run : Chip → SedgeCmd → Chip), (SedgeCmd.ofBytes word).opcode = op →
          d = ran data (fun c => run c (SedgeCmd.ofBytes word)) → f s.chip = s.chip.sedgeCommand stack op frm word data turn ecc run →
          s.RunsOrWaits i d (s.runOn (decide (stack < 24)) (fun c => c.devAccess i f)) :=
        fun run hop hd hf => s.run_sedgeCommand run hruns hstack hissues hturn _ hin hmay hop (hd.trans (hworks _ _)) hf
      refine ⟨?_, ?_, ?_, ?_, ?_, ?_, ?_, ?_, ?_, ?_⟩
      · exact fun hop d hd => hdoes (fun c w => c.runAppend stack ecc w) hop hd rfl
      · exact fun hop d hd => hdoes (fun c w => c.runSummarise stack ecc w) hop hd rfl
      · exact fun hop d hd => hdoes (fun c w => c.runSumwrite stack ecc w) hop hd rfl
      · exact fun hop d hd => hdoes (fun c w => c.runScore stack ecc w) hop hd rfl
      · exact fun hop d hd => hdoes (fun c w => c.runAttend stack ecc w) hop hd rfl
      · rintro k vt hop rfl rfl d hd
        exact hdoes (fun c w => c.runMatvec stack elem ecc w) hop hd rfl
      · intro hop d hd
        refine hdoes (fun c w => c.runRead stack frm ecc w) hop (hd.trans ?_) (s.chip.sedgeFor_issued _ hissues)
        cases frm <;> rfl
      · exact fun hop d hd => hdoes (fun c w => c.runWrite stack (sedgeReader frm == 1) data ecc w) hop hd rfl
      · exact fun hop d hd => hdoes (fun c w => c.runInit stack ecc w) hop hd rfl
      · intro hop d hd
        show execNop stack frm word turn s = _
        exact s.runOn_to hruns hstack ((Chip.sedgeCommand_runs _ hissues hturn hop hin hmay).trans (hd.trans (hnoted _ _ _)).symm)
  · rintro s tile dev part b h hruns htile rfl
    show execAttendSend tile dev part b s = _
    exact s.run_to hruns (if_pos htile)
  · intro s src b c h hruns hc hh
    refine ⟨?_, ?_, ?_⟩
    · intro hbad
      show execResult src b s = _
      exact s.run_message (fun x => x.takeResult src b) hruns hc (c.takeResult_dropped src hh hbad)
    · intro htype hstep hsize
      show execResult src b s = _
      refine s.run_message (fun x => x.takeResult src b) hruns hc ((c.takeResult_items src hh htype hstep hsize).trans ?_)
      simp only [Chip.takeResultItem, Bool.not_eq_true']
    · rintro turn ecc i d rfl hbad hgood
      have hserved : c.serveAttend src b turn ecc = d := by
        by_cases hwhole : h.type = 1 ∧ b.length = 32 + h.count * h.itemSize
        · obtain ⟨htype, hsize⟩ := hwhole
          obtain ⟨e, f, l, he, hitems, hd⟩ := hgood htype hsize
          exact (c.serveAttend_served src hh htype hsize he hitems).trans hd.symm
        · have hno := not_and_or.1 hwhole
          exact (c.serveAttend_bad src turn ecc hh hno).trans (hbad hno).symm
      subst hc
      exact s.run_devAccess (.attendMessage src b turn ecc) hruns hserved
  · intro s hruns
    have hon : s.chip.pwr.off = false := (s.runs_iff.1 hruns).1
    constructor
    · intro stack ecc c d m g old new hstack hg hm hold hnew hc hd
      show execRefresh stack ecc s = _
      rw [← s.chip.refreshStack_eq hg hm hold hnew hc hd]
      refine (s.onMgmt_on _ hon).trans ?_
      rw [if_pos hstack]
    · rintro temps c rfl
      show execDieSensorUpdate temps s = _
      exact s.onMgmt_on _ hon

end Sys2Proof.Machine
end

section
/-! Placement descriptors (R286, R297, R298), migration (R288–R290, R504) and the stack interface (R291, R502, R503): the obligation on the memory
tiers. -/

namespace Sys2Proof.Machine

open Sys2Proof

/-! ## Descriptor commands (R286, R297, R298) -/

/-- While a descriptor command is busy, another does nothing. -/
theorem Chip.descCommand_busy (s : Chip) {acc : Access} {op o check : Nat} {parts : List Nat} {run : Chip → Chip}
    (h : s.rf (F.MEM_DESC_STAT_RESULT.on (Pg.mem 0)) = 15) : s.descCommand acc op o parts check run = s := if_pos h

/-- What RESULT and OBJECT show after a command, and the error of a refusal. -/
theorem Chip.descResult_eq (s : Chip) (o r : Nat) : s.descResult o r
    = if r = 0 ∨ r = 15 then (s.wf (F.MEM_DESC_STAT_RESULT.on (Pg.mem 0)) r).wf (F.MEM_DESC_STAT_OBJECT.on (Pg.mem 0)) o
      else ((s.wf (F.MEM_DESC_STAT_RESULT.on (Pg.mem 0)) r).wf (F.MEM_DESC_STAT_OBJECT.on (Pg.mem 0)) o).raise (Pg.mem 0) 4 := by
  simp only [Chip.descResult, Bool.or_eq_true, decide_eq_true_eq]

/-- The outcome of a descriptor command that is taken: `done` where its checks found nothing, else the number of the check that failed. -/
def Chip.descOutcome (s : Chip) (o : Nat) (done : Chip) (check : Nat) : Chip := if check = 0 then done else s.descResult o check

@[simp] theorem Chip.descOutcome_zero (s : Chip) (o : Nat) (done : Chip) : s.descOutcome o done 0 = done := if_pos rfl

@[simp] theorem Chip.descOutcome_succ (s : Chip) (o : Nat) (done : Chip) (k : Nat) : s.descOutcome o done (k + 1) = s.descResult o (k + 1) :=
  if_neg k.succ_ne_zero

section taken

variable (s : Chip) {acc : Access} {o : Nat} {d : Desc} (hidle : s.rf (F.MEM_DESC_STAT_RESULT.on (Pg.mem 0)) ≠ 15)
  (htakes : s.takes acc (Pg.mem 0) false [d.partition] = true)
include hidle htakes

theorem Chip.descCommand_taken (op check : Nat) (run : Chip → Chip) :
    s.descCommand acc op o [d.partition] check run = s.descOutcome o (run s) check :=
  (if_neg hidle).trans (s.command_taken _ _ _ _ htakes)

/-- An install goes through its checks in order, and is kept until it is done (R286). -/
theorem Chip.install_taken {image : Bytes} (himage : s.descImage image = (o, d)) :
    s.descCommand acc 1 (s.descImage image).1 [(s.descImage image).2.partition] (s.installCheck (s.descImage image).1 (s.descImage image).2)
        (fun c => (c.setMemu (fun m => { m with install := some (s.descImage image) })).descResult (s.descImage image).1 15)
      = if d.broken o = true then s.descResult o 1
        else if s.memu.descs.find o ≠ none then s.descResult o 2
        else if s.maskBad d = true then s.descResult o 3
        else if d.sizeBad = true then s.descResult o 4
        else if (s.placed o).any d.overlaps = true then s.descResult o 5
        else (s.setMemu (fun m => { m with install := some (o, d) })).descResult o 15 := by
  rw [himage, s.descCommand_taken hidle htakes, Chip.installCheck]
  simp only [apply_ite (s.descOutcome _ _), Chip.descOutcome_zero, Chip.descOutcome_succ, Option.isSome_iff_ne_none]

/-- A migrate goes through its checks in order, and keeps the new placement (R286, R288). -/
theorem Chip.migrate_taken {image : Bytes} (himage : s.descImage image = (o, d)) :
    s.descCommand acc 2 (s.descImage image).1 [(s.descImage image).2.partition] (s.migrateCheck (s.descImage image).1 (s.descImage image).2)
        (fun c => (c.setMemu (fun m => { m with migs := m.migs.put (s.descImage image).1 { desc := (s.descImage image).2 } })).descResult
          (s.descImage image).1 0)
      = if d.broken o = true then s.descResult o 1
        else match s.memu.descs.find o with
          | none => s.descResult o 2
          | some old =>
            if s.maskBad d = true then s.descResult o 3
            else if d.sizeBad = true then s.descResult o 4
            else if (s.placed o).any d.overlaps = true then s.descResult o 5
            else if old.kind ≠ 1 ∨ d.size ≠ old.size ∨ d.kind ≠ old.kind ∨ d.partition ≠ old.partition ∨ d.use ≠ old.use ∨ d.id ≠ old.id then
              s.descResult o 6
            else if s.objectBusy o old = true then s.descResult o 7
            else (s.setMemu (fun m => { m with migs := m.migs.put o { desc := d } })).descResult o 0 := by
  rw [himage, s.descCommand_taken hidle htakes, Chip.migrateCheck, apply_ite (s.descOutcome _ _), Chip.descOutcome_succ]
  cases s.memu.descs.find o with
  | none => rfl
  | some old =>
    simp only [apply_ite (s.descOutcome _ _), Chip.descOutcome_zero, Chip.descOutcome_succ, Bool.or_eq_true, decide_eq_true_eq, or_assoc]

/-- A free of an object that is placed goes through its checks in order, and removes the descriptor (R286). -/
theorem Chip.free_taken (hplaced : s.memu.descs.find o = some d) :
    s.descCommand acc 3 o ((s.memu.descs.find o).toList.map (·.partition)) (s.freeCheck o)
        (fun c => (c.setMemu (fun m => { m with descs := m.descs.del o })).descResult o 0)
      = if 4079 < o then s.descResult o 1
        else if s.objectBusy o d = true then s.descResult o 7
        else (s.setMemu (fun m => { m with descs := m.descs.del o })).descResult o 0 := by
  rw [Chip.freeCheck, hplaced]
  refine (s.descCommand_taken hidle htakes _ _ _).trans ?_
  simp only [apply_ite (s.descOutcome _ _), Chip.descOutcome_zero, Chip.descOutcome_succ]

end taken

theorem Chip.finishInstall_none (s : Chip) (h : s.memu.install = none) : s.finishInstall = s := by
  rw [Chip.finishInstall, h]

/-- An install that is done: its units are zero, its descriptor is in force and RESULT is 0. -/
theorem Chip.finishInstall_some (s : Chip) {o : Nat} {d : Desc} {c : Chip} (h : s.memu.install = some (o, d))
    (hc : c = s.each (List.range d.units) (fun x u => x.writePhys false (x.remapped (d.unitAddr u)) (zeros d.unit))) : s.finishInstall
      = ((c.setMemu (fun m => { m with install := none, descs := m.descs.put o d })).wf (F.MEM_DESC_STAT_RESULT.on (Pg.mem 0)) 0).wf
          (F.MEM_DESC_STAT_OBJECT.on (Pg.mem 0)) o := by
  subst hc
  rw [Chip.finishInstall, h]
  exact (Chip.descResult_eq _ o 0).trans (if_pos (.inl rfl))

/-! ## Copies and switches (R288–R290, R504) -/

/-- A unit of an object that migrates is copied where the stacks of both its placements are up. -/
theorem Chip.copyUnit_up (s : Chip) {o u : Nat} (ecc : List WordErr) {old : Desc} {m : Migration} {offs : List Nat}
    (hold : s.memu.descs.find o = some old) (hmig : s.memu.migs.find o = some m)
    (hoffs : offs = (List.range (old.unit / 4096)).map (fun k => u * old.unit + 4096 * k)) (hu : u < old.units)
    (hup : offs.any (fun x => s.stackDown (s.placeOf old x) || s.stackDown (s.placeOf m.desc x)) = false) : s.copyUnit o u ecc
      = (s.each offs (fun d x => d.copyWords (d.placeOf old x) (d.placeOf m.desc x) 4096 ecc)).setMemu (fun x =>
          { x with migs := x.migs.put o { m with copied := insertNat u m.copied, dirty := m.dirty.filter (· != u) } }) := by
  subst hoffs
  rw [Chip.copyUnit, hold, hmig]
  refine if_neg ?_
  rw [hup, Bool.or_false, decide_eq_true_eq]
  exact hu.not_ge

/-- A slot that is copied back has its 16 KiB copied, and is marked. -/
theorem Chip.copyBack_up (s : Chip) {a b n : Nat} (ecc : List WordErr) (hremap : s.memu.remaps.find? (fun r => r.1 == a) = some (a, b))
    (hback : s.memu.backs.find a = some n) (hup : s.stackDown a = false) :
    s.copyBack a ecc = (s.copyWords b a 16384 ecc).setMemu (fun m => { m with backs := m.backs.put a 1 }) := by
  rw [Chip.copyBack, hremap, hback, hup]
  rfl

/-- What a switch does in the Boundary window, its lines apart: the switch of an object (R289) or of a slot (R504). -/
def Chip.switchWork (s : Chip) (what : Migrant) (stall : Nat) (ecc : List WordErr) : Chip :=
  match what with
  | .object o _ => (s.touchObject o).switchObject o stall ecc
  | .slot a => (s.meetLines true a 16384).switchSlot a stall ecc

/-- Outside the Boundary window a switch does nothing; in it, it does its work or waits for the host. -/
theorem State.run_migrationSwitch (s : State) {what : Migrant} {stall : Nat} {ecc : List WordErr} {d : Chip} (hruns : s.runs = true)
    (hd : (if s.chip.phase ≠ 0 then s.chip else s.chip.switchWork what stall ecc) = d) :
    s.RunsOrWaits (.migrationSwitch what stall ecc) d (exec (.migrationSwitch what stall ecc) s) :=
  s.run_devAccess (.migrationSwitch what stall ecc) (f := fun c => if c.phase ≠ 0 then c else c.switchWork what stall ecc) hruns hd

/-- An object that is ready for it passes to its new placement, in the last 1,000 ticks of the Boundary window. -/
theorem Chip.switchObject_ready (s : Chip) {o : Nat} (stall : Nat) (ecc : List WordErr) {old : Desc} {m : Migration}
    (hold : s.memu.descs.find o = some old) (hmig : s.memu.migs.find o = some m) (hcopied : old.units ≤ m.copied.length)
    (hdirty : m.dirty.length ≤ s.rd (regAt (Pg.mem 0) Reg.MEM_MIG_DIRTY))
    (hup : m.dirty.any (fun x => s.stackDown (s.placeOf old (x * old.unit)) || s.stackDown (s.placeOf m.desc (x * old.unit))) = false) :
    s.switchObject o stall ecc
      = ((((s.toOffset (s.plan.w - 1000)).each m.dirty (fun d x => d.copyUnit o x ecc)).freeRemaps
          (fun a => (old.unitOf a).any (fun x => decide (x < old.units)))).setMemu (fun x =>
            { x with descs := x.descs.put o m.desc, migs := x.migs.del o })).cntBy (regAt (Pg.mem 0) Reg.MEM_MIG_STALL) stall := by
  have hfreed : (fun a => match old.unitOf a with
      | some u => decide (u < old.units)
      | none => false) = fun a => (old.unitOf a).any (fun x => decide (x < old.units)) := by
    funext a
    cases old.unitOf a <;> rfl
  rw [Chip.switchObject, hold, hmig, ← hfreed]
  refine if_neg ?_
  rw [hup, Bool.or_false, Bool.or_eq_true, decide_eq_true_eq, decide_eq_true_eq]
  omega

/-! ## The stack interface (R291, R503) -/

/-- A management command that names a stack of the module. -/
theorem State.onMgmt_stack (s : State) {stack : Nat} {f : Chip → Chip} {t : Chip} (hruns : s.runs = true) (hstack : stack < 24)
    (ht : f s.chip = t) : s.onMgmt (fun c => if stack < 24 then f c else c) = .next { s with chip := t } := by
  obtain ⟨hon, -⟩ := s.runs_iff.1 hruns
  rw [s.onMgmt_on _ hon, if_pos hstack, ht]

section poll

variable (s : Chip) {stack : Nat} (hup : s.stackState stack = 2)
include hup

theorem Chip.pollStack_answered : s.pollStack stack true = s.setMemu (fun m => { m with misses := m.misses.del stack }) :=
  if_neg (not_not.2 hup)

variable {n : Nat} {c : Chip} (hn : n = s.memu.misses.getD stack 0 + 1) (hc : c = s.cnt (regAt (Pg.mem stack) Reg.MEM_HEARTBEAT_MISS))
include hn hc

/-- Fewer than four polls missed in a row are counted. -/
theorem Chip.pollStack_missed (hfew : n < 4) : s.pollStack stack false = c.setMemu (fun m => { m with misses := m.misses.put stack n }) := by
  subst hn hc
  exact (if_neg (not_not.2 hup)).trans (if_pos hfew)

/-- The fourth poll missed in a row is a stack fault. -/
theorem Chip.pollStack_fault (hmany : 4 ≤ n) :
    s.pollStack stack false = (c.setMemu (fun m => { m with misses := m.misses.del stack })).stackFault stack := by
  subst hn hc
  exact (if_neg (not_not.2 hup)).trans (if_neg hmany.not_gt)

end poll

/-- A stack fault is an event of the stack's channel: permanent, it is a fatal device error, and else the stack's return begins. -/
theorem Chip.stackFault_eq (s : Chip) {stack : Nat} {d : Chip} {perm : Bool}
    (hevent : (((s.wf (F.MEM_STAT_STATE.on (Pg.mem stack)) 3).raise (Pg.mem stack) 2).setMemu (fun m =>
      { m with retrain := m.retrain.put stack 0 })).countEvent (.stack stack) 7 = (d, perm)) :
    s.stackFault stack = if perm = true then d.fatal 2 else d.startReturn (.stack stack) .selfTest := by
  rw [Chip.stackFault, hevent]
  rfl

section retrain

variable (s : Chip) {stack : Nat} (hfault : s.stackState stack = 3) (hstage : s.returning (.stack stack) = some .selfTest)
include hfault hstage

theorem Chip.retrainStack_counts {n : Nat} (h : s.memu.retrain.find stack = some n) :
    s.retrainStack stack = s.setMemu (fun m => { m with retrain := m.retrain.put stack (n + 1) }) := by
  rw [Chip.retrainStack, h]
  exact if_pos (by rw [hfault, hstage]; rfl)

/-- The end of an attempt, by whether the stack trained and kept every bank's credit. -/
theorem Chip.retrainEnds_eq (trained kept : Bool) : s.retrainEnds stack trained kept
    = if (trained && kept) = true then
        ((s.setMemu (fun m => { m with retrain := m.retrain.del stack })).retrainOk (.stack stack)).setStage (.stack stack) .awaiting
      else (s.attemptFailed (.stack stack)).1.stackJudged (s.attemptFailed (.stack stack)).2 :=
  if_neg (by rw [hfault, hstage]; decide)

end retrain

/-- Settles O56, by the command: each has the outcome of its lemma, and a copy or a switch does its work or waits for the host. -/
theorem descriptorsMigrationAndStacks : Obligations.DescriptorsMigrationAndStacks := by
  rintro s held hruns rfl
  refine ⟨?_, ?_, ?_, ?_, ?_, ?_, ?_, ?_, ?_⟩
  · intro hbusy acc
    refine ⟨fun image => ⟨?_, ?_⟩, fun o => ?_⟩
    · show execDescriptorInstall acc image s = _
      exact s.run_to hruns (s.chip.descCommand_busy hbusy)
    · show execDescriptorMigrate acc image s = _
      exact s.run_to hruns (s.chip.descCommand_busy hbusy)
    · show execDescriptorFree acc o s = _
      exact s.run_to hruns (s.chip.descCommand_busy hbusy)
  · intro acc o d answer hidle htakes hanswer
    obtain rfl : answer = fun c r => c.descResult o r := by
      rw [hanswer]
      funext c r
      exact (c.descResult_eq o r).symm
    constructor
    · intro image himage
      constructor
      · show execDescriptorInstall acc image s = _
        exact s.run_to hruns (s.chip.install_taken hidle htakes himage)
      · show execDescriptorMigrate acc image s = _
        exact s.run_to hruns (s.chip.migrate_taken hidle htakes himage)
    · intro hplaced
      show execDescriptorFree acc o s = _
      exact s.run_to hruns (s.chip.free_taken hidle htakes hplaced)
  · intro hnone
    show execDescriptorInstallDone s = _
    exact s.run_to hruns (s.chip.finishInstall_none hnone)
  · intro o d c hinstall hc
    show execDescriptorInstallDone s = _
    exact s.run_to hruns (s.chip.finishInstall_some hinstall hc)
  · intro o u ecc old m offs hold hmig hoffs hu hup d hd
    exact s.run_devAccess (.migrationCopy (.object o u) ecc) hruns ((s.chip.copyUnit_up ecc hold hmig hoffs hu hup).trans hd.symm)
  · intro a b n ecc hremap hback hup d hd
    exact s.run_devAccess (.migrationCopy (.slot a) ecc) hruns ((s.chip.copyBack_up ecc hremap hback hup).trans hd.symm)
  · intro what stall ecc hphase hfree
    exact (s.run_migrationSwitch hruns (if_pos hphase)).1 hfree
  · rintro o u stall ecc c old m hphase rfl hold hmig hcopied hdirty hup d hd
    have hswitched : s.chip.switchWork (.object o u) stall ecc = d :=
      (Chip.switchObject_ready _ stall ecc hold hmig hcopied hdirty hup).trans hd.symm
    exact s.run_migrationSwitch hruns ((if_neg (not_not.2 hphase)).trans hswitched)
  · intro stack hstack
    constructor
    · intro hup
      constructor
      · show execStackPoll stack true s = _
        exact s.onMgmt_stack hruns hstack (congrArg Chip.settle (s.chip.pollStack_answered hup))
      · intro n c hn hc
        constructor
        · intro hfew
          show execStackPoll stack false s = _
          exact s.onMgmt_stack hruns hstack (congrArg Chip.settle (s.chip.pollStack_missed hup hn hc hfew))
        · intro d perm hmany hevent
          show execStackPoll stack false s = _
          exact s.onMgmt_stack hruns hstack
            (congrArg Chip.settle ((s.chip.pollStack_fault hup hn hc hmany).trans (Chip.stackFault_eq _ hevent)))
    · intro hfault hstage
      refine ⟨?_, ?_, ?_⟩
      · intro n hn
        show execStackRetrainAttempt stack s = _
        exact s.onMgmt_stack hruns hstack (s.chip.retrainStack_counts hfault hstage hn)
      · show execStackRetrainDone stack true true s = _
        exact s.onMgmt_stack hruns hstack (congrArg Chip.settle (s.chip.retrainEnds_eq hfault hstage true true))
      · intro trained kept c perm hbad hfailed
        have hends : s.chip.retrainEnds stack trained kept = if perm = true then c.fatal 2 else c := by
          rw [s.chip.retrainEnds_eq hfault hstage, hfailed]
          exact if_neg (by simpa [imp_iff_not_or] using hbad)
        show execStackRetrainDone stack trained kept s = _
        exact s.onMgmt_stack hruns hstack (congrArg Chip.settle hends)

end Sys2Proof.Machine
end

section
/-! The training of a link (R339, R340), its negotiation and authentication (R341, R342, R463–R465). -/

namespace Sys2Proof.Machine

open Sys2Proof

/-! ## Links -/

theorem Chip.linkUp_iff (s : Chip) (l : Nat) : s.linkUp l = true ↔ 2 ≤ s.lnkState l ∧ s.lnkState l ≤ 4 := by
  simp [Chip.linkUp]

theorem Chip.admitted_iff (s : Chip) {l : Nat} (hl : l < 48) : s.admitted l = true ↔ s.lnkState l = Ls.admitted := by
  simp [Chip.admitted, hl]

/-- A command that names two units of the module: a link and a lane or a queue of it. -/
theorem State.runOn_both (s : State) {f : Chip → Chip} {t : Chip} {p q : Prop} [Decidable p] [Decidable q] (hruns : s.runs = true) (hp : p) (hq : q)
    (ht : f s.chip = t) : s.runOn (decide p && decide q) f = .next { s with chip := t.settle } := by
  rw [State.runOn_runs s _ f hruns (by simp [hp, hq]), ht]

/-! ## Training failures (R340, R465) -/

/-- A training failure in TRAINING leaves the link DOWN, and counts as a retrain failure of its channel, which may retire it. -/
theorem Chip.trainFail_training (s : Chip) {l : Nat} {x : Chip × Bool} (hstate : s.lnkState l = Ls.training)
    (hx : x = (((s.leave l Ls.down (decide (3 ≤ (s.link l).stage))).cnt (regAt (Pg.lnk l) Reg.LNK_TRAIN_FAIL)).raise (Pg.lnk l) 3).retrainFailed (.link l)) :
    s.trainFail l = if x.2 then x.1.retireLink l 1 else x.1 := by
  have htesting : (s.lnkState l == Ls.selftest) = false := by simp [hstate]
  unfold Chip.trainFail
  simp only [htesting, Bool.or_false, Bool.false_and, Bool.false_eq_true, if_false, ← hx]
  obtain ⟨c, _ | _⟩ := x
  · simp
  · simp

theorem Chip.stageTimeout_other (s : Chip) {l : Nat} (hstate : s.lnkState l ≠ Ls.training) : s.stageTimeout l = s := if_pos hstate

theorem Chip.stageTimeout_training (s : Chip) {l : Nat} (hstate : s.lnkState l = Ls.training) :
    s.stageTimeout l = if (s.link l).stage = 6 then s.authFail l else s.trainFail l := if_neg (not_not.2 hstate)

/-! ## Stages (R339) -/

/-- A stage end that changes nothing: out of stages 1 to 4 of TRAINING, or in SIGNAL with a lane that has no light. -/
abbrev Chip.stageGoesOn (s : Chip) (l good : Nat) : Prop :=
  s.lnkState l ≠ Ls.training ∨ (s.link l).stage ∉ [1, 2, 3, 4] ∨ ((s.link l).stage = 1 ∧ good ≠ (s.link l).lanes)

/-- The lanes of a link that failed a stage are FAILED, and the others are left. -/
def Chip.keepLanes (s : Chip) (l good : Nat) : Chip :=
  (s.each ((List.range 4).filter (fun w => (s.link l).lanes.testBit w && !good.testBit w)) (fun c w => c.setLane l w 3)).updLink l
    (fun k => { k with lanes := good })

/-- What follows a stage that ended with enough lanes. -/
def Chip.nextStage (c : Chip) (l stage good : Nat) (retuned : Bool) : Chip :=
  if stage = 1 then c.updLink l (fun k => { k with stage := 2 })
  else if stage = 2 then c.updLink l (fun k => { k with stage := 3, rxDown := false })
  else if stage = 3 then
    (c.each ((List.range 4).filter good.testBit) (fun c w => c.setLane l w 2)).updLink l (fun k => { k with stage := 4, rxGood := good })
  else if retuned then c.authStart l
  else c.negotiate l

theorem Chip.stageGoesOn_iff (s : Chip) (l good : Nat) : s.stageGoesOn l good ↔
    s.lnkState l ≠ Ls.training ∨ (s.link l).stage = 0 ∨ 4 < (s.link l).stage ∨ ((s.link l).stage = 1 ∧ good ≠ (s.link l).lanes) := by
  have hstages : (s.link l).stage ∉ [1, 2, 3, 4] ↔ (s.link l).stage = 0 ∨ 4 < (s.link l).stage := by
    simp only [List.mem_cons, List.not_mem_nil, or_false]
    omega
  rw [Chip.stageGoesOn, hstages, or_assoc]

section stage

variable (s : Chip) {l lanes good : Nat} (hgood : good = (s.link l).lanes &&& lanes)
include hgood

theorem Chip.stageDone_goesOn (h : s.stageGoesOn l good) : s.stageDone l lanes = s := by
  subst hgood
  unfold Chip.stageDone
  refine if_pos ?_
  simpa [or_assoc] using (s.stageGoesOn_iff l _).1 h

/-- A stage that ends fails the training with too few lanes, and leads to the next with enough. -/
theorem Chip.stageDone_ends (h : ¬ s.stageGoesOn l good) : s.stageDone l lanes =
    if lanesIn good < (s.keepLanes l good).minWidth l then (s.keepLanes l good).trainFail l
    else (s.keepLanes l good).nextStage l (s.link l).stage good (s.link l).retuned := by
  subst hgood
  have hstage : (s.link l).stage ∈ [1, 2, 3, 4] := by
    by_contra hout
    exact h (.inr (.inl hout))
  unfold Chip.stageDone
  refine (if_neg (by simpa [or_assoc] using mt (s.stageGoesOn_iff l _).2 h)).trans ?_
  simp only [List.mem_cons, List.not_mem_nil, or_false] at hstage
  obtain hstage | hstage | hstage | hstage := hstage
  all_goals simp only [Chip.keepLanes, Chip.nextStage, hstage, Nat.reduceEqDiff, if_true, if_false]

end stage

/-- A link that is DOWN and may train begins stage SIGNAL on every lane that is not RETIRED (R339). -/
theorem Chip.startTraining_down (s : Chip) {l live : Nat} {c : Chip} (hdown : s.lnkState l = Ls.down)
    (hactive : s.active (Pg.lnk l) (F.LNK_CFG_EN.on (Pg.lnk l)) = true) (hmute : s.flt.mute = false)
    (hc : c = (s.leave l Ls.training (s.link l).rxDown).cnt (regAt (Pg.lnk l) Reg.LNK_TRAIN_CNT)) (hlive : live = c.liveLanes l) :
    s.startTraining l
      = ((((c.lnkWf l F.LNK_STAT_VERSION 0).lnkWf l F.LNK_STAT_RATE 0).lnkWf l F.LNK_STAT_TX_MASK live).updLink l
          (fun k => { k with stage := 1, lanes := live })).each (List.range 4) (fun d w => if live.testBit w then d.setLane l w 1 else d) := by
  subst hlive hc
  unfold Chip.startTraining
  exact if_neg (by simp [hdown, hactive, hmute])

/-- Settles O27, by the command: each has the outcome of its lemma. -/
theorem trainingGoesThroughItsStages : Obligations.TrainingGoesThroughItsStages := by
  intro s l hruns hl
  refine ⟨?_, ?_, ?_, ?_, ?_, ?_⟩
  · intro lanes
    show execTrainingStageDone l lanes s = _
    refine s.runOn_to hruns hl ?_
    by_cases hon : s.chip.stageGoesOn l ((s.chip.link l).lanes &&& lanes)
    · exact (s.chip.stageDone_goesOn rfl hon).trans (if_pos hon).symm
    · exact (s.chip.stageDone_ends rfl hon).trans (if_neg hon).symm
  · intro x hstate hstage hx
    show execTrainingStageTimeout l s = _
    exact s.runOn_to hruns hl (((s.chip.stageTimeout_training hstate).trans (if_neg hstage)).trans (s.chip.trainFail_training hstate hx))
  · intro hstate hstage
    show execTrainingStageTimeout l s = _
    exact s.runOn_to hruns hl ((s.chip.stageTimeout_training hstate).trans (if_pos hstage))
  · intro hstate
    show execTrainingStageTimeout l s = _
    exact s.runOn_to hruns hl (s.chip.stageTimeout_other hstate)
  · intro c live hdown hactive hmute hc hlive
    show execTrainingRetry l s = _
    exact s.runOn_to hruns hl ((if_pos hdown).trans (s.chip.startTraining_down hdown hactive hmute hc hlive))
  · intro hstate
    show execTrainingRetry l s = _
    exact s.runOn_to hruns hl (if_neg hstate)

/-! ## Messages of stages 5 and 6 (R341, R342, R463–R465) -/

section message

variable (s : Chip) {l : Nat} {b : Bytes} {c : Chip} (hc : c = s.takeCtl l 1 b)
include hc

/-- A capability message is kept in stages 4 and 5 before a retune, and is what both ends agree from in stage 5. -/
theorem Chip.capabilityIn_eq : s.capabilityIn l b
    = if b.length = 64 ∧ c.lnkState l = Ls.training ∧ ((c.link l).stage = 4 ∨ (c.link l).stage = 5) ∧ (c.link l).retuned = false then
        (if (c.link l).stage = 5 then (c.updLink l (fun k => { k with peerCap := b })).agree l else c.updLink l (fun k => { k with peerCap := b }))
      else c := by
  subst hc
  have hstages : ((s.takeCtl l 1 b).link l).stage = 4 ∨ ((s.takeCtl l 1 b).link l).stage = 5
      ↔ ¬ ((s.takeCtl l 1 b).link l).stage < 4 ∧ ¬ 5 < ((s.takeCtl l 1 b).link l).stage := by omega
  unfold Chip.capabilityIn
  refine (if_congr ?_ rfl rfl).trans (ite_not _ _ _)
  rw [hstages, ← Bool.not_eq_true]
  simp only [Bool.or_eq_true, decide_eq_true_eq, not_and_or, not_not, or_assoc, ne_eq]

/-- A credential fragment is kept by its number in stage 6. -/
theorem Chip.credFragment_eq : s.credFragment l b
    = if (c.link l).stage = 6 ∧ b.length = 3844 ∧ le b 1 1 < 16 then c.updLink l (fun k => { k with frags := k.frags.put (le b 1 1) (b.drop 4) })
      else c := by
  subst hc
  unfold Chip.credFragment
  refine (if_congr ?_ rfl rfl).trans (ite_not _ _ _)
  simp only [Bool.or_eq_true, decide_eq_true_eq, not_and_or, not_lt, or_assoc, ne_eq]

/-- A ciphertext is kept in stage 6, and gives the link key where both are there. -/
theorem Chip.encapsulationIn_eq : s.encapsulationIn l b
    = if (c.link l).stage = 6 ∧ b.length = 1572 then (c.updLink l (fun k => { k with peerCt := b.drop 4 })).deriveLck l else c := by
  subst hc
  unfold Chip.encapsulationIn
  refine (if_congr ?_ rfl rfl).trans (ite_not _ _ _)
  simp only [Bool.or_eq_true, decide_eq_true_eq, not_and_or, ne_eq]

theorem Chip.confirmIn_other (hstage : (c.link l).stage ≠ 6) : s.confirmIn l b = c := by
  subst hc
  unfold Chip.confirmIn
  exact if_pos hstage

/-- A confirm without a key to verify it, or of the wrong size, fails authentication. -/
theorem Chip.confirmIn_malformed (hstage : (c.link l).stage = 6) (hbad : (c.link l).lck = [] ∨ le b 2 2 ≠ 72) :
    s.confirmIn l b = ((c.dropFrame l).raise (Pg.lnk l) 6).authFail l := by
  subst hc
  unfold Chip.confirmIn
  refine (if_neg (not_not.2 hstage)).trans (if_pos ?_)
  simp only [Bool.or_eq_true, decide_eq_true_eq, List.isEmpty_iff]
  exact .inl hbad

section whole

variable (hstage : (c.link l).stage = 6) (hsize : le b 2 2 = 72)
include hstage hsize

/-- A confirm whose tag fails under the link key fails authentication. -/
theorem Chip.confirmIn_badTag
    (hopen : gcmUnlock (c.link l).lck (ivControl (!c.lowerEnd l) (2 ^ 64 - 1)) (b.take 104) [] (slice b 104 16) = none) :
    s.confirmIn l b = ((c.dropFrame l).raise (Pg.lnk l) 6).authFail l := by
  subst hc
  unfold Chip.confirmIn
  refine (if_neg (not_not.2 hstage)).trans (if_pos (Bool.or_eq_true_iff.2 (.inr (Option.isNone_iff_eq_none.2 ?_))))
  rw [hsize]
  exact hopen

/-- A confirm whose tag verifies ends the training where its digest is this end's, and fails authentication where it is not. -/
theorem Chip.confirmIn_opened {p : Bytes} (hkey : (c.link l).lck ≠ [])
    (hopen : gcmUnlock (c.link l).lck (ivControl (!c.lowerEnd l) (2 ^ 64 - 1)) (b.take 104) [] (slice b 104 16) = some p) :
    s.confirmIn l b = if slice b 40 64 = digest (c.caps l) then c.upControl l else (c.raise (Pg.lnk l) 5).authFail l := by
  subst hc
  unfold Chip.confirmIn
  refine (if_neg (not_not.2 hstage)).trans ((if_neg fun hbad => ?_).trans (ite_not _ _ _))
  obtain hmalformed | htag := Bool.or_eq_true_iff.1 hbad
  · obtain hnil | hlength := Bool.or_eq_true_iff.1 hmalformed
    · exact hkey (List.isEmpty_iff.1 hnil)
    · exact of_decide_eq_true hlength hsize
  · rw [hsize] at htag
    exact Option.some_ne_none p (hopen.symm.trans (Option.isNone_iff_eq_none.1 htag))

end whole

end message

/-- Training is left for SELFTEST, with the Margin frame that is owed (R350, R538). -/
theorem Chip.upControl_eq (s : Chip) {l : Nat} {d : Chip}
    (hd : d = (s.updLink l (fun k => { k with
      stage := 0, frags := [], alive := s.alm.now, tested := true, symbols := [], delays := 0, passed := false, planDue := false })).lnkWf
        l F.LNK_STAT_STATE Ls.selftest) :
    s.upControl l = if (s.link l).planDue = true ∧ d.marginAgreed l = true then d.sendCtl l 7 (d.marginPayload l) else d := by
  simp only [Chip.upControl, ← hd, Bool.and_eq_true]

/-- Settles O28, by the message: each has the outcome of its lemma. -/
theorem linksAgreeAndAuthenticate : Obligations.LinksAgreeAndAuthenticate := by
  intro s l b hruns hl
  refine ⟨?_, ?_, ?_, ?_, ?_, ?_⟩
  · show execNegotiateCapability l b s = _
    exact s.runOn_to hruns hl (s.chip.capabilityIn_eq rfl)
  · show execCredentialFragment l b s = _
    exact s.runOn_to hruns hl (s.chip.credFragment_eq rfl)
  · show execEncapsulation l b s = _
    exact s.runOn_to hruns hl (s.chip.encapsulationIn_eq rfl)
  · intro hstage
    show execNegotiateConfirm l b s = _
    exact s.runOn_to hruns hl (s.chip.confirmIn_other rfl hstage)
  · intro hstage hbad
    show execNegotiateConfirm l b s = _
    exact s.runOn_to hruns hl (s.chip.confirmIn_malformed rfl hstage hbad)
  · intro hstage hkey hsize
    show execNegotiateConfirm l b s = _
    refine s.runOn_to hruns hl ?_
    dsimp only
    split
    · next hopen => exact s.chip.confirmIn_badTag rfl hstage hsize hopen
    · next hopen =>
      exact (s.chip.confirmIn_opened rfl hstage hsize hkey hopen).trans (if_congr Iff.rfl (Chip.upControl_eq _ rfl) rfl)

end Sys2Proof.Machine
end

section
/-! Links in service: self-test and admission (R336, R347, R350, R351), lanes (R345, R346, R583), and the orders of LNK_CTRL (R347, R348, R350). -/

namespace Sys2Proof.Machine

open Sys2Proof

/-! ## Keepalives (R336, R347) -/

/-- Control frames go in line on a link that is up. -/
theorem Chip.keepaliveSend_eq (s : Chip) (l : Nat) : s.keepaliveSend l
    = if 2 ≤ s.lnkState l ∧ s.lnkState l ≤ 4 then
        s.updLink l (fun k => { k with ctl := k.ctl ++ [(3, toLE 1 (s.link l).rxGood ++ toLE 1 (s.link l).peerGood ++ zeros 14)] })
      else s := by
  simp only [Chip.keepaliveSend, Chip.sendCtl, Chip.linkUp_iff]

/-- A link that is judged down retires where the event, or the failed attempt of its return to service, makes it permanent; else it trains. -/
theorem Chip.linkDown_eq (s : Chip) {l : Nat} {x y : Chip × Bool} (hx : x = ((s.leave l Ls.down true).raise (Pg.lnk l) 1).countEvent (.link l) 2)
    (hy : y = if (s.returning (.link l)).isSome then x.1.attemptFailed (.link l)
      else (if s.admitted l then x.1.startReturn (.link l) .selfTest else x.1, false)) :
    s.linkDown l = if x.2 then x.1.retireLink l 1 else if y.2 then y.1.retireLink l 1 else y.1.startTraining l := by
  unfold Chip.linkDown
  simp only [← hx]
  obtain ⟨c, _ | _⟩ := x
  · simp only [Chip.leftService, ← hy]
    obtain ⟨d, _ | _⟩ := y
    · simp
    · simp
  · simp

/-! ## Self-test and admission (R350, R351) -/

theorem Chip.testIn_eq (s : Chip) {l : Nat} (seq : Nat) {b : Bytes} {c : Chip} (hc : c = s.takeCtl l 5 b) : s.testIn l seq b
    = if c.lnkState l = Ls.selftest ∧ b ≠ testPayload seq then c.updLink l (fun k => { k with tested := false }) else c := by
  simp only [Chip.testIn, ← hc, Bool.and_eq_true, decide_eq_true_eq]

theorem Chip.selftestEnd_eq (s : Chip) (l : Nat) : s.selftestEnd l
    = if s.lnkState l ≠ Ls.selftest ∨ (s.link l).passed = true then s
      else if (s.link l).testPassed then (s.updLink l (fun k => { k with passed := true })).proposeAdmit l
      else (s.raise (Pg.lnk l) 7).trainFail l := by
  simp only [Chip.selftestEnd, Bool.or_eq_true, decide_eq_true_eq]

section admission

variable (s : Chip) {l n : Nat} {b : Bytes} {c : Chip} (hc : c = s.takeCtl l 4 b) (hn : n = le b 8 8)
include hc hn

theorem Chip.admitPropose_eq : s.admitPropose l b
    = if c.locked = true ∧ c.lowerEnd l = false ∧ (c.link l).passed = true ∧ c.lnkState l = Ls.selftest ∧ c.step < n then
        (c.fixAdmission l n).sendCtl l 4 (admitPayload 2 n)
      else c := by
  simp only [Chip.admitPropose, ← hc, ← hn, Bool.and_eq_true, decide_eq_true_eq, Bool.not_eq_true', and_assoc]

theorem Chip.admitConfirm_eq : s.admitConfirm l b
    = if (c.link l).proposed = some n ∧ c.lnkState l = Ls.selftest ∧ c.step < n then c.fixAdmission l n else c := by
  simp only [Chip.admitConfirm, ← hc, ← hn, Bool.and_eq_true, decide_eq_true_eq, and_assoc]

theorem Chip.admitWithdraw_eq : s.admitWithdraw l b
    = if (c.link l).admitAt = some n ∨ (c.link l).proposed = some n then
        (c.updLink l (fun k => { k with admitAt := none, proposed := none })).lnkWf l F.LNK_STAT_ADMIT_PENDING 0
      else c := by
  simp only [Chip.admitWithdraw, ← hc, ← hn, Bool.or_eq_true, decide_eq_true_eq]

end admission

/-- Settles O30, by the command: each has the outcome of its lemma. -/
theorem linksAreTestedAndAdmitted : Obligations.LinksAreTestedAndAdmitted := by
  intro s l b hruns hl
  refine ⟨?_, ?_, ?_, ?_, ?_, ?_, ?_, ?_⟩
  · show execKeepaliveSend l s = _
    exact s.runOn_to hruns hl (s.chip.keepaliveSend_eq l)
  · show execKeepalive l b s = _
    exact s.runOn_to hruns hl rfl
  · show execKeepaliveTimeout l s = _
    exact s.runOn_to hruns hl (if_congr (s.chip.linkUp_iff l) (s.chip.linkDown_eq rfl rfl) rfl)
  · intro seq
    show execTest l seq b s = _
    exact s.runOn_to hruns hl (s.chip.testIn_eq seq rfl)
  · show execSelftestEnd l s = _
    exact s.runOn_to hruns hl (s.chip.selftestEnd_eq l)
  · show execAdmitPropose l b s = _
    exact s.runOn_to hruns hl (s.chip.admitPropose_eq rfl rfl)
  · show execAdmitConfirm l b s = _
    exact s.runOn_to hruns hl (s.chip.admitConfirm_eq rfl rfl)
  · show execAdmitWithdraw l b s = _
    exact s.runOn_to hruns hl (s.chip.admitWithdraw_eq rfl rfl)

/-! ## Lanes (R345, R346, R583) -/

/-- A lane that is judged failed is asked for, or RETIRED where the failure makes it permanent, and its link is lost with too few good lanes. -/
theorem Chip.laneFailed_good (s : Chip) {l w : Nat} {x : Chip × Bool} {c : Chip} (hgood : (s.link l).rxGood.testBit w = true)
    (hx : x = (((s.updLink l (fun k => { k with
        rxGood := maskDel k.rxGood w, badAt := k.badAt.del w, goodRun := k.goodRun.del w, reqOut := putBits k.reqOut w w 1 })).setLane
        l w 3).cnt (regAt (Pg.lnk l) Reg.LNK_LANE_DROPS) |>.raise (Pg.lnk l) 0).countEvent (.lane l w) 1)
    (hc : c = if x.2 then (x.1.setLane l w 5).updLink l (fun k => { k with reqOut := maskDel k.reqOut w }) else x.1.setLane l w 4) :
    s.laneFailed l w = if lanesIn (c.link l).rxGood < c.minWidth l then c.linkLost l else c := by
  subst hc
  unfold Chip.laneFailed
  simp only [hgood, Bool.not_true, Bool.false_eq_true, if_false, ← hx]

/-- Loss of signal is a failure of a good lane, and leaves a lane that trains out of the training. -/
theorem Chip.laneLoss_eq (s : Chip) (l w : Nat) {c : Chip} (hc : c = (s.updLink l (fun k => { k with lanes := maskDel k.lanes w })).setLane l w 3) :
    s.laneLoss l w = if (s.link l).rxGood.testBit w then s.laneFailed l w
      else if s.lnkState l = Ls.training ∧ (s.link l).lanes.testBit w = true then
        (if lanesIn (c.link l).lanes < c.minWidth l then c.trainFail l else c)
      else s.updLink l (fun k => { k with goodRun := k.goodRun.del w }) := by
  simp only [Chip.laneLoss, ← hc, Bool.and_eq_true, decide_eq_true_eq]

/-- A lane that has not come back is FAILED, or RETIRED where its failures make it permanent. -/
theorem Chip.laneTimeout_eq (s : Chip) {l w : Nat} {x : Chip × Bool}
    (hx : x = (s.updLink l (fun k => { k with reqOut := maskDel k.reqOut w, goodRun := k.goodRun.del w })).retrainFailed (.lane l w)) :
    s.laneTimeout l w = if s.linkUp l = true ∧ s.laneState l w = 4 then
        (x.1.setLane l w (if x.2 then 5 else 3)).lnkWf l (F.LNK_LANE_RETRAIN_FAILS.plus (4 * w)) (x.1.chan (.lane l w)).fails
      else s := by
  unfold Chip.laneTimeout
  refine (if_congr ?_ rfl ?_).trans (ite_not _ _ _)
  · simp only [Bool.or_eq_true, Bool.not_eq_true', decide_eq_true_eq, not_and_or, Bool.not_eq_true, ne_eq]
  · simp only [← hx]

theorem Chip.laneRetry_eq (s : Chip) (l w : Nat) : s.laneRetry l w
    = if s.linkUp l = true ∧ s.laneState l w = 3 then (s.setLane l w 4).updLink l (fun k => { k with reqOut := putBits k.reqOut w w 1 }) else s := by
  simp only [Chip.laneRetry, Bool.and_eq_true, decide_eq_true_eq]

/-! ## Orders of LNK_CTRL (R347, R348, R350) -/

/-- On a module that runs, an order that the page of a link takes is done. -/
theorem State.run_lnkCtrl (s : State) {acc : Access} {l : Nat} (val : Nat) {run : Chip → Chip} {t : Chip} (hruns : s.runs = true) (hl : l < 48)
    (htakes : s.chip.takes acc (Pg.lnk l) false [] = true) (ht : run s.chip = t) :
    s.runOn (decide (l < 48)) (fun c => c.lnkCtrl acc l val run) = .next { s with chip := t.settle } :=
  s.runOn_to hruns hl ((s.chip.command_taken Reg.LNK_CTRL val id run htakes).trans ht)

theorem Chip.retrainOrder_eq (s : Chip) (l : Nat) : s.retrainOrder l
    = if s.lnkState l = Ls.off ∨ s.lnkState l = Ls.retired then s else ((s.leave l Ls.down true).leftService l (s.admitted l)).startTraining l := by
  simp only [Chip.retrainOrder, Bool.or_eq_true, decide_eq_true_eq]

theorem Chip.readmitOrder_other (s : Chip) {l : Nat} (h : s.lnkState l ≠ Ls.retired) : s.readmitOrder l = s := by
  simp only [Chip.readmitOrder, h, ne_eq, not_false_eq_true, if_true]

/-- The records of a link that is readmitted start again, and those of its lanes. -/
def Chip.clearRecords (s : Chip) (l : Nat) : Chip :=
  (s.setChan (.link l) { attempt := (s.chan (.link l)).attempt }).each (List.range 4) (fun c w =>
    (let d := (c.setChan (.lane l w) {}).lnkWf l (F.LNK_LANE_RETRAIN_FAILS.plus (4 * w)) 0
     if d.laneState l w = 5 then d.setLane l w 0 else d))

theorem Chip.readmitOrder_retired (s : Chip) {l : Nat} {c : Chip} {e : Fld} (h : s.lnkState l = Ls.retired) (hc : c = s.clearRecords l)
    (he : e = F.OPT_CFG_LASER_EN.on (Pg.opt (l / 4))) : s.readmitOrder l
      = (((c.wf e (putBits (c.rf e) (l % 4) (l % 4) 1)).lnkWf l F.LNK_STAT_STATE Ls.off).startReturn (.link l) .selfTest).startTraining l := by
  simp only [Chip.readmitOrder, h, ne_eq, not_true_eq_false, if_false, hc, he, Chip.clearRecords]

/-- Settles O31, by the command: each has the outcome of its lemma. -/
theorem lanesAndLinkOrders : Obligations.LanesAndLinkOrders := by
  intro s l w hruns hl hw
  refine ⟨?_, ?_, ?_, ?_, ?_⟩
  · show execLaneSignalLoss l w s = _
    refine s.runOn_both hruns hl hw ((s.chip.laneLoss_eq l w rfl).trans ?_)
    exact ite_congr rfl (fun hgood => s.chip.laneFailed_good hgood rfl rfl) (fun _ => rfl)
  · show execLaneRetrainTimeout l w s = _
    exact s.runOn_both hruns hl hw (s.chip.laneTimeout_eq rfl)
  · show execLaneRetrainRetry l w s = _
    exact s.runOn_both hruns hl hw (s.chip.laneRetry_eq l w)
  · intro b
    show execRetire l b s = _
    exact s.runOn_to hruns hl rfl
  · intro acc htakes
    refine ⟨?_, ?_, ?_, ?_⟩
    · show execLnkRetire acc l s = _
      exact s.run_lnkCtrl 2 hruns hl htakes rfl
    · show execLnkRetrain acc l s = _
      exact s.run_lnkCtrl 1 hruns hl htakes (s.chip.retrainOrder_eq l)
    · intro hstate
      show execLnkReadmit acc l s = _
      exact s.run_lnkCtrl 4 hruns hl htakes (s.chip.readmitOrder_other hstate)
    · intro hstate
      show execLnkReadmit acc l s = _
      exact s.run_lnkCtrl 4 hruns hl htakes (s.chip.readmitOrder_retired hstate rfl rfl)

end Sys2Proof.Machine
end

section
/-! Optics and ageing (R349, R358, R534–R536), and what arrives on a link: codewords (R329–R332, R345) and data frames (R335, R364). -/

namespace Sys2Proof.Machine

open Sys2Proof

/-! ## Optical engines and the ageing monitor (R349, R358, R534–R536) -/

/-- A Margin frame of the right size on a link that agreed on them shows the PLAN of the peer. -/
theorem Chip.marginIn_eq (s : Chip) {l r : Nat} {b : Bytes} {c : Chip} (hc : c = s.takeCtl l 7 b) (hr : r = Reg.VGL_AGE_PEER + 4 * (l / 16)) :
    s.marginIn l b = if c.marginAgreed l = true ∧ b.length = 64 then
        (c.wr r (putBits (c.rd r) (2 * (l % 16) + 1) (2 * (l % 16)) (le b 1 1))).cnt Reg.VGL_AGE_RX
      else c := by
  subst hc hr
  unfold Chip.marginIn
  refine (if_congr ?_ rfl rfl).trans (ite_not _ _ _)
  simp only [Bool.or_eq_true, Bool.not_eq_true', decide_eq_true_eq, not_and_or, Bool.not_eq_true, ne_eq]

/-- Settles O32, by the event: all but Margin frames and the lane of an optical event have their outcome as their definition. -/
theorem opticsAndAgeing : Obligations.OpticsAndAgeing := by
  refine ⟨?_, ?_, ?_, ?_⟩
  · intro s e hruns he
    constructor
    · show execEngineFailed e s = _
      exact s.runOn_to hruns he rfl
    · intro celsius
      show execEngineOvertemp e celsius s = _
      exact s.runOn_to hruns he rfl
  · intro s l w p q hruns hl hw
    constructor
    · show execLaserFault l w p q s = _
      exact s.runOn_both hruns hl hw (by rw [Nat.mod_eq_of_lt hw])
    · show execReceivedPowerLow l w p s = _
      exact s.runOn_both hruns hl hw (by rw [Nat.mod_eq_of_lt hw])
  · intro s l b hruns hl
    show execMargin l b s = _
    exact s.runOn_to hruns hl (s.chip.marginIn_eq rfl rfl)
  · intro s hruns
    constructor
    · show execMarginSend s = _
      exact s.run_to hruns rfl
    · intro replicas eyes
      show execAgeingMeasurement replicas eyes s = _
      exact s.run_to hruns rfl

/-! ## Codewords (R329–R332, R345) -/

section codeword

variable (s : Chip) {l w : Nat} (cw : CwIn)

theorem Chip.takesCw_iff (l w : Nat) :
    s.takesCw l w = true ↔ (4 ≤ (s.link l).stage ∨ s.linkUp l = true) ∧ (s.link l).rxGood.testBit w = true := by
  simp [Chip.takesCw]

theorem Chip.codeword_unheard (h : (s.lnkState l ≠ Ls.training ∨ (s.link l).stage < 3) ∧ s.linkUp l = false ∨ s.laneState l w = 5) :
    s.codeword l w cw = s := by
  unfold Chip.codeword
  refine if_pos ?_
  simpa [imp_iff_not_or] using h

/-- A codeword that is heard joins the reorder buffer where its lane is in good order, and counts for its lane or against it. -/
theorem Chip.codeword_heard (hheard : s.lnkState l = Ls.training ∧ 3 ≤ (s.link l).stage ∨ s.linkUp l = true) (hlane : s.laneState l w ≠ 5) {n : Nat}
    {c : Chip} (hn : n = bits cw.ctl 47 24 % 12582912)
    (hc : c = if (4 ≤ (s.link l).stage ∨ s.linkUp l = true) ∧ (s.link l).rxGood.testBit w = true then
        s.updLink l (fun k => k.place ⟨n, bits cw.ctl 57 48, cw.data.map (fun b => scramble n (padTo 625 b))⟩)
      else s) :
    s.codeword l w cw = if cw.data = none then c.cwBad l w else (c.cwGood l w cw.corrected).cwControl l cw.ctl := by
  have hhears : ¬ (!((s.lnkState l == Ls.training && decide (3 ≤ (s.link l).stage)) || s.linkUp l) || decide (s.laneState l w = 5)) = true := by
    simpa [hlane, imp_iff_not_or] using hheard
  unfold Chip.codeword
  rw [if_neg hhears]
  simp only [Chip.takesCw_iff, ← hn, ← hc]
  cases cw.data <;> simp

end codeword

/-! ## Frames (R333–R335, R364) -/

/-- A data frame for the transport goes on to be forwarded, or is opened in its receive context. -/
theorem Chip.dataFrame_eq (s : Chip) (l : Nat) (b : Bytes) : s.dataFrame l b
    = if s.xptOn = false then s
      else if (packetOf b).dstDev ≠ s.selfDev then s.setXpt (fun x => { x with fwd := x.fwd ++ [(l, b)] })
      else if (packetOf b).op = 0 ∨ 9 < (packetOf b).op then s.cnt Reg.XPT_REASM_BAD
      else s.contextFrame b := by
  simp only [Chip.dataFrame, Bool.not_eq_true', Bool.or_eq_true, decide_eq_true_eq]

section frame

variable (s : Chip) {l : Nat} {b : Bytes} {c : Chip} (hc : c = s.updLink l (fun k => { k with frames := k.frames.erase b }))
include hc

theorem Chip.frameIn_closed (hup : ¬ (4 ≤ (c.link l).stage ∨ c.linkUp l = true)) : s.frameIn l b = c := by
  subst hc
  unfold Chip.frameIn
  refine if_pos ?_
  simpa using hup

variable {d : Chip} (hd : d = (c.add64 (regAt (Pg.lnk l) Reg.LNK_FRAMES_RX_LO) 1).add64 (regAt (Pg.lnk l) Reg.LNK_BYTES_RX_LO) b.length)
  (hup : 4 ≤ (c.link l).stage ∨ c.linkUp l = true)
include hd hup

/-- A frame whose CRC fails counts, and takes its place in the count of LINK_SEQ. -/
theorem Chip.frameIn_corrupt (hcrc : b.length < 52 ∨ crc32 0xEDB88320 (b.take (b.length - 4)) ≠ le b (b.length - 4) 4) : s.frameIn l b
    = ((d.cnt (regAt (Pg.lnk l) Reg.LNK_CRC_DROP)).testFailed l b).updLink l (fun k => { k with rxSeq := k.rxSeq + 1 }) := by
  subst hc hd
  unfold Chip.frameIn
  refine (if_neg (by simpa [imp_iff_not_or] using hup)).trans (if_pos ?_)
  simpa using hcrc

/-- A good data frame on an ADMITTED link is handed to the transport, once the frames missing before it have been counted. -/
theorem Chip.frameIn_data {n : Nat} {e : Chip} (hn : n = nearest 65536 (d.link l).rxSeq (le b 6 2))
    (he : e = (if (d.link l).rxSeq < n then d.cntBy (regAt (Pg.lnk l) Reg.LNK_FRAME_GAP) (n - (d.link l).rxSeq) else d).updLink l
      (fun k => { k with rxSeq := max (d.link l).rxSeq (n + 1) }))
    (hsize : b.length = 52 + le b 2 2) (hlen : le b 2 2 ≤ 4096) (hcrc : crc32 0xEDB88320 (b.take (b.length - 4)) = le b (b.length - 4) 4)
    (htype : bits (le b 0 1) 3 0 = 1) (hver : bits (le b 0 1) 7 4 = e.lnkRf l F.LNK_STAT_VERSION) (hagreed : e.lnkRf l F.LNK_STAT_VERSION ≠ 0)
    (hadmitted : e.admitted l = true) : s.frameIn l b = e.dataFrame l b := by
  have hshort : ¬ b.length < 52 := by omega
  have hlong : ¬ 4096 < le b 2 2 := by omega
  unfold Chip.frameIn
  simp only [← hc, ← hd, ← hn, ← he]
  refine (if_neg (by simpa [imp_iff_not_or] using hup)).trans ((if_neg (by simpa [hcrc] using hshort)).trans ?_)
  simp [htype, hver, hagreed, hlong, ← hsize, hadmitted]

end frame

/-- Settles O33, by the arrival: each has the outcome of its lemma. -/
theorem codewordsAndFrames : Obligations.CodewordsAndFrames := by
  constructor
  · intro s l w cw hruns hl hw
    constructor
    · intro hunheard
      show execCodeword l w cw s = _
      exact s.runOn_both hruns hl hw (s.chip.codeword_unheard cw hunheard)
    · intro hheard hlane
      show execCodeword l w cw s = _
      exact s.runOn_both hruns hl hw (s.chip.codeword_heard cw hheard hlane rfl rfl)
  · intro s l b hruns hl
    refine ⟨?_, ?_, ?_⟩
    · intro hup
      show execDataFrame l b s = _
      exact s.runOn_to hruns hl (s.chip.frameIn_closed rfl hup)
    · intro hup hcrc
      show execDataFrame l b s = _
      exact s.runOn_to hruns hl (s.chip.frameIn_corrupt rfl rfl hup hcrc)
    · intro n e hn he hup hsize hlen hcrc htype hver hagreed hadmitted
      show execDataFrame l b s = _
      exact s.runOn_to hruns hl
        ((s.chip.frameIn_data rfl rfl hup hn he hsize hlen hcrc htype hver hagreed hadmitted).trans (e.dataFrame_eq l b))

end Sys2Proof.Machine
end

section
/-! The egress side of a link (R337, R350, R406–R418): frame boundaries, policers, and samplers. -/

namespace Sys2Proof.Machine

open Sys2Proof

/-! ## Frame boundaries (R337, R350, R416) -/

section boundary

variable (s : Chip) {l : Nat} {c : Chip} (hc : c = s.noteCross l)
include hc

theorem Chip.frameBoundary_down (hdown : c.linkUp l = false) (htrain : c.lnkState l ≠ Ls.training ∨ (c.link l).stage < 5) :
    s.frameBoundary l = c := by
  subst hc
  unfold Chip.frameBoundary
  refine if_pos ?_
  simpa [hdown, imp_iff_not_or] using htrain

variable (hup : c.linkUp l = true ∨ (c.lnkState l = Ls.training ∧ 5 ≤ (c.link l).stage))
include hup

/-- A control frame in line goes first. -/
theorem Chip.frameBoundary_control {t : Nat} {p : Bytes} {rest : List (Nat × Bytes)} (hctl : (c.link l).ctl = (t, p) :: rest) :
    s.frameBoundary l = ((c.updLink l (fun k => { k with ctl := rest })).watchEnd l (c.gate l) (p.length + 52)).ctlNow l t p := by
  unfold Chip.frameBoundary
  simp only [← hc, hctl]
  exact if_neg (by simpa [imp_iff_not_or] using hup)

variable (hctl : (c.link l).ctl = [])
include hctl

/-- In SELFTEST a Test frame goes. -/
theorem Chip.frameBoundary_selftest (htest : c.lnkState l = Ls.selftest) :
    s.frameBoundary l = c.ctlNow l 5 (testPayload ((c.link l).txSeq % 65536)) := by
  unfold Chip.frameBoundary
  simp only [← hc, hctl]
  exact (if_neg (by simpa [imp_iff_not_or] using hup)).trans (if_pos htest)

theorem Chip.frameBoundary_closed (htest : c.lnkState l ≠ Ls.selftest) (hclosed : c.admitted l = false ∨ c.locked = false) :
    s.frameBoundary l = c := by
  unfold Chip.frameBoundary
  simp only [← hc, hctl]
  exact (if_neg (by simpa [imp_iff_not_or] using hup)).trans ((if_neg htest).trans (if_pos (by simpa using hclosed)))

variable (hl : l < 48) (hadmitted : c.admitted l = true) (hlocked : c.locked = true)
include hl hadmitted hlocked

/-- On an ADMITTED link, with the almanac locked and no control frame in line, every head that has to wait notes why. -/
theorem Chip.frameBoundary_waits (hnone : c.choose l (c.gate l) = none) : s.frameBoundary l = c.noteWaits l (c.gate l) := by
  have htest : c.lnkState l ≠ Ls.selftest := by rw [(c.admitted_iff hl).1 hadmitted]; decide
  unfold Chip.frameBoundary
  simp only [← hc, hctl, hnone]
  exact (if_neg (by simpa [imp_iff_not_or] using hup)).trans ((if_neg htest).trans (if_neg (by simp [hadmitted, hlocked])))

/-- There the head frame of the queue that is chosen starts. -/
theorem Chip.frameBoundary_starts {q : Nat} {f : QFrame} {rest : List QFrame} (hsome : c.choose l (c.gate l) = some q)
    (hframes : ((c.noteWaits l (c.gate l)).shp l).frames q = f :: rest) :
    s.frameBoundary l = (c.noteWaits l (c.gate l)).startFrame l (c.gate l) q f := by
  have htest : c.lnkState l ≠ Ls.selftest := by rw [(c.admitted_iff hl).1 hadmitted]; decide
  unfold Chip.frameBoundary
  simp only [← hc, hctl, hsome, hframes]
  exact (if_neg (by simpa [imp_iff_not_or] using hup)).trans ((if_neg htest).trans (if_neg (by simp [hadmitted, hlocked])))

end boundary

/-! ## Samplers (R417, R418) -/

section sampler

variable (s : Chip) {l : Nat}

theorem Chip.sample_off (h : s.rd (regAt (Pg.shp l) Reg.SHP_SMP_INT) = 0 ∨ ringSizeOk (s.rd (regAt (Pg.shp l) Reg.SHP_SMP_SIZE)) = false) :
    s.sample l = s := by
  unfold Chip.sample
  refine if_pos ?_
  simpa using h

/-- A sampler of one queue writes that queue's record at the ring's index, or stops where it cannot be written. -/
theorem Chip.sample_one {q n : Nat} {x : Chip × Bool} (hint : s.rd (regAt (Pg.shp l) Reg.SHP_SMP_INT) ≠ 0)
    (hsize : ringSizeOk (s.rd (regAt (Pg.shp l) Reg.SHP_SMP_SIZE)) = true)
    (hmask : (List.range 32).filter (fun q => bit (s.rd (regAt (Pg.shp l) Reg.SHP_SMP_MASK)) q) = [q]) (hstopped : (s.shp l).stopped = false)
    (hn : n = s.rd (regAt (Pg.shp l) Reg.SHP_SMP_WIDX))
    (hx : x = s.sampleWrite (s.rd64 (regAt (Pg.shp l) Reg.SHP_SMP_BASE_LO) / 32 * 32 + 32 * (n % s.rd (regAt (Pg.shp l) Reg.SHP_SMP_SIZE)))
      (s.sampleRecord l q)) :
    s.sample l = if x.2 then (x.1.wr (regAt (Pg.shp l) Reg.SHP_SMP_WIDX) ((n + 1) % 2 ^ 32)).updShp l (fun y => { y with samples := y.samples.del q })
      else (x.1.updShp l (fun y => { y with stopped := true })).raise (Pg.shp l) 2 := by
  unfold Chip.sample
  refine (if_neg (by simp [hint, hsize])).trans ?_
  simp only [below, hmask, Chip.each, List.foldl_cons, List.foldl_nil, hstopped, Bool.false_eq_true, if_false, ← hn, ← hx]
  obtain ⟨c, _ | _⟩ := x
  · simp
  · simp

end sampler

/-- Settles O40, by the command: each has the outcome of its lemma. -/
theorem queuesShapersAndSamplers : Obligations.QueuesShapersAndSamplers := by
  intro s l hruns hl
  refine ⟨?_, ?_, ?_, ?_, ?_, ?_⟩
  · intro c hc
    have hexec : ∀ t, s.chip.frameBoundary l = t → exec (.frameBoundary l) s = .next { s with chip := t.settle } := by
      intro t ht
      show execFrameBoundary l s = _
      exact s.runOn_to hruns hl ht
    constructor
    · intro hdown htrain
      exact hexec _ (s.chip.frameBoundary_down hc hdown htrain)
    · intro hup
      constructor
      · intro t p rest hctl
        exact hexec _ (s.chip.frameBoundary_control hc hup hctl)
      · intro hctl
        refine ⟨?_, ?_, ?_, ?_⟩
        · intro htest
          exact hexec _ (s.chip.frameBoundary_selftest hc hup hctl htest)
        · intro htest hclosed
          exact hexec _ (s.chip.frameBoundary_closed hc hup hctl htest hclosed)
        · intro hadmitted hlocked hnone
          exact hexec _ (s.chip.frameBoundary_waits hc hup hctl hl hadmitted hlocked hnone)
        · intro q f rest hadmitted hlocked hsome hframes
          exact hexec _ (s.chip.frameBoundary_starts hc hup hctl hl hadmitted hlocked hsome hframes)
  · show execBucketRefill s = _
    exact s.run_to hruns rfl
  · intro acc htakes
    show execCalendarCommit acc l s = _
    exact s.runOn_to hruns hl (s.chip.command_taken _ _ _ _ htakes)
  · intro acc q v burst hq haccepts
    show execPolicerWrite acc l q burst v s = _
    exact s.runOn_both hruns hl hq (s.chip.write_accepted _ _ _ _ _ _ _ haccepts)
  · intro hoff
    show execSampler l s = _
    exact s.runOn_to hruns hl (s.chip.sample_off hoff)
  · intro q hint hsize hmask hstopped
    show execSampler l s = _
    exact s.runOn_to hruns hl (s.chip.sample_one hint hsize hmask hstopped rfl rfl)

end Sys2Proof.Machine
end

section
/-! The transport (R365, R366, R371, R376): packets that have been opened, and how contexts synchronise, arrive and time out. -/

namespace Sys2Proof.Machine

open Sys2Proof

/-! ## Packets that have been opened -/

/-- With the transport on, a packet acts once it is taken from those opened. -/
theorem Chip.packetIn_on (s : Chip) {op : Nat} {pkt : Packet} {c : Chip} (f : Chip → Packet → Chip)
    (hc : c = s.setXpt (fun x => { x with rx := x.rx.erase pkt })) (hon : c.xptOn = true) : s.packetIn op pkt f = f c { pkt with op := op } := by
  subst hc
  unfold Chip.packetIn
  exact if_pos hon

/-- On a module that runs with the transport on, a packet that has been opened has its outcome. -/
theorem State.run_packet (s : State) {op : Nat} {pkt : Packet} {c t : Chip} {f : Chip → Packet → Chip} (hruns : s.runs = true)
    (hc : c = s.chip.setXpt (fun x => { x with rx := x.rx.erase pkt })) (hon : c.xptOn = true) (ht : f c { pkt with op := op } = t) :
    s.run (fun c => c.packetIn op pkt f) = .next { s with chip := t.settle } :=
  s.run_to hruns ((s.chip.packetIn_on f hc hon).trans ht)

/-- With the transport on, what asks for it runs. -/
theorem State.run_xptOn (s : State) {f : Chip → Chip} {t : Chip} (hruns : s.runs = true) (hon : s.chip.xptOn = true) (ht : f s.chip = t) :
    s.run (fun c => if c.xptOn then f c else c) = .next { s with chip := t.settle } :=
  s.run_to hruns ((if_pos hon).trans ht)

/-! ## Sessions (R365) -/

/-- A SYNC of another session than the one in use starts the receive context anew, and every SYNC is answered. -/
theorem Chip.syncIn_eq (s : Chip) (k : Packet) {x : RxCtx} {c : Chip} (hx : x = s.rx (ctxNo 1 k.srcDev k.tc))
    (hc : c = if x.active = true ∧ x.session = le k.payload 4 4 then s
      else s.putRx (ctxNo 1 k.srcDev k.tc) { active := true, session := le k.payload 4 4, expect := le k.payload 0 4, parts := (k.srcPart, k.dstPart) }) :
    s.syncIn k = c.sendControl 5 k.srcDev k.tc 0 k.dstPart k.srcPart k.psn (padTo 16 k.payload) k.openKey := by
  subst hx hc
  simp only [Chip.syncIn, Bool.and_eq_true, decide_eq_true_eq]

theorem Chip.syncAckIn_eq (s : Chip) (k : Packet) {n : Nat} {x : TxCtx} (hn : n = ctxNo 0 k.srcDev k.tc) (hx : x = s.tx n) : s.syncAckIn k
    = if x.state = .syncing ∧ x.session = le k.payload 4 4 then
        (s.putTx n { x with state := .active, expiries := 0, timeout := 8000 }).pumpKeyed k.srcDev k.tc
      else s := by
  subst hn hx
  simp only [Chip.syncAckIn, Bool.and_eq_true, decide_eq_true_eq]

/-! ## Contexts that are fetched (R366) -/

theorem Chip.ctxArrived_unasked (s : Chip) {n : Nat} (h : n ∉ s.xpt.fetching) : s.ctxArrived n = s := by
  unfold Chip.ctxArrived
  exact if_pos (by simpa using h)

theorem Chip.placeCtx_room (s : Chip) (n : Nat) (h : s.xpt.cached.length < 65536) :
    s.placeCtx n = some (s.setXpt (fun x => { x with cached := s.xpt.cached ++ [n], fetching := x.fetching.filter (· != n) })) := by
  unfold Chip.placeCtx
  exact if_pos h

/-- A context that was being fetched takes its place where the store has room, and what waited for it goes on. -/
theorem Chip.ctxArrived_placed (s : Chip) {n : Nat} {c : Chip} (hmem : n ∈ s.xpt.fetching) (hroom : s.xpt.cached.length < 65536)
    (hc : c = s.setXpt (fun x => { x with
      cached := x.cached ++ [n], fetching := x.fetching.filter (· != n), miss := x.miss.filter (fun m => m.1 != n) })) :
    s.ctxArrived n = if n < 2 ^ 19 then c.pumpKeyed (n / 8) (n % 8)
      else c.each ((s.xpt.miss.filter (fun m => m.1 == n)).map (·.2)) Chip.openFrame := by
  subst hc
  unfold Chip.ctxArrived
  simp only [s.placeCtx_room n hroom]
  exact if_neg (by simpa using hmem)

/-! ## Timers of the receiver (R369, R376) -/

theorem RxMsg.not_closed (m : RxMsg) : (!m.closed) = (m.refused == 0 && !(m.skip && m.frags.isEmpty)) := by
  simp [RxMsg.closed, bne]

theorem Chip.reasmTimeout_eq (s : Chip) (peer tc base : Nat) : s.reasmTimeout peer tc base
    = if (s.rx (ctxNo 1 peer tc)).msgs.any (fun m => m.base == base && m.refused == 0 && !(m.skip && m.frags.isEmpty)) then
        (s.updRx (ctxNo 1 peer tc) (fun x => { x with msgs := x.msgs.filter (fun m => m.base != base) })).cnt Reg.XPT_REASM_DROP
      else s := by
  simp only [Chip.reasmTimeout, RxMsg.not_closed, Bool.and_assoc, RxCtx.dropMsg]

/-- Settles O34, by the packet, the arrival or the timer: each has the outcome of its lemma. -/
theorem contextsSynchronise : Obligations.ContextsSynchronise := by
  intro s hruns hon
  refine ⟨?_, ?_, ?_, ?_, ?_⟩
  · intro pkt c k hc hcon
    constructor
    · intro hk
      subst hk
      show execSync pkt s = _
      exact s.run_packet hruns hc hcon (c.syncIn_eq _ rfl rfl)
    · intro hk
      subst hk
      show execSyncAck pkt s = _
      exact s.run_packet hruns hc hcon (c.syncAckIn_eq _ rfl rfl)
  · intro n hn
    show execContextFetchDone n s = _
    exact s.run_to hruns (s.chip.ctxArrived_unasked hn)
  · intro n hn hroom
    show execContextFetchDone n s = _
    exact s.run_to hruns (s.chip.ctxArrived_placed hn hroom rfl)
  · intro peer tc base
    show execReassemblyTimeout peer tc base s = _
    exact s.run_to hruns (s.chip.reasmTimeout_eq peer tc base)
  · intro peer tc
    show execAckTimer peer tc s = _
    refine s.run_to hruns ((if_congr ?_ rfl rfl).trans (ite_not _ _ _))
    simp [hon]

end Sys2Proof.Machine
end

section
/-! The sending side of the transport (R367–R373, R388): acknowledgements, refusals, answers to LOADs, and the retry timer. -/

namespace Sys2Proof.Machine

open Sys2Proof

/-! ## ACK (R369, R371) -/

section sender

variable (s : Chip) {k : Packet} {n : Nat} {x : TxCtx} (hn : n = ctxNo 0 k.srcDev k.tc) (hx : x = s.tx n)
include hn hx

theorem Chip.ackIn_inactive (h : x.state ≠ .active) : s.ackIn k = s := by
  subst hn hx
  unfold Chip.ackIn
  exact if_pos h

/-- An ACK of an ACTIVE context: the packets it covers are freed or marked, their messages and fences hear of it, and what waits is sent. -/
theorem Chip.ackIn_active (hactive : x.state = .active) {cum map : Nat} {hit : TxPkt → Bool} {moved : Bool} {d : Chip}
    (hcum : cum = nearest (2 ^ 32) x.cum (k.psn + 1)) (hmap : map = leNat (k.payload.take 128))
    (hhit : hit = (fun p => actsOn k.openKey p && (decide (p.psn < cum) || (decide (p.psn < cum + 1024) && map.testBit (p.psn - cum)))))
    (hmoved : moved = (decide (x.cum < cum) && (!k.openKey || x.pkts.any hit)))
    (hd : d = s.putTx n { x with
      pkts := (x.pkts.filter (fun p => !(hit p && p.op != 6))).map (fun p => if hit p then { p with acked := true } else p)
      cum := max x.cum cum
      expiries := if moved then 0 else x.expiries
      timeout := if moved then 8000 else x.timeout }) :
    s.ackIn k = ((d.each (x.pkts.filter (fun p => hit p && p.op != 6)) (fun d p => d.pktAcked n p)).each
      (x.pkts.filter (fun p => hit p && p.op == 6)) (fun d p => d.fenceAck n p.psn)).settleFences.pumpKeyed k.srcDev k.tc := by
  subst hn hx hcum hmap hhit hmoved hd
  unfold Chip.ackIn
  exact if_neg (not_not_intro hactive)

end sender

/-! ## NAK (R372) -/

section refused

variable (s : Chip) {k : Packet} {n : Nat} {x : TxCtx} {c : Chip} (hn : n = ctxNo 0 k.srcDev k.tc) (hx : x = s.tx n)
  (hc : c = s.cnt Reg.XPT_NAK_RX)
include hn hx hc

/-- A NAK of no packet that is held, or to a context that is not ACTIVE, is counted. -/
theorem Chip.nakIn_unmatched
    (h : x.pkts.find? (fun p => p.psn % 2 ^ 32 == le k.payload 0 4 && actsOn k.openKey p) = none ∨ x.state ≠ .active) : s.nakIn k = c := by
  have htx : c.tx n = x := by rw [hc, hx]; rfl
  unfold Chip.nakIn
  simp only [← hn, ← hc, htx]
  obtain hnone | hstate := h
  · simp only [hnone]
  · simp only [hstate, ne_eq, not_false_eq_true, if_true]
    split <;> rfl

variable {p : TxPkt} (hp : x.pkts.find? (fun p => p.psn % 2 ^ 32 == le k.payload 0 4 && actsOn k.openKey p) = some p)
  (hactive : x.state = .active)
include hp hactive

/-- NEED_SYNC sends every message again. -/
theorem Chip.nakIn_needSync (hreason : le k.payload 4 1 = 8) : s.nakIn k = c.resync k.srcDev k.tc := by
  have htx : c.tx n = x := by rw [hc, hx]; rfl
  unfold Chip.nakIn
  simp only [← hn, ← hc, htx, hp]
  exact (if_neg (not_not_intro hactive)).trans (if_pos hreason)

/-- A reason that no retry answers ends the message of the packet named. -/
theorem Chip.nakIn_ends {m : TxMsg} (hreason : le k.payload 4 1 ∉ [1, 2, 8]) (hm : x.msgs.find? (fun m => m.num == p.num && !m.skip) = some m) :
    s.nakIn k = (((((c.putTx n { x with pkts := x.pkts.filter (fun y => y.psn != p.psn) }).fenceAck n p.psn).updTx n
      (fun y => y.abandon m)).endMsg k.srcDev (le k.payload 4 1) m).settleFences).pumpKeyed k.srcDev k.tc := by
  have htx : c.tx n = x := by rw [hc, hx]; rfl
  simp only [List.mem_cons, List.not_mem_nil, or_false, not_or] at hreason
  obtain ⟨hstale, hpending, hsync⟩ := hreason
  unfold Chip.nakIn
  simp only [← hn, ← hc, htx, hp, hm]
  exact (if_neg (not_not_intro hactive)).trans (if_neg hsync)

end refused

/-! ## LOAD_RESP (R388) -/

section answered

variable (s : Chip) {k : Packet} {n : Nat} {x : TxCtx} (hn : n = ctxNo 0 k.srcDev k.tc) (hx : x = s.tx n)
include hn hx

theorem Chip.loadData_unmatched (h : x.pkts.find? (fun p => p.op == 6 && p.psn % 2 ^ 32 == k.psn) = none) : s.loadData k = s := by
  subst hn hx
  simp only [Chip.loadData, Chip.loadRespIn, h, Option.bind_none]

variable {p : TxPkt} {m : TxMsg} {d : Chip} (hp : x.pkts.find? (fun p => p.op == 6 && p.psn % 2 ^ 32 == k.psn) = some p)
  (hm : x.msgs.find? (fun y => y.num == p.num) = some m) (hstatus : le k.payload 0 1 = 0)
  (hd : d = ((((s.putTx n { x with pkts := x.pkts.filter (fun y => y.psn != p.psn), msgs := x.msgs.filter (fun y => y.num != p.num) }).fenceAck
      n p.psn).fenceMsg p.num).emit (.loadDone m.tile m.num 0 (slice k.payload 16 64))).settleFences.pumpKeyed k.srcDev k.tc)
include hp hm hstatus hd

/-- With STATUS 0 the LOAD leaves the store and ends. -/
theorem Chip.loadRespIn_done : s.loadRespIn k = d := by
  subst hn hx hd
  simp only [Chip.loadRespIn, hp, hm, hstatus, if_true]

/-- Its 64 bytes are written where the tile waits for them. -/
theorem Chip.loadData_done {e : Chip} (he : e = d.setTile m.tile (fun y => { y with loads := y.loads.filter (fun (l : Nat × Nat) => l.1 != m.num) })) :
    s.loadData k = (((d.tile m.tile).loads.find? (fun (l : Nat × Nat) => l.1 == m.num)).map
      (fun a => e.writeScratch m.tile a.2 (slice k.payload 16 64))).getD e := by
  have hbind : (x.pkts.find? (fun p => p.op == 6 && p.psn % 2 ^ 32 == k.psn)).bind (fun p => x.msgs.find? (fun y => y.num == p.num)) = some m := by
    rw [hp, Option.bind_some, hm]
  unfold Chip.loadData
  simp only [← hn, ← hx, s.loadRespIn_done hn hx hp hm hstatus hd, hbind, hstatus, if_true, ← he]
  cases (d.tile m.tile).loads.find? (fun (l : Nat × Nat) => l.1 == m.num) <;> rfl

end answered

/-! ## The retry timer (R371) -/

section retry

variable (s : Chip) {peer tc : Nat} {x : TxCtx} (hx : x = s.tx (ctxNo 0 peer tc))
include hx

theorem Chip.retryExpired_idle (hsync : x.state ≠ .syncing) (h : x.state ≠ .active ∨ x.pkts = []) : s.retryExpired peer tc = s := by
  subst hx
  unfold Chip.retryExpired
  refine if_pos ?_
  simpa [hsync] using h

/-- The eighth expiry declares the peer lost; before it the timeout doubles, and the SYNC or every packet held goes again. -/
theorem Chip.retryExpired_busy (h : x.state = .syncing ∨ (x.state = .active ∧ x.pkts ≠ [])) {c : Chip}
    (hc : c = s.putTx (ctxNo 0 peer tc) { x with expiries := x.expiries + 1, timeout := min (2 * x.timeout) 1000000 }) :
    s.retryExpired peer tc = if 7 ≤ x.expiries then s.declareLost peer
      else if x.state = .syncing then (c.sendSync peer tc).cnt Reg.XPT_RETRY
      else c.each x.pkts (fun c p => c.resendPkt peer tc p) := by
  subst hx hc
  unfold Chip.retryExpired
  refine if_neg ?_
  obtain hsync | ⟨hactive, hpkts⟩ := h
  · simp [hsync]
  · simp [hactive, hpkts]

end retry

/-- Settles O35, by the packet or the timer, and by what its context holds: each has the outcome of its lemma. -/
theorem acksNaksAndRetries : Obligations.AcksNaksAndRetries := by
  intro s hruns hon
  constructor
  · intro pkt c hc hcon
    have hack : ∀ t, c.ackIn { pkt with op := 2 } = t → exec (.ack pkt) s = .next { s with chip := t.settle } := by
      intro t ht
      show execAck pkt s = _
      exact s.run_packet hruns hc hcon ht
    have hnak : ∀ t, c.nakIn { pkt with op := 3 } = t → exec (.nak pkt) s = .next { s with chip := t.settle } := by
      intro t ht
      show execNak pkt s = _
      exact s.run_packet hruns hc hcon ht
    have hload : ∀ t, c.loadData { pkt with op := 7 } = t → exec (.loadResp pkt) s = .next { s with chip := t.settle } := by
      intro t ht
      show execLoadResp pkt s = _
      exact s.run_packet hruns hc hcon ht
    refine ⟨?_, ?_, ?_, ?_, ?_, ?_, ?_⟩
    · intro hstate
      exact hack _ (c.ackIn_inactive rfl rfl hstate)
    · intro hactive cum map hit moved hcum hmap hhit hmoved
      exact hack _ (c.ackIn_active rfl rfl hactive hcum hmap hhit hmoved rfl)
    · intro h
      exact hnak _ (c.nakIn_unmatched rfl rfl rfl h)
    · intro p hp hactive hreason
      exact hnak _ (c.nakIn_needSync rfl rfl rfl hp hactive hreason)
    · intro p m hp hactive hreason hm
      exact hnak _ (c.nakIn_ends rfl rfl rfl hp hactive hreason hm)
    · intro hnone
      exact hload _ (c.loadData_unmatched rfl rfl hnone)
    · intro p m hp hm hstatus
      refine hload _ ((c.loadData_done rfl rfl hp hm hstatus rfl rfl).trans ?_)
      dsimp only
      split
      · next h => rw [h]; rfl
      · next h => rw [h]; rfl
  · intro peer tc
    have hretry : ∀ t, s.chip.retryExpired peer tc = t → exec (.retryTimeout peer tc) s = .next { s with chip := t.settle } := by
      intro t ht
      show execRetryTimeout peer tc s = _
      exact s.run_xptOn hruns hon ht
    constructor
    · intro hsync hidle
      exact hretry _ (s.chip.retryExpired_idle rfl hsync hidle)
    · intro hbusy
      constructor
      · intro hlast
        exact hretry _ ((s.chip.retryExpired_busy rfl hbusy rfl).trans (if_pos hlast))
      · intro hleft
        exact hretry _ ((s.chip.retryExpired_busy rfl hbusy rfl).trans (if_neg hleft.not_ge))

end Sys2Proof.Machine
end

section
/-! The receiving side of the transport (R365, R368, R370, R387): numbered packets at their receive context. -/

namespace Sys2Proof.Machine

open Sys2Proof

theorem loadAnswers_iff (r : Nat) : loadAnswers r = true ↔ r = 0 ∨ (5 ≤ r ∧ r ≤ 7) := by
  simp [loadAnswers]

/-- A memory operation within the window waits with the judgement of its arrival. -/
theorem Chip.opIn_eq (s : Chip) (k : Packet) (psn : Nat) : s.opIn k psn = s.updRx (ctxNo 1 k.srcDev k.tc) (fun x =>
    { x with ops := x.ops.filter (fun o => o.psn != psn) ++ [⟨psn, k, (s.judgeOp k).1, (s.judgeOp k).2, le k.payload 0 2⟩] }) := rfl

/-- A LOAD heard again is answered again where a LOAD_RESP can answer it, and else refused again. -/
def Chip.heardAgain (s : Chip) (k : Packet) (ecc : List WordErr) : Chip :=
  if k.op = 6 then
    if (s.judgeOp k).1 = 0 ∨ (5 ≤ (s.judgeOp k).1 ∧ (s.judgeOp k).1 ≤ 7) then s.serveLoad k (s.judgeOp k).1 (s.judgeOp k).2 ecc
    else s.sendNak k (s.judgeOp k).1
  else s

section numbered

variable (s : Chip) {k : Packet} (ecc : List WordErr) {n psn : Nat} {x : RxCtx} {d : Chip} (hn : n = ctxNo 1 k.srcDev k.tc) (hx : x = s.rx n)
  (hd : d = s.noteEpoch k) (hpsn : psn = nearest (2 ^ 32) x.expect k.psn)
include hn hx hd hpsn

/-- A numbered packet finds no session, was seen before, lies beyond the window, or is taken within it. -/
theorem Chip.numberedIn_eq : s.numberedIn k ecc
    = if x.active = false then d.sendNak k 8
      else if psn < x.expect ∨ psn ∈ x.marks then ((d.cnt Reg.XPT_DUP).heardAgain k ecc).owe k
      else if x.expect + 1024 ≤ psn then d.cnt Reg.XPT_OUT_WINDOW
      else Chip.runOps n ecc 1025 (if k.op = 9 then d.skipIn k psn else if k.op = 1 then d.fragIn k psn else d.opIn k psn) := by
  subst hn hx hd hpsn
  simp only [Chip.numberedIn, Chip.heardAgain, loadAnswers_iff, Bool.not_eq_true', Bool.or_eq_true, decide_eq_true_eq, List.contains_iff_mem]

end numbered

/-- Settles O36, by the four operations: each packet is taken in, and a MSG hands over what it completes. -/
theorem numberedPacketsAreTakenOnce : Obligations.NumberedPacketsAreTakenOnce := by
  intro s pkt ecc c hruns hc hon op _ k n psn x d t hk hn hx hd hpsn ht
  have hin : c.numberedIn k ecc = t := by
    rw [ht, c.numberedIn_eq ecc hn hx hd hpsn]
    subst hk hn
    rfl
  refine ⟨?_, ?_, ?_, ?_⟩
  · intro hop
    subst hop hk
    show execMsg pkt ecc s = _
    exact s.run_to hruns (congrArg Chip.exchanges ((s.chip.packetIn_on _ hc hon).trans hin))
  · intro hop
    subst hop hk
    show execLoad pkt ecc s = _
    exact s.run_packet hruns hc hon hin
  · intro hop
    subst hop hk
    show execStore pkt ecc s = _
    exact s.run_packet hruns hc hon hin
  · intro hop
    subst hop hk
    show execSkip pkt ecc s = _
    exact s.run_packet hruns hc hon hin

end Sys2Proof.Machine
end

section
/-! Forwarding (R364, R402), and the exports and windows of memory operations (R383–R385). -/

namespace Sys2Proof.Machine

open Sys2Proof

/-! ## Forwarding (R364, R402) -/

section forward

variable (s : Chip) {l : Nat} {b : Bytes} {c : Chip} {k : Packet} (hc : c = s.setXpt (fun x => { x with fwd := x.fwd.erase (l, b) }))
include hc

theorem Chip.forward_off (h : c.xptOn = false ∨ c.flt.mute = true) : s.forward l b = c := by
  subst hc
  unfold Chip.forward
  refine if_pos ?_
  simpa using h

variable (hk : k = packetOf b) (hon : c.xptOn = true) (hmute : c.flt.mute = false)
include hk hon hmute

/-- A frame without a hop left or without a route is dropped and counted. -/
theorem Chip.forward_lost (h : k.hops = 0 ∨ c.route k.dstDev k.psn = none) : s.forward l b = (c.cnt Reg.XPT_FWD_DROP).raise Pg.XPT 7 := by
  subst hk
  unfold Chip.forward
  simp only [← hc, hon, hmute, Bool.not_true, Bool.or_self, Bool.false_eq_true, if_false]
  obtain hhops | hroute := h
  · simp only [hhops]
  · rw [hroute]
    cases (packetOf b).hops <;> rfl

/-- A frame with a hop left joins the queue of its class on the link of its route, where that queue takes it. -/
theorem Chip.forward_routed {o : Nat} (hhops : 0 < k.hops) (hroute : c.route k.dstDev k.psn = some o) {e : Chip}
    (he : e = (c.cnt (regAt (Pg.shp o) Reg.SHP_FWD_FULL)).raise (Pg.shp o) 1) : s.forward l b
    = if c.shpOn o = true ∧ c.queueFull o (24 + k.tc) b.length = none then
        (c.enqueue o (24 + k.tc) { bytes := patch (patch (b.take (48 + le b 2 2)) 6 [0, 0]) 15 (toLE 1 (k.hops - 1)), since := c.alm.now / 10 }).cnt
          Reg.XPT_FWD_FRAMES
      else if e.queueFull o (24 + k.tc) b.length = some true then e.raise (Pg.shp o) 3 else e := by
  obtain ⟨h, hsucc⟩ := Nat.exists_eq_succ_of_ne_zero hhops.ne'
  subst hk
  unfold Chip.forward
  simp only [← hc, hon, hmute, Bool.not_true, Bool.or_self, Bool.false_eq_true, if_false, hsucc, hroute, ← he]
  refine (if_congr ?_ rfl rfl).trans (ite_not _ _ _)
  cases c.shpOn o <;> simp [Option.isSome_iff_ne_none]

end forward

/-- Settles O37, by the transport, the hops left and the route: each frame has the outcome of its lemma. -/
theorem forwardedFramesKeepTheirRoute : Obligations.ForwardedFramesKeepTheirRoute := by
  intro s l b hruns hl c k hc hk
  have hexec : ∀ t, s.chip.forward l b = t → exec (.forwardedFrame l b) s = .next { s with chip := t.settle } := by
    intro t ht
    show execForwardedFrame l b s = _
    exact s.runOn_to hruns hl ht
  constructor
  · intro hoff
    exact hexec _ (s.chip.forward_off hc hoff)
  · intro hon hmute
    constructor
    · intro hlost
      exact hexec _ (s.chip.forward_lost hc hk hon hmute hlost)
    · intro o hhops hroute
      exact hexec _ (s.chip.forward_routed hc hk hon hmute hhops hroute rfl)

/-! ## Exports and windows (R383–R385) -/

section windows

variable (s : Chip) {acc : Access} {op id part : Nat} {named : Bool} {run : Chip → Chip} {parts : List Nat}
  (hparts : (if named then [part] else []) = parts) (htakes : s.takes acc Pg.XPT true parts = true)
include hparts htakes

/-- A command of XPT_WIN_CTRL that the page takes is ignored while one runs. -/
theorem Chip.winCtrl_busy (hbusy : s.rf F.XPT_WIN_STAT_RESULT = 15) : s.winCtrl acc op id part named run = s := by
  subst hparts
  exact (s.command_taken _ _ _ _ htakes).trans (if_pos hbusy)

/-- With none running it is done. -/
theorem Chip.winCtrl_done (hidle : s.rf F.XPT_WIN_STAT_RESULT ≠ 15) : s.winCtrl acc op id part named run = run s := by
  subst hparts
  exact (s.command_taken _ _ _ _ htakes).trans (if_neg hidle)

end windows

theorem Chip.exportRevoke_open (s : Chip) {id : Nat} {e : Export} (h : s.xpt.exports.find id = some e) :
    s.exportRevoke id = ((s.dropExport id).setXpt (fun x => { x with revoking := some id })).wf F.XPT_WIN_STAT_RESULT 15 := by
  unfold Chip.exportRevoke
  exact if_neg (by simp [h])

theorem Chip.exportRevoke_free (s : Chip) {id : Nat} (h : s.xpt.exports.find id = none) : s.exportRevoke id = s.wf F.XPT_WIN_STAT_RESULT 1 := by
  unfold Chip.exportRevoke
  exact if_pos (by simp [h])

/-- Settles O38, by the command, and for an open by whether one is busy: each that runs has its outcome as its definition. -/
theorem exportsAndWindows : Obligations.ExportsAndWindows := by
  refine ⟨?_, ?_, ?_⟩
  · intro s acc image hruns b hb htakes
    subst hb
    constructor
    · intro hbusy
      constructor
      · show execExportOpen acc image s = _
        exact s.run_to hruns (s.chip.winCtrl_busy rfl htakes hbusy)
      · show execWindowOpen acc image s = _
        exact s.run_to hruns (s.chip.winCtrl_busy rfl htakes hbusy)
    · intro hidle
      constructor
      · show execExportOpen acc image s = _
        exact s.run_to hruns (s.chip.winCtrl_done rfl htakes hidle)
      · show execWindowOpen acc image s = _
        exact s.run_to hruns (s.chip.winCtrl_done rfl htakes hidle)
  · intro s acc id hruns hidle
    refine ⟨?_, ?_, ?_⟩
    · intro e he htakes
      show execExportRevoke acc id s = _
      exact s.run_to hruns ((s.chip.winCtrl_done (by rw [he]; rfl) htakes hidle).trans (s.chip.exportRevoke_open he))
    · intro hnone htakes
      show execExportRevoke acc id s = _
      exact s.run_to hruns ((s.chip.winCtrl_done (by rw [hnone]; rfl) htakes hidle).trans (s.chip.exportRevoke_free hnone))
    · intro w hw htakes
      show execWindowClose acc id s = _
      exact s.run_to hruns (s.chip.winCtrl_done (by rw [hw]; rfl) htakes hidle)
  · intro s hruns
    show execExportRevokeDone s = _
    exact s.run_to hruns rfl

end Sys2Proof.Machine
end

section
/-! Composition maps (R391–R393, R397): proposals that are refused, voted against or accepted, and the Votes that are heard. -/

namespace Sys2Proof.Machine

open Sys2Proof

/-! ## Proposals (R391) -/

/-- An image that is no map is refused, and voted against where its members can be read. -/
theorem Chip.propose_malformed (s : Chip) {img : Bytes} (h : mapOfBytes img = none) {c : Chip}
    (hc : c = (s.wf F.XPT_MAP_STAT_RESULT 1).raise Pg.XPT 5) :
    s.propose img = if mapWhole img then c.sendVotes 1 (mapFields img) (digest (img.take (mapSize (le img 16 2)))) else c := by
  subst hc
  unfold Chip.propose
  rw [h]

section proposal

variable (s : Chip) {img p dig : Bytes} {m : CompMap} (hm : mapOfBytes img = some m) (hp : p = padTo (mapSize m.members.length) img)
  (hdig : dig = digest p)
include hm hp hdig

theorem Chip.propose_accepted (h : s.checkMap m (prevDigest p) = 0) : s.propose img = s.acceptMap m dig := by
  subst hdig hp
  unfold Chip.propose
  simp only [hm, h]

theorem Chip.propose_refused (h : s.checkMap m (prevDigest p) ≠ 0) :
    s.propose img = ((s.wf F.XPT_MAP_STAT_RESULT (s.checkMap m (prevDigest p))).raise Pg.XPT 5).sendVotes 1 m dig := by
  obtain ⟨r, hr⟩ := Nat.exists_eq_succ_of_ne_zero h
  subst hdig hp
  unfold Chip.propose
  simp only [hm, hr]

end proposal

/-! ## Votes (R392, R393) -/

/-- A Vote that is well formed, names its sender, accepts and is not held is kept, and the Votes are counted. -/
theorem Chip.voteIn_eq (s : Chip) {src : MsgSrc} {b : Bytes} {c : Chip} {v : Nat × Nat × Nat × Bytes} (hc : c = s.take 8 src b)
    (hv : v = (le b 2 2, le b 4 4, src.dev, slice b 16 64)) : s.voteIn src b
    = if b.length = 96 ∧ le b 0 1 = 1 ∧ le b 80 2 = src.dev ∧ le b 1 1 = 0 ∧ v ∉ c.xpt.votes then
        (c.setXpt (fun x => { x with votes := x.votes ++ [v] })).countVotes
      else c := by
  unfold Chip.voteIn
  simp only [← hc, ← hv]
  refine (if_congr ?_ rfl rfl).trans (ite_not _ _ _)
  simp only [Bool.or_eq_true, decide_eq_true_eq, List.contains_iff_mem, not_and_or, not_not, ne_eq, or_assoc]

/-- Settles O39, by what the image of a proposal is and what its checks find, and for a Vote by its lemma. -/
theorem mapsAreProposedAndVotedOn : Obligations.MapsAreProposedAndVotedOn := by
  intro s hruns
  constructor
  · intro acc brought htakes a img ha himg
    subst ha
    have hexec : ∀ t, s.chip.propose img = t → exec (.mapProposal acc brought) s = .next { s with chip := t.settle } := by
      intro t ht
      subst himg
      show execMapProposal acc brought s = _
      exact s.run_to hruns ((s.chip.command_taken _ _ _ _ htakes).trans ht)
    constructor
    · intro hnone
      exact hexec _ (s.chip.propose_malformed hnone rfl)
    · intro m p dig hm hp hdig
      constructor
      · intro c d e hcheck hc hd he
        subst he hd hc
        exact hexec _ (s.chip.propose_accepted hm hp hdig hcheck)
      · intro hcheck
        exact hexec _ (s.chip.propose_refused hm hp hdig hcheck)
  · intro src b
    show execVote src b s = _
    exact s.run_to hruns (s.chip.voteIn_eq rfl rfl)

end Sys2Proof.Machine
end

section
/-! Every command (00, R459, R517, R529): a step runs the command at the front of the queue, every command answers a next state, what the rails
being off leaves, and which commands reach the fuses. -/

namespace Sys2Proof.Machine

open Sys2Proof

/-! ## Commands that change the chip alone -/

/-- An answer that is a next state with the same fuses and queue, and with the same chip where the rails are off. -/
def ChipAlone (s : State) (o : Host.Outcome State Fault Refusal) : Prop :=
  ∃ c, o = .next { s with chip := c } ∧ (s.chip.pwr.off = true → c = s.chip)

/-- A management command that changes the chip alone. -/
theorem ChipAlone.manage {s : State} {f : State → State} (h : f s = { s with chip := (f s).chip }) : ChipAlone s (s.manage f) := by
  cases hoff : s.chip.pwr.off with
  | true => exact ⟨s.chip, by simp [State.manage, hoff], fun _ => rfl⟩
  | false => exact ⟨(f s).chip, by simp [State.manage, hoff, ← h], fun h => absurd (hoff.symm.trans h) Bool.false_ne_true⟩

theorem State.perstLow_chip (s : State) : s.perstLow = { s with chip := s.perstLow.chip } := by
  unfold State.perstLow State.warm
  dsimp only
  split_ifs <;> rfl

theorem State.chipAlone_nmpCold (s : State) (id : Nat) (head : Bytes) : s.nmpCold id head = { s with chip := (s.nmpCold id head).chip } := by
  unfold State.nmpCold State.cold
  split_ifs <;> rfl

theorem State.chipAlone_nmpWarm (s : State) (id : Nat) (head : Bytes) : s.nmpWarm id head = { s with chip := (s.nmpWarm id head).chip } := by
  unfold State.nmpWarm State.warm
  dsimp only
  split_ifs <;> rfl

/-- Commands that bring the module to life, and those through which a write reaches SEC_FUSE_CTRL: each has lemmas of its own. -/
def Instr.beyondChip : Instr → Bool
  | .vinRise => true
  | .modRstN _ => true
  | .fuseOwnerKey .. => true
  | .fuseManagementRoot .. => true
  | .raiseMinSvn .. => true
  | .registerWrite .. => true
  | .nmpWrite .. => true
  | .nmpRecord .. => true
  | _ => false

/-- Every other command changes the chip alone, and nothing without rails. -/
theorem exec_chipAlone (i : Instr) (s : State) (h : Instr.beyondChip i = false) : ChipAlone s (exec i s) := by
  unfold exec
  cases i <;> dsimp only
  case vinRise | modRstN | fuseOwnerKey | fuseManagementRoot | raiseMinSvn | registerWrite | nmpWrite | nmpRecord =>
    exact Bool.noConfusion h
  case perstAssert => exact ChipAlone.manage (f := State.perstLow) s.perstLow_chip
  case nmpRead id tag off n => exact ChipAlone.manage (f := fun s => s.onBody (fun c => c.nmpRead id (nmpHead 1 0 tag off n))) rfl
  case nmpColdReset id tag => exact ChipAlone.manage (f := fun s => s.nmpCold id (nmpHead 3 0 tag 0 0)) (s.chipAlone_nmpCold _ _)
  case nmpWarmReset id tag => exact ChipAlone.manage (f := fun s => s.nmpWarm id (nmpHead 4 0 tag 0 0)) (s.chipAlone_nmpWarm _ _)
  all_goals exact ⟨_, rfl, fun hoff => if_pos (by simp [hoff])⟩

/-- Settles O6: every other command changes the chip alone; the writes of fuses and registers and the management commands do nothing without rails. -/
theorem railsOffModuleDoesNothing : Obligations.RailsOffModuleDoesNothing := by
  intro i s hoff hi
  cases hb : Instr.beyondChip i with
  | false =>
    obtain ⟨c, hc, hsame⟩ := exec_chipAlone i s hb
    rw [hc, hsame hoff]
  | true =>
    unfold exec
    cases i
    case vinRise | modRstN => exact Bool.noConfusion hi
    case fuseOwnerKey | fuseManagementRoot | raiseMinSvn => exact congrArg _ (if_pos (by simp [hoff]))
    case registerWrite | nmpWrite | nmpRecord => exact congrArg _ (if_pos (by simp [hoff]))
    all_goals exact Bool.noConfusion hb

/-! ## The fuses (R459) -/

theorem Fuses.kept_refl (f : Fuses) : f.kept f := ⟨fun _ h => h, fun _ h => h, le_refl _⟩

theorem Fuses.kept_trans {f g k : Fuses} (h₁ : f.kept g) (h₂ : g.kept k) : f.kept k :=
  ⟨fun d h => h₂.1 d (h₁.1 d h), fun d h => h₂.2.1 d (h₁.2.1 d h), h₁.2.2.trans h₂.2.2⟩

/-- A fuse operation fuses a digest only where none is fused, and raises MIN_SVN. -/
theorem Fuses.kept_fuseOp (f : Fuses) (op : Nat) (admin : Bool) (digest : Bytes) (svn : Nat) : f.kept (fuseOp f op admin digest svn).1 := by
  have hnone {o : Option Bytes} (h : ¬o.isSome = true) (d : Bytes) : o ≠ some d := fun he => h (by simp [he])
  unfold fuseOp
  split
  · exact f.kept_refl
  · split
    · split
      · exact f.kept_refl
      next h => exact ⟨fun d hd => absurd hd (hnone h d), fun _ hd => hd, le_refl _⟩
    · split
      · exact f.kept_refl
      next h => exact ⟨fun _ hd => hd, fun d hd => absurd hd (hnone h d), le_refl _⟩
    · exact ⟨fun _ hd => hd, fun _ hd => hd, Nat.le_max_left _ _⟩

/-- What every command does: no fuse falls, and the queue stays (R459). -/
def State.Follows (s t : State) : Prop := s.fuses.kept t.fuses ∧ t.pending = s.pending

theorem State.follows_withChip (s : State) (c : Chip) : s.Follows { s with chip := c } := ⟨s.fuses.kept_refl, rfl⟩

theorem State.Follows.trans {s t u : State} (h₁ : s.Follows t) (h₂ : t.Follows u) : s.Follows u := ⟨Fuses.kept_trans h₁.1 h₂.1, h₂.2.trans h₁.2⟩

theorem State.follows_fuseWrite (s : State) (a : Access) (op : Nat) (brought : Bytes) : s.Follows (s.fuseWrite a op brought) := by
  unfold State.fuseWrite
  dsimp only
  split
  · exact s.follows_withChip s.chip
  · split
    · exact s.follows_withChip _
    · split
      · exact s.follows_withChip s.chip
      · exact ⟨Fuses.kept_fuseOp .., rfl⟩

theorem State.follows_ite {p : Prop} [Decidable p] (s : State) {t : State} (h : s.Follows t) : s.Follows (if p then s else t) := by
  split
  · exact s.follows_withChip s.chip
  · exact h

/-- An answer that is a next state which follows. -/
def Answers (s : State) (o : Host.Outcome State Fault Refusal) : Prop := ∃ t, o = .next t ∧ s.Follows t

theorem ChipAlone.answers {s : State} {o : Host.Outcome State Fault Refusal} (h : ChipAlone s o) : Answers s o := by
  obtain ⟨c, hc, -⟩ := h
  exact ⟨_, hc, s.follows_withChip c⟩

/-! ## Writes of command registers (R547, R545) -/

/-- Writes to a register of any page, which run the command of the register they reach. -/
def Instr.anyRegister : Instr → Bool
  | .registerWrite .. => true
  | .rw1cWrite .. => true
  | _ => false

/-- What a write to a command register answers: what a command answers that is of the same access, once a free value may have been drawn, or what
a write of several orders under the rule of its page does. -/
def CommandAnswer (s : State) (acc : Access) (o : Host.Outcome State Fault Refusal) : Prop :=
  (∃ i n, accessOf i = some acc ∧ Instr.anyRegister i = false ∧ o = exec i { s with chip := { s.chip with free := n } })
    ∨ ∃ f : Chip → Chip, o = s.run f ∧ ∀ c, ∃ pg off val shared parts excluded run, f c = c.command acc pg off val shared parts excluded run

theorem CommandAnswer.of_exec {s : State} {acc : Access} (i : Instr) (hacc : accessOf i = some acc) (hi : Instr.anyRegister i = false) :
    CommandAnswer s acc (exec i s) := .inl ⟨i, s.chip.free, hacc, hi, rfl⟩

theorem State.schWrite_answer (s : State) (acc : Access) (a val : Nat) (t3 : List (Nat × Bytes)) {o : Host.Outcome State Fault Refusal}
    (h : s.schWrite acc a val t3 = some o) : CommandAnswer s acc o := by
  unfold State.schWrite at h
  split_ifs at h
  · split at h <;> cases h
    · exact .of_exec (.programLoad ..) rfl rfl
    · exact .of_exec (.programUnload ..) rfl rfl
  · split at h <;> cases h
    · exact .of_exec (.registerEntry ..) rfl rfl
    · exact .of_exec (.deregister ..) rfl rfl
  · split at h <;> cases h
    · exact .of_exec (.residencyLoad ..) rfl rfl
    · exact .of_exec (.residencyEvict ..) rfl rfl
    · exact .of_exec (.residencyPin ..) rfl rfl
    · exact .of_exec (.residencyUnpin ..) rfl rfl
  · split at h <;> cases h
    · exact .of_exec (.acctRegister ..) rfl rfl
    · exact .of_exec (.acctRemove ..) rfl rfl
    · exact .of_exec (.acctClear ..) rfl rfl
  · cases h
    exact .of_exec (.sliceCommit ..) rfl rfl

theorem State.cxlWrite_answer (s : State) (acc : Access) (a val : Nat) (t3 : List (Nat × Bytes)) {o : Host.Outcome State Fault Refusal}
    (h : s.cxlWrite acc a val t3 = some o) : CommandAnswer s acc o := by
  unfold State.cxlWrite at h
  dsimp only at h
  split_ifs at h
  · split at h <;> cases h
    · exact .of_exec (.createQueuePair ..) rfl rfl
    · exact .of_exec (.deleteQueuePair ..) rfl rfl
    · exact .of_exec (.createEmitRing ..) rfl rfl
    · exact .of_exec (.deleteEmitRing ..) rfl rfl
    · exact .of_exec (.setProfile ..) rfl rfl
  · cases h
    exact .of_exec (.sqTailDoorbell ..) rfl rfl
  · cases h
    exact .of_exec (.cqHeadDoorbell ..) rfl rfl
  · cases h
    exact .of_exec (.emitHeadDoorbell ..) rfl rfl

theorem State.xptWrite_answer (s : State) (acc : Access) (a val : Nat) (t3 : List (Nat × Bytes)) {o : Host.Outcome State Fault Refusal}
    (h : s.xptWrite acc a val t3 = some o) : CommandAnswer s acc o := by
  unfold State.xptWrite at h
  split_ifs at h
  · cases h
    exact .of_exec (.mapProposal ..) rfl rfl
  · split at h <;> cases h
    · exact .of_exec (.exportOpen ..) rfl rfl
    · exact .of_exec (.exportRevoke ..) rfl rfl
    · exact .of_exec (.windowOpen ..) rfl rfl
    · exact .of_exec (.windowClose ..) rfl rfl
  · cases h
    exact .of_exec (.contextFlush ..) rfl rfl

theorem Chip.sealWrite_command (s : Chip) (acc : Access) (val : Nat) (rcpt : Bytes) :
    ∃ pg off v shared parts excluded run, s.sealWrite acc val rcpt = s.command acc pg off v shared parts excluded run := by
  unfold Chip.sealWrite
  exact ⟨_, _, _, _, _, _, _, rfl⟩

theorem State.secWrite_answer (s : State) (acc : Access) (a val : Nat) (t3 : List (Nat × Bytes)) {o : Host.Outcome State Fault Refusal}
    (h : s.secWrite acc a val t3 = some o) : CommandAnswer s acc o := by
  unfold State.secWrite at h
  split_ifs at h
  · cases h
    exact .of_exec (.attestationRequest ..) rfl rfl
  · split at h <;> cases h
    · exact .of_exec (.fuseOwnerKey ..) rfl rfl
    · exact .of_exec (.fuseManagementRoot ..) rfl rfl
    · exact .of_exec (.raiseMinSvn ..) rfl rfl
  · cases h
    exact .inr ⟨_, rfl, fun c => c.sealWrite_command acc val _⟩

/-- Whether a bank has spare rows enough is a free value. -/
theorem State.fltWrite_answer (s : State) (acc : Access) (a val : Nat) {o : Host.Outcome State Fault Refusal} (h : s.fltWrite acc a val = some o) :
    CommandAnswer s acc o := by
  unfold State.fltWrite at h
  split_ifs at h
  split at h <;> cases h
  · exact .inl ⟨.repairHalfBank .., s.chip.free + 1, rfl, rfl, rfl⟩
  · exact .of_exec (.retestTile ..) rfl rfl

theorem State.unitWrite_answer (s : State) (acc : Access) (b : Blk) (inst off val : Nat) (t3 : List (Nat × Bytes))
    {o : Host.Outcome State Fault Refusal} (h : s.unitWrite acc b inst off val t3 = some o) : CommandAnswer s acc o := by
  unfold State.unitWrite at h
  dsimp only at h
  split at h
  · split_ifs at h
    split at h <;> cases h
    · exact .of_exec (.descriptorInstall ..) rfl rfl
    · exact .of_exec (.descriptorMigrate ..) rfl rfl
    · exact .of_exec (.descriptorFree ..) rfl rfl
  · split_ifs at h
    cases h
    exact .inr ⟨_, rfl, fun _ => ⟨_, _, _, _, _, _, _, rfl⟩⟩
  · split_ifs at h
    cases h
    exact .of_exec (.calendarCommit ..) rfl rfl
  · split_ifs at h <;> cases h
    · exact .of_exec (.policerWrite ..) rfl rfl
    · exact .of_exec (.policerWrite ..) rfl rfl
  · cases h

/-- Every command that a write gives is one of the table, or one of several orders. -/
theorem State.commandWrite_answer (s : State) (acc : Access) (a val : Nat) (t3 : List (Nat × Bytes)) {o : Host.Outcome State Fault Refusal}
    (h : s.commandWrite acc a val t3 = some o) : CommandAnswer s acc o := by
  unfold State.commandWrite at h
  split at h
  · split_ifs at h <;> cases h
    · exact .of_exec (.planArm ..) rfl rfl
    · exact .of_exec (.planWithdraw ..) rfl rfl
    · exact .of_exec (.almSyncTod ..) rfl rfl
  · split_ifs at h <;> cases h
    · exact .of_exec (.rtbPeekIdxWrite ..) rfl rfl
    · exact .of_exec (.rtbSerialWrite ..) rfl rfl
  · split_ifs at h
    split at h <;> cases h
    · exact .of_exec (.pfxPin ..) rfl rfl
    · exact .of_exec (.pfxUnpin ..) rfl rfl
  · split_ifs at h
    cases h
    exact .of_exec (.smvOrdIssue ..) rfl rfl
  · split_ifs at h
    cases h
    exact .inr ⟨_, rfl, fun _ => ⟨_, _, _, _, _, _, _, rfl⟩⟩
  · split_ifs at h
    cases h
    exact .of_exec (.firmwareGo ..) rfl rfl
  · exact s.schWrite_answer acc a val t3 h
  · exact s.cxlWrite_answer acc a val t3 h
  · exact s.xptWrite_answer acc a val t3 h
  · exact s.secWrite_answer acc a val t3 h
  · exact s.fltWrite_answer acc a val h
  · exact s.unitWrite_answer acc _ _ _ val t3 h
  · cases h

/-! ## Every command answers (00, R459) -/

/-- A command that is no write of any register and no management Write or Record answers. -/
theorem exec_answers_of_plain (i : Instr) (s : State) (hr : Instr.anyRegister i = false) {acc : Access} (ha : accessOf i = some acc) :
    Answers s (exec i s) := by
  cases hb : Instr.beyondChip i with
  | false => exact (exec_chipAlone i s hb).answers
  | true =>
    unfold exec
    cases i
    case fuseOwnerKey | fuseManagementRoot | raiseMinSvn => exact ⟨_, rfl, s.follows_fuseWrite _ _ _⟩
    case vinRise | modRstN | nmpWrite | nmpRecord => cases ha
    case registerWrite => exact Bool.noConfusion hr
    all_goals exact Bool.noConfusion hb

theorem CommandAnswer.answers {s : State} {acc : Access} {o : Host.Outcome State Fault Refusal} (h : CommandAnswer s acc o) : Answers s o := by
  obtain ⟨i, n, hacc, hi, rfl⟩ | ⟨f, rfl, -⟩ := h
  · obtain ⟨t, ht, hf⟩ := exec_answers_of_plain i { s with chip := { s.chip with free := n } } hi hacc
    exact ⟨t, ht, (s.follows_withChip _).trans hf⟩
  · exact ⟨_, rfl, s.follows_withChip _⟩

theorem Answers.follows_nextOf {s : State} {o : Host.Outcome State Fault Refusal} (h : Answers s o) : s.Follows (nextOf s o) := by
  obtain ⟨t, rfl, hf⟩ := h
  exact hf

theorem State.follows_writeWord (s : State) (acc : Access) (a val : Nat) (t3 : List (Nat × Bytes)) : s.Follows (s.writeWord acc a val t3) := by
  unfold State.writeWord
  dsimp only
  refine State.Follows.trans ?_ (State.follows_withChip _ _)
  split
  next o h => exact (s.commandWrite_answer acc a _ t3 h).answers.follows_nextOf
  next h => exact s.follows_withChip _

theorem State.follows_regWrite (s : State) (acc : Access) (addr size val : Nat) (t3 : List (Nat × Bytes)) :
    s.Follows (s.regWrite acc addr size val t3) := by
  unfold State.regWrite
  split
  · exact s.follows_withChip _
  · split
    · exact s.follows_writeWord ..
    · exact (s.follows_writeWord ..).trans (State.follows_writeWord ..)

/-- Induction over the words of a Write; a word is written with the purge out of force, which leaves fuses and queue alone. -/
theorem State.follows_writeRun (acc : Access) (t3 : List (Nat × Bytes)) (words : List Nat) (a : Nat) (s : State) :
    s.Follows (State.writeRun acc t3 words a s).1 := by
  induction words generalizing a s with
  | nil => exact s.follows_withChip s.chip
  | cons w l ih =>
    have hword : s.Follows (({ s with chip := { s.chip with pwr := { s.chip.pwr with purged := false } } } : State).writeWord acc a w t3) :=
      (s.follows_withChip _).trans (State.follows_writeWord ..)
    unfold State.writeRun
    dsimp only
    split
    · exact (hword.trans (State.follows_withChip _ _)).trans (ih _ _)
    · exact hword.trans (State.follows_withChip _ _)

theorem State.follows_nmpWrite (s : State) (id : Nat) (head : Bytes) (words : List Nat) (t3 : List (Nat × Bytes)) :
    s.Follows (s.nmpWrite id head words t3) := by
  unfold State.nmpWrite
  dsimp only
  split
  · exact s.follows_withChip _
  · split
    · exact s.follows_withChip s.chip
    · split_ifs
      · exact s.follows_withChip _
      · exact s.follows_withChip _
      next x _ _ _ =>
        have hrun := State.follows_writeRun ⟨.slot x.slot, false⟩ t3 words (le head 8 4) s
        split <;> next h =>
          rw [h] at hrun
          exact hrun.trans (State.follows_withChip _ _)

theorem State.follows_nmpBody (s : State) (id : Nat) (b : Bytes) (t3 : List (Nat × Bytes)) : s.Follows (s.nmpBody id b t3) := by
  unfold State.nmpBody
  dsimp only
  split <;> try split
  case h_2.isTrue => exact s.follows_nmpWrite ..
  case h_3.isTrue => rw [s.chipAlone_nmpCold]; exact s.follows_withChip _
  case h_4.isTrue => rw [s.chipAlone_nmpWarm]; exact s.follows_withChip _
  all_goals exact s.follows_withChip _

theorem State.follows_nmpRecord (s : State) (d : Bytes) (t3 : List (Nat × Bytes)) : s.Follows (s.nmpRecord d t3) := by
  unfold State.nmpRecord
  dsimp only
  split
  · exact s.follows_withChip s.chip
  · split
    · exact s.follows_withChip s.chip
    · split
      · exact s.follows_withChip s.chip
      · split_ifs
        · exact s.follows_withChip s.chip
        · exact s.follows_withChip _
        · exact (s.follows_withChip _).trans (State.follows_nmpBody ..)

theorem exec_answers (i : Instr) (s : State) : Answers s (exec i s) := by
  cases hb : Instr.beyondChip i with
  | false => exact (exec_chipAlone i s hb).answers
  | true =>
    unfold exec
    cases i
    case vinRise => exact ⟨_, rfl, s.follows_withChip _⟩
    case modRstN ns =>
      refine ⟨_, rfl, ?_⟩
      split
      · exact s.follows_withChip _
      · exact s.follows_withChip s.chip
    case fuseOwnerKey | fuseManagementRoot | raiseMinSvn => exact ⟨_, rfl, s.follows_fuseWrite _ _ _⟩
    case registerWrite => exact ⟨_, rfl, s.follows_ite (s.follows_regWrite ..)⟩
    case nmpWrite => exact ⟨_, rfl, s.follows_ite (s.follows_nmpWrite ..)⟩
    case nmpRecord => exact ⟨_, rfl, s.follows_ite (s.follows_nmpRecord ..)⟩
    all_goals exact Bool.noConfusion hb

/-- Settles O2: every answer is a next state with the same queue. -/
theorem everyCommandCompletes : Obligations.EveryCommandCompletes := by
  intro i s
  obtain ⟨t, ht, hf⟩ := exec_answers i s
  exact ⟨t, ht, hf.2⟩

/-- Settles O1: both cases are the two branches of `step`. -/
theorem stepRunsFrontCommand : Obligations.StepRunsFrontCommand :=
  ⟨fun s c rest h => by simp only [step, h], fun s h => by simp only [step, h]⟩

/-- Settles O3: a step is one command, and no command's answer lets a fuse fall. -/
theorem fusesOnlyRise : Obligations.FusesOnlyRise := by
  intro s t h
  cases hq : s.pending with
  | nil =>
    have hst : s = t := Host.Outcome.next.inj ((stepRunsFrontCommand.2 s hq).symm.trans h)
    exact hst ▸ s.fuses.kept_refl
  | cons c rest =>
    obtain ⟨u, hu, hf⟩ := exec_answers c { s with pending := rest }
    have hut : u = t := Host.Outcome.next.inj (hu.symm.trans ((stepRunsFrontCommand.1 s c rest hq).symm.trans h))
    exact hut ▸ hf.1

/-- Settles O4: every other command changes the chip alone, and the resets keep the fuses. -/
theorem fusesChangeOnlyByFuseCommands : Obligations.FusesChangeOnlyByFuseCommands := by
  intro i s t hi h
  cases hb : Instr.beyondChip i with
  | false =>
    obtain ⟨c, hc, -⟩ := exec_chipAlone i s hb
    rw [← Host.Outcome.next.inj (hc.symm.trans h)]
  | true =>
    unfold exec at h
    cases i
    case vinRise => rw [← Host.Outcome.next.inj h]; rfl
    case modRstN ns =>
      rw [← Host.Outcome.next.inj h]
      split <;> rfl
    case fuseOwnerKey | fuseManagementRoot | raiseMinSvn | registerWrite | nmpWrite | nmpRecord => exact Bool.noConfusion hi
    all_goals exact Bool.noConfusion hb

end Sys2Proof.Machine
end

section
/-! Writers without rights (R547, R548, R558): what the record of a refused write changes, and that no register write of an observer, or from an
empty principal slot, does more. -/

namespace Sys2Proof.Machine

open Sys2Proof

/-! ## What the record of a refused write changes -/

theorem Chip.onlyLogged_refl (s : Chip) : s.onlyLogged s := ⟨rfl, rfl, rfl, rfl, rfl, fun _ _ _ _ => rfl⟩

theorem Chip.onlyLogged.trans {s t u : Chip} (h₁ : s.onlyLogged t) (h₂ : t.onlyLogged u) : s.onlyLogged u := by
  obtain ⟨ha, hb, hcxl, hsec, hglb, hrd⟩ := h₁
  obtain ⟨ha', hb', hcxl', hsec', hglb', hrd'⟩ := h₂
  refine ⟨ha'.trans ha, hb'.trans hb, ?_, ?_, ?_, fun a hc he hi => (hrd' a hc he hi).trans (hrd a hc he hi)⟩
  · rw [hcxl', hcxl]
  · rw [hsec', hsec]
  · rw [hglb', hglb]

theorem Chip.onlyLogged_free (s : Chip) (n : Nat) : s.onlyLogged { s with free := n } := ⟨rfl, rfl, rfl, rfl, rfl, fun _ _ _ _ => rfl⟩

theorem Chip.onlyLogged_log (s : Chip) (log : SMap Bytes) (n : Nat) : s.onlyLogged { s with glb := { s.glb with ownLog := log, logged := n } } :=
  ⟨rfl, rfl, rfl, rfl, rfl, fun _ _ _ _ => rfl⟩

theorem Chip.onlyLogged_wr (s : Chip) {a : Nat} (v : Nat) (ha : a ∈ [Reg.GLB_OWN_COUNT, regAt Pg.GLB Reg.ERR_STAT, regAt Pg.GLB Reg.INT_STAT]) :
    s.onlyLogged (s.wr a v) := by
  refine ⟨by simp, by simp, by simp, by simp, by simp, fun b hc he hi => s.rd_wr_other v ?_⟩
  simp only [List.mem_cons, List.not_mem_nil, or_false] at ha
  rcases ha with rfl | rfl | rfl <;> assumption

theorem Chip.onlyLogged_sendRecord (s : Chip) (id : Nat) (b : Bytes) : s.onlyLogged (s.sendRecord id b) := by
  unfold Chip.sendRecord
  split
  · exact s.onlyLogged_refl
  · exact ⟨rfl, rfl, rfl, rfl, rfl, fun _ _ _ _ => rfl⟩

theorem Chip.onlyLogged_msix (s : Chip) (v : Nat) : s.onlyLogged (s.msix v) := by
  unfold Chip.msix
  split
  · exact ⟨rfl, rfl, rfl, rfl, rfl, fun _ _ _ _ => rfl⟩
  · split
    · exact s.onlyLogged_refl
    · exact ⟨rfl, rfl, rfl, rfl, rfl, fun _ _ _ _ => rfl⟩

theorem Chip.onlyLogged_sendEvents (s : Chip) (pg c : Nat) : s.onlyLogged (s.sendEvents pg c) :=
  Chip.each_preserves (P := s.onlyLogged) (fun c _ h => Chip.onlyLogged.trans h (c.onlyLogged_sendRecord _ _)) _ s s.onlyLogged_refl

theorem Chip.onlyLogged_signalIfNew (was : Bool) (s : Chip) (pg : Nat) : s.onlyLogged (s.signalIfNew was pg) := by
  unfold Chip.signalIfNew
  have hhost : s.onlyLogged (if s.rf F.GLB_INT_ROUTE_HOST = 1 then s.msix 0 else s) := by
    split
    · exact s.onlyLogged_msix 0
    · exact s.onlyLogged_refl
  have hmgmt {t : Chip} (h : s.onlyLogged t) : s.onlyLogged (if t.rf F.GLB_INT_ROUTE_MGMT = 1 then t.sendEvents pg 0 else t) := by
    split
    · exact Chip.onlyLogged.trans h (t.onlyLogged_sendEvents _ _)
    · exact h
  split
  · exact hmgmt hhost
  · exact s.onlyLogged_refl

/-- An error of page GLB changes its error and interrupt bits, and what raising them sends. -/
theorem Chip.onlyLogged_raise (s : Chip) (b : Nat) : s.onlyLogged (s.raise Pg.GLB b) := by
  unfold Chip.raise
  dsimp only
  refine Chip.onlyLogged.trans ?_ (Chip.onlyLogged_signalIfNew _ _ _)
  have herr := s.onlyLogged_wr (s.rd (regAt Pg.GLB Reg.ERR_STAT) ||| 2 ^ b) (a := regAt Pg.GLB Reg.ERR_STAT) (by simp)
  generalize s.wr (regAt Pg.GLB Reg.ERR_STAT) _ = t at herr ⊢
  have hint : s.onlyLogged (if bit (t.rd (regAt Pg.GLB Reg.ERR_MASK)) b then t
      else t.wr (regAt Pg.GLB Reg.INT_STAT) (t.rd (regAt Pg.GLB Reg.INT_STAT) ||| 2 ^ b)) := by
    split
    · exact herr
    · exact Chip.onlyLogged.trans herr (t.onlyLogged_wr _ (by simp))
  split
  · exact Chip.onlyLogged.trans hint (Chip.onlyLogged_sendEvents _ _ _)
  · exact hint

theorem Chip.onlyLogged_logWrite (s : Chip) (w : Writer) (a v o : Nat) : s.onlyLogged (s.logWrite w a v o) := by
  unfold Chip.logWrite
  dsimp only
  exact Chip.onlyLogged.trans (Chip.onlyLogged.trans (s.onlyLogged_log _ _) (Chip.onlyLogged_wr _ _ (by simp))) (Chip.onlyLogged_raise _ _)

theorem Chip.onlyLogged_showWritten (s : Chip) (n v : Nat) : s.onlyLogged (s.showWritten n v) := by
  unfold Chip.showWritten
  split
  · exact s.onlyLogged_refl
  · exact s.onlyLogged_log _ _

@[simp] theorem Chip.calm_showWritten (s : Chip) (n v : Nat) : (s.showWritten n v).calm = s.calm := by
  unfold Chip.showWritten
  split <;> rfl

/-- The rank of a writer rests on registers that the log leaves alone. -/
theorem Chip.onlyLogged.rank {s t : Chip} (h : s.onlyLogged t) (w : Writer) : t.rank w = s.rank w := by
  obtain ⟨-, -, -, -, -, hrd⟩ := h
  have hrf (f : Fld) (hf : 0x3000 ≤ f.reg) : t.rf f = s.rf f := by
    unfold Chip.rf
    rw [hrd] <;> simp only [Reg.GLB_OWN_COUNT, regAt, pageBase, Pg.GLB, Reg.ERR_STAT, Reg.INT_STAT] <;> omega
  unfold Chip.rank
  cases w with
  | host => simp only [hrf F.SEC_STAT_MGMT_FUSED (by decide)]
  | slot n =>
    have hslot : 0x3000 ≤ (F.SEC_PRIN_CFG_ROLE.plus (4 * (n % 8))).reg := by
      simp only [Fld.plus, Reg.SEC_PRIN_CFG]
      omega
    simp only [hrf _ hslot]

/-! ## Writers without rights -/

/-- A writer that ranks as an observer, or whose slot is empty. -/
def Chip.barred (s : Chip) (w : Writer) : Prop := s.rank w = .observer ∨ s.rank w = .none

theorem Chip.judge_barred {s : Chip} {acc : Access} (h : s.barred acc.writer) (pg : Nat) (shared : Bool) (parts : List Nat) :
    s.judge acc pg shared parts = some 4 := by
  unfold Chip.judge
  rcases h with h | h <;> simp [h]

/-- All that is done for a writer without rights: nothing, or the record of its write. -/
def Chip.Unmoved (s t : Chip) : Prop := t = s ∨ ∃ w a v o, t = s.logWrite w a v o

theorem Chip.command_unmoved {s : Chip} {acc : Access} (h : s.barred acc.writer) (pg off val : Nat) (shared : Bool) (parts : List Nat)
    (excluded run : Chip → Chip) : s.Unmoved (s.command acc pg off val shared parts excluded run) := by
  cases hr : s.reaches acc.writer pg with
  | false => exact .inl (s.command_unreached acc pg off val shared parts excluded run hr)
  | true =>
    refine .inr ⟨acc.writer, regAt pg off, val, 4, ?_⟩
    rw [s.command_refused acc pg off val shared parts excluded run 4 hr (Chip.judge_barred h pg shared parts), if_neg (by decide)]

theorem Chip.write_unmoved {s : Chip} {acc : Access} (h : s.barred acc.writer) (pg off val : Nat) (shared : Bool) (parts : List Nat)
    (run : Chip → Chip) : s.Unmoved (s.write acc pg off val shared parts run) := by
  cases hr : s.reaches acc.writer pg with
  | false => exact .inl (s.write_unreached acc pg off val shared parts run hr)
  | true => exact .inr ⟨_, _, _, _, s.write_refused acc pg off val shared parts run 4 hr (Chip.judge_barred h pg shared parts)⟩

theorem Chip.Unmoved.onlyLogged {s t : Chip} (h : s.Unmoved t) : s.onlyLogged t := by
  obtain rfl | ⟨w, a, v, o, rfl⟩ := h
  · exact t.onlyLogged_refl
  · exact s.onlyLogged_logWrite w a v o

theorem Chip.Unmoved.calm {s t : Chip} (h : s.Unmoved t) : t.calm = s.calm := by
  obtain rfl | ⟨w, a, v, o, rfl⟩ := h
  · rfl
  · exact s.calm_logWrite w a v o

/-- An answer of a state in which nothing waits that leaves fuses and queue, and of the chip all but the log; nothing waits in it either. -/
def LogsOnly (s : State) (o : Host.Outcome State Fault Refusal) : Prop :=
  ∃ c, o = .next { s with chip := c } ∧ s.chip.onlyLogged c ∧ c.calm = s.chip.calm

theorem Chip.Unmoved.run {s : State} {f : Chip → Chip} (hr : s.ready = true) (h : s.chip.Unmoved (f s.chip)) : LogsOnly s (s.run f) :=
  ⟨f s.chip, State.run_calm s hr rfl h.calm, h.onlyLogged, h.calm⟩

/-- A command that names a unit the module does not have does nothing for anybody. -/
theorem Chip.Unmoved.runOn {s : State} {ok : Bool} {f : Chip → Chip} (hr : s.ready = true) (h : s.chip.Unmoved (f s.chip)) :
    LogsOnly s (s.runOn ok f) := by
  unfold State.runOn
  refine Chip.Unmoved.run hr ?_
  split
  · exact h
  · exact .inl rfl

theorem State.fuseWrite_logsOnly {s : State} {acc : Access} (h : s.chip.barred acc.writer) (op : Nat) (brought : Bytes) :
    LogsOnly s (.next (s.fuseWrite acc op brought)) := by
  unfold State.fuseWrite
  dsimp only
  split
  · exact ⟨s.chip, rfl, s.chip.onlyLogged_refl, rfl⟩
  · rw [Chip.judge_barred h]
    exact ⟨_, rfl, s.chip.onlyLogged_logWrite _ _ _ _, s.chip.calm_logWrite _ _ _ _⟩

/-- A descriptor command that comes while one is busy does nothing for anybody. -/
theorem Chip.descCommand_unmoved {s : Chip} {acc : Access} (h : s.barred acc.writer) (op o : Nat) (parts : List Nat) (check : Nat) (run : Chip → Chip) :
    s.Unmoved (s.descCommand acc op o parts check run) := by
  unfold Chip.descCommand
  split
  · exact .inl rfl
  · exact Chip.command_unmoved h ..

theorem State.blkWrite_logsOnly {s : State} {acc : Access} (hr : s.ready = true) (h : s.chip.barred acc.writer) (page v : Nat)
    (run : Chip → Blk → Nat → Chip) : LogsOnly s (s.blkWrite acc page v run) := by
  unfold State.blkWrite
  refine Chip.Unmoved.run hr ?_
  split
  · exact Chip.write_unmoved h ..
  · exact .inl rfl

/-- Every command of a register does nothing more for a writer without rights. -/
theorem exec_logsOnly {s : State} {acc : Access} (i : Instr) (hr : s.ready = true) (h : s.chip.barred acc.writer) (ha : accessOf i = some acc)
    (hi : Instr.anyRegister i = false) : LogsOnly s (exec i s) := by
  unfold exec
  cases i <;> cases ha <;> dsimp only
  case registerWrite | rw1cWrite => exact Bool.noConfusion hi
  case fuseOwnerKey | fuseManagementRoot | raiseMinSvn => exact State.fuseWrite_logsOnly h _ _
  case rtbPeekIdxWrite | rtbSerialWrite =>
    refine Chip.Unmoved.run hr ?_
    delta Chip.peekIdxWrite Chip.serialWrite
    exact Chip.write_unmoved h ..
  case planArm | planWithdraw | almSyncTod =>
    refine Chip.Unmoved.run hr ?_
    exact Chip.write_unmoved h ..
  case blkEnable | blkDrain | blkQuiesce | blkReset => exact State.blkWrite_logsOnly hr h ..
  case policerWrite =>
    refine Chip.Unmoved.runOn hr ?_
    exact Chip.write_unmoved h ..
  case lnkRetrain | lnkRetire | lnkReadmit =>
    refine Chip.Unmoved.runOn hr ?_
    delta Chip.lnkCtrl
    exact Chip.command_unmoved h ..
  case calendarCommit =>
    refine Chip.Unmoved.runOn hr ?_
    exact Chip.command_unmoved h ..
  case descriptorInstall | descriptorMigrate | descriptorFree =>
    refine Chip.Unmoved.run hr ?_
    exact Chip.descCommand_unmoved h ..
  case programLoad | programUnload | registerEntry | deregister | sliceCommit | mapProposal | contextFlush | firmwareGo | attestationRequest =>
    refine Chip.Unmoved.run hr ?_
    exact Chip.command_unmoved h ..
  all_goals
    refine Chip.Unmoved.run hr ?_
    delta Chip.pinCommand Chip.issueOrder Chip.resCommand Chip.acctCommand Chip.cfgCtrl Chip.doorbell Chip.winCtrl Chip.repairCtrl Chip.vigilCtrl
    exact Chip.command_unmoved h ..

/-! ## Writes of any register -/

theorem CommandAnswer.logsOnly {s : State} {acc : Access} {o : Host.Outcome State Fault Refusal} (hr : s.ready = true) (h : s.chip.barred acc.writer)
    (ho : CommandAnswer s acc o) : LogsOnly s o := by
  obtain ⟨i, n, ha, hi, rfl⟩ | ⟨f, rfl, hf⟩ := ho
  · obtain ⟨c, hc, hlog, hcalm⟩ := exec_logsOnly (s := { s with chip := { s.chip with free := n } }) i hr h ha hi
    exact ⟨c, hc, (s.chip.onlyLogged_free n).trans hlog, hcalm⟩
  · obtain ⟨pg, off, val, shared, parts, excluded, run, hrun⟩ := hf s.chip
    exact Chip.Unmoved.run hr (hrun ▸ Chip.command_unmoved h ..)

theorem Chip.ruled_unmoved {s : Chip} {acc : Access} (h : s.barred acc.writer) (a val : Nat) (run : Chip → Chip) :
    s.Unmoved (s.ruled acc a val run) := by
  have hrank : (s.rank acc.writer == .operator || s.rank acc.writer == .host) = false := by rcases h with h | h <;> rw [h] <;> rfl
  unfold Chip.ruled
  simp only [hrank, Bool.and_false, Bool.false_eq_true, if_false]
  exact Chip.write_unmoved h ..

theorem Chip.storeReg_unmoved {s : Chip} {acc : Access} (h : s.barred acc.writer) (f : Fuses) (a val : Nat) : s.Unmoved (s.storeReg f acc a val) := by
  unfold Chip.storeReg
  dsimp only
  split
  · exact .inl rfl
  · split
    · exact Chip.ruled_unmoved h ..
    · split
      · exact Chip.ruled_unmoved h ..
      · exact .inl rfl

theorem LogsOnly.trans {s t : State} {o : Host.Outcome State Fault Refusal} (h₁ : LogsOnly s (.next t)) (h₂ : LogsOnly t o) : LogsOnly s o := by
  obtain ⟨c, hc, hlog, hcalm⟩ := h₁
  obtain ⟨d, rfl, hlog', hcalm'⟩ := h₂
  obtain rfl := Host.Outcome.next.inj hc
  exact ⟨d, rfl, hlog.trans hlog', hcalm'.trans hcalm⟩

/-- After such an answer the module still runs, nothing waits, and the writer still has no rights. -/
theorem LogsOnly.ready {s t : State} (h : LogsOnly s (.next t)) (hr : s.ready = true) : t.ready = true := by
  obtain ⟨c, hc, ⟨-, hb, -⟩, hcalm⟩ := h
  obtain rfl := Host.Outcome.next.inj hc
  have hpwr : c.pwr = s.chip.pwr := by
    simp only [Prod.mk.injEq] at hb
    exact hb.2.2.2.2.1
  rw [State.ready_iff, State.runs] at hr ⊢
  rwa [hpwr, hcalm]

theorem LogsOnly.barred {s t : State} {w : Writer} (h : LogsOnly s (.next t)) (hw : s.chip.barred w) : t.chip.barred w := by
  obtain ⟨c, hc, hlog, -⟩ := h
  obtain rfl := Host.Outcome.next.inj hc
  unfold Chip.barred
  rwa [Chip.onlyLogged.rank hlog]

theorem LogsOnly.next_nextOf {s : State} {o : Host.Outcome State Fault Refusal} (h : LogsOnly s o) : LogsOnly s (.next (nextOf s o)) := by
  obtain ⟨c, rfl, hc⟩ := h
  exact ⟨c, rfl, hc⟩

theorem State.writeWord_logsOnly {s : State} {acc : Access} (hr : s.ready = true) (h : s.chip.barred acc.writer) (a val : Nat)
    (t3 : List (Nat × Bytes)) : LogsOnly s (.next (s.writeWord acc a val t3)) := by
  unfold State.writeWord
  dsimp only
  refine LogsOnly.trans ?_ ⟨_, rfl, Chip.onlyLogged_showWritten _ _ _, Chip.calm_showWritten _ _ _⟩
  split
  next o ho => exact ((s.commandWrite_answer acc a _ t3 ho).logsOnly hr h).next_nextOf
  next ho => exact (Chip.Unmoved.run hr (Chip.storeReg_unmoved h ..)).next_nextOf

theorem State.regWrite_logsOnly {s : State} {acc : Access} (hr : s.ready = true) (h : s.chip.barred acc.writer) (a size val : Nat)
    (t3 : List (Nat × Bytes)) : LogsOnly s (.next (s.regWrite acc a size val t3)) := by
  unfold State.regWrite
  split
  · rw [State.onChip_runs s _ (s.ready_iff.1 hr).1]
    refine ⟨_, rfl, ?_⟩
    split
    · exact ⟨s.chip.onlyLogged_refl, rfl⟩
    · exact ⟨s.chip.onlyLogged_logWrite _ _ _ _, s.chip.calm_logWrite _ _ _ _⟩
  · have hlow := State.writeWord_logsOnly hr h a val t3
    split
    · exact hlow
    · exact hlow.trans (State.writeWord_logsOnly (hlow.ready hr) (hlow.barred h) ..)

theorem exec_registerWrite_logsOnly {s : State} {acc : Access} (hr : s.ready = true) (h : s.chip.barred acc.writer) (a size val : Nat)
    (t3 : List (Nat × Bytes)) : LogsOnly s (exec (.registerWrite acc a size val t3) s) := by
  rw [exec_registerWrite_runs s acc a size val t3 (s.ready_iff.1 hr).1]
  exact State.regWrite_logsOnly hr h a size val t3

/-- An RW1C write without error events of its own cycle. -/
theorem exec_rw1cWrite_logsOnly {s : State} {acc : Access} (hr : s.ready = true) (h : s.chip.barred acc.writer) (pg : Nat) (int : Bool) (val : Nat) :
    LogsOnly s (exec (.rw1cWrite acc pg int val 0) s) := by
  show LogsOnly s (execRw1cWrite acc pg int val 0 s)
  unfold execRw1cWrite
  refine Chip.Unmoved.run hr ?_
  cases hb : blkOf pg with
  | none => exact .inl rfl
  | some b =>
    show s.chip.Unmoved ((s.chip.raiseAll pg 0).rw1cWrite acc pg int val 0)
    rw [Chip.raiseAll_zero]
    exact Chip.write_unmoved h ..

/-- Settles O5: every write is refused, and a refused write is recorded at most. -/
theorem observersChangeNothing : Obligations.ObserversChangeNothing := by
  intro i s acc ha hr h hhw
  suffices hlogs : LogsOnly s (exec i s) by
    obtain ⟨c, hc, hlog, -⟩ := hlogs
    exact ⟨_, hc, rfl, rfl, hlog⟩
  cases hi : Instr.anyRegister i with
  | false => exact exec_logsOnly i hr h ha hi
  | true =>
    cases i
    case registerWrite =>
      cases ha
      exact exec_registerWrite_logsOnly hr h ..
    case rw1cWrite =>
      cases ha
      obtain rfl := beq_iff_eq.1 hhw
      exact exec_rw1cWrite_logsOnly hr h ..
    all_goals exact Bool.noConfusion hi

end Sys2Proof.Machine
end

section
/-! Resets, start-up and power (R517–R529, R561–R571): what the resets lose, PERST# and the stages of start-up, excursions, trips and power states. -/

namespace Sys2Proof.Machine

open Sys2Proof

/-! ## Commands that need the rails -/

/-- A command that needs the rails alone. -/
theorem State.onMgmt_to (s : State) {f : Chip → Chip} {t : Chip} (hoff : s.chip.pwr.off = false) (ht : f s.chip = t) :
    s.onMgmt f = .next { s with chip := t } := by
  rw [State.onMgmt_on s f hoff, ht]

/-! ## Resets (R517, R518, R529, R570) -/

/-- Settles O22: each is the chip of `Chip.blank`, with the registers that copy the fuses. -/
theorem coldResetLosesAllButFuses : Obligations.ColdResetLosesAllButFuses := by
  rintro s c rfl
  refine ⟨rfl, fun n => ?_, fun hoff => ?_⟩
  · show execModRstN n s = _
    rfl
  · show execRailsOff s = _
    refine s.onMgmt_to hoff ?_
    simp only [Chip.railsOff, Chip.blank, Bool.and_eq_true, decide_eq_true_eq]

/-! ## PERST# and start-up (R518–R522) -/

theorem exec_perstAssert_on (s : State) (hoff : s.chip.pwr.off = false) : exec .perstAssert s = .next s.perstLow :=
  congrArg Host.Outcome.next (if_neg (by simp [hoff]))

/-- A stage that is not open, and stage 7, changes nothing. -/
theorem Chip.stageDoneAt_closed (s : Chip) {n : Nat} (failed : List (Nat × Nat)) (pins : List Nat) (h : n = 7 ∨ s.stageOpen n = false) :
    s.stageDoneAt n failed pins = s := if_pos (by simpa using h)

theorem Chip.downloadReady_iff (s : Chip) : s.downloadReady = true ↔ 4 ∈ s.pwr.done ∧ 5 ∈ s.pwr.done ∧ 6 ∈ s.pwr.done := by
  simp [Chip.downloadReady]

/-- What a stage that is open does, before it is noted. -/
def Chip.stageWork (s : Chip) (n : Nat) (failed : List (Nat × Nat)) (pins : List Nat) : Chip :=
  if n = 3 then s.each (below 24 (fun st => s.rf (F.MEM_STAT_STATE.on (Pg.mem st)) == 0)) (fun c st => c.wf (F.MEM_STAT_STATE.on (Pg.mem st)) 1)
  else if n = 5 then (s.each (below 24 (fun st => s.rf (F.MEM_STAT_STATE.on (Pg.mem st)) != 3)) (fun c st =>
    (c.wf (F.MEM_STAT_STATE.on (Pg.mem st)) 2).wf (F.MEM_STAT_PINS_REPAIRED.on (Pg.mem st))
      (if c.rf F.GLB_STAGE_WARM = 1 then c.rf (F.MEM_STAT_PINS_REPAIRED.on (Pg.mem st)) else min 32 (pins.getD st 0)))).bootTesting
  else if n = 6 then s.each (List.range 4) (fun c d => c.bootDie d failed)
  else if n = 8 then s.firmwareStart
  else s

theorem Chip.stageDoneAt_open (s : Chip) {n : Nat} (failed : List (Nat × Nat)) (pins : List Nat) (h7 : n ≠ 7) (h : s.stageOpen n = true) :
    s.stageDoneAt n failed pins =
      if ((s.stageWork n failed pins).noteStage n).rf F.GLB_FW_STAT_STATE = 1 ∧ ((s.stageWork n failed pins).noteStage n).downloadReady = true
      then ((s.stageWork n failed pins).noteStage n).downloadStart else (s.stageWork n failed pins).noteStage n := by
  unfold Chip.stageDoneAt
  rw [if_neg (by simp [h7, h])]
  dsimp only
  simp only [Bool.and_eq_true, decide_eq_true_eq]
  unfold Chip.stageWork
  split
  · rfl
  · rfl
  · rfl
  · rfl
  next h3 h5 h6 h8 => simp only [if_neg h3, if_neg h5, if_neg h6, if_neg h8]

/-- Settles O23: PERST# and each stage are their definitions, a stage split into what it does and what notes it. -/
theorem perstAndStartUpStages : Obligations.PerstAndStartUpStages := by
  intro s hoff
  have hstage n failed pins : exec (.startupStageDone n failed pins) s = .next { s with chip := s.chip.stageDoneAt n failed pins } := by
    show execStartupStageDone n failed pins s = _
    exact s.onMgmt_to hoff rfl
  refine ⟨exec_perstAssert_on s hoff, ?_, fun n failed pins h => ?_, fun n failed pins h7 h8 h => ?_, fun failed pins h hfw => ?_⟩
  · show execPerstDeassert s = _
    exact s.onMgmt_to hoff rfl
  · rw [hstage, s.chip.stageDoneAt_closed failed pins h]
  · rw [hstage, s.chip.stageDoneAt_open failed pins h7 h]
    simp only [Chip.downloadReady_iff, Chip.stageWork, if_neg h8]
    rfl
  · rw [hstage, s.chip.stageDoneAt_open failed pins (by decide) h]
    have hfw' : ((s.chip.stageWork 8 failed pins).noteStage 8).rf F.GLB_FW_STAT_STATE ≠ 1 := by
      unfold Chip.noteStage
      rwa [Chip.rf_wf_reg _ _ _ _ (by decide)]
    rw [if_neg (fun hc => hfw' hc.1)]
    rfl

/-! ## Excursions, trips and power states (R524–R529, R561, R563, R571) -/

@[simp] theorem Chip.calm_toD3hot (s : Chip) : s.toD3hot.calm = s.calm := by
  unfold Chip.toD3hot
  split
  · exact s.calm_wf _ _
  · rfl

/-- The first fatal device error: what it records, latches and sends, before the module goes viral (R510). -/
theorem Chip.fatal_first (s : Chip) (cause : Nat) {c d : Chip} (h : s.rf F.FLT_STAT_FATAL = 0)
    (hc : c = ((((s.wf F.FLT_STAT_FATAL 1).wf F.FLT_STAT_CAUSE cause).faultRecord 13 4 0xFFFF 0xFFFF 0xFFFF 0xFF 0 0).raise Pg.FLT 5).latch 5)
    (hd : d = c.each c.watched (fun f p => f.send 8 p 0 0 (presenceMsg 0x21 cause f.selfDev f.step Config.serial.toNat))) :
    s.fatal cause = d.viral.setFlt (fun f => { f with mute := true }) := by
  subst hd hc
  exact if_neg (by rw [h]; decide)

/-- Settles O24: each command is its definition, within and outside its limits. -/
theorem excursionsTripsAndPowerStates : Obligations.ExcursionsTripsAndPowerStates := by
  refine ⟨fun s hoff => ⟨fun mv us => ?_, fun w us => ?_, fun d c => ?_, fun what h => ?_, fun what c d h hfatal hc hd => ?_⟩, fun s hr => ⟨?_, ?_, ?_⟩⟩
  · show execInputVoltageExcursion mv us s = _
    refine s.onMgmt_to hoff ?_
    simp only [Bool.and_eq_true, Bool.or_eq_true, decide_eq_true_eq]
  · show execInputPowerExcursion w us s = _
    refine s.onMgmt_to hoff ?_
    simp only [Bool.and_eq_true, decide_eq_true_eq]
  · show execJunctionTrip d c s = _
    refine s.onMgmt_to hoff ?_
    simp only [Bool.and_eq_true, decide_eq_true_eq, Chip.junctionTrip]
  · show execShutdown what s = _
    exact s.onMgmt_to hoff (if_neg (by simp [h]))
  · show execShutdown what s = _
    exact s.onMgmt_to hoff ((if_pos h).trans (congrArg Chip.settle (s.chip.fatal_first 5 hfatal hc hd)))
  · show execD3hotRequest s = _
    have hhot : s.chip.toD3hot = if s.chip.pwr.config = true ∧ 3 ∈ s.chip.pwr.done then s.chip.wf F.PWR_STATE_POWER 2 else s.chip := by
      simp [Chip.toD3hot]
    exact s.run_calm hr hhot (hhot ▸ s.chip.calm_toD3hot)
  · show execD0Return s = _
    exact s.run_to (s.ready_iff.1 hr).1 rfl
  · show execRefclkLoss s = _
    refine s.run_to (s.ready_iff.1 hr).1 ?_
    by_cases hp : s.chip.pwr.perst = true
    · simp [hp]
    · simp [hp, Chip.cxlDown]

end Sys2Proof.Machine
end

section
/-! The vigil (R530–R533, R538–R541) and the writes of BLK_CTRL (R545): triggers, latches under HOLD, and what each field of BLK_CTRL sets off. -/

namespace Sys2Proof.Machine

open Sys2Proof

/-! ## The latch (R530, R533) -/

theorem Chip.viewSingle_vgl (s : Chip) (v : Vgl) (a : Nat) : ({ s with vgl := v } : Chip).viewSingle a = s.viewSingle a := rfl

theorem Chip.viewMulti_vgl (s : Chip) (v : Vgl) (b : Blk) (inst off : Nat) : ({ s with vgl := v } : Chip).viewMulti b inst off = s.viewMulti b inst off := rfl

/-- What a register beside the header holds does not rest on the vigil's own state. -/
theorem Chip.view_vgl (s : Chip) (v : Vgl) {a : Nat} (h : 0x100 ≤ a % 0x1000) : ({ s with vgl := v } : Chip).view a = s.view a := by
  unfold Chip.view
  dsimp only
  split
  · rfl
  · simp only [if_neg (Nat.not_lt.2 h), Chip.viewSingle_vgl, Chip.viewMulti_vgl]
    rfl

theorem Chip.snapshot_vgl (s : Chip) (v : Vgl) : ({ s with vgl := v } : Chip).snapshot = s.snapshot := by
  unfold Chip.snapshot
  refine List.flatMap_congr fun pg _ => List.filterMap_congr fun i hi => ?_
  have hoff : 0x100 ≤ regAt pg (0x100 + 4 * i) % 0x1000 := by
    have hi' := List.mem_range.1 hi
    simp only [regAt, pageBase]
    omega
  rw [s.view_vgl v hoff]

theorem Chip.latch_held (s : Chip) (source : Nat) (h : s.rf F.VGL_STAT_HELD = 1) : s.latch source = (s.cnt Reg.VGL_MISSED).raise Pg.VGL 1 := if_pos h

/-- What a latch records, before HOLD is looked at: the snapshot, its time and its step. -/
def Chip.latched (s : Chip) : Chip :=
  (({ s with vgl := { s.vgl with snap := s.snapshot } } : Chip).wr64 Reg.VGL_LAST_TIME_LO s.alm.now).wr64 Reg.VGL_LAST_STEP_LO s.step

theorem Chip.rf_wr64_other (s : Chip) (f : Fld) (lo v : Nat) (hlo : f.reg ≠ lo) (hhi : f.reg ≠ lo + 4) : (s.wr64 lo v).rf f = s.rf f := by
  unfold Chip.wr64
  rw [Chip.rf_wr_other _ _ _ _ hhi, Chip.rf_wr_other _ _ _ _ hlo]

theorem Chip.rf_latched (s : Chip) (f : Fld) (h : f.reg = Reg.VGL_CFG ∨ f.reg = Reg.VGL_STAT) : s.latched.rf f = s.rf f := by
  unfold Chip.latched
  rw [Chip.rf_wr64_other, Chip.rf_wr64_other]
  · rfl
  all_goals rcases h with h | h <;> rw [h] <;> decide

/-- A latch while none is held. -/
theorem Chip.latch_free (s : Chip) (source : Nat) (h : s.rf F.VGL_STAT_HELD ≠ 1) :
    s.latch source = (if s.latched.rf F.VGL_CFG_HOLD = 1 then ((s.latched.wf F.VGL_STAT_SOURCE source).cnt Reg.VGL_LATCHES).wf F.VGL_STAT_HELD 1
      else (s.latched.wf F.VGL_STAT_SOURCE source).cnt Reg.VGL_LATCHES).raise Pg.VGL 0 := by
  have hhold : ((s.latched.wf F.VGL_STAT_SOURCE source).cnt Reg.VGL_LATCHES).rf F.VGL_CFG_HOLD = s.latched.rf F.VGL_CFG_HOLD := by
    unfold Chip.cnt Chip.cntBy
    rw [Chip.rf_wr_other _ _ _ _ (by decide), Chip.rf_wf_reg _ _ _ _ (by decide)]
  rw [← hhold]
  exact if_neg h

theorem Chip.rf_raise_other (s : Chip) (pg b : Nat) (f : Fld) (he : f.reg ≠ regAt pg Reg.ERR_STAT) (hi : f.reg ≠ regAt pg Reg.INT_STAT) :
    (s.raise pg b).rf f = s.rf f := by
  unfold Chip.rf
  rw [s.rd_raise_other pg b he hi]

/-- R533: HELD is set by a latch under HOLD, and by no other. -/
theorem Chip.held_latch (s : Chip) (source : Nat) (h : s.rf F.VGL_STAT_HELD = 0) :
    (s.latch source).rf F.VGL_STAT_HELD = if s.rf F.VGL_CFG_HOLD = 1 then 1 else 0 := by
  rw [s.latch_free source (by omega), Chip.rf_raise_other _ _ _ _ (by decide) (by decide), s.rf_latched F.VGL_CFG_HOLD (.inl rfl)]
  split
  · exact Chip.rf_wf_same _ _ _ (by decide) (by decide)
  · unfold Chip.cnt Chip.cntBy
    rw [Chip.rf_wr_other _ _ _ _ (by decide),
      s.latched.rf_wf_other F.VGL_STAT_SOURCE F.VGL_STAT_HELD source (by decide) (by decide) rfl (by decide), s.rf_latched _ (.inr rfl), h]

/-! ## Orders of VGL_CTRL (R531–R533, R540) -/

@[simp] theorem Chip.calm_withVgl (s : Chip) (v : Vgl) : ({ s with vgl := v } : Chip).calm = s.calm := rfl

@[simp] theorem Chip.calm_setArmed (s : Chip) (t : Option (Nat × Nat)) : (s.setArmed t).calm = s.calm := Chip.calm_wf _ _ _

@[simp] theorem Chip.calm_take (s : Chip) (svc : Nat) (src : MsgSrc) (b : Bytes) : (s.take svc src b).calm = s.calm := rfl

/-- An order of VGL_CTRL that the page takes and that leaves nothing waiting. -/
theorem State.vigilCtrl_taken (s : State) {acc : Access} (val : Nat) {run : Chip → Chip} (hr : s.ready = true)
    (htakes : s.chip.takes acc Pg.VGL false [] = true) (hcalm : (run s.chip).calm = s.chip.calm) :
    s.run (fun c => c.vigilCtrl acc val run) = .next { s with chip := run s.chip } :=
  s.run_calm hr (s.chip.command_taken _ _ _ _ htakes) hcalm

theorem Chip.rf_spread_setArmed (s : Chip) (t : Option (Nat × Nat)) : (s.setArmed t).rf F.VGL_CFG_SPREAD = s.rf F.VGL_CFG_SPREAD := by
  unfold Chip.setArmed
  rw [Chip.rf_wf_reg _ _ _ _ (by decide)]
  rfl

/-- ARM without SPREAD. -/
theorem Chip.vigilArm_alone (s : Chip) (h : s.rf F.VGL_CFG_SPREAD = 0) : s.vigilArm = s.setArmed (some (s.rd64 Reg.VGL_TIME_LO, 1)) := by
  refine if_neg ?_
  rw [Chip.rf_spread_setArmed, h]
  decide

/-- ARM with SPREAD: every watched peer is sent the time. -/
theorem Chip.vigilArm_spread (s : Chip) (h : s.rf F.VGL_CFG_SPREAD = 1) : s.vigilArm
    = (s.setArmed (some (s.rd64 Reg.VGL_TIME_LO, 1))).each (s.setArmed (some (s.rd64 Reg.VGL_TIME_LO, 1))).watched
        (fun c d => c.send 8 d 0 0 (presenceMsg 0x30 0 c.selfDev (s.rd64 Reg.VGL_TIME_LO) ownSerial)) := by
  refine if_pos ?_
  rw [Chip.rf_spread_setArmed, h]

theorem Chip.vigilIn_eq (s : Chip) (b : Bytes) : s.vigilIn b
    = if s.rf F.VGL_CFG_PEER_EN = 1 ∧ b.length = 32 then s.setArmed (some (le b 8 8, 3)) else s.raise Pg.VGL 3 := by
  simp only [Chip.vigilIn, Bool.and_eq_true, decide_eq_true_eq]

@[simp] theorem Chip.calm_vigilIn (s : Chip) (b : Bytes) : (s.vigilIn b).calm = s.calm := by
  rw [Chip.vigilIn_eq]
  split
  · exact s.calm_setArmed _
  · exact s.calm_raise _ _

theorem exec_vigilRelease_taken {s : State} {acc : Access} (hr : s.ready = true) (htakes : s.chip.takes acc Pg.VGL false [] = true) :
    exec (.vigilRelease acc) s = .next { s with chip := s.chip.wf F.VGL_STAT_HELD 0 } := by
  show execVigilRelease acc s = _
  exact s.vigilCtrl_taken 4 hr htakes (s.chip.calm_wf _ _)

/-- Settles O26: a latch while HELD is set only counts, and one while it is clear sets HELD as HOLD says. -/
theorem heldLatchIgnoresTriggers : Obligations.HeldLatchIgnoresTriggers := by
  refine ⟨Chip.held_latch, fun c source h => ⟨c.latch_held source h, ?_⟩, fun s acc hr htakes => ?_⟩
  · rw [c.latch_held source h]
    exact Chip.testBit_rd_errStat_raise _ _ (by decide)
  · refine ⟨_, exec_vigilRelease_taken hr htakes, ?_⟩
    exact Chip.rf_wf_same _ _ _ (by decide) (by decide)

/-- With a NOW alone, nothing held, the triggers due are that one: it latches with SOURCE 2. -/
theorem Chip.latchDue_now (s : Chip) (hnow : s.vgl.now = true) (hfault : s.vgl.fault = false) (harmed : s.vgl.armed = none)
    (hheld : s.rf F.VGL_STAT_HELD = 0) : s.latchDue = ({ s with vgl := { s.vgl with now := false, fault := false } } : Chip).latch 2 := by
  have hsrc : s.latchSources = [2] := by simp [Chip.latchSources, hnow, hfault, harmed]
  have hsort : sortBy (fun a b : Nat => decide (a ≤ b)) [2] = [2] := by decide
  have hone : ({ s with vgl := { s.vgl with now := false, fault := false } } : Chip).rf F.VGL_STAT_HELD ≠ 1 := by
    intro hc
    exact absurd (hheld.symm.trans hc) (by decide)
  unfold Chip.latchDue
  rw [hsrc, hsort]
  exact if_neg hone

theorem Chip.latched_vgl (s : Chip) (v : Vgl) : ({ s with vgl := v } : Chip).latched
    = (({ s with vgl := { v with snap := s.snapshot } } : Chip).wr64 Reg.VGL_LAST_TIME_LO s.alm.now).wr64 Reg.VGL_LAST_STEP_LO s.step := by
  unfold Chip.latched
  rw [s.snapshot_vgl v]
  rfl

/-- With no trigger waiting VIGIL_LATCH does nothing. -/
theorem Chip.vigilLatch_idle (s : Chip) (hnow : s.vgl.now = false) (hfault : s.vgl.fault = false) (harmed : s.vgl.armed = none) : s.vigilLatch = s := by
  have hnone : s.latchTick = none := by simp [Chip.latchTick, hnow, hfault, harmed]
  unfold Chip.vigilLatch
  rw [hnone]

theorem Chip.vigilLatch_at (s : Chip) {t : Nat} (h : s.latchTick = some t) : s.vigilLatch = if t < s.nextStart then (s.advance t).latchDue else s := by
  unfold Chip.vigilLatch
  rw [h]

/-- Settles O25: the orders set and clear what waits, and VIGIL_LATCH latches at the tick that `Chip.latchTick` gives. -/
theorem vigilTriggers : Obligations.VigilTriggers := by
  intro s hr
  have hruns : s.runs = true := (s.ready_iff.1 hr).1
  refine ⟨fun acc htakes => ⟨fun hspread => ?_, fun hspread => ?_, ?_, exec_vigilRelease_taken hr htakes, ?_⟩, fun src b => ?_,
    fun hnow hfault harmed => ?_, fun t ht => ?_⟩
  · show execVigilArm acc s = _
    rw [execVigilArm, s.vigilCtrl_taken 1 hr htakes (by rw [s.chip.vigilArm_alone hspread, Chip.calm_setArmed]), s.chip.vigilArm_alone hspread]
    rfl
  · show execVigilArm acc s = _
    exact s.run_to hruns ((s.chip.command_taken _ _ _ _ htakes).trans (s.chip.vigilArm_spread hspread))
  · show execVigilNow acc s = _
    exact s.vigilCtrl_taken 2 hr htakes rfl
  · show execVigilDisarm acc s = _
    exact s.vigilCtrl_taken 8 hr htakes (s.chip.calm_setArmed none)
  · show execVigilMessage src b s = _
    rw [execVigilMessage, s.run_calm (t := (s.chip.take 8 src b).vigilIn b) hr rfl (by simp), Chip.vigilIn_eq]
    rfl
  · show execVigilLatch s = _
    exact s.run_calm hr (Chip.vigilLatch_idle s.chip hnow hfault harmed) rfl
  · refine ⟨?_, fun c d hnow hfault harmed hheld hnext hc hd => ?_⟩
    · show execVigilLatch s = _
      exact s.run_to hruns (Chip.vigilLatch_at s.chip ht)
    · show execVigilLatch s = _
      have hlatch : s.chip.latchTick = some (s.chip.alm.now + 10) := if_pos (by simp [hnow])
      refine s.run_to hruns ?_
      rw [Chip.vigilLatch_at s.chip hlatch, if_pos hnext, ← hc, c.latchDue_now (hc ▸ hnow) (hc ▸ hfault) (hc ▸ harmed) (hc ▸ hheld)]
      have hone : ({ c with vgl := { c.vgl with now := false, fault := false } } : Chip).rf F.VGL_STAT_HELD ≠ 1 := by
        intro h1
        exact absurd ((show c.rf F.VGL_STAT_HELD = 0 from hc ▸ hheld).symm.trans h1) (by decide)
      rw [Chip.latch_free _ 2 hone, Chip.latched_vgl, hd]

/-! ## Writes of BLK_CTRL (R545) -/

section blkCtrl

variable (s : State) {acc : Access} {page inst : Nat} {b : Blk} (v : Nat) {run : Chip → Blk → Nat → Chip} (hr : s.ready = true)
  (hb : blkOf page = some (b, inst)) (hacc : s.chip.accepts acc page false [] = true)
include hr hb hacc

/-- A write of BLK_CTRL that the page accepts. -/
theorem State.blkWrite_accepted : s.blkWrite acc page v run = .next { s with chip := (run s.chip b inst).settle } := by
  unfold State.blkWrite
  rw [hb]
  exact s.run_to (s.ready_iff.1 hr).1 (s.chip.write_accepted _ _ _ _ _ _ _ hacc)

/-- One that leaves nothing waiting. -/
theorem State.blkWrite_calm {t : Chip} (ht : run s.chip b inst = t) (hcalm : t.calm = s.chip.calm) :
    s.blkWrite acc page v run = .next { s with chip := t } := by
  rw [s.blkWrite_accepted v hr hb hacc, ht, Chip.settle_calm t (hcalm.trans (s.ready_iff.1 hr).2)]

end blkCtrl

@[simp] theorem Chip.calm_withGlb (s : Chip) (g : Glb) : ({ s with glb := g } : Chip).calm = s.calm := rfl

theorem Chip.setEnable_eq (s : Chip) (pg : Nat) (on : Bool) : s.setEnable pg on = { s.wf (F.BLK_CTRL_ENABLE.on pg) (b2n on) with
    glb := { s.glb with stopped := if on then s.glb.stopped.filter (· != pg) else s.glb.stopped } } := by
  cases on <;> rfl

@[simp] theorem Chip.calm_setEnable (s : Chip) (pg : Nat) (on : Bool) : (s.setEnable pg on).calm = s.calm := by
  rw [Chip.setEnable_eq, Chip.calm_withGlb, Chip.calm_wf]

/-- On a page other than CXL and a link's, ENABLE sets nothing else off. -/
theorem Chip.switched_other (s old : Chip) {b : Blk} (pg inst : Nat) (hc : b ≠ .cxl) (hl : b ≠ .lnk) : s.switched old b pg inst = s := by
  unfold Chip.switched
  split
  · exact absurd rfl hc
  · exact absurd rfl hl
  · rfl

@[simp] theorem Chip.calm_setQuiesce_true (s : Chip) (pg : Nat) : (s.setQuiesce pg true).calm = s.calm := by
  unfold Chip.setQuiesce
  rw [if_pos rfl]
  split
  · exact s.calm_raise _ _
  · exact s.calm_wf _ _

theorem Chip.resetPage_running (s : Chip) (f : Fuses) (b : Blk) (pg inst : Nat) (h : s.rf (F.BLK_STAT_QUIESCED.on pg) = 0) :
    s.resetPage f b pg inst = s.raise Pg.GLB 6 := if_pos h

/-- Settles O17: each write is the change of its field, and only ENABLE and RESET can leave something waiting. -/
theorem blockControlWrites : Obligations.BlockControlWrites := by
  intro s acc page inst b on hr hb hacc
  refine ⟨?_, ?_, ?_, fun hc hl => ?_, ?_, ?_⟩
  · show execBlkDrain acc page on s = _
    exact s.blkWrite_calm _ hr hb hacc rfl (s.chip.calm_wf _ _)
  · show execBlkQuiesce acc page true s = _
    exact s.blkWrite_calm _ hr hb hacc rfl (s.chip.calm_setQuiesce_true page)
  · show execBlkQuiesce acc page false s = _
    exact s.blkWrite_calm _ hr hb hacc rfl (by rw [Chip.calm_withGlb, Chip.calm_wf, Chip.calm_wf])
  · show execBlkEnable acc page on s = _
    rw [← Chip.setEnable_eq]
    exact s.blkWrite_calm _ hr hb hacc (Chip.switched_other _ _ _ _ hc hl) (s.chip.calm_setEnable page on)
  · show execBlkEnable acc page on s = _
    exact s.blkWrite_accepted _ hr hb hacc
  · show execBlkReset acc page s = _
    split
    next h => exact s.blkWrite_calm _ hr hb hacc (s.chip.resetPage_running _ _ _ _ h) (s.chip.calm_raise _ _)
    next h => exact s.blkWrite_accepted _ hr hb hacc

end Sys2Proof.Machine
end

section
/-! Security (15): the credential of a link (R462, R464), firmware (R458, R461, R522) and fuses (R459). -/

namespace Sys2Proof.Machine

open Sys2Proof

/-! ## Credentials of links (R462, R464) -/

/-- Settles O29, by what a link's end of a verification does: it is not due, or the credential is judged. -/
theorem credentialsAreVerified : Obligations.CredentialsAreVerified := by
  intro s l hruns _
  have hrun {t : Chip} (ht : s.chip.linkCredential l = t) : exec (.credentialVerified (.link l)) s = .next { s with chip := t.settle } := by
    show execCredentialVerified (.link l) s = _
    exact s.run_to hruns ht
  refine ⟨fun h => hrun (if_pos ?_), fun hstage hlen hcred => hrun ((if_neg ?_).trans ?_)⟩
  · simp only [Bool.or_eq_true, decide_eq_true_eq, Bool.not_eq_true', List.isEmpty_eq_false_iff, or_assoc]
    exact h
  · simp [hstage, hcred, Nat.not_lt.2 hlen]
  · by_cases h : s.chip.credAccepts ((s.chip.link l).frags.flatMap (·.2)) (capSerial (s.chip.link l).peerCap) = true
    · rw [if_neg (by simp [h]), if_pos h]
    · rw [if_pos (by simp [h]), if_neg h]
      rfl

/-! ## Firmware (R458, R461, R522) -/

/-- A GO of a download, with its conditions as propositions (R522). -/
theorem Chip.firmwareGo_eq (s : Chip) : s.firmwareGo =
    if s.rf F.GLB_FW_STAT_STATE = 1 ∨ s.rf F.GLB_FW_STAT_STATE = 2 ∨ s.rf F.SEC_STAT_STATE = 2 then s
    else if 2 ^ 26 < s.rd Reg.GLB_FW_LEN then ((s.wf F.GLB_FW_STAT_STATE 3).wf F.GLB_FW_STAT_RESULT 15).raise Pg.GLB 5
    else if s.downloadReady = true then s.downloadStart
    else s.wf F.GLB_FW_STAT_STATE 1 := by
  simp only [Chip.firmwareGo, Bool.or_eq_true, decide_eq_true_eq, or_assoc]

/-- The certificate that is kept, and stage 7 noted (R461). -/
theorem Chip.takeCert_noted (s : Chip) (vrk cert : Bytes) : (s.takeCert vrk cert).noteStage 7 =
    if Config.slhVerify true vrk (toLE 8 ownSerial ++ dikPub) (padTo 29792 cert) = true
    then ((s.setSec (fun x => { x with cert := padTo 29792 cert })).wf F.SEC_STAT_CERT 1).noteStage 7
    else ((s.setSec (fun x => { x with cert := zeros 29792 })).wf F.SEC_STAT_CERT 0).noteStage 7 :=
  apply_ite (fun c : Chip => c.noteStage 7) _ _ _

/-! ## Fuses (R459) -/

section
variable {s : State} {acc : Access} (hruns : s.runs = true) (htakes : s.chip.takes acc Pg.SEC false [] = true)
include hruns htakes

/-- A fuse operation that page SEC takes is done, and its result shown. -/
theorem State.fuseWrite_taken (op : Nat) (brought : Bytes) {f : Fuses} {r : Nat}
    (h : fuseOp s.fuses op (s.chip.rank acc.writer == .admin) (s.chip.image (s.chip.rd64 Reg.SEC_FUSE_ADDR_LO) 64 brought) (s.chip.rd Reg.SEC_SVN) = (f, r)) :
    s.fuseWrite acc op brought = { s with fuses := f, chip := (s.chip.showFuses f).fuseResult r } := by
  obtain ⟨hoff, hpurged⟩ := s.runs_iff.1 hruns
  obtain ⟨hacc, hdrain⟩ := (s.chip.takes_iff _ _ _ _).1 htakes
  obtain ⟨hreach, hjudge⟩ := (s.chip.accepts_iff _ _ _ _).1 hacc
  simp [State.fuseWrite, hoff, hpurged, hreach, hjudge, hdrain, h]

/-- A fuse operation of a writer that is not admin is not permitted. -/
theorem State.fuseWrite_notAdmin (op : Nat) (brought : Bytes) (h : s.chip.rank acc.writer ≠ .admin) :
    s.fuseWrite acc op brought = { s with chip := ((s.chip.showFuses s.fuses).wr Reg.SEC_FUSE_STAT 2).raise Pg.SEC 7 } :=
  State.fuseWrite_taken (f := s.fuses) (r := 2) hruns htakes op brought (by simp [fuseOp, h])

/-- A fuse operation of an admin is what it does to the fuses, and its result. -/
theorem State.fuseWrite_admin (op : Nat) (brought : Bytes) {f : Fuses} {r : Nat} (hadmin : s.chip.rank acc.writer = .admin)
    (h : fuseOp s.fuses op true (s.chip.image (s.chip.rd64 Reg.SEC_FUSE_ADDR_LO) 64 brought) (s.chip.rd Reg.SEC_SVN) = (f, r)) :
    s.fuseWrite acc op brought = { s with fuses := f, chip := (s.chip.showFuses f).fuseResult r } :=
  State.fuseWrite_taken hruns htakes op brought (by rw [hadmin]; exact h)

end

/-- A digest already fused stays, with result 1. -/
theorem fuseOp_ownerKey_fused {f : Fuses} (d : Bytes) (svn : Nat) (h : f.ownerKey ≠ none) : fuseOp f 1 true d svn = (f, 1) := by
  simp [fuseOp, Option.isSome_iff_ne_none.2 h]

theorem fuseOp_ownerKey_free {f : Fuses} (d : Bytes) (svn : Nat) (h : f.ownerKey = none) : fuseOp f 1 true d svn = ({ f with ownerKey := some d }, 0) := by
  simp [fuseOp, h]

/-- The same for the management root. -/
theorem fuseOp_mgmtRoot_fused {f : Fuses} (d : Bytes) (svn : Nat) (h : f.mgmtRoot ≠ none) : fuseOp f 2 true d svn = (f, 1) := by
  simp [fuseOp, Option.isSome_iff_ne_none.2 h]

theorem fuseOp_mgmtRoot_free {f : Fuses} (d : Bytes) (svn : Nat) (h : f.mgmtRoot = none) : fuseOp f 2 true d svn = ({ f with mgmtRoot := some d }, 0) := by
  simp [fuseOp, h]

/-- Settles O57: the GO, the check by its first failure, and each fuse operation by rank and what is fused. -/
theorem firmwareAndFuses : Obligations.FirmwareAndFuses := by
  intro s hruns
  have hcheck {image cert : Bytes} {t : Chip} (ht : s.chip.firmwareChecked s.fuses image cert = t) :
      exec (.firmwareChecked image cert) s = .next { s with chip := t.settle } := by
    show s.run (fun c => c.firmwareChecked s.fuses image cert) = _
    exact s.run_to hruns ht
  refine ⟨fun acc htakes => ?_, fun image cert => ⟨fun h => hcheck (if_pos h), ?_⟩, fun acc htakes => ⟨fun h => ?_, ?_⟩⟩
  · show execFirmwareGo acc s = _
    exact s.run_to hruns ((s.chip.command_taken _ _ _ _ htakes).trans s.chip.firmwareGo_eq)
  · intro h b r c hb hr hc
    subst hb hr hc
    refine ⟨fun hr => hcheck ?_, fun hr ok hok d hd => hcheck ?_⟩
    · exact (if_neg (not_not.2 h)).trans (if_pos hr)
    · subst hok hd
      exact ((if_neg (not_not.2 h)).trans (if_neg (not_not.2 hr))).trans (Chip.takeCert_noted _ _ _)
  · have hrefused op brought := State.fuseWrite_notAdmin hruns htakes op brought h
    exact ⟨fun d => congrArg Host.Outcome.next (hrefused 1 d), fun d => congrArg Host.Outcome.next (hrefused 2 d),
      congrArg Host.Outcome.next (hrefused 3 [])⟩
  · intro hadmin d done hdone
    subst hdone
    refine ⟨fun h => ?_, fun h => ?_, fun h => ?_, fun h => ?_, ?_⟩
    · exact congrArg Host.Outcome.next (State.fuseWrite_admin hruns htakes 1 d hadmin (fuseOp_ownerKey_fused _ _ h))
    · exact congrArg Host.Outcome.next (State.fuseWrite_admin hruns htakes 1 d hadmin (fuseOp_ownerKey_free _ _ h))
    · exact congrArg Host.Outcome.next (State.fuseWrite_admin hruns htakes 2 d hadmin (fuseOp_mgmtRoot_fused _ _ h))
    · exact congrArg Host.Outcome.next (State.fuseWrite_admin hruns htakes 2 d hadmin (fuseOp_mgmtRoot_free _ _ h))
    · exact congrArg Host.Outcome.next (State.fuseWrite_admin hruns htakes 3 [] hadmin rfl)

/-! ## The DOE mailbox (R480–R482) -/

/-- A request of a mailbox that answers: what it does, and what follows. -/
theorem State.doe_to (s : State) {f : Chip → Chip} {t : Chip} (hruns : s.runs = true) (hup : s.chip.doeUp = true) (ht : f s.chip = t) :
    s.doe f = .next { s with chip := t.settle } :=
  s.run_to hruns ((if_pos hup).trans ht)

/-- A vendor-defined response with nothing after its header. -/
theorem Chip.spdmAnswer_bare (s : Chip) (op r : Nat) : s.spdmAnswer op r [] = s.emit (.spdm (toLE 1 op ++ toLE 1 r ++ zeros 2)) := by
  rw [Chip.spdmAnswer, List.append_nil]

section
variable {s : Chip} {k : Session} (hk : s.sec.keySess = some k) (b : Bytes)
include hk

/-- A Key message that is too short, or not of a form that is known. -/
theorem Chip.keyMessage_badForm (h : b.length < 36 ∨ le b 8 1 ≠ 0) : s.keyMessage b = s.spdmAnswer 3 1 [] := by
  simp only [Chip.keyMessage, hk]
  exact if_pos (by simpa using h)

variable (hlen : 36 ≤ b.length) (hform : le b 8 1 = 0)
include hlen hform

/-- A Key message of another session. -/
theorem Chip.keyMessage_other (h : le b 4 4 ≠ k.id) : s.keyMessage b = s.spdmAnswer 3 3 [] := by
  simp only [Chip.keyMessage, hk]
  exact (if_neg (by simp [hlen, hform])).trans (if_pos h)

variable (hid : le b 4 4 = k.id)
include hid

/-- A Key message of the session: it opens and is new, or is answered 4. -/
theorem Chip.keyMessage_own : s.keyMessage b =
    match gcmUnlock k.up ([0, 0, 0, 0] ++ toLE 8 (le b 12 8)) (b.take 20) (slice b 20 (b.length - 36)) (slice b (20 + (b.length - 36)) 16) with
    | none => s.spdmAnswer 3 4 []
    | some m =>
      if replayed 64 k.high k.seen (le b 12 8) then s.spdmAnswer 3 4 []
      else
        let noted := noteSeen 64 k.high k.seen (le b 12 8)
        let c := (s.setSec (fun x => { x with keySess := some { k with high := noted.1, seen := noted.2, last := s.alm.now } })).ideMessage m
        let head := [3, 0, 0, 0] ++ toLE 4 k.id ++ [1, 0, 0, 0] ++ toLE 8 (le b 12 8)
        c.emit (.spdm (head ++ gcmLock k.dn ([1, 0, 0, 0] ++ toLE 8 (le b 12 8)) head (Config.ideAnswer m))) := by
  simp only [Chip.keyMessage, hk]
  exact ((if_neg (by simp [hlen, hform])).trans (if_neg (not_not.2 hid)))

end

/-- A Key close of the right size ends the session that it names. -/
theorem Chip.keyClose_eight (s : Chip) (b : Bytes) (h : b.length = 8) : s.keyClose b =
    match s.sec.keySess with
    | some k => if le b 4 4 = k.id then s.keyEnd.spdmAnswer 4 0 [] else s.spdmAnswer 4 3 []
    | none => s.spdmAnswer 4 3 [] :=
  if_neg (not_not.2 h)

/-- Settles O60: each request is its answer, by the checks in their order. -/
theorem doeMailboxAnswers : Obligations.DoeMailboxAnswers := by
  intro s hruns hup
  refine ⟨?_, ?_, fun code => ?_, fun answer hans => ?_, ?_⟩
  · show execGetVersion s = _
    exact s.doe_to hruns hup rfl
  · show execGetCapabilities s = _
    exact s.doe_to hruns hup rfl
  · show execUnsupportedSpdmRequest code s = _
    exact s.doe_to hruns hup rfl
  · have hanswer c op r : c.spdmAnswer op r [] = answer c op r := by
      subst hans
      exact c.spdmAnswer_bare op r
    clear hans
    have hmessage {b : Bytes} {t : Chip} (ht : s.chip.keyMessage b = t) : exec (.keyMessage b) s = .next { s with chip := t.settle } := by
      show execKeyMessage b s = _
      exact s.doe_to hruns hup ht
    have hclose {b : Bytes} {t : Chip} (ht : s.chip.keyClose b = t) : exec (.keyClose b) s = .next { s with chip := t.settle } := by
      show execKeyClose b s = _
      exact s.doe_to hruns hup ht
    refine ⟨fun b => ?_, fun b => ?_, fun b h => hmessage ?_, fun b k hk => ?_, fun b h => hclose ?_, fun b h hk => hclose ?_⟩
    · show execSpdmReport b s = _
      refine s.doe_to hruns hup ?_
      simp only [Chip.spdmReport, hanswer, Bool.not_eq_true']
      rfl
    · show execKeyOpen b s = _
      refine s.doe_to hruns hup ?_
      simp only [Chip.keyOpen, hanswer, Bool.not_eq_true']
      rfl
    · simp only [Chip.keyMessage, h, hanswer]
    · refine ⟨fun h => hmessage ?_, fun hlen hform h => hmessage ?_, fun hlen hform hid seq plain hseq hplain => ?_, fun c hlen => hclose ?_⟩
      · rw [Chip.keyMessage_badForm hk b h, hanswer]
      · rw [Chip.keyMessage_other hk b hlen hform h, hanswer]
      · subst hseq hplain
        refine ⟨fun h => hmessage ?_, fun m k' hm hnew hk' => hmessage ?_⟩
        · rw [Chip.keyMessage_own hk b hlen hform hid]
          split
          · exact hanswer _ _ _
          next m hm => exact (if_pos (h.resolve_left (by rw [hm]; exact Option.some_ne_none m))).trans (hanswer _ _ _)
        · subst hk'
          rw [Chip.keyMessage_own hk b hlen hform hid, hm]
          exact if_neg (by simp [hnew])
      · rw [Chip.keyClose_eight _ _ hlen, hk]
        simp only [hanswer]
        rfl
    · exact (if_pos h).trans (hanswer _ _ _)
    · rw [Chip.keyClose_eight _ _ h, hk]
      exact hanswer _ _ _
  · show execKeySessionTimeout s = _
    exact s.run_to hruns rfl

/-! ## Management commands (R478, R479, R553, R554) -/

/-- A management command of a module whose rails are on is what it does. -/
theorem State.manage_on (s : State) (f : State → State) (hoff : s.chip.pwr.off = false) : s.manage f = .next (f s) :=
  congrArg Host.Outcome.next (if_neg (by simp [hoff]))

/-- A COUNT that Read and Write do not take. -/
theorem countOk_eq_false_iff (n : Nat) : countOk n = false ↔ n = 0 ∨ 1024 < n := by
  simp [countOk]
  omega

/-- A run of words that is not aligned, or lies outside BAR0. -/
theorem runOk_eq_false_iff (off n : Nat) : runOk off n = false ↔ off % 4 ≠ 0 ∨ 0x8000000 < off + 4 * n := by
  simp only [runOk, Bool.and_eq_false_iff, beq_eq_false_iff_ne, decide_eq_false_iff_not, Nat.not_le]
  rfl

section
variable {s : State} {d : Bytes} (t3 : List (Nat × Bytes))

/-- A datagram of no session, or not of a Record's form, is dropped. -/
theorem State.nmpRecord_dropped (h : s.chip.session (le d 4 4) = none ∨ d.length < 32 ∨ le d 0 1 ≠ 4 ∨ le d 1 1 ≠ 0) :
    s.nmpRecord d t3 = s := by
  cases hx : s.chip.session (le d 4 4) with
  | none => simp only [State.nmpRecord, hx]
  | some x =>
    simp only [State.nmpRecord, hx]
    exact if_pos (by simpa [hx, or_assoc] using h)

variable {x : Session} {body : Bytes} (hx : s.chip.session (le d 4 4) = some x) (hlen : 32 ≤ d.length) (htype : le d 0 1 = 4) (hver : le d 1 1 = 0)
  (hopen : gcmUnlock x.up ([0, 0, 0, 0] ++ toLE 8 (le d 8 8)) (d.take 16) (slice d 16 (d.length - 32)) (slice d (16 + (d.length - 32)) 16) = some body)
include hx hlen htype hver hopen

/-- A Record that opens under its session's key: it was seen, or ends its session, or is noted and executed. -/
theorem State.nmpRecord_opened : s.nmpRecord d t3 =
    if replayed 64 x.high x.seen (le d 8 8) then s
    else if 2 ^ 48 ≤ le d 8 8 then s.onBody (fun c => c.setSessions (fun l => l.filter (fun y => y.id != le d 4 4)))
    else
      let noted := noteSeen 64 x.high x.seen (le d 8 8)
      (s.onBody (fun c => c.setSessions (fun l => l.map (fun y =>
        if y.id = le d 4 4 then { y with high := noted.1, seen := noted.2, last := c.alm.now } else y)))).nmpBody (le d 4 4) body t3 := by
  simp only [State.nmpRecord, hx]
  rw [if_neg (by simp [hlen, htype, hver]), hopen]

end

/-- Settles O59: each command is its checks in their order, answered in its session. -/
theorem managementCommandsAreRanked : Obligations.ManagementCommandsAreRanked := by
  intro s ses answer hruns hanswer
  obtain ⟨hoff, -⟩ := s.runs_iff.1 hruns
  have hans (t : State) (h : Bytes) (st : Nat) (rest : Bytes) : ({ t with chip := t.chip.answer ses h st rest } : State) = answer t h st rest := by
    subst hanswer
    rfl
  clear hanswer
  refine ⟨fun d t3 => ⟨fun h => ?_, fun x body hx hlen htype hver hopen => ⟨fun h => ?_, fun h hseq => ?_⟩⟩, fun tag off n h hh => ?_,
    fun tag off words t3 h x hh hx => ?_, fun tag h hh => ?_, fun tag h hh => ?_, fun tag h hh => ?_, fun h => ?_, fun tag h => ?_, fun tag cred nonce h hh => ?_⟩
  · show execNmpRecord d t3 s = _
    exact (s.manage_on _ hoff).trans (congrArg Host.Outcome.next (State.nmpRecord_dropped t3 h))
  · show execNmpRecord d t3 s = _
    refine (s.manage_on _ hoff).trans (congrArg Host.Outcome.next ?_)
    exact (State.nmpRecord_opened t3 hx hlen htype hver hopen).trans (if_pos h)
  · show execNmpRecord d t3 s = _
    refine (s.manage_on _ hoff).trans (congrArg Host.Outcome.next ?_)
    exact (State.nmpRecord_opened t3 hx hlen htype hver hopen).trans ((if_neg (by simp [h])).trans (if_neg (Nat.not_le.2 hseq)))
  · show execNmpRead ses tag off n s = _
    rw [execNmpRead, s.manage_on _ hoff, ← hh, State.onBody, Chip.nmpRead]
    simp only [Bool.not_eq_true', countOk_eq_false_iff, runOk_eq_false_iff, ← hans]
    split_ifs <;> rfl
  · show execNmpWrite ses tag off words t3 s = _
    rw [execNmpWrite, s.manage_on _ hoff, ← hh, State.nmpWrite]
    simp only [Bool.not_eq_true', countOk_eq_false_iff, runOk_eq_false_iff, hx, hans, Bool.and_eq_true, decide_eq_true_eq] <;> rfl
  · show execNmpColdReset ses tag s = _
    rw [execNmpColdReset, s.manage_on _ hoff, ← hh, State.nmpCold]
    simp only [hans]
  · show execNmpWarmReset ses tag s = _
    rw [execNmpWarmReset, s.manage_on _ hoff, ← hh, State.nmpWarm]
    simp only [hans, Bool.not_eq_true', Bool.and_eq_true, decide_eq_true_eq]
  · show execNmpPurge ses tag s = _
    rw [execNmpPurge, s.onMgmt_on _ hoff, ← hh, Chip.nmpPurge]
    simp only [Bool.or_eq_true, Option.isSome_iff_ne_none, ← hans]
    split_ifs <;> rfl
  · show execPurgeDone s = _
    refine (s.onMgmt_on _ hoff).trans ?_
    rw [Chip.purgeDone, h]
  · show execPurgeDone s = _
    refine (s.onMgmt_on _ hoff).trans ?_
    rw [Chip.purgeDone, h, ← hans]
  · show execNmpReport ses tag cred nonce s = _
    rw [execNmpReport, s.onMgmt_on _ hoff]
    have hh' : nmpHead 6 (b2n cred) tag 0 0 = h := hh ▸ rfl
    rw [hh', Chip.nmpReport]
    simp only [Option.isSome_iff_ne_none, ← hans]
    split_ifs <;> rfl

end Sys2Proof.Machine
end

section
/-! Security (15): pair handshakes (R466, R467), seals (R474), attestation reports (R476) and management sessions (R478, R479). -/

namespace Sys2Proof.Machine

open Sys2Proof

/-! ## Pair handshakes (R466, R467) -/

section
variable {s : Chip} {src : MsgSrc} (b : Bytes)

/-- A Pair credential of another size, without firmware, or of this device's own number. -/
theorem Chip.pairCredential_dropped (h : s.sec.running = [] ∨ b.length ≠ 61456 ∨ src.dev = s.selfDev) : s.pairCredential src b = s := by
  refine if_pos ?_
  simp only [Bool.or_eq_true, decide_eq_true_eq, List.isEmpty_iff]
  tauto

variable (hlen : b.length = 61456) (hrunning : s.sec.running ≠ []) (hdev : src.dev ≠ s.selfDev)
include hlen hrunning hdev

/-- A Pair credential that is looked at: by the handshake with its device. -/
theorem Chip.pairCredential_looked : s.pairCredential src b =
    match s.shake src.dev with
    | none => s.joinShake src.dev (le b 8 8) (b.drop 16)
    | some k =>
      if k.hid = le b 8 8 then (if k.cred.isEmpty then s.updShake src.dev (fun x => { x with cred := b.drop 16 }) else s)
      else if k.own && ownSerial < credSerial (b.drop 16) then s
      else s.joinShake src.dev (le b 8 8) (b.drop 16) :=
  if_neg (by simp [hlen, hrunning, hdev])

end

section
variable {s : Chip} {src : MsgSrc} {k : Shake} (hk : s.shake src.dev = some k) (b : Bytes)
include hk

/-- A Pair encapsulation for a handshake: one that does not fit is dropped, another is kept. -/
theorem Chip.pairEncapsulation_shake : s.pairEncapsulation src b =
    if b.length ≠ 1584 ∨ le b 8 8 ≠ k.hid ∨ k.peerCt ≠ [] then s
    else (s.updShake src.dev (fun x => { x with peerCt := b.drop 16 })).derivePair src.dev := by
  simp only [Chip.pairEncapsulation, hk, Bool.or_eq_true, decide_eq_true_eq, Bool.not_eq_true', List.isEmpty_eq_false_iff, or_assoc]

/-- A Pair confirm for a handshake: one that is not verified is dropped, another puts its keys into force (R471). -/
theorem Chip.pairConfirm_shake : s.pairConfirm src b =
    if b.length ≠ 80 ∨ le b 8 8 ≠ k.hid ∨ k.pmk = [] ∨ b.drop 16 ≠ kdf "PCONF" (k.pmk ++ toLE 8 (credSerial k.cred)) 64 then s
    else ((s.dropShake src.dev).setSec (fun x =>
      { x with pairs := x.pairs.filter (fun p => p.dev != src.dev)
                 ++ [{ dev := src.dev, serial := credSerial k.cred, pmk := k.pmk, made := (s.dropShake src.dev).step }]
               old := x.old.filter (fun p => p.1.dev != src.dev)
                 ++ ((s.dropShake src.dev).pair src.dev).toList.map (fun p => (p, (s.dropShake src.dev).step + 1)) })).pumpAll := by
  simp only [Chip.pairConfirm, hk, Bool.or_eq_true, decide_eq_true_eq, List.isEmpty_iff, or_assoc]
  cases (s.dropShake src.dev).pair src.dev <;> rfl

end

/-- Both ciphertexts are known: the PMK, and this end's Pair confirm (R467). -/
theorem Chip.derivePair_ready (s : Chip) {dev : Nat} {q : Shake} {pmk own ss : Bytes} (hq : s.shake dev = some q) (hacc : q.accepted = true)
    (hct : q.peerCt ≠ []) (hpmk : q.pmk = []) (hown : own = s.credential) (hss : ss = s.decaps q.peerCt)
    (h : pmk = kdf "PAIR" ((if ownSerial < credSerial q.cred then q.ownSs ++ ss else ss ++ q.ownSs)
      ++ digest (toLE 8 q.hid ++ (if ownSerial < credSerial q.cred then own ++ q.cred else q.cred ++ own)
        ++ (if ownSerial < credSerial q.cred then q.ownCt ++ q.peerCt else q.peerCt ++ q.ownCt))) 64) :
    s.derivePair dev = (s.updShake dev (fun x => { x with pmk := pmk })).sendShake dev 0x12 q.hid (kdf "PCONF" (pmk ++ toLE 8 ownSerial) 64) := by
  subst h hown hss
  simp only [Chip.derivePair, hq]
  rw [if_neg (by simp [hacc, hct, hpmk])]
  by_cases hlow : ownSerial < credSerial q.cred <;> simp only [hlow, if_true, if_false]

/-! ## Seals (R474) -/

/-- A seal that ends, of an object that is still there and reads whole: its bundle is written (R474). -/
theorem Chip.sealDone_written (s : Chip) {x : Seal} {d : Desc} {adapter : Bool} {size n : Nat} {image header wsk bid entries : Bytes} {c e f g : Chip}
    (hx : s.sec.sealing = some x) (hc : c = s.setSec (fun y => { y with sealing := none })) (hd : c.memu.descs.find x.obj = some d)
    (hadapter : adapter = (d.use == 2)) (hsize : size = (c.weightOf adapter d.id).getD 0) (hn : n = ceilDiv size chunkLen)
    (himage : c.readImage (c.imageUnits (c.weightObjects x.part adapter d.id)) = some image) (hwsk : c.random 32 = (e, wsk)) (hbid : e.random 8 = (f, bid))
    (hheader : header = [0x49, 0x53, 0x57, 0x42, 1] ++ toLE 1 (if adapter = true then 2 else 1) ++ toLE 2 d.id ++ f.tagOf adapter d.id ++ toLE 8 size
      ++ toLE 2 x.rcpt.length ++ [2, 0] ++ toLE 4 n ++ bid ++ toLE 8 ownSerial ++ toLE 8 f.step ++ digest f.akPub ++ zeros 128)
    (hwrap : Chip.wrapAll wsk header x.rcpt f = (g, entries)) :
    s.sealDone = (g.hostWrite (x.addr - t3Base) (header ++ entries ++ sealChunks wsk header (padTo size image) n 0
      ++ padTo 35664 (Config.slhSign false g.ak.2 (digest (header ++ entries ++ sealChunks wsk header (padTo size image) n 0))))).wr Reg.SEC_SEAL_STAT 0 := by
  subst hc hadapter hsize hn hheader
  simp only [Chip.sealDone, hx, hd, himage, hwsk, hbid, hwrap]

/-! ## Reports (R476) -/

/-- SEC_ATT_CTRL.GO, with its conditions as propositions. -/
theorem Chip.attGo_eq (s : Chip) (w : Writer) : s.attGo w =
    if s.rf F.SEC_ATT_STAT_RESULT = 15 ∨ s.pwr.done.contains 8 = false then s
    else if inT3 (s.rd64 Reg.SEC_ATT_ADDR_LO) = false then s.wr Reg.SEC_ATT_STAT 1
    else if s.sec.signing ≠ none then s.wr Reg.SEC_ATT_STAT 15
    else (s.wr Reg.SEC_ATT_STAT 15).startSigning (.host (s.rd64 Reg.SEC_ATT_ADDR_LO) w)
      ((List.range 8).flatMap (fun i => toLE 4 (s.rd (Reg.SEC_ATT_NONCE + 4 * i)))) := by
  simp only [Chip.attGo, Bool.or_eq_true, decide_eq_true_eq, Bool.not_eq_true', Option.isSome_iff_ne_none]

/-- The end of a signing, before its report is delivered: none is being signed, and a request of the host is no longer busy. -/
def Chip.signingEnded (s : Chip) : Chip :=
  let c := s.setSec (fun x => { x with signing := none })
  if c.rf F.SEC_ATT_STAT_RESULT = 15 then c.wr Reg.SEC_ATT_STAT 0 else c

/-- A signed report is delivered to who asked for it. -/
theorem Chip.reportSigned_delivered (s : Chip) (f : Fuses) {who : ReportFor} {nonce : Bytes} (h : s.sec.signing = some (who, nonce)) :
    s.reportSigned f =
      match who with
      | .host addr w => s.signingEnded.hostWrite (addr - t3Base) (s.signingEnded.report f w nonce ++ s.signingEnded.credential)
      | .nmp id head cred =>
        match s.signingEnded.session id with
        | none => s.signingEnded
        | some x =>
          let t := s.signingEnded.answer id head 0 (s.signingEnded.report f (.slot x.slot) nonce)
          if cred then t.emit (.datagram ([3, 0, 0, 0] ++ toLE 4 id ++ s.signingEnded.credential)) else t
      | .hello slot b => s.signingEnded.acceptHello f slot b nonce
      | .spdm => s.signingEnded.spdmAnswer 1 0 (s.signingEnded.report f .host nonce ++ s.signingEnded.credential)
      | .keyOpen b => s.signingEnded.keyOpened f b := by
  simp only [Chip.reportSigned, h]
  cases who <;> rfl

/-- The session that a Hello opens, and its Accept (R478). -/
theorem Chip.acceptHello_eq (s : Chip) (u : Fuses) (slot : Nat) (b nonce : Bytes) {e f : Chip} {r : Nat} {ct ss head : Bytes} (hr : s.draw 32 = (e, r))
    (hct : e.encaps (slice b 84 1568) = (f, ct, ss))
    (hhead : head = [2, 0, 0, 0] ++ toLE 4 (firstFree 9 r (e.sec.sessions.map (·.id)) % 2 ^ 32) ++ ct) :
    s.acceptHello u slot b nonce =
      (let g := f.setSessions (fun l => l ++ [{ id := firstFree 9 r (e.sec.sessions.map (·.id)) % 2 ^ 32, slot := slot
                                                up := kdf "NMP-UP" (ss ++ digest (b ++ head)) 32
                                                dn := kdf "NMP-DN" (ss ++ digest (b ++ head)) 32, last := f.alm.now }])
       g.emit (.datagram (head ++ g.report u (.slot slot) nonce))) := by
  subst hhead
  obtain ⟨rfl, rfl⟩ := Prod.ext_iff.1 hr
  obtain ⟨rfl, hct⟩ := Prod.ext_iff.1 hct
  obtain ⟨rfl, rfl⟩ := Prod.ext_iff.1 hct
  rfl

/-- The key session that a Key open opens, and its response (R481). -/
theorem Chip.keyOpened_eq (s : Chip) (u : Fuses) (b : Bytes) {e f : Chip} {r : Nat} {ct ss head : Bytes} (hr : s.draw 32 = (e, r))
    (hct : e.encaps (slice b 36 1568) = (f, ct, ss)) (hhead : head = [2, 0, 0, 0] ++ toLE 4 r ++ ct) :
    s.keyOpened u b =
      (let g := f.setSec (fun x => { x with keySess := some { id := r, up := kdf "IDE-UP" (ss ++ digest (b ++ head)) 32
                                                              dn := kdf "IDE-DN" (ss ++ digest (b ++ head)) 32, last := f.alm.now } })
       g.emit (.spdm (head ++ g.report u .host ((digest (b ++ ct)).take 32)))) := by
  subst hhead
  obtain ⟨rfl, rfl⟩ := Prod.ext_iff.1 hr
  obtain ⟨rfl, hct⟩ := Prod.ext_iff.1 hct
  obtain ⟨rfl, rfl⟩ := Prod.ext_iff.1 hct
  rfl

/-! ## Sessions (R478, R479) -/

/-- Settles O58: each message by its handshake, each report by who asked for it. -/
theorem handshakesReportsAndSessions : Obligations.HandshakesReportsAndSessions := by
  intro s hruns
  obtain ⟨hoff, -⟩ := s.runs_iff.1 hruns
  have hcredential {src b} {t : Chip} (ht : (s.chip.take 8 src b).pairCredential src b = t) :
      exec (.pairCredential src b) s = .next { s with chip := t.settle } := by
    show execPairCredential src b s = _
    exact s.run_to hruns ht
  have hencaps {src b} {t : Chip} (ht : (s.chip.take 8 src b).pairEncapsulation src b = t) :
      exec (.pairEncapsulation src b) s = .next { s with chip := t.settle } := by
    show execPairEncapsulation src b s = _
    exact s.run_to hruns ht
  have hconfirm {src b} {t : Chip} (ht : (s.chip.take 8 src b).pairConfirm src b = t) :
      exec (.pairConfirm src b) s = .next { s with chip := t.settle } := by
    show execPairConfirm src b s = _
    exact s.run_to hruns ht
  have hseal {t : Chip} (ht : s.chip.sealDone = t) : exec .secSealDone s = .next { s with chip := t.settle } := by
    show execSecSealDone s = _
    exact s.run_to hruns ht
  have hsigned {t : Chip} (ht : s.chip.reportSigned s.fuses = t) : exec .reportSigned s = .next { s with chip := t.settle } := by
    show execReportSigned s = _
    exact s.onMgmt_to hoff (congrArg Chip.settle ht)
  refine ⟨fun src b c hc => ?_, fun dev => ?_, fun acc who htakes hwho => ?_, fun h => ?_, fun x c hx hc => ⟨fun h => ?_, ?_⟩, fun h => ?_,
    fun addr w nonce c d hx hc hd => ?_, fun who nonce c d hx hc hd => ?_, fun b slot refuse hslot hrefuse => ?_, fun i => ?_⟩
  · subst hc
    refine ⟨fun hid cred join hhid hcred hjoin => ?_, fun hnone => ⟨?_, ?_⟩, fun k hk => ⟨?_, ?_, fun h => ?_, ?_⟩⟩
    · subst hhid hcred
      have hjoined (t : Chip) : t.joinShake src.dev (le b 8 8) (b.drop 16) = join t := by
        subst hjoin
        rfl
      clear hjoin
      refine ⟨fun h => hcredential (Chip.pairCredential_dropped b h), fun hlen hrunning hdev => ⟨fun hnone => hcredential ?_, fun k hk => hcredential ?_⟩⟩
      · rw [Chip.pairCredential_looked b hlen hrunning hdev, hnone]
        exact hjoined _
      · rw [Chip.pairCredential_looked b hlen hrunning hdev, hk]
        simp only [hjoined, Bool.and_eq_true, decide_eq_true_eq, List.isEmpty_iff]
    · refine hencaps ?_
      simp only [Chip.pairEncapsulation, hnone]
    · refine hconfirm ?_
      simp only [Chip.pairConfirm, hnone]
    · exact hencaps (Chip.pairEncapsulation_shake hk b)
    · intro d q pmk own ss hlen hhid hct hd hq hacc hqct hqpmk hown hss hpmk
      refine hencaps ((Chip.pairEncapsulation_shake hk b).trans ((if_neg (by simp [hlen, hhid, hct])).trans ?_))
      subst hd
      exact Chip.derivePair_ready _ hq hacc hqct hqpmk hown hss hpmk
    · exact hconfirm ((Chip.pairConfirm_shake hk b).trans (if_pos h))
    · intro hlen hhid hpmk hproof d old new hd hold hnew
      subst hd hold hnew
      exact hconfirm ((Chip.pairConfirm_shake hk b).trans (if_neg (by simp [hlen, hhid, hpmk, hproof])))
  · show execHandshakeTimeout dev s = _
    refine s.run_to hruns ?_
    unfold Chip.shakeTimeout
    cases s.chip.shake dev <;> rfl
  · subst hwho
    show execAttestationRequest acc s = _
    exact s.run_to hruns ((s.chip.command_taken _ _ _ _ htakes).trans (s.chip.attGo_eq acc.writer))
  · refine hseal ?_
    simp only [Chip.sealDone, h]
  · subst hc
    refine hseal ?_
    simp only [Chip.sealDone, hx, h]
  · intro d image header wsk bid entries e f g adapter size n hd hadapter hsize hn himage hwsk hbid hheader hwrap
    exact hseal (s.chip.sealDone_written hx hc hd hadapter hsize hn himage hwsk hbid hheader hwrap)
  · refine hsigned ?_
    simp only [Chip.reportSigned, h]
  · obtain rfl : d = s.chip.signingEnded := by
      subst hc
      exact hd
    exact hsigned (s.chip.reportSigned_delivered s.fuses hx)
  · obtain rfl : d = s.chip.signingEnded := by
      subst hc
      exact hd
    have hdelivered := s.chip.reportSigned_delivered s.fuses hx
    refine ⟨fun id head cred x hwho hsession => ?_, fun hwho => ?_, fun b e f r ct ss hr => ⟨fun slot head hwho hct hhead => ?_, fun head hwho hct hhead => ?_⟩⟩
    · subst hwho
      refine hsigned (hdelivered.trans ?_)
      simp only [hsession]
    · subst hwho
      exact hsigned hdelivered
    · subst hwho
      exact hsigned (hdelivered.trans (Chip.acceptHello_eq _ _ slot b nonce hr hct hhead))
    · subst hwho
      exact hsigned (hdelivered.trans (Chip.keyOpened_eq _ _ b hr hct hhead))
  · subst hslot hrefuse
    show execHello b s = _
    refine s.onMgmt_to hoff ?_
    simp only [Chip.hello, Bool.or_eq_true, decide_eq_true_eq, Bool.not_eq_true', or_assoc]
    rfl
  · show execSessionTimeout i s = _
    exact s.onMgmt_to hoff rfl

end Sys2Proof.Machine
end

section
/-! The host (14): device memory (R426–R431), queue pairs, rings and profiles (R433, R434), and the link that comes and goes (R445, R447). -/

namespace Sys2Proof.Machine

open Sys2Proof

/-! ## Device memory (R429–R431) -/

/-- No line answers while memory is not active, or where none is mapped. -/
theorem Chip.hostLine_inactive (s : Chip) (hpa : Nat) (write : Bool) (h : s.pwr.active = false ∨ s.hostLine hpa write = none) :
    (if s.pwr.active then s.hostLine hpa write else none) = none := by
  split
  next hactive => exact h.resolve_left (by simp [hactive])
  next => rfl

section
variable {s : Chip} (hd0 : s.d3hot = false) (hviral : s.rf F.CXL_STAT_VIRAL_OUT ≠ 1) (hpa : Nat)
include hd0 hviral

/-- A host read of a module in D0 that is not viral. -/
theorem Chip.hostRead_d0 (obtains : Option Bool) (ecc : List WordErr) : s.hostRead hpa obtains ecc =
    match (if s.pwr.active then s.hostLine hpa false else none) with
    | none => (s.hostUnmapped hpa).emit (.memData (zeros 64))
    | some a =>
      match s.cxl.filter with
      | oldest :: _ =>
        if (obtains.isSome && !s.cxl.filter.any (fun x => x.1 == a)) && 1048576 ≤ s.cxl.filter.length then
          (s.backInvalidate oldest.1).setCxl (fun c => { c with heldCmds := c.heldCmds ++ [.hostMemRead hpa obtains ecc] })
        else s.serveLine hpa a obtains ecc
      | [] => s.serveLine hpa a obtains ecc :=
  (if_neg (by simp [hd0])).trans (if_neg hviral)

/-- A host write of a module in D0 that is not viral. -/
theorem Chip.hostStore_d0 (data : Bytes) (mask : Nat) : s.hostStore hpa data mask =
    match (if s.pwr.active then s.hostLine hpa true else none) with
    | none => s.hostUnmapped hpa
    | some a => if s.stackDown a then s.hostUnmapped hpa else (s.hostItem a).storeLine a (padTo 64 data) mask :=
  if_neg (by simp [hd0, hviral])

/-- A read where no line answers it (R429). -/
theorem Chip.hostRead_unmapped (obtains : Option Bool) (ecc : List WordErr) (h : s.pwr.active = false ∨ s.hostLine hpa false = none) :
    s.hostRead hpa obtains ecc = (s.hostUnmapped hpa).emit (.memData (zeros 64)) := by
  rw [Chip.hostRead_d0 hd0 hviral, s.hostLine_inactive hpa false h]

/-- A write where no line takes it (R429). -/
theorem Chip.hostStore_unmapped (data : Bytes) (mask : Nat) (h : s.pwr.active = false ∨ s.hostLine hpa true = none) :
    s.hostStore hpa data mask = s.hostUnmapped hpa := by
  rw [Chip.hostStore_d0 hd0 hviral, s.hostLine_inactive hpa true h]

variable {a : Nat} (hactive : s.pwr.active = true)
include hactive

/-- A read of a line for which the filter has room. -/
theorem Chip.hostRead_line (obtains : Option Bool) (ecc : List WordErr) (ha : s.hostLine hpa false = some a) (hroom : s.cxl.filter.length < 1048576) :
    s.hostRead hpa obtains ecc = s.serveLine hpa a obtains ecc := by
  rw [Chip.hostRead_d0 hd0 hviral, if_pos hactive, ha]
  cases hf : s.cxl.filter with
  | nil => rfl
  | cons oldest rest => exact if_neg (by rw [← hf]; simp [Nat.not_le.2 hroom])

/-- A write of a line. -/
theorem Chip.hostStore_line (data : Bytes) (mask : Nat) (ha : s.hostLine hpa true = some a) :
    s.hostStore hpa data mask = if s.stackDown a then s.hostUnmapped hpa else (s.hostItem a).storeLine a (padTo 64 data) mask := by
  rw [Chip.hostStore_d0 hd0 hviral, if_pos hactive, ha]

end

/-- A line is read, damaged or whole, after the access of its stack (R430, R502). -/
theorem Chip.serveLine_eq (s : Chip) (hpa a : Nat) (obtains : Option Bool) (ecc : List WordErr) {x : Chip × Bool} {t : Chip}
    (hx : x = (if s.stackDown a then (s, false) else (s.hostItem a).access 3 a 64 ecc)) (ht : t = x.1.setCxl (fun c => { c with touched := [] })) :
    s.serveLine hpa a obtains ecc =
      match (if x.2 then t.readPhys a 64 else none) with
      | none => t.hostDamaged hpa
      | some b => (match obtains with
        | some m => t.grant a m
        | none => t).emit (.memData b) := by
  subst ht hx
  rfl

/-- A decoder that is not committed: of another number, without a size, or not of whole units within the DVSEC range (R428). -/
theorem Chip.hdmCommit_refused (s : Chip) (i : Nat) (h : Hdm)
    (hbad : 2 ≤ i ∨ h.size = 0 ∨ h.base % 2 ^ 28 ≠ 0 ∨ h.size % 2 ^ 28 ≠ 0 ∨ h.dpa % 2 ^ 28 ≠ 0 ∨ dvsecSize < h.dpa + h.size) : s.hdmCommit i h = s := by
  refine if_pos ?_
  simp only [Bool.or_eq_true, decide_eq_true_eq]
  tauto

/-- The first decoder to be committed. -/
theorem Chip.hdmCommit_first (s : Chip) (i : Nat) (h : Hdm) (hi : i < 2) (hsize : 0 < h.size) (hbase : h.base % 2 ^ 28 = 0) (hunits : h.size % 2 ^ 28 = 0)
    (hdpa : h.dpa % 2 ^ 28 = 0) (hrange : h.dpa + h.size ≤ dvsecSize) (hnone : s.cxl.hdm = []) :
    s.hdmCommit i h = s.setCxl (fun c => { c with hdm := [(i, h)] }) := by
  have hput : s.cxl.hdm.put i h = [(i, h)] := by
    rw [hnone]
    rfl
  refine (if_neg ?_).trans ?_
  · simp only [hnone, List.any_nil, Bool.or_false, Bool.or_eq_true, decide_eq_true_eq]
    omega
  · rw [Chip.setCxl, hput]
    rfl

/-- Settles O41: each access by whether a line answers it, a decoder by its place, a response by what it brings. -/
theorem hostMemoryAccesses : Obligations.HostMemoryAccesses := by
  refine ⟨fun s hpa mask data obtains ecc hruns hd0 hviral => ⟨⟨fun h => ?_, fun h => ?_, fun a hactive ha hroom x t hx ht => ?_, fun a hactive ha => ?_⟩, ?_⟩,
    fun s i base size dpa hruns => ⟨fun h => ?_, fun hi hsize hbase hunits hdpa hrange hnone => ?_⟩, fun s line data hruns c d hc hd => ?_⟩
  · show execHostMemRead hpa obtains ecc s = _
    exact s.run_to hruns (Chip.hostRead_unmapped hd0 hviral hpa obtains ecc h)
  · show execHostMemWrite hpa data mask s = _
    exact s.run_to hruns (Chip.hostStore_unmapped hd0 hviral hpa data mask h)
  · have hserve := (Chip.hostRead_line hd0 hviral hpa hactive obtains ecc ha hroom).trans (s.chip.serveLine_eq hpa a obtains ecc hx ht)
    refine ⟨fun h => ?_, fun b hok hb => ?_⟩
    · show execHostMemRead hpa obtains ecc s = _
      refine s.run_to hruns (hserve.trans ?_)
      have hnone : (if x.2 then t.readPhys a 64 else none) = none := by
        split
        next hok => exact h.resolve_left (by simp [hok])
        next => rfl
      rw [hnone]
      rfl
    · show execHostMemRead hpa obtains ecc s = _
      refine s.run_to hruns (hserve.trans ?_)
      rw [if_pos hok, hb]
      cases obtains <;> rfl
  · show execHostMemWrite hpa data mask s = _
    exact s.run_to hruns (Chip.hostStore_line hd0 hviral hpa hactive data mask ha)
  · show execH2dSnoop hpa s = _
    exact s.run_to hruns (if_neg (by simp [hd0]))
  · show execHdmDecoderCommit i base size dpa s = _
    exact s.run_to hruns (s.chip.hdmCommit_refused i ⟨base, size, dpa⟩ h)
  · show execHdmDecoderCommit i base size dpa s = _
    exact s.run_to hruns (s.chip.hdmCommit_first i ⟨base, size, dpa⟩ hi hsize hbase hunits hdpa hrange hnone)
  · show execBisnpResponse line data s = _
    refine s.run_to hruns ?_
    subst hc hd
    simp only [Chip.bisnpResponse, List.isEmpty_iff]
    cases data <;> rfl

/-! ## Queue pairs, rings and profiles (R433, R434) -/

/-- A command of CXL_CFG_CTRL that the page takes, while none is busy, is run. -/
theorem Chip.cfgCtrl_taken (s : Chip) {a : Access} {parts : List Nat} (op index : Nat) (run : Chip → Chip) (hbusy : s.rf F.CXL_CFG_STAT_RESULT ≠ 15)
    (htakes : s.takes a Pg.CXL false parts = true) : s.cfgCtrl a op index parts run = run s :=
  (s.command_taken _ _ _ _ htakes).trans (if_neg hbusy)

/-- The image that a command reads, at a T3 address. -/
theorem Chip.cfgImage_t3 (s : Chip) (brought : Bytes) (h : inT3 (s.rd64 Reg.CXL_CFG_ADDR_LO) = true) : s.cfgImage brought = some (padTo 32 brought) := if_pos h

theorem Chip.cfgImage_none (s : Chip) (brought : Bytes) (h : inT3 (s.rd64 Reg.CXL_CFG_ADDR_LO) = false) : s.cfgImage brought = none :=
  if_neg (by simp [h])

/-- A profile image that is another command's, or of a number above 255. -/
theorem Chip.setProfile_refused (s : Chip) (b : Bytes) (h : le b 0 1 ≠ 3 ∨ 255 < le b 2 2) : s.setProfile b = s.cfgResult 1 :=
  if_pos (by simpa using h)

/-- Deleting a queue pair that is there, with its conditions as propositions. -/
theorem Chip.deleteQp_found (s : Chip) {q : Nat} {x : QueuePair} (h : s.cxl.qps.find q = some x) : s.deleteQp q =
    if x.sqHead ≠ x.sqTail ∨ (∃ y ∈ s.cxl.subs, y.qid = q) ∨ (∃ o ∈ s.rtb.offers, o.sub.qid = q) then s.cfgResult 3
    else (s.setCxl (fun c => { c with qps := c.qps.del q })).cfgResult 0 := by
  simp only [Chip.deleteQp, h, Bool.or_eq_true, decide_eq_true_eq, List.any_eq_true, beq_iff_eq, or_assoc]

/-- Settles O42: each command is taken, and judged by its image, or by the queue or ring it names. -/
theorem queuesRingsAndProfiles : Obligations.QueuesRingsAndProfiles := by
  intro s acc image hruns hbusy b hb
  subst hb
  have htaken {parts op} {t : Chip} (htakes : s.chip.takes acc Pg.CXL false parts = true) {run : Chip → Chip} {index : Nat} (ht : run s.chip = t) :
      s.chip.cfgCtrl acc op index parts run = t :=
    (s.chip.cfgCtrl_taken op index run hbusy htakes).trans ht
  refine ⟨fun htakes => ⟨fun hno => ⟨?_, ?_⟩, fun himage => ⟨?_, ?_⟩⟩, fun htakes => ⟨fun h => ?_, fun himage hop hnum => ?_, fun q hnone => ?_, fun r hnone => ?_⟩,
    fun q x hx htakes => ?_, fun r x hx htakes => ?_⟩
  · show execCreateQueuePair acc image s = _
    exact s.run_to hruns (htaken htakes (by simp only [s.chip.cfgImage_none image hno]; rfl))
  · show execCreateEmitRing acc image s = _
    exact s.run_to hruns (htaken htakes (by simp only [s.chip.cfgImage_none image hno]; rfl))
  · show execCreateQueuePair acc image s = _
    exact s.run_to hruns (htaken htakes (by simp only [s.chip.cfgImage_t3 image himage]; rfl))
  · show execCreateEmitRing acc image s = _
    exact s.run_to hruns (htaken htakes (by simp only [s.chip.cfgImage_t3 image himage]; rfl))
  · show execSetProfile acc image s = _
    refine s.run_to hruns (htaken htakes ?_)
    cases himage : inT3 (s.chip.rd64 Reg.CXL_CFG_ADDR_LO) with
    | false => simp only [s.chip.cfgImage_none image himage]; rfl
    | true =>
      simp only [s.chip.cfgImage_t3 image himage]
      exact s.chip.setProfile_refused _ (h.resolve_left (by simp [himage]))
  · show execSetProfile acc image s = _
    refine s.run_to hruns (htaken htakes ?_)
    simp only [s.chip.cfgImage_t3 image himage]
    exact if_neg (by simp [hop, hnum])
  · have hparts : s.chip.takes acc Pg.CXL false ((s.chip.cxl.qps.find q).toList.map (·.partition)) = true := by rwa [hnone]
    show execDeleteQueuePair acc q s = _
    refine s.run_to hruns (htaken hparts ?_)
    simp only [Chip.deleteQp, hnone]
    rfl
  · have hparts : s.chip.takes acc Pg.CXL false ((s.chip.ring r).toList.map (·.partition)) = true := by rwa [hnone]
    show execDeleteEmitRing acc r s = _
    exact s.run_to hruns (htaken hparts (if_pos (by simp [hnone])))
  · have hparts : s.chip.takes acc Pg.CXL false ((s.chip.cxl.qps.find q).toList.map (·.partition)) = true := by rwa [hx]
    show execDeleteQueuePair acc q s = _
    exact s.run_to hruns (htaken hparts (s.chip.deleteQp_found hx))
  · have hparts : s.chip.takes acc Pg.CXL false ((s.chip.ring r).toList.map (·.partition)) = true := by rwa [hx]
    show execDeleteEmitRing acc r s = _
    exact s.run_to hruns (htaken hparts (if_neg (by simp [hx])))

/-! ## The link to the host (R445, R447) -/

/-- A link that trains up on eight lanes or sixteen, with its condition as a proposition (R426). -/
theorem Chip.cxlUp_eq (s : Chip) (width : Nat) : s.cxlUp width =
    if width = 1 ∨ width = 2 then ((s.wf F.CXL_STAT_LINK_UP 1).wf F.CXL_STAT_WIDTH width).setCxl (fun c => { c with downTimer := false }) else s := by
  by_cases h : width = 1 ∨ width = 2
  · rw [if_pos h]
    exact if_neg (by simpa [or_iff_not_imp_left] using h)
  · rw [if_neg h]
    exact if_pos (by simpa using h)

/-- Abandoning a ring that is there: one abandoned before is left. -/
theorem Chip.abandonRing_found (s : Chip) {r : Nat} {x : EmitRing} (hx : s.ring r = some x) : s.abandonRing r =
    if x.abandoned then s else
      let c := (s.setRing r { x with abandoned := true, unsig := 0 }).setCxl (fun c => { c with backlog := c.backlog.filter (fun h => h.ring != r) })
      let d := c.each (c.rtb.locators.vals.filter (fun l : Locator => l.ring == r && l.state == 1))
        (fun d l => (d.sendCancel l x.partition).acct l.tenant (fun e => { e with cancelled := e.cancelled + 1 }))
      (d.cnt Reg.CXL_ABANDONED).raise Pg.CXL 3 := by
  simp only [Chip.abandonRing, hx]

/-- Abandoning a ring that is not there does nothing. -/
theorem Chip.abandonRing_absent (s : Chip) {r : Nat} (h : s.ring r = none) : s.abandonRing r = s := by
  simp only [Chip.abandonRing, h]

/-- Settles O44: each command is what it does to the link, then the loss of the host where it brings one. -/
theorem hostLinkComesAndGoes : Obligations.HostLinkComesAndGoes := by
  intro s hruns down lost hdown hlost
  obtain rfl : down = s.chip.cxlDown := hdown
  obtain rfl : lost = Chip.hostLost := hlost
  refine ⟨fun width => ?_, ?_, ?_, ?_, ?_, fun r => ?_, ?_⟩
  · show execCxlLinkUp width s = _
    exact s.run_to hruns (s.chip.cxlUp_eq width)
  · show execCxlLinkDown s = _
    exact s.run_to hruns rfl
  · show execHostLinkLost s = _
    exact s.run_to hruns rfl
  · show execSurpriseRemoval s = _
    exact s.run_to hruns rfl
  · show execViralIn s = _
    exact s.run_to hruns rfl
  · show execEmitStall r s = _
    refine s.run_to hruns ?_
    simp only [Bool.and_eq_true, decide_eq_true_eq]
    cases hx : s.chip.ring r with
    | none => rw [s.chip.abandonRing_absent hx, ite_self]
    | some x =>
      rw [s.chip.abandonRing_found hx]
      by_cases h : s.chip.rd Reg.CXL_EMIT_STALL ≠ 0 ∧ s.chip.backlogOf r ≠ 0 ∧ x.abandoned = false
      · obtain ⟨hstall, hheld, hab⟩ := id h
        exact (if_pos ⟨hstall, hheld⟩).trans ((if_neg (by simp [hab])).trans (if_pos h).symm)
      · refine Eq.trans ?_ (if_neg h).symm
        split
        next hstalled =>
          obtain ⟨hstall, hheld⟩ := hstalled
          exact if_pos (by simpa [hstall, hheld] using h)
        next => rfl
  · show execFatalLinksOff s = _
    exact s.run_to hruns rfl

end Sys2Proof.Machine
end

section
/-! Faults and recovery (16): peers that are watched (R493–R495), and units that return to service (R499, R500, R504–R506, R514). -/

namespace Sys2Proof.Machine

open Sys2Proof

/-! ## Peers (R493–R495) -/

/-- The declaration of a peer that is watched and has not been declared lost (R495). -/
theorem Chip.declareLost_kept (s : Chip) {dev : Nat} (h : s.peerKept dev = true) : s.declareLost dev =
    (let d := s.setFlt (fun f => { f with gone := insertNat dev f.gone, seen := f.seen.del dev })
     let d := ((((d.each (List.range 8) (fun e tc => e.ctxError dev tc)).wr Reg.XPT_LOST_DEVICE dev).cnt Reg.XPT_PEER_LOST).raise Pg.XPT 0).settleFences
     let d := ((({ d with free := d.free + 1 } : Chip).faultRecord 10 (Config.freeValue d.free 8 % 2 ^ 8) 0xFFFF 0xFFFF dev 0xFF 0 0).cnt Reg.FLT_PEERS_LOST).raise Pg.FLT 0
     d.partnerGone dev) := by
  simp only [Chip.peerKept, Bool.and_eq_true, Bool.not_eq_true'] at h
  obtain ⟨hwatched, hgone⟩ := h
  refine (if_neg (Bool.not_eq_true _ ▸ hgone)).trans ?_
  simp only [hwatched, if_true]
  rfl

/-- A message of a peer counts where it has its 32 bytes and the peer is kept. -/
theorem Chip.peerMessage_kept (s : Chip) (dev : Nat) (b : Bytes) :
    (b.length = 32 && s.peerKept dev) = (b.length == 32 && s.watched.contains dev && !s.flt.gone.contains dev) := by
  rw [Chip.peerKept, ← Bool.and_assoc]
  rfl

/-- Settles O45: a peer that is kept is sent to, heard and declared lost; for another nothing happens. -/
theorem peersAreWatched : Obligations.PeersAreWatched := by
  intro s hruns lost hlost
  have hdeclare (c : Chip) (dev : Nat) (h : c.peerKept dev = true) : c.declareLost dev = lost c dev := by
    subst hlost
    exact c.declareLost_kept h
  clear hlost
  refine ⟨fun dev => ⟨?_, ?_⟩, fun src b c hc => ⟨?_, ?_⟩⟩
  · show execPresenceSend dev s = _
    exact s.run_to hruns rfl
  · show execPeerTimeout dev s = _
    refine s.run_to hruns ?_
    exact ite_congr rfl (fun h => hdeclare s.chip dev h) (fun _ => rfl)
  · subst hc
    show execPresence src b s = _
    refine s.run_to hruns ?_
    rw [← Chip.peerMessage_kept]
    rfl
  · subst hc
    show execDeparture src b s = _
    refine s.run_to hruns ?_
    rw [← Chip.peerMessage_kept]
    refine ite_congr rfl (fun h => hdeclare _ src.dev ?_) (fun _ => rfl)
    exact (Bool.and_eq_true_iff.1 h).2

/-! ## Units that return to service (R499–R506, R514) -/

/-- A tile that is judged failed stops, and retires where the event makes its channel permanent, else is tested (R496, R500). -/
theorem Chip.tileFailed_eq (s : Chip) (t cls : Nat) : s.tileFailed t cls =
    (let lt := s.rf (F.TIL_MAP_LOGICAL.on (Pg.til t))
     let x := (s.stopTile t).countEvent (.tile t) cls
     if x.2 then x.1.retireTile t lt else x.1.testTile t lt) := by
  rcases hx : (s.stopTile t).countEvent (.tile t) cls with ⟨c, perm⟩
  cases perm with
  | false => simp only [Chip.tileFailed, hx, Bool.false_eq_true, if_false]
  | true => simp only [Chip.tileFailed, hx, if_true]

/-- A write of FLT_REPAIR_CTRL that the page takes, while none is busy, is run. -/
theorem Chip.repairCtrl_taken (s : Chip) {a : Access} {parts : List Nat} (val : Nat) (run : Chip → Chip) (hbusy : s.rf F.FLT_REPAIR_STAT_RESULT ≠ 15)
    (htakes : s.takes a Pg.FLT false parts = true) : s.repairCtrl a val parts run = run s :=
  (s.command_taken _ _ _ _ htakes).trans (if_neg hbusy)

/-- A repair of a half-bank that there is, with its conditions as propositions (R504, R514). -/
theorem Chip.repairHalfBank_eq (s : Chip) {st hb : Nat} (spares : Bool) (hst : st < 24) (hhb : hb < 4096) : s.repairHalfBank st hb spares =
    if s.hbRetired st hb = false then s.repairStat 1 0
    else if spares = false then (s.repairStat 2 0).raise Pg.FLT 4
    else (s.startReturn (.halfBank st hb) .selfTest).repairStart (.halfBank st hb) := by
  simp [Chip.repairHalfBank, Nat.not_le.2 hst, Nat.not_le.2 hhb]

/-- A retest, with its conditions as propositions. -/
theorem Chip.retestTile_eq (s : Chip) (t : Nat) : s.retestTile t =
    if 68 ≤ t ∨ s.tileState t ≠ 4 ∨ s.rf (F.TIL_SELFTEST_DONE.on (Pg.til t)) = 0 ∨ s.rf (F.TIL_SELFTEST_PASS.on (Pg.til t)) = 1 then s.repairStat 1 0
    else (s.testTile t 127).repairStart (.tile t) := by
  simp only [Chip.retestTile, Bool.or_eq_true, decide_eq_true_eq, or_assoc]

/-- The end of a half-bank's self-test (R505). -/
theorem exec_selftestDone_halfBank (s : State) {st hb : Nat} (r : TestResult) {t : Chip} (hruns : s.runs = true) (hst : st < 24) (hhb : hb < 4096)
    (ht : s.chip.selftested (.halfBank st hb) r = t) : exec (.selftestDone (.halfBank st hb) r) s = .next { s with chip := t.settle } := by
  show execSelftestDone (.halfBank st hb) r s = _
  refine (s.runOn_runs _ _ hruns ?_).trans (by rw [ht])
  simp [hst, hhb]

/-- The end of a tile's load. -/
theorem exec_unitLoadDone (s : State) {n : Nat} (ok : Bool) {t : Chip} (hruns : s.runs = true) (hn : n < 68) (ht : s.chip.unitLoaded n ok = t) :
    exec (.unitLoadDone n ok) s = .next { s with chip := t.settle } := by
  show execUnitLoadDone n ok s = _
  exact s.runOn_to hruns hn ht

/-- Settles O46: each command is its definition, by the state of the unit it names. -/
theorem unitsReturnToService : Obligations.UnitsReturnToService := by
  intro s hruns
  refine ⟨fun silent => ?_, fun t ht => ?_, fun acc st hb spares hst hhb htakes hbusy => ?_, fun acc t htakes hbusy => ?_,
    fun st hb n hst hhb => ⟨fun h r => ?_, fun h => ⟨?_, ?_⟩⟩, fun t ht => ⟨fun h ok => ?_, fun h => ?_⟩⟩
  · show execWatchdogProbe silent s = _
    refine s.run_to hruns ?_
    simp only [Chip.watchdogProbe, List.contains_iff_mem]
    rfl
  · show execWatchdogExpiry t s = _
    refine s.runOn_to hruns ht ?_
    simp only [Chip.watchdogExpiry, Bool.and_eq_true, decide_eq_true_eq, Bool.not_eq_true', and_assoc, Chip.tileFailed_eq]
    rfl
  · have hparts : s.chip.takes acc Pg.FLT false (if st < 24 then (s.chip.cgOwner st (groupOf hb)).toList else []) = true := by rwa [if_pos hst]
    show execRepairHalfBank acc st hb spares s = _
    exact s.run_to hruns ((s.chip.repairCtrl_taken _ _ hbusy hparts).trans (s.chip.repairHalfBank_eq spares hst hhb))
  · show execRetestTile acc t s = _
    exact s.run_to hruns ((s.chip.repairCtrl_taken _ _ hbusy htakes).trans (s.chip.retestTile_eq t))
  · exact exec_selftestDone_halfBank s r hruns hst hhb (if_pos h)
  · exact exec_selftestDone_halfBank s .pass hruns hst hhb (if_neg (not_not.2 h))
  · exact exec_selftestDone_halfBank s (.fail n) hruns hst hhb (if_neg (not_not.2 h))
  · exact exec_unitLoadDone s ok hruns ht (if_pos h)
  · exact exec_unitLoadDone s true hruns ht (if_neg (not_not.2 h))

end Sys2Proof.Machine
end
